-- ==== Sys2Proof/Word.lean ====
section
/-! DEFINITION. The word types of the model: a byte of a frame, a record, a DOMAIN value or the dictionary's expedited
data (R5, R334), and the list types built on it. -/

namespace Sys2Proof

/-- One byte of a record, a frame or a dictionary value (R5). -/
abbrev Byte := BitVec 8

/-- A string of bytes, most significant byte of each field first (R5). -/
abbrev Bytes := List Byte

end Sys2Proof
end

