-- ==== Sys2Proof/Syntax.lean ====
section
/-! DEFINITION. The commands of the ZH512 (spec/opcode_table.json): one constructor per row, with the operands that
the row's rule gives it.  What an operand measures outside the hub (a voltage at a ball, a strand oscillator's advance,
a frame that arrives) is an operand; everything else is state.  -/

namespace Sys2Proof

/-- The principals of Table 17.2 (R335). -/
inductive Principal where
  | root | peer | twin | nsHost | sHost
  deriving DecidableEq, Repr

/-- The path that carries a dictionary request: a mailbox (0 NS0, 1 NS1, 2 S0, 3 S1) or a Twine port with the frame's
SRC (R335). -/
inductive Path where
  | mailbox (n : Fin 4)
  | twine (port src : Nat)
  deriving DecidableEq, Repr

/-- A dictionary request as it reaches the dictionary (R335, R342, R347): its path, the principal its body names, its
REQ_ID, SESSION and TAG, the stated time of a timed transfer, and its DATA. -/
structure Req where
  path : Path
  principal : Principal
  reqId : Nat
  session : Nat
  tag : Bytes
  timed : Option Nat
  data : Bytes
  deriving DecidableEq, Repr

/-- What the balls of one creel show over a slot and at its hold (R39, R45, R68): the connected input in nV at the hold
and its extremes while connected, the extremes of either ball of a B pair, total clamp current in µA, sense
differential in nV, driver current in 0.1 mA, the 2.048 V tap of the converter in nV (R87), and the same input as the second
path holds it while a handover compares two paths (R119). -/
structure CreelEnv where
  vin : Int := 0
  vMin : Int := 0
  vMax : Int := 0
  ballMin : Int := 200000000
  ballMax : Int := 200000000
  clamp : Nat := 0
  sense : Int := 0
  current : Nat := 0
  tap : Int := 2048000000
  relief : Int := vin
  deriving DecidableEq, Repr

/-- What the analogue side shows at a slot boundary: the 32 creels, C32's 2.048 V tap in nV, and REFIN in µV; and whether a hardware fault has
the bobbin writer's staging overflow as raw words reach it from here on (R27). -/
structure SlotEnv where
  creels : List CreelEnv
  tap32 : Int := 2048000000
  refin : Nat := 0
  writer : Bool := false
  deriving DecidableEq, Repr

/-- What a wire-break window shows: the two conversions' inputs in nV, the sense differential in nV, REFIN in µV. -/
structure WbEnv where
  baseline : Int
  test : Int
  sense : Int := 0
  refin : Nat := 0
  deriving DecidableEq, Repr

/-- Hardware faults of a feed queue while entries move: the entries read that fail parity, by their place among those read, in the tag
(`true`) or in the word (R243); whether the queue stands still and forwards nothing (R245); whether the bobbin writer's staging overflows
(R27). -/
structure FeedFaults where
  reads : List (Nat × Bool) := []
  stalled : Bool := false
  writer : Bool := false
  deriving DecidableEq, Repr

/-- What one path's calibration run has converted (R109 to R111): for each combination the sums of the 1,024 codes of each
level in the order of Table 6.5, REFIN in µV meanwhile, and the sum of the 65,536 codes of the 5 MHz tone, each signed by its
crossing slope. -/
structure CalRun where
  path : Nat
  sums : List (List Int)
  refin : Nat := 4096000
  tone : Int := 0
  deriving DecidableEq, Repr

/-- What a receiver has found as it locks: the FoM at each CTLE setting, and the comma position or gearbox offset (R190, R291, R297). -/
structure LockFound where
  foms : List Nat := []
  align : Nat := 0
  deriving DecidableEq, Repr

/-- The lowest and the highest value of a watch tap in nV since the creel's last edge, or since the last comparator write if that came
later (R208). -/
structure TapReach where
  low : Int
  high : Int
  deriving DecidableEq, Repr

/-- What a CLAIM frame with correct sync and coding carries: the claim and its parity bit (R356). -/
structure ClaimBits where
  claim : BitVec 8
  parity : Bool
  deriving DecidableEq, Repr

/-- How far each strand's oscillator has counted since the strand's time was last brought up to date, as nominal time in
1/65536 tick (R162). -/
structure StrandAdv where
  a : Nat := 0
  b : Nat := 0
  c : Nat := 0
  deriving DecidableEq, Repr

/-- The frequency of a port's recovered clock, of its lowest-numbered lane in lock, against each strand's oscillator: ratio - 1 in
0.001 ppm (R163, Table 9.1). -/
structure StrandRatio where
  a : Int := 0
  b : Int := 0
  c : Int := 0
  deriving DecidableEq, Repr

/-- What has been counted since sleep entry: cycles of the 32.768 kHz crystal, and OSC_A's count as nominal time in 1/65536
tick while SLEEP_OSC_A keeps it running (R181). -/
structure SleepCount where
  crystal : Nat := 0
  osc : Nat := 0
  deriving DecidableEq, Repr

/-- What a frame boundary brings from outside: the strands' advance, the three oscillators' rates in 0.001 ppm against
nominal (`none`: stopped; R166), the 33 converter die temperatures in 1/64 °C (R105), and the crystal's cycles in strand A's last 4,096 ms
(R181). -/
structure FrameEnv where
  adv : StrandAdv
  osc : List (Option Int)
  temps : List Int
  crystal : Nat := 0
  deriving DecidableEq, Repr

/-- A sentence received on TOD_RX: whether it is ZDA, whether its checksum holds, and its UTC second since 1970 (R179). -/
structure TodRx where
  zda : Bool
  checksum : Bool
  utc : Nat
  deriving DecidableEq, Repr

/-- The fields of an Announce message that R195 compares and Table 10.6 names. -/
structure Announce where
  priority1 : Nat
  clockClass : Nat
  accuracy : Nat
  variance : Nat
  priority2 : Nat
  identity : Nat
  stepsRemoved : Nat
  timeSource : Nat
  utcOffset : Int
  flags : Nat
  deriving DecidableEq, Repr

/-- A PTP message by its fields (R187, R188): transport settings, header, time stamp, Announce fields and the TLVs that
follow it.  `corr` is the correctionField in 2^-16 ns; `sec` and `ns` are originTimestamp. -/
structure PtpMsg where
  mtype : Nat
  vlan : Bool := false
  dst : Nat
  src : Nat
  version : Nat := 2
  minorVersion : Nat := 1
  majorSdo : Nat := 0
  minorSdo : Nat := 0
  domain : Nat
  twoStep : Bool := false
  clock : Nat
  portNumber : Nat
  seq : Nat
  corr : Int := 0
  sec : Nat := 0
  ns : Nat := 0
  logInterval : Int := 0
  announce : Option Announce := none
  tlvs : List Byte := []
  deriving DecidableEq, Repr

/-- Where and when a PTP message arrived: port, lane, the moment its time-stamp point passed the deserialiser as latched in grid
time and in the transmit timebase in 1/65536 tick (R190, R191), the strands' advance up to that moment, and the recovered
clock of the port (R163). -/
structure PtpRx where
  port : Fin 21
  lane : Fin 24
  grid : Nat
  base : Nat
  adv : StrandAdv
  clock : StrandRatio := {}
  deriving DecidableEq, Repr


/-- A request that reaches the DRAM controller: requester port (Table 14.4), system address, and whether it has waited for more than 4,096
controller cycles (R275). -/
structure DramReq where
  port : Fin 8
  addr : Nat
  old : Bool
  deriving DecidableEq, Repr

/-- Where an uncorrectable DRAM error lies, when it lies in a hank: channel, place of the hank in the order in which the
bobbin's hanks were opened, byte offset of the failing 64-bit word (R283). -/
structure UeHit where
  ch : Fin 512
  hank : Nat
  off : Nat
  deriving DecidableEq, Repr

/-- What a patrol-scrub read finds in a burst (R283, R284). -/
inductive ScrubRead where
  | clean
  | corrected (n : Nat)
  | uncorrectable (hit : Option UeHit)
  deriving DecidableEq, Repr

/-- What an Ethernet frame carries after its EtherType: a Twine frame from its header on with the padding and without the
FCS, a PTP message with its stamps, or anything else (R290). -/
inductive EthBody where
  | twine (b : Bytes)
  | ptp (rx : PtpRx) (m : PtpMsg)
  | other
  deriving DecidableEq, Repr

/-- A frame as a MAC receives it (R290): addresses, EtherType, bytes from destination address to FCS, whether the FCS holds
without a coding error, its content, and on how many egress ports a cut-through copy has already begun (R315). -/
structure EthFrame where
  dst : Nat := 0
  src : Nat := 0
  etherType : Nat
  length : Nat
  good : Bool := true
  body : EthBody
  started : Nat := 0
  deriving DecidableEq, Repr

/-- What one PMBus device answers to the reads of R421, as the words on the bus: STATUS_WORD, READ_VOUT in LINEAR16, READ_IOUT
and READ_TEMPERATURE_1 in LINEAR11, and VOUT_MODE. -/
structure PmbReading where
  status : BitVec 16
  vout : BitVec 16
  iout : BitVec 16
  temp : BitVec 16
  mode : BitVec 8
  deriving DecidableEq, Repr

/-- Sources 1 to 4 of R431: the watch tap of creel 4i, a host select (the secure one or not), FIO0 to FIO3, signal detect on
L0 or L2. -/
inductive WakeSource where
  | comparator (i : Fin 8)
  | hostSelect (secure : Bool)
  | fieldInput (i : Fin 4)
  | signalDetect (l2 : Bool)
  deriving DecidableEq, Repr

/-- Die temperatures in 1/64 °C: hub die, hottest converter path, field die (R433). -/
structure DieTemps where
  hub : Int
  conv : Int
  field : Int
  deriving DecidableEq, Repr

/-- The commands of the ZH512, one constructor per row of the opcode table. -/
inductive Instr where
  /-- VIN_VALID (R417): VIN rises into its valid range, the buck soft-starts and the rail groups are sequenced up. -/
  | vinValid (mv : Nat) (kept : Bool)
  /-- VIN_INVALID (R417): VIN falls below 8.2 V or rises above 64 V; the buck stops, the rails shut down C, A, B and the hub is held in full reset. -/
  | vinInvalid (mv : Nat)
  /-- PWR_PG_RISE (R420): A rail group's power-good input goes high and the hub enables the next group in the order B, A, C. -/
  | pwrPgRise (g : Fin 3) (t : Nat)
  /-- PG_FAULT (R420): A group's PG has not risen within 3 ms of its enable; all groups switch off and a restart is scheduled, or the groups stay off after three faults. -/
  | pgFault (g : Fin 3)
  /-- PG_RESTART_WAIT (R420): The 100 ms wait after a PG fault expires and rail sequencing starts again. -/
  | pgRestartWait
  /-- PG_LOSS (R420): A PG input falls while the hub runs; the hub shuts the rails down and performs a full reset. -/
  | pgLoss (g : Fin 3)
  /-- RESET_N_ASSERT (R424): RESET_N is held low for at least 1 us; the logic side is held in full reset with the drivers, FIO4 to FIO7 and test currents off and ACTIVE clear. -/
  | resetNAssert (ns : Nat)
  /-- RESET_N_RELEASE (R424): RESET_N is released and start-up runs from the 13 ms row of the start-up timeline. -/
  | resetNRelease
  /-- FULL_RESET (R425): A write of 0xA501 to FULL_RESET performs a full reset at its frame boundary, wiping SRAM and DRAM. -/
  | fullReset (t : Nat) (q : Req)
  /-- CORE_RESTART (R425): A write of 0xA501 to CORE_RESTART restarts the spindles, distaff and secure core at its frame boundary while the sampling path runs on. -/
  | coreRestart (t : Nat) (q : Req)
  /-- WATCHDOG (R425): The distaff or secure-core watchdog expires and causes a core restart, a full reset if repeated within 10 s, or a rollback during a trial. -/
  | watchdog (t : Nat)
  /-- CORE_RESTART_END (R241): A core restart ends; held acknowledgements are applied, spindles recompute missed intervals from the bobbins and due reels re-arm. -/
  | coreRestartEnd (t : Nat) (bad : List (Fin 2))
  /-- PORT_RESET_LANE (R423): PORT_RESET names a lane, which restarts from 1.25 GBd. -/
  | portResetLane (l : Fin 24) (t : Nat) (q : Req)
  /-- PORT_RESET_MAILBOX (R398): PORT_RESET or MB_CTRL[0] resets one mailbox, destroying its messages, partial body, queued requests and bound session. -/
  | portResetMailbox (n : Fin 4) (t : Nat) (q : Option Req)
  /-- PORT_RESET_REEL (R423): PORT_RESET names a reel, which ends its capture with ABORTED and clears its rings. -/
  | portResetReel (r : Fin 16) (t : Nat) (q : Req)
  /-- START_UP_PART_APPLY (R350): Once the stored copy is read, the start-up part of the stored configuration is applied object by object. -/
  | startUpPartApply (t : Nat)
  /-- DRAM_WIPE_ADVANCE (R285): The reset wipe completes a further region of DRAM, WIPE_DONE advances and the hanks there become usable. -/
  | dramWipeAdvance (mib : Nat)
  /-- GRID_START (R170): At the first frame boundary at which the start conditions hold, the grid starts, sampling begins and status becomes READY. -/
  | gridStart (t : Nat) (adv : StrandAdv)
  /-- START_WAIT_EXPIRY (R170): START_WAIT elapses after the first strand entered TRACKING and the grid starts from that strand alone. -/
  | startWaitExpiry (adv : StrandAdv)
  /-- FREE_RUNNING_GRANDMASTER_START (R172): With no source present START_WAIT after P1 switched on, a selected grandmaster puts its strands in HOLDOVER on strand A's time and starts the grid. -/
  | freeRunningGrandmasterStart (adv : StrandAdv)
  /-- SLEEP_REQ (R429): A write of 1 to SLEEP_REQ requests sleep at a frame boundary, subject to the refusal checks. -/
  | sleepReq (t : Nat) (q : Req)
  /-- SLEEP_ENTRY (R429): At T_s the hub ends outputs, intervals, captures and sessions, switches off drivers and domains and enters sleep. -/
  | sleepEntry
  /-- WAKE (R432): An enabled wake source fires and the hub powers up, resumes its cores, writes SLEEP gap records and restarts the grid with TIMEQ. -/
  | wake (src : WakeSource) (n : SleepCount)
  /-- WAKE_AFTER_EXPIRY (R431): The real-time counter reaches WAKE_AFTER seconds since sleep entry. -/
  | wakeAfterExpiry
  /-- THERMAL_EVALUATION (R433): Each grid frame the die temperatures are compared with the warning, throttle and trip thresholds. -/
  | thermalEvaluation (hub field : Int) (vin vexc : Nat)
  /-- PMBUS_POLL (R421): Every 32 ms the hub reads status, voltage, current and temperature from each listed PMBus device. -/
  | pmbusPoll (answers : List (Option PmbReading))
  /-- PMB_ALERT_FALL (R421): PMB_ALERT_N falls and the hub reads every device's STATUS_WORD. -/
  | pmbAlertFall (status : List (Option (BitVec 16)))
  /-- VEXC_ABOVE_DECLARED (R419): Measured VEXC exceeds VEXC_MAX by more than 100 mV; SUPPLY_STATE[4] is set and the event logged. -/
  | vexcAboveDeclared (mv : Nat)
  /-- DOMAIN_CTRL (R422): A write to DOMAIN_CTRL switches P2, P3 and the P4 groups at a frame boundary, subject to dependency checks. -/
  | domainCtrl (t : Nat) (q : Req)
  /-- GRID_FRAME_BOUNDARY (R167): At every grid frame boundary the voter runs and the boundary's due changes take effect. -/
  | gridFrameBoundary (e : FrameEnv)
  /-- GRID_SLEW_END (R171): The planned slew time elapses and the slew ends. -/
  | gridSlewEnd
  /-- SOURCE_ABSENT (R160): A strand's source delivers no valid measurement for its timeout and the strand enters HOLDOVER or UNLOCKED. -/
  | sourceAbsent (x : Fin 3)
  /-- REEPOCH (R176): A write of 1 to REEPOCH requests a re-epoch at a frame boundary T_e. -/
  | reepoch (t : Nat) (q : Req)
  /-- REEPOCH_EXECUTE (R177): At T_e outputs and runs end, grid time is set to G and the strands reset their times. -/
  | reepochExecute
  /-- EPOCH_START (R177): At T_e' TIME_EPOCH increments, sequences and drafting restart and each enabled channel emits an epoch record. -/
  | epochStart
  /-- PPS_IN_EDGE (R179): A rising PPS_IN edge is TDC-stamped and corrected by PPS_IN_DELAY, awaiting its ToD label. -/
  | ppsInEdge (edge : Nat) (adv : StrandAdv)
  /-- TOD_RX_SENTENCE (R179): A ZDA sentence arriving on TOD_RX labels the preceding PPS edge, giving the PPS strand one measurement. -/
  | todRxSentence (m : TodRx) (t : Nat)
  /-- PPS_OUT_EDGE (R180): At each TAI second PPS_OUT rises for 100 ms. -/
  | ppsOutEdge
  /-- TOD_TX_SENTENCE (R180): 100 ms after a PPS_OUT edge TOD_TX starts a ZDA sentence labelling it. -/
  | todTxSentence
  /-- SYNC_RECEIVED (R196): A valid Sync is measured for the strands mapped to its port and forwarded as a transparent clock. -/
  | syncReceived (rx : PtpRx) (m : PtpMsg)
  /-- PDELAY_REQ_RECEIVED (R194): A Pdelay_Req is answered on its lane within 10 us with the turnaround written on the fly. -/
  | pdelayReqReceived (rx : PtpRx) (m : PtpMsg)
  /-- PDELAY_RESP_RECEIVED (R192): A Pdelay_Resp yields a link-delay value that is filtered into the lane's mean. -/
  | pdelayRespReceived (rx : PtpRx) (m : PtpMsg) (rate : Int)
  /-- PDELAY_REQ_SEND (R192): A lane's Pdelay interval expires and it sends Pdelay_Req. -/
  | pdelayReqSend (l : Fin 24)
  /-- PDELAY_EXCHANGE_LOST (R192): No response arrives within 10 ms and the exchange is lost. -/
  | pdelayExchangeLost (l : Fin 24)
  /-- ANNOUNCE_RECEIVED (R195): An Announce qualifies its sender, feeds grandmaster selection and is forwarded. -/
  | announceReceived (rx : PtpRx) (m : PtpMsg)
  /-- ANNOUNCE_TIMEOUT (R195): A sender loses qualification after ANNOUNCE_TIMEOUT intervals and port states are re-evaluated. -/
  | announceTimeout (t : Nat)
  /-- PTP_FRAME_DISCARDED (R188): A PTP frame that breaks the transport settings or is an unsupported message is discarded and counted. -/
  | ptpFrameDiscarded (port : Fin 21) (m : PtpMsg)
  /-- GM_SYNC_SEND (R200): As grandmaster the hub originates a one-step Sync on each MASTER port. -/
  | gmSyncSend
  /-- GM_ANNOUNCE_SEND (R200): As grandmaster the hub originates Announce on each MASTER port. -/
  | gmAnnounceSend
  /-- TWIN_TIME_MESSAGE_SEND (R198): 64 times per second the hub sends its strand A time on port 19. -/
  | twinTimeMessageSend
  /-- TWIN_TIME_MESSAGE (R198): A received twin time message is measured for the strand mapped to TWIN. -/
  | twinTimeMessage (rx : PtpRx) (m : PtpMsg)
  /-- TX_TIMEBASE_STEP (R199): The common transmit timebase moves towards the reference strand's rate in a step of at most 0.01 ppm. -/
  | txTimebaseStep
  /-- TRUNK_CYCLE_START (R202): A 125 us trunk cycle begins and the ports' windows open per their schedules. -/
  | trunkCycleStart
  /-- LAUNCH_TIME_REACHED (R204): A launch-queue entry's time L arrives and the frame is sent, or returned late. -/
  | launchTimeReached (p : Fin 21) (grid base : Nat)
  /-- FRAME_TRANSMIT_END (R201): An egress line becomes free and the port starts the first eligible frame in class order. -/
  | frameTransmitEnd (l : Fin 24) (grid base : Nat) (adv : StrandAdv)
  /-- SLOT_BOUNDARY (R79): At tick 0 of each slot the converters hold, the creels switch and the overload, regulation and REFIN monitors are sampled. -/
  | slotBoundary (e : SlotEnv)
  /-- RAW_WORD_FORMED (R80): 512 ticks after a hold the grid island forms the tagged raw word and passes it to reels, bobbin and drafting. -/
  | rawWordFormed
  /-- DRAFTING_INPUT (R124): A tagged code enters drafting and passes CAL, ALIGN, DCB, sections and OUT to yield output words. -/
  | draftingInput (parity : Option Bool) (faults : FeedFaults)
  /-- FEED_TIMEOUT (R244): FEED_TIMEOUT elapses with no write and the queue forwards what it holds. -/
  | feedTimeout (q : Fin 16) (faults : FeedFaults)
  /-- TAIL_TIMEOUT (R252): No item reaches a bobbin for TAIL_TIMEOUT and its non-empty open hanks are sealed. -/
  | tailTimeout (ch : Fin 512)
  /-- REDUCTION_INTERVAL_END (R233): A channel's reduction interval closes and its record is formed and stored; a pending RED_SELECT takes effect. -/
  | reductionIntervalEnd (ch : Fin 512)
  /-- MASK_SPAN_START (R223): In interval mode a mask span begins at each multiple of MASK_INTERVAL frames. -/
  | maskSpanStart (m : Fin 16)
  /-- MASK_PULSE_END (R226): A slub output pulse of MASK_PULSE ends and the field output goes low. -/
  | maskPulseEnd (o : Fin 4)
  /-- WATCH_COMPARATOR_EDGE (R208): A watch comparator reports an edge, which is stamped and either discarded or passed to trigger units. -/
  | watchComparatorEdge (k : Fin 32) (rising : Bool) (edge : Nat) (tap : Int) (reach : TapReach)
  /-- TRIG_PIN_EDGE (R210): An edge on TRIG0 to TRIG3 is stamped and fires the units that select it. -/
  | trigPinEdge (i : Fin 4) (rising : Bool) (edge : Nat)
  /-- FIELD_INPUT_EDGE (R210): An edge on FIO0 to FIO3 is stamped and fires the units that select it. -/
  | fieldInputEdge (i : Fin 4) (rising : Bool) (edge : Nat)
  /-- SYNC_PIN_EDGE (R148): A rising SYNC edge schedules or joins a SYNC at its T_s, or is logged and ignored. -/
  | syncPinEdge (edge : Nat)
  /-- BLANK_EDGE (R58): An edge of a BLANK input is stamped and logged, starting or ending blanking of the selected creels. -/
  | blankEdge (i : Fin 4) (high : Bool) (edge : Nat)
  /-- GRID_TIME_TRIGGER (R210): Grid time reaches TIME_START plus a multiple of TIME_PERIOD and the unit fires. -/
  | gridTimeTrigger (u : Fin 64)
  /-- INJ_START (R89): A write of 1 to INJ_START starts the injected sequence at its start boundary, or queues it. -/
  | injStart (c : Fin 32) (t : Nat) (q : Req)
  /-- INJECTED_ENTRY_BEGIN (R90): An injected entry begins once its start boundary and free slots allow, pre-empting regular entries under PREEMPT. -/
  | injectedEntryBegin (c : Fin 32)
  /-- WB_RUN_START (R49): At each frame boundary that is a multiple of WB_INTERVAL a wire-break check run begins. -/
  | wbRunStart (k : Fin 32)
  /-- WB_CHECK (R51): A check's reserved window runs its baseline and test conversions and forms a verdict. -/
  | wbCheck (k : Fin 32) (e : WbEnv) (faults : FeedFaults)
  /-- EXC_TRIPPED (R69): A driver stays out of regulation for 10 ms and is switched off. -/
  | excTripped (k : Fin 32)
  /-- EXC_SETTLE_ELAPSED (R75): EXC_SETTLE after a switching event elapses; FILL ends, DC blockers resume and SETTLE begins. -/
  | excSettleElapsed (k : Fin 32) (sense : Int)
  /-- REF_BUFFER_SETTLED (R71): A reference buffer's settling count elapses and REF_SETTLED may set. -/
  | refBufferSettled (c : Fin 33) (src : Fin 3)
  /-- CAL_START (R113): A write of 1 to CAL_START requests a calibration sweep. -/
  | calStart (t : Nat) (q : Req)
  /-- CAL_INTERVAL_EXPIRY (R113): CAL_INTERVAL seconds pass since the last sweep and an automatic sweep is requested. -/
  | calIntervalExpiry
  /-- CAL_SWEEP_START (R114): At the sweep's frame boundary C32 measures CALREF and the sweep begins or is refused. -/
  | calSweepStart (codeSum : Int)
  /-- HANDOVER_STEP (R116): A handover offset frame begins and the relief converter and Ck change roles per the handover table. -/
  | handoverStep (relief : Option CalRun) (runs : List CalRun)
  /-- COMPAT_STOP (R120): In the compatibility method a converter stops or resumes at its 40-frame stop boundary. -/
  | compatStop (runs : List CalRun)
  /-- SYNC_CMD (R148): A write of 1 to SYNC_CMD issues a SYNC at a frame boundary. -/
  | syncCmd (t : Nat) (q : Req)
  /-- DRAFT_CLEAR (R145): A write of 1 to DRAFT_CLEAR clears the channel's drafting states at t0. -/
  | draftClear (ch : Fin 512) (t : Nat) (q : Req)
  /-- REEL_ARM (R220): A write of 1 to REEL_ARM arms a single-mode reel at its frame boundary. -/
  | reelArm (r : Fin 16) (t : Nat) (q : Req)
  /-- REEL_REARM (R220): REARM_EFF after a capture's last word elapses and the reel re-arms. -/
  | reelRearm (r : Fin 16)
  /-- REEL_RELEASE (R222): A write of 1 to REEL_RELEASE frees the oldest held capture. -/
  | reelRelease (r : Fin 16) (t : Nat) (q : Req)
  /-- WINDOW_REQ (R262): A write to WINDOW_REQ starts forming an answer for one channel's window. -/
  | windowReq (seg : Bool) (t : Nat) (q : Req)
  /-- WINDOW_ANSWER_READY (R263): The window answer has been formed in WINDOW_DATA and is ready to read. -/
  | windowAnswerReady
  /-- BOBBIN_DISCARD (R266): A write of 1 to BOBBIN_DISCARD frees the channel's doffed hanks and marks undoffed ones for release. -/
  | bobbinDiscard (ch : Fin 512) (t : Nat) (q : Req)
  /-- STANDBY_AGE_DOFF (R364): A standby's sealed hank ages past STANDBY_HOLD and is doffed. -/
  | standbyAgeDoff (ch : Fin 512)
  /-- REFRESH_INTERVAL (R277): tREFI elapses and a rank's refresh debt rises by one. -/
  | refreshInterval (k : Fin 4) (reqs : List (List DramReq)) (fill : List Nat) (slots : Nat)
  /-- DRAM_TEMP_EVAL (R278): Every 32 ms the DRAM temperature regime is evaluated from TEMP_SOURCE. -/
  | dramTempEval (mpr : Option Bool) (pmbus : Option Int)
  /-- DRAM_SPEED (R282): A DRAM_SPEED change enters self-refresh, switches clock, retrains and resumes traffic. -/
  | dramSpeed (t : Nat) (q : Req)
  /-- TRAINING_STEP_END (R280): A training step completes; training proceeds, falls back a rate, or runs a waiting frequency change. -/
  | trainingStepEnd (ok : Bool)
  /-- ZQCS_PERIODIC (R280): Every 128 ms a ZQCS calibration falls due. -/
  | zqcsPeriodic (ok : Bool)
  /-- READ_GATE_UPDATE (R280): Every 1 s a read-gate update runs. -/
  | readGateUpdate (ok : Bool)
  /-- PATROL_SCRUB (R284): Patrol scrub reads a burst and writes corrected data back. -/
  | patrolScrub (found : ScrubRead)
  /-- POWER_DOWN_IDLE (R279): A rank idle for PD_IDLE cycles enters precharge power-down. -/
  | powerDownIdle (k : Fin 4)
  /-- BANK_IDLE_TIMER (R274): A bank's PAGE_TIMER expires and its open row is precharged. -/
  | bankIdleTimer (k : Fin 4) (bank : Fin 16)
  /-- LANE_GROUP_START (R291): A staged group of branch lanes starts at 1.25 GBd after its delay. -/
  | laneGroupStart (g : Fin 4)
  /-- LANE_LOCK (R291): A lane's clock recovery and PCS lock and the lane begins to carry frames. -/
  | laneLock (l : Fin 24) (t : Nat) (found : LockFound)
  /-- LANE_LOCK_LOST (R303): A lane loses lock, sends idles only, loses partial frames and the port continues on its other lane. -/
  | laneLockLost (l : Fin 24) (t : Nat)
  /-- STEP_OFFER_SEND (R292): Every 1 ms a locked lane sends an OFFER and the leader decides on a step up. -/
  | stepOfferSend (l : Fin 24) (t : Nat)
  /-- STEP_OFFER (R292): A received OFFER sets the common maximum and leadership. -/
  | stepOffer (l : Fin 24) (t : Nat) (f : Bytes)
  /-- STEP_GO (R293): The follower receives GO naming a new speed and answers GO_ACK. -/
  | stepGo (l : Fin 24) (t : Nat) (f : Bytes)
  /-- STEP_GO_ACK (R293): The leader receives GO_ACK and the step's timeline starts. -/
  | stepGoAck (l : Fin 24) (t : Nat) (f : Bytes)
  /-- STEP_RATE_SWITCH (R293): 1 ms after GO_ACK both ends switch the lane to the new rate. -/
  | stepRateSwitch (l : Fin 24)
  /-- STEP_LOCK_TIMEOUT (R293): An end not in lock 11 ms after GO_ACK stops sending and waits to return. -/
  | stepLockTimeout (l : Fin 24)
  /-- STEP_EXCHANGE_TIMEOUT (R293): At 51 ms an end without a completed CONFIRM exchange returns to the old rate. -/
  | stepExchangeTimeout (l : Fin 24) (t : Nat)
  /-- FOM_MEASUREMENT_END (R298): An eye measurement completes and yields a FoM for adaptation or CONFIRM. -/
  | fomMeasurementEnd (l : Fin 24) (t h w : Nat)
  /-- STEP_CONFIRM (R293): A CONFIRM is received and the lane enters service or falls back. -/
  | stepConfirm (l : Fin 24) (t : Nat) (f : Bytes)
  /-- STEP_FALLBACK (R293): A FALLBACK is received and both ends return to the old rate 1 ms later. -/
  | stepFallback (l : Fin 24) (t : Nat) (f : Bytes)
  /-- STEP_TAP (R300): A TAP request is applied to the transmit taps at the next frame gap, or refused, and answered with TAP_ACK. -/
  | stepTap (l : Fin 24) (t : Nat) (f : Bytes)
  /-- STEP_TAP_ACK (R300): A TAP_ACK lets the receiver measure the FoM for the trial. -/
  | stepTapAck (l : Fin 24) (t : Nat) (f : Bytes)
  /-- STEP_LOOP_REQ (R307): A remote loopback request is honoured if LOOP_PERMIT is TRUE, else refused. -/
  | stepLoopReq (l : Fin 24) (t : Nat) (f : Bytes)
  /-- STEP_LOOP_ACK (R307): A LOOP_ACK reports whether remote loopback was granted. -/
  | stepLoopAck (l : Fin 24) (t : Nat) (f : Bytes)
  /-- STEP_LOOP_END (R307): A LOOP_END ends remote loopback at the partner. -/
  | stepLoopEnd (l : Fin 24) (t : Nat) (f : Bytes)
  /-- LANE_RETRY_ATTEMPT (R304): Every 100 ms a lane that lost lock makes a bring-up attempt. -/
  | laneRetryAttempt (l : Fin 24) (t : Nat)
  /-- STEP_RETRY_EXPIRY (R294): STEP_RETRY after a failed step-up elapses and step-ups are permitted again. -/
  | stepRetryExpiry (l : Fin 24)
  /-- FOM_PERIODIC (R299): Once a second a lane in service measures and reports its FoM. -/
  | fomPeriodic (l : Fin 24) (h w : Nat)
  /-- LANE_STEP_UP_COMMAND (R292): A write of 1 to LANE_STEP requests a step up. -/
  | laneStepUpCommand (l : Fin 24) (t : Nat) (q : Req)
  /-- LANE_STEP_DOWN_COMMAND (R292): A write of 2 to LANE_STEP requests a step down. -/
  | laneStepDownCommand (l : Fin 24) (t : Nat) (q : Req)
  /-- MAX_SPEED (R295): A MAX_SPEED write changes the common maximum and may command a step down. -/
  | maxSpeed (l : Fin 24) (t : Nat) (q : Req)
  /-- LANE_ADMIN (R291): A LANE_ADMIN write powers a lane down, into traffic or into test. -/
  | laneAdmin (l : Fin 24) (t : Nat) (q : Req)
  /-- LANE_TEST (R307): A LANE_TEST write selects a test mode and clears the test counters. -/
  | laneTest (l : Fin 24) (t : Nat) (q : Req)
  /-- REORDER_WAIT_EXPIRY (R302): A missing stripe number is awaited 32 us, then skipped. -/
  | reorderWaitExpiry (p : Fin 21)
  /-- ETHERNET_FRAME_RECEIVED (R290): A frame received by a MAC is checked and passed to PTP or Twine, or discarded. -/
  | ethernetFrameReceived (l : Fin 24) (t : Nat) (f : EthFrame)
  /-- TAP_COPY_DROP (R306): A copy that cannot start within 10 us of its original is dropped. -/
  | tapCopyDrop (l : Fin 24)
  /-- TWINE_FORWARD (R312): A Twine frame not consumed is learnt and forwarded by rule, or dropped on HOPS. -/
  | twineForward (port : Fin 21) (t : Nat) (f : Bytes)
  /-- SKEIN_RECEIVED (R371): The root relays a live or retransmitted skein to port 20, or takes a WINDOW skein into assembly. -/
  | skeinReceived (port : Fin 21) (t : Nat) (f : Bytes)
  /-- DOFF_RECEIVED (R321): A DOFF's entries advance ACK_TIME, doff hanks and free acknowledged captures. -/
  | doffReceived (port : Fin 21) (t : Nat) (f : Bytes)
  /-- RETX_RECEIVED (R322): A RETX is queued and answered with one channel's items over its window. -/
  | retxReceived (port : Fin 21) (t : Nat) (f : Bytes) (ue : List (Nat × UeHit))
  /-- RETRO_RECEIVED (R323): A RETRO is checked against the size bound and answered channel by channel. -/
  | retroReceived (port : Fin 21) (t : Nat) (f : Bytes) (ue : List (Nat × UeHit))
  /-- REQUEST_ANSWER_COMPLETE (R324): The answer to a RETX or RETRO is sent and the next held request starts. -/
  | requestAnswerComplete (ue : List (Nat × UeHit))
  /-- MGMT_REQUEST (R327): A MGMT request is authenticated and passed to the dictionary, and a response sent. -/
  | mgmtRequest (port : Fin 21) (t : Nat) (f : Bytes) (held : Fin 65)
  /-- MGMT_RESPONSE (R327): A MGMT response is matched to an outstanding request or dropped as stray. -/
  | mgmtResponse (port : Fin 21) (t : Nat) (f : Bytes)
  /-- EVENT_RECEIVED (R328): The root consumes an EVENT frame of log entries. -/
  | eventReceived (port : Fin 21) (t : Nat) (f : Bytes)
  /-- TRIGGER_RECEIVED (R328): A TRIGGER frame is deduplicated, consumed by remote units and forwarded. -/
  | triggerReceived (port : Fin 21) (t : Nat) (f : Bytes)
  /-- SUMMARY_RECEIVED (R375): A SUMMARY's entries update the root's directory records and segment membership. -/
  | summaryReceived (port : Fin 21) (t : Nat) (f : Bytes)
  /-- NAK_RECEIVED (R331): A NAK is received; a BUSY defers the retry by RETRY_MS. -/
  | nakReceived (port : Fin 21) (t : Nat) (f : Bytes)
  /-- LEARNING_ENTRY_EXPIRY (R312): A learnt SRC port expires after 60 s without a frame. -/
  | learningEntryExpiry (src : Fin 16384)
  /-- SKEIN_AGE_EXPIRY (R319): A live skein's oldest item reaches SKEIN_AGE and the skein closes for launch. -/
  | skeinAgeExpiry (id : Fin 1024)
  /-- TRANSMIT_UNDERRUN (R320): A cut-through skein runs out of data; it ends with an inverted FCS and is resent store-and-forward. -/
  | transmitUnderrun (l : Fin 24)
  /-- EVENT_SEND (R328): Once a second unsent log entries go to the root in an EVENT. -/
  | eventSend (t : Nat)
  /-- SUMMARY_SEND (R328): At each SUMMARY_INTERVAL the hub sends directory entries to the root. -/
  | summarySend (t : Nat)
  /-- TWIN_FRAME_SEND (R361): Every 1 ms a TWIN HEARTBEAT frame is sent on port 19. -/
  | twinFrameSend (t : Nat)
  /-- TWIN_HEARTBEAT (R361): A received TWIN frame with a rising COUNTER keeps the twin-link path alive. -/
  | twinHeartbeat (t : Nat) (f : Bytes)
  /-- CLAIM_FRAME_SEND (R356): Every 20 us the unit sends its claim number on CLAIM_OUT. -/
  | claimFrameSend
  /-- CLAIM_FRAME_RECEIVED (R357): A frame is received on CLAIM_IN, with correct sync and coding (`coded`) or not, and the field die
  re-evaluates its stage enable. -/
  | claimFrameReceived (t : Nat) (coded : Bool) (bits : ClaimBits)
  /-- TWIN_CLAIM_LOST (R357): No valid partner claim for 60 us; the unit drives if ACTIVE and raises the claim-loss alarm. -/
  | twinClaimLost (t : Nat)
  /-- HB_OUT_TOGGLE (R361): Every 500 us HB_OUT toggles, renewing the lease. -/
  | hbOutToggle (t : Nat)
  /-- HB_IN_EDGE (R361): An edge on HB_IN keeps the heartbeat path alive. -/
  | hbInEdge (t : Nat)
  /-- TWIN_LEASE_LAPSED (R358): HB_OUT shows no edge for 1.5 ms and the field die clears ACTIVE. -/
  | twinLeaseLapsed (t : Nat)
  /-- TWIN_PATH_SILENT (R361): A heartbeat path is silent for HB_TIMEOUT and is logged. -/
  | twinPathSilent (link : Bool) (t : Nat)
  /-- TWIN_ROLE_LISTEN_END (R360): 100 ms after READY the unit takes its twin role from the partner's claim. -/
  | twinRoleListenEnd
  /-- TWIN_DUAL_ACTIVE (R363): A higher active partner claim persists 1 ms and the unit becomes standby. -/
  | twinDualActive
  /-- SWITCH_OVER (R366): A write of 1 to SWITCH_OVER on the active unit starts a switch-over at T0. -/
  | switchOver (t : Nat) (q : Req)
  /-- TWIN_SWITCH_OVER (R366): The standby receives SWITCH_OVER and answers SWITCH_OVER_ACK. -/
  | twinSwitchOver (t : Nat) (f : Bytes)
  /-- TWIN_SWITCH_OVER_ACK (R366): The active unit receives the ACK and the switch proceeds. -/
  | twinSwitchOverAck (t : Nat) (f : Bytes)
  /-- TWIN_SWITCH_FAILED (R366): No ACK arrives within 1 ms and the switch-over is cancelled. -/
  | twinSwitchFailed
  /-- SWITCH_OVER_HANDOVER (R366): At T0 + 2 ms the active unit clears ACTIVE and the standby sets it. -/
  | switchOverHandover
  /-- RELAY_ACK (R372): A RELAY_ACK write applies own entries and relays others as DOFF frames. -/
  | relayAck (seg : Bool) (t : Nat) (q : Req)
  /-- DIR_QUERY (R378): A DIR_QUERY write starts a directory scan. -/
  | dirQuery (seg : Bool) (t : Nat) (q : Req)
  /-- DIR_SCAN_DONE (R379): The scan completes and DIR_RESULT is ready. -/
  | dirScanDone (t : Nat)
  /-- RETRO_JOB (R380): A RETRO_JOB write starts a capture-assembly job in slices. -/
  | retroJob (seg : Bool) (t : Nat) (q : Req)
  /-- RETRO_JOB_ABORT (R384): A write of 0 to RETRO_JOB aborts the running job. -/
  | retroJobAbort (t : Nat) (q : Req)
  /-- RETRO_SLICE_COMPLETE (R382): A slice is complete; it is sorted into the stream and sent to RETRO_DEST. -/
  | retroSliceComplete (t : Nat)
  /-- RETRO_TIMEOUT (R384): A hub does not answer within RETRO_TIMEOUT; it is asked again or given up. -/
  | retroTimeout (hub : Fin 16384) (t : Nat)
  /-- SEGMENT_LEAVE (R370): No SUMMARY from a hub for its timeout and it leaves the segment. -/
  | segmentLeave (hub : Fin 16384) (t : Nat)
  /-- FED_INTERVAL_SEND (R377): Every FED_INTERVAL the root sends changed records to its federation roots. -/
  | fedIntervalSend (t : Nat)
  /-- ACT_JOB (R385): An ACT_JOB write sends timed activation writes to the listed hubs. -/
  | actJob (seg : Bool) (t : Nat) (q : Req)
  /-- ACT_MARGIN_EXPIRY (R385): At T - ACT_MARGIN an incomplete job sends CANCEL to the hubs. -/
  | actMarginExpiry
  /-- ACT_CANCEL_REPEAT (R385): Every 100 ms CANCEL is repeated to unanswered hubs. -/
  | actCancelRepeat (t : Nat)
  /-- ACT_LAST_CANCEL (R385): At T - 2 frames the last CANCEL is sent and unanswered hubs are marked cancel failed. -/
  | actLastCancel
  /-- UPD_MANIFEST (R404): The SEG_COMMIT of UPD_MANIFEST checks and accepts a manifest. -/
  | updManifest (t : Nat) (q : Req)
  /-- UPD_PAYLOAD (R406): The SEG_COMMIT of UPD_PAYLOAD checks the digest and starts building the inactive slot. -/
  | updPayload (t : Nat) (q : Req)
  /-- UPD_BUILT (R407): The build of the new slot completes and UPD_STATE becomes VERIFIED or FAILED. -/
  | updBuilt (t : Nat)
  /-- UPD_ACTIVATE (R408): A write of 1 to UPD_ACTIVATE switches the slot pointer at T and restarts the cores into the new image. -/
  | updActivate (t : Nat) (q : Req)
  /-- INTERRUPTING_PARTS_LOADED (R408): The interrupting parts are loaded and sampling resumes with UPDATE gap records. -/
  | interruptingPartsLoaded (t : Nat)
  /-- HEALTH_HOLD_EXPIRY (R409): The health conditions hold for HEALTH_HOLD and the image confirms itself. -/
  | healthHoldExpiry
  /-- TRIAL_WINDOW_EXPIRY (R410): TRIAL_WINDOW ends without confirmation. -/
  | trialWindowExpiry
  /-- UPD_CONFIRM (R409): A write of 1 to UPD_CONFIRM confirms the image during the trial. -/
  | updConfirm (t : Nat) (q : Req)
  /-- UPD_REJECT (R410): A write of 1 to UPD_REJECT rolls back during the trial. -/
  | updReject (t : Nat) (q : Req)
  /-- UPD_ABORT (R405): A write of 1 to UPD_ABORT discards the manifest and staging. -/
  | updAbort (t : Nat) (q : Req)
  /-- LC_REQUEST (R415): A guarded LC_REQUEST write changes the life-cycle state and performs a full reset with wipe. -/
  | lcRequest (t : Nat) (q : Req)
  /-- REVOKE_KEY (R412): A write of 0 or 1 to REVOKE_KEY revokes that OTP key slot. -/
  | revokeKey (t : Nat) (q : Req)
  /-- KEY_HASH (R412): A write to KEY_HASH_0 or KEY_HASH_1 programs a key slot once. -/
  | keyHash (second seg : Bool) (t : Nat) (q : Req)
  /-- SESSION_KEY (R413): A write to K_ROOT or K_SHOST stores a session key and closes that principal's sessions. -/
  | sessionKey (root seg : Bool) (t : Nat) (q : Req)
  /-- READ (R342): An expedited READ returns an object's value. -/
  | read (idx : BitVec 16) (sub : BitVec 8) (t : Nat) (q : Req)
  /-- WRITE (R337): An expedited WRITE to an object without its own row is checked and takes effect per its commit class. -/
  | write (idx : BitVec 16) (sub : BitVec 8) (t : Nat) (q : Req)
  /-- SEG_READ (R344): A SEG_READ returns a piece of a snapshot of the object's value. -/
  | segRead (idx : BitVec 16) (sub : BitVec 8) (t : Nat) (q : Req)
  /-- SEG_WRITE (R343): A SEG_WRITE piece is stored and its block checked against its CRC. -/
  | segWrite (idx : BitVec 16) (sub : BitVec 8) (t : Nat) (q : Req)
  /-- SEG_COMMIT (R343): A SEG_COMMIT checks completeness and the whole-value CRC and applies the write. -/
  | segCommit (idx : BitVec 16) (sub : BitVec 8) (t : Nat) (q : Req)
  /-- SEG_STATUS (R343): A SEG_STATUS returns the transfer's total, contiguous bytes and first missing offset. -/
  | segStatus (idx : BitVec 16) (sub : BitVec 8) (t : Nat) (q : Req)
  /-- BATCH (R345): A timed BATCH is checked in two passes and applied as one unit at T. -/
  | batch (t : Nat) (q : Req)
  /-- CANCEL (R340): A CANCEL removes an object's pending timed write. -/
  | cancel (idx : BitVec 16) (sub : BitVec 8) (t : Nat) (q : Req)
  /-- SESSION_OPEN (R346): A SESSION_OPEN allocates a session and returns the hub nonce. -/
  | sessionOpen (t : Nat) (q : Req)
  /-- SESSION_PROVE (R346): A SESSION_PROVE with a correct TAG makes the session live. -/
  | sessionProve (t : Nat) (q : Req)
  /-- SESSION_CLOSE (R347): A SESSION_CLOSE closes the session. -/
  | sessionClose (t : Nat) (q : Req)
  /-- SESSION_IDLE_EXPIRY (R347): A session without a request for SESSION_IDLE closes. -/
  | sessionIdleExpiry (id : BitVec 32)
  /-- SEGMENTED_TRANSFER_LAPSE (R343): A segmented write with no request for 60 s is discarded. -/
  | segmentedTransferLapse (idx : BitVec 16) (sub : BitVec 8)
  /-- SNAPSHOT_RELEASE (R344): A SEG_READ snapshot unread for 60 s is released. -/
  | snapshotRelease (idx : BitVec 16) (sub : BitVec 8)
  /-- STORE (R348): A write of 1 to STORE snapshots the settings at the next boundary and writes them to flash. -/
  | store (t : Nat) (q : Req)
  /-- STORE_DONE (R348): The flash write of the stored copy completes or fails. -/
  | storeDone (ok : Bool) (t : Nat)
  /-- RESTORE_DEFAULTS (R349): A write of 1 to RESTORE_DEFAULTS writes a copy holding only the _NEXT objects. -/
  | restoreDefaults (t : Nat) (q : Req)
  /-- SPI_WRITE (R388): A single-line write transaction (0x02) writes words into the selected page. -/
  | spiWrite (cs scs : Bool) (addr : BitVec 16) (words : List (BitVec 32)) (t : Nat)
  /-- SPI_READ (R388): A single-line read transaction (0x0B) reads words from the selected page. -/
  | spiRead (cs scs : Bool) (addr : BitVec 16) (n : Nat) (t : Nat)
  /-- SPI_QUAD_WRITE (R388): A quad write transaction (0x32) writes words on four lines. -/
  | spiQuadWrite (cs scs : Bool) (addr : BitVec 16) (words : List (BitVec 32)) (t : Nat)
  /-- SPI_QUAD_READ (R388): A quad read transaction (0xEB) reads words on four lines. -/
  | spiQuadRead (cs scs : Bool) (addr : BitVec 16) (n : Nat) (t : Nat)
  /-- HOST_REGISTER_WRITE (R389): A host write to a window register without behaviour of its own stores the value. -/
  | hostRegisterWrite (sec : Bool) (off : Fin 2048) (v : BitVec 32) (t : Nat)
  /-- GRID_HI_READ (R390): A read of GRID_HI returns grid bits 63:32 and latches bits 31:0 into GRID_LO. -/
  | gridHiRead (sec : Bool) (t : Nat)
  /-- IRQ_STATUS_CLEAR (R391): Writing 1 to IRQ_STATUS bits clears them. -/
  | irqStatusClear (sec : Bool) (v : BitVec 32) (t : Nat)
  /-- MB_STATUS_CLEAR (R398): Writing 1 to MB_STATUS bits 5 to 2 clears them. -/
  | mbStatusClear (n : Fin 4) (v : BitVec 32) (t : Nat)
  /-- OUT_W_WRITE (R392): A host write to an outbound word posts a message, setting FULL on word LEN-1. -/
  | outWWrite (n : Fin 4) (k : Fin 8) (v : BitVec 32) (t : Nat)
  /-- IN_W_READ (R392): A host read of inbound word LEN-1 clears IN_FULL. -/
  | inWRead (n : Fin 4) (k : Fin 8) (t : Nat)
  /-- FLUSH_IN (R398): MB_CTRL[1] destroys the inbound message and the rest of that response body. -/
  | flushIn (n : Fin 4) (t : Nat)
  /-- MAILBOX_SERVICE (R396): The distaff reads a posted outbound message and assembles the request body. -/
  | mailboxService (n : Fin 4) (t : Nat)
  /-- RESPONSE_FRAGMENT_POST (R392): The hub posts the next response fragment once the inbound queue is empty. -/
  | responseFragmentPost (n : Fin 4) (t : Nat)
  /-- MAILBOX_CROSSED (R397): Both queues stay FULL for 50 ms; CROSSED is set and the outbound message moves to a reserve slot. -/
  | mailboxCrossed (n : Fin 4)
  /-- V5_RAIL_GOOD (R420): The 5 V intermediate rail comes within its ±5 % window after buck soft-start, and the hub raises PWR_EN_B. -/
  | v5RailGood
  /-- SRAM_WIPE_END (R390): The reset wipe of the 48 MiB SRAM ends, and the host port begins to answer HP_ID, HP_STATUS, HP_SCRATCH and GRID_HI. -/
  | sramWipeEnd
  /-- BOOT_PARTS_LOADED (R426): Secure boot finishes loading the parts, so the distaff runs, the mailboxes are served and lanes L0 to L7 and L20 to L23 start. -/
  | bootPartsLoaded (t : Nat) (bad : List (Fin 2)) (osc : List Nat)
  /-- DFE_CONVERGED (R299): 1 ms after lock at a 64b/66b rate the DFE counts as converged, and adaptation with FoM measurement begins. -/
  | dfeConverged (l : Fin 24)
  /-- RECOMPUTATION_COMPLETE (R241): A spindle finishes recomputing missed intervals from the bobbins, RECOMPUTE_BACKLOG reaches 0 and held live records are released. -/
  | recomputationComplete (k : Fin 16)
  /-- BUSY_RETRY (R331): RETRY_MS after a BUSY NAK expires, and the requester, such as a root asking for a RETRO slice, sends its request again. -/
  | busyRetry
  /-- THERMAL_RELEASE_WAKE (R431): After a thermal trip into sleep, every die cools 20 K below its trip limit and the hub wakes with WAKE_CAUSE thermal release. -/
  | thermalReleaseWake (temps : DieTemps) (n : SleepCount)
  /-- FIELD_DIE_THERMAL_RESET (R433): After the buck stops at 150 °C, the field die cools below 125 °C and a full reset follows with LAST_RESET_CAUSE 7. -/
  | fieldDieThermalReset (field : Int)
  deriving DecidableEq, Repr

end Sys2Proof
end

