-- ==== Sys2Proof/WellFormed.lean ====
section
/-! DEFINITION. Commands whose operands lie in the ranges that the spec gives them.  Where the type of an operand is its range,
nothing is left to check. -/

namespace Sys2Proof

/-- A Twine port: portNumber 1 to 20 (Table 10.1). -/
def portOk (p : Fin 21) : Bool := Nat.blt 0 p.val

/-- A Twine frame with its padding: an Ethernet payload of at least 46 bytes, and its LENGTH field's reach (R309). -/
def frameOk (f : Bytes) : Bool := Nat.ble 46 f.length && Nat.blt f.length 65536

/-- A path over Twine names a port and a SRC of 14 bits, or SRC_UNSET (R309, R335). -/
def Path.wf : Path → Bool
  | .mailbox _ => true
  | .twine port src => Nat.ble 1 port && Nat.ble port 20 && Nat.blt src 32768

/-- A request's fields fit the MGMT layout and Table 17.4. -/
def Req.wf (q : Req) : Bool :=
  q.path.wf && Nat.blt q.reqId (2 ^ 32) && Nat.blt q.session (2 ^ 32) && Nat.beq q.tag.length 16
    && (match q.timed with | some t => Nat.blt t (2 ^ 64) | none => true) && Nat.blt q.data.length 65536

/-- A slot shows all 32 creels. -/
def SlotEnv.wf (e : SlotEnv) : Bool := Nat.beq e.creels.length 32

/-- A boundary shows three oscillators and 33 die temperatures. -/
def FrameEnv.wf (e : FrameEnv) : Bool := Nat.beq e.osc.length 3 && Nat.beq e.temps.length 33

/-- A PTP message's fields fit their widths (IEEE 1588). -/
def PtpMsg.wf (m : PtpMsg) : Bool :=
  Nat.blt m.mtype 16 && Nat.blt m.version 16 && Nat.blt m.minorVersion 16 && Nat.blt m.majorSdo 16 && Nat.blt m.minorSdo 256
    && Nat.blt m.domain 256 && Nat.blt m.clock (2 ^ 64) && Nat.blt m.portNumber 65536 && Nat.blt m.seq 65536 && Nat.blt m.sec (2 ^ 48)
    && Nat.blt m.ns (2 ^ 32)

/-- An Ethernet frame's addresses and type fit their widths. -/
def EthFrame.wf (f : EthFrame) : Bool := Nat.blt f.dst (2 ^ 48) && Nat.blt f.src (2 ^ 48) && Nat.blt f.etherType 65536

/-- A calibration run names a path C0 to C32 and combinations of Table 6.1. -/
def CalRun.wf (r : CalRun) : Bool := Nat.ble r.path 32 && Nat.beq r.sums.length 32

/-- A ToD label is a UTC second since 1970 that 48 bits hold. -/
def TodRx.wf (m : TodRx) : Bool := Nat.blt m.utc (2 ^ 48)

/-- Feed-queue faults name entries of a queue. -/
def channelsOk (l : List (Nat × Bool)) : Bool := l.all (fun x => Nat.blt x.1 65536)

/-- The command's operands lie in their ranges. -/
def Instr.wellFormed : Instr → Bool
  | .vinValid _ _ => true
  | .vinInvalid _ => true
  | .pwrPgRise _ _ => true
  | .pgFault _ => true
  | .pgRestartWait => true
  | .pgLoss _ => true
  | .resetNAssert _ => true
  | .resetNRelease => true
  | .fullReset _ q => q.wf
  | .coreRestart _ q => q.wf
  | .watchdog _ => true
  | .coreRestartEnd _ _ => true
  | .portResetLane _ _ q => q.wf
  | .portResetMailbox _ _ q => q.all Req.wf
  | .portResetReel _ _ q => q.wf
  | .startUpPartApply _ => true
  | .dramWipeAdvance _ => true
  | .gridStart _ _ => true
  | .startWaitExpiry _ => true
  | .freeRunningGrandmasterStart _ => true
  | .sleepReq _ q => q.wf
  | .sleepEntry => true
  | .wake _ _ => true
  | .wakeAfterExpiry => true
  | .thermalEvaluation _ _ _ _ => true
  | .pmbusPoll _ => true
  | .pmbAlertFall _ => true
  | .vexcAboveDeclared _ => true
  | .domainCtrl _ q => q.wf
  | .gridFrameBoundary e => e.wf
  | .gridSlewEnd => true
  | .sourceAbsent _ => true
  | .reepoch _ q => q.wf
  | .reepochExecute => true
  | .epochStart => true
  | .ppsInEdge _ _ => true
  | .todRxSentence m _ => m.wf
  | .ppsOutEdge => true
  | .todTxSentence => true
  | .syncReceived rx m => portOk rx.port && m.wf
  | .pdelayReqReceived rx m => portOk rx.port && m.wf
  | .pdelayRespReceived rx m _ => portOk rx.port && m.wf
  | .pdelayReqSend _ => true
  | .pdelayExchangeLost _ => true
  | .announceReceived rx m => portOk rx.port && m.wf
  | .announceTimeout _ => true
  | .ptpFrameDiscarded port m => portOk port && m.wf
  | .gmSyncSend => true
  | .gmAnnounceSend => true
  | .twinTimeMessageSend => true
  | .twinTimeMessage rx m => portOk rx.port && m.wf
  | .txTimebaseStep => true
  | .trunkCycleStart => true
  | .launchTimeReached p _ _ => portOk p
  | .frameTransmitEnd _ _ _ _ => true
  | .slotBoundary e => e.wf
  | .rawWordFormed => true
  | .draftingInput _ faults => channelsOk faults.reads
  | .feedTimeout _ faults => channelsOk faults.reads
  | .tailTimeout _ => true
  | .reductionIntervalEnd _ => true
  | .maskSpanStart _ => true
  | .maskPulseEnd _ => true
  | .watchComparatorEdge _ _ _ _ _ => true
  | .trigPinEdge _ _ _ => true
  | .fieldInputEdge _ _ _ => true
  | .syncPinEdge _ => true
  | .blankEdge _ _ _ => true
  | .gridTimeTrigger _ => true
  | .injStart _ _ q => q.wf
  | .injectedEntryBegin _ => true
  | .wbRunStart _ => true
  | .wbCheck _ _ faults => channelsOk faults.reads
  | .excTripped _ => true
  | .excSettleElapsed _ _ => true
  | .refBufferSettled _ _ => true
  | .calStart _ q => q.wf
  | .calIntervalExpiry => true
  | .calSweepStart _ => true
  | .handoverStep relief runs => relief.all CalRun.wf && runs.all CalRun.wf
  | .compatStop runs => runs.all CalRun.wf
  | .syncCmd _ q => q.wf
  | .draftClear _ _ q => q.wf
  | .reelArm _ _ q => q.wf
  | .reelRearm _ => true
  | .reelRelease _ _ q => q.wf
  | .windowReq _ _ q => q.wf
  | .windowAnswerReady => true
  | .bobbinDiscard _ _ q => q.wf
  | .standbyAgeDoff _ => true
  | .refreshInterval _ _ _ _ => true
  | .dramTempEval _ _ => true
  | .dramSpeed _ q => q.wf
  | .trainingStepEnd _ => true
  | .zqcsPeriodic _ => true
  | .readGateUpdate _ => true
  | .patrolScrub _ => true
  | .powerDownIdle _ => true
  | .bankIdleTimer _ _ => true
  | .laneGroupStart _ => true
  | .laneLock _ _ _ => true
  | .laneLockLost _ _ => true
  | .stepOfferSend _ _ => true
  | .stepOffer _ _ f => frameOk f
  | .stepGo _ _ f => frameOk f
  | .stepGoAck _ _ f => frameOk f
  | .stepRateSwitch _ => true
  | .stepLockTimeout _ => true
  | .stepExchangeTimeout _ _ => true
  | .fomMeasurementEnd _ _ _ _ => true
  | .stepConfirm _ _ f => frameOk f
  | .stepFallback _ _ f => frameOk f
  | .stepTap _ _ f => frameOk f
  | .stepTapAck _ _ f => frameOk f
  | .stepLoopReq _ _ f => frameOk f
  | .stepLoopAck _ _ f => frameOk f
  | .stepLoopEnd _ _ f => frameOk f
  | .laneRetryAttempt _ _ => true
  | .stepRetryExpiry _ => true
  | .fomPeriodic _ _ _ => true
  | .laneStepUpCommand _ _ q => q.wf
  | .laneStepDownCommand _ _ q => q.wf
  | .maxSpeed _ _ q => q.wf
  | .laneAdmin _ _ q => q.wf
  | .laneTest _ _ q => q.wf
  | .reorderWaitExpiry p => portOk p
  | .ethernetFrameReceived _ _ f => f.wf
  | .tapCopyDrop _ => true
  | .twineForward port _ f => portOk port && frameOk f
  | .skeinReceived port _ f => portOk port && frameOk f
  | .doffReceived port _ f => portOk port && frameOk f
  | .retxReceived port _ f _ => portOk port && frameOk f
  | .retroReceived port _ f _ => portOk port && frameOk f
  | .requestAnswerComplete _ => true
  | .mgmtRequest port _ f _ => portOk port && frameOk f
  | .mgmtResponse port _ f => portOk port && frameOk f
  | .eventReceived port _ f => portOk port && frameOk f
  | .triggerReceived port _ f => portOk port && frameOk f
  | .summaryReceived port _ f => portOk port && frameOk f
  | .nakReceived port _ f => portOk port && frameOk f
  | .learningEntryExpiry _ => true
  | .skeinAgeExpiry _ => true
  | .transmitUnderrun _ => true
  | .eventSend _ => true
  | .summarySend _ => true
  | .twinFrameSend _ => true
  | .twinHeartbeat _ f => frameOk f
  | .claimFrameSend => true
  | .claimFrameReceived _ _ _ => true
  | .twinClaimLost _ => true
  | .hbOutToggle _ => true
  | .hbInEdge _ => true
  | .twinLeaseLapsed _ => true
  | .twinPathSilent _ _ => true
  | .twinRoleListenEnd => true
  | .twinDualActive => true
  | .switchOver _ q => q.wf
  | .twinSwitchOver _ f => frameOk f
  | .twinSwitchOverAck _ f => frameOk f
  | .twinSwitchFailed => true
  | .switchOverHandover => true
  | .relayAck _ _ q => q.wf
  | .dirQuery _ _ q => q.wf
  | .dirScanDone _ => true
  | .retroJob _ _ q => q.wf
  | .retroJobAbort _ q => q.wf
  | .retroSliceComplete _ => true
  | .retroTimeout _ _ => true
  | .segmentLeave _ _ => true
  | .fedIntervalSend _ => true
  | .actJob _ _ q => q.wf
  | .actMarginExpiry => true
  | .actCancelRepeat _ => true
  | .actLastCancel => true
  | .updManifest _ q => q.wf
  | .updPayload _ q => q.wf
  | .updBuilt _ => true
  | .updActivate _ q => q.wf
  | .interruptingPartsLoaded _ => true
  | .healthHoldExpiry => true
  | .trialWindowExpiry => true
  | .updConfirm _ q => q.wf
  | .updReject _ q => q.wf
  | .updAbort _ q => q.wf
  | .lcRequest _ q => q.wf
  | .revokeKey _ q => q.wf
  | .keyHash _ _ _ q => q.wf
  | .sessionKey _ _ _ q => q.wf
  | .read _ _ _ q => q.wf
  | .write _ _ _ q => q.wf
  | .segRead _ _ _ q => q.wf
  | .segWrite _ _ _ q => q.wf
  | .segCommit _ _ _ q => q.wf
  | .segStatus _ _ _ q => q.wf
  | .batch _ q => q.wf
  | .cancel _ _ _ q => q.wf
  | .sessionOpen _ q => q.wf
  | .sessionProve _ q => q.wf
  | .sessionClose _ q => q.wf
  | .sessionIdleExpiry _ => true
  | .segmentedTransferLapse _ _ => true
  | .snapshotRelease _ _ => true
  | .store _ q => q.wf
  | .storeDone _ _ => true
  | .restoreDefaults _ q => q.wf
  | .spiWrite _ _ _ _ _ => true
  | .spiRead _ _ _ _ _ => true
  | .spiQuadWrite _ _ _ _ _ => true
  | .spiQuadRead _ _ _ _ _ => true
  | .hostRegisterWrite _ _ _ _ => true
  | .gridHiRead _ _ => true
  | .irqStatusClear _ _ _ => true
  | .mbStatusClear _ _ _ => true
  | .outWWrite _ _ _ _ => true
  | .inWRead _ _ _ => true
  | .flushIn _ _ => true
  | .mailboxService _ _ => true
  | .responseFragmentPost _ _ => true
  | .mailboxCrossed _ => true
  | .v5RailGood => true
  | .sramWipeEnd => true
  | .bootPartsLoaded _ _ osc => Nat.beq osc.length 3
  | .dfeConverged _ => true
  | .recomputationComplete _ => true
  | .busyRetry => true
  | .thermalReleaseWake _ _ => true
  | .fieldDieThermalReset _ => true

end Sys2Proof
end

