-- ==== Sys2Proof/Decode.lean ====
section
/-! DEFINITION. The command that a word spells by the bits of spec/opcode_table.json.  The table gives bits to no row: commands
reach the block over its pins, lanes and mailboxes, and by time. -/

namespace Sys2Proof

/-- The command whose table row has `nbits` bits and whose word is `w`: no row has any. -/
def decodeTableWord (_nbits _w : Nat) : Option Instr := none

end Sys2Proof
end

