-- ==== Sys2Proof/Config.lean ====
section
/-! DEFINITION. What the spec leaves open: values that a machine of this kind always produces but that no rule of the
spec fixes.  Each is an opaque constant with no body, so that no proof can rest on a value of it; where a fresh value is
needed each time, it is applied to the free-value counter that the state holds (assumption log, entry 1). -/

namespace Sys2Proof.Config

/-- A free integer, fresh at each use of the counter. -/
opaque freeInt : Nat → Int

/-- The phase trim of a strand's servo, in 0.001 ppm, for an averaged offset in 1/65536 tick: R163 gives the averaging's time constant
and not the servo's law. -/
opaque servoTrim : Nat → Int → Int

/-- A free natural number, fresh at each use of the counter. -/
opaque freeNat : Nat → Nat

/-- Free bytes, fresh at each use of the counter: nonces and session identifiers (R346). -/
opaque freeByte : Nat → Nat → BitVec 8

/-- What a counter object reads after its largest value (no rule says whether it wraps or stays). -/
opaque counterPastMax : Nat → Nat

/-- What CAPTURE_ID counts from: R222 says that it counts captures since the last full reset and not which number the
first one has. -/
opaque captureIdBase : Nat

/-- The bytes of part `i` (1 to 7) of the image that a hub leaves the factory with: the spec gives its layout's place, not its
content (R401, R403). -/
opaque factoryPart : Nat → List (BitVec 8)

/-- Whether two preset tables of images (part 4, Table 21.4) differ in the content of preset `n`: the spec gives no layout of that part. -/
opaque presetDiffers : List (BitVec 8) → List (BitVec 8) → Nat → Bool

/-- SHA-256 of the release key that signed the factory image; its hash lies in the boot ROM (Table 21.10). -/
opaque factoryKeyHash : List (BitVec 8)

/-- SEQUENCE of the factory image. -/
opaque factorySequence : Nat

/-- Key slot named by the factory image's manifest. -/
opaque factoryKeySlot : Nat

/-- What LANE_ROLE reads on lanes 0 to 21: Table 15.7 gives the role of Table 15.1 and states no code for it. -/
opaque laneRole : Nat → Nat

/-- INDEX and SUB under which COUNTER_SNAPSHOT carries the counter of internal mailbox pair `i`: R399 includes it and gives it no
index. -/
opaque internalCounterKey : Nat → Nat

end Sys2Proof.Config
end

