-- ==== Sys2Proof/Machine/Events.lean ====
section
/-! DEFINITION. Event codes (Table 17.11): the area byte and the position in the list, counting from 1. -/

namespace Sys2Proof.Machine.Ev

/-- WRITE_APPLIED. -/
def writeApplied : Nat := 0x1101
/-- COMMAND_APPLIED. -/
def commandApplied : Nat := 0x1102
/-- WRITE_DROPPED. -/
def writeDropped : Nat := 0x1103
/-- READY. -/
def ready : Nat := 0x1104
/-- CORE_RESTART. -/
def coreRestart : Nat := 0x1105
/-- SPINDLE_UNEVALUATED. -/
def spindleUnevaluated : Nat := 0x1106
/-- MAILBOX_CROSSED. -/
def mailboxCrossed : Nat := 0x1107
/-- STORE_DONE. -/
def storeDone : Nat := 0x1108
/-- STORE_FAILED. -/
def storeFailed : Nat := 0x1109
/-- CONFIG_REFUSED. -/
def configRefused : Nat := 0x110A
/-- CONFIG_ITEM_REFUSED. -/
def configItemRefused : Nat := 0x110B
/-- DRAM_TEMP_LOST. -/
def dramTempLost : Nat := 0x2801
/-- DRAM_TRAIN_FAIL. -/
def dramTrainFail : Nat := 0x2802
/-- DRAM_UE. -/
def dramUe : Nat := 0x2803
/-- DRAM_UE_RECORDS. -/
def dramUeRecords : Nat := 0x2804
/-- REF_BURST. -/
def refBurst : Nat := 0x2805
/-- DRAM_CE. -/
def dramCe : Nat := 0x2806
/-- SPEED_CHANGE. -/
def speedChange : Nat := 0x2807
/-- BOBBIN_DISCARDED. -/
def bobbinDiscarded : Nat := 0x2901
/-- GAP_WRITTEN. -/
def gapWritten : Nat := 0x2902
/-- OSC_FAULT. -/
def oscFault : Nat := 0x3001
/-- STRAND_EXCLUDED. -/
def strandExcluded : Nat := 0x3002
/-- STRAND_RETURNED. -/
def strandReturned : Nat := 0x3003
/-- NO_MAJORITY. -/
def noMajority : Nat := 0x3004
/-- REEPOCH. -/
def reepoch : Nat := 0x3005
/-- REEPOCH_CANCELLED. -/
def reepochCancelled : Nat := 0x3006
/-- STRAND_STATE. -/
def strandState : Nat := 0x3007
/-- LANE_LOCK_LOST. -/
def laneLockLost : Nat := 0x3401
/-- LANE_FALLBACK. -/
def laneFallback : Nat := 0x3402
/-- LANE_PORT_DOWN. -/
def lanePortDown : Nat := 0x3403
/-- LANE_STEP_DOWN. -/
def laneStepDown : Nat := 0x3404
/-- RECOV_SPAN. -/
def recovSpan : Nat := 0x4201
/-- BLANK_EDGE. -/
def blankEdge : Nat := 0x4202
/-- WB_FAIL. -/
def wbFail : Nat := 0x4203
/-- WB_VOID. -/
def wbVoid : Nat := 0x4204
/-- WB_RUN_LATE. -/
def wbRunLate : Nat := 0x4205
/-- WB_RUN_ABORTED. -/
def wbRunAborted : Nat := 0x4206
/-- REF_CHECK_FAIL. -/
def refCheckFail : Nat := 0x4301
/-- REFIN_OUT_OF_RANGE. -/
def refinOutOfRange : Nat := 0x4302
/-- CAL_TQ. -/
def calTq : Nat := 0x4303
/-- CAL_SET_CHANGED. -/
def calSetChanged : Nat := 0x4304
/-- CAL_SWEEP_ABORTED. -/
def calSweepAborted : Nat := 0x4305
/-- CAL_HANDOVER_REFUSED. -/
def calHandoverRefused : Nat := 0x4306
/-- CAL_REJECTED. -/
def calRejected : Nat := 0x4307
/-- CAL_NO_REF. -/
def calNoRef : Nat := 0x4308
/-- CAL_INJ_LOST. -/
def calInjLost : Nat := 0x4309
/-- SKEW_RANGE. -/
def skewRange : Nat := 0x430A
/-- CAL_SATURATED. -/
def calSaturated : Nat := 0x430B
/-- INJ_SPAN. -/
def injSpan : Nat := 0x4401
/-- INJ_OVERRUN. -/
def injOverrun : Nat := 0x4402
/-- INJ_TRIGGER_DISCARDED. -/
def injTriggerDiscarded : Nat := 0x4403
/-- EXC_TRIPPED. -/
def excTripped : Nat := 0x4601
/-- EXC_OUT_OF_REG. -/
def excOutOfReg : Nat := 0x4602
/-- EXC_SENSE_OPEN. -/
def excSenseOpen : Nat := 0x4603
/-- DRAFT_PARITY. -/
def draftParity : Nat := 0x4801
/-- SYNC. -/
def sync : Nat := 0x4802
/-- TRIGGER_EVENT. -/
def triggerEvent : Nat := 0x5001
/-- FEED_PARITY. -/
def feedParity : Nat := 0x5201
/-- FEED_RESYNC. -/
def feedResync : Nat := 0x5202
/-- FEED_OVERFLOW. -/
def feedOverflow : Nat := 0x5203

/-- LC_CHANGE. -/
def lcChange : Nat := 0x1401
/-- KEY_PROVISIONED. -/
def keyProvisioned : Nat := 0x1402
/-- KEY_REVOKED. -/
def keyRevoked : Nat := 0x1403
/-- UPD_MANIFEST_ACCEPTED. -/
def updManifestAccepted : Nat := 0x1801
/-- UPD_BUILT. -/
def updBuilt : Nat := 0x1802
/-- UPD_BUILD_FAILED. -/
def updBuildFailed : Nat := 0x1803
/-- UPD_ARMED. -/
def updArmed : Nat := 0x1804
/-- UPD_ACTIVATED. -/
def updActivated : Nat := 0x1805
/-- UPD_CONFIRMED. -/
def updConfirmed : Nat := 0x1806
/-- UPD_ROLLBACK. -/
def updRollback : Nat := 0x1807
/-- UPD_BOOT_FALLBACK. -/
def updBootFallback : Nat := 0x1808
/-- VEXC_ABOVE_DECLARED. -/
def vexcAboveDeclared : Nat := 0x2001
/-- PMBUS_FAULT. -/
def pmbusFault : Nat := 0x2002
/-- PMBUS_LOST. -/
def pmbusLost : Nat := 0x2003
/-- DOMAIN_SWITCHED. -/
def domainSwitched : Nat := 0x2004
/-- THERMAL_WARN. -/
def thermalWarn : Nat := 0x2005
/-- THERMAL_THROTTLE. -/
def thermalThrottle : Nat := 0x2006
/-- THERMAL_TRIP. -/
def thermalTrip : Nat := 0x2007
/-- FIELD_THERMAL. -/
def fieldThermal : Nat := 0x2008
/-- WATCHDOG. -/
def watchdog : Nat := 0x2009
/-- PORT_RESET. -/
def portReset : Nat := 0x200A
/-- SLEEP_ENTRY. -/
def sleepEntry : Nat := 0x200B
/-- WAKE. -/
def wake : Nat := 0x200C
/-- TWIN_TAKEOVER. -/
def twinTakeover : Nat := 0x2201
/-- TWIN_PATH_SILENT. -/
def twinPathSilent : Nat := 0x2202
/-- TWIN_CLAIM_LOST. -/
def twinClaimLost : Nat := 0x2203
/-- TWIN_DUAL_ACTIVE. -/
def twinDualActive : Nat := 0x2204
/-- TWIN_SWITCH_OVER. -/
def twinSwitchOver : Nat := 0x2205
/-- TWIN_SWITCH_FAILED. -/
def twinSwitchFailed : Nat := 0x2206
/-- TWIN_LEASE_LAPSED. -/
def twinLeaseLapsed : Nat := 0x2207
/-- TWIN_DRILL_FAULT. -/
def twinDrillFault : Nat := 0x2208
/-- MB_COLLISION. -/
def mbCollision : Nat := 0x2401
/-- MB_DISCARDED. -/
def mbDiscarded : Nat := 0x2402
/-- MB_FRAG_ERROR. -/
def mbFragError : Nat := 0x2403
/-- MB_PORT_RESET. -/
def mbPortReset : Nat := 0x2404
/-- ROOT_CONFIG_BAD. -/
def rootConfigBad : Nat := 0x6001
/-- SEGMENT_FULL. -/
def segmentFull : Nat := 0x6002
/-- RETRO_HUB_LOST. -/
def retroHubLost : Nat := 0x6003
/-- RETRO_DONE. -/
def retroDone : Nat := 0x6004
/-- RETRO_FAILED. -/
def retroFailed : Nat := 0x6005
/-- ACT_ARMED. -/
def actArmed : Nat := 0x6006
/-- ACT_CANCELLED. -/
def actCancelled : Nat := 0x6007

end Sys2Proof.Machine.Ev
end

