-- ==== Sys2Proof/Machine/ObjectTypes.lean ====
section
/-! DEFINITION. The types of the object dictionary (R333 to R337): values, types, commit classes, principals, and the
row that describes one object. -/

namespace Sys2Proof.Machine

/-- A dictionary value: a number of one of the fixed-length types, or a byte string (Table 17.1). -/
inductive Val where
  /-- BOOL, U8 to U64, I8 to I64, Q22, GTIME and FTIME. -/
  | int (i : Int)
  /-- STRING and DOMAIN. -/
  | bytes (b : Bytes)
  deriving DecidableEq, Repr

/-- The type of an object (Table 17.1): unsigned or two's complement of a number of bytes, BOOL, or a byte string. -/
inductive OType where
  | u (n : Nat)
  | i (n : Nat)
  | bool
  | bytes
  deriving DecidableEq, Repr

/-- The commit classes of Table 17.3. -/
inductive Commit where
  | immediate | frame | timed | stopped
  deriving DecidableEq, Repr

/-- The values an object's table allows.  `mask` keeps the bits the table defines and ignores the reserved ones (R6);
`format` says that the owning chapter's layout is checked by a function of its own. -/
inductive Range where
  | any
  | span (lo hi : Int)
  | oneOf (vs : List Int)
  | zeroOr (lo hi : Int)
  | step (unit hi : Int)
  | mask (m : Nat)
  | format
  deriving DecidableEq, Repr

/-- A factory record in Table 6.2's layout: FORMAT 1, T0 to T2, and gain 2^30 and offset 0 for all 32 combinations at each; what
the record of a path holds whose OTP content the spec does not give (log entry 6). -/
def factoryUnity : Bytes :=
  [0#8, 1#8, 0xF6#8, 0#8, 0x06#8, 0x40#8, 0x15#8, 0x40#8] ++ (List.replicate 96 [0x40#8, 0#8, 0#8, 0#8, 0#8, 0#8, 0#8, 0#8]).flatten

/-- What kind of object R348 makes it: a stored setting, a command, a request, a security object, or a read-only
status or counter. -/
inductive Kind where
  | setting | command | request | security | status | counter
  deriving DecidableEq, Repr

/-- Who may write an object: rights per principal (R336, Table 0.3).  `key` marks the objects whose writer depends on
the life-cycle state (Table 21.12). -/
structure Access where
  sHost : Bool
  root : Bool
  key : Bool
  deriving DecidableEq, Repr

/-- Read only. -/
def roAccess : Access := ⟨false, false, false⟩
/-- S-HOST and ROOT. -/
def srAccess : Access := ⟨true, true, false⟩
/-- S-HOST alone. -/
def sAccess : Access := ⟨true, false, false⟩
/-- ROOT alone. -/
def rAccess : Access := ⟨false, true, false⟩
/-- By life-cycle state. -/
def keyAccess : Access := ⟨false, false, true⟩

/-- One row of an object table: the first unit's index and sub-index as `index * 256 + sub`, the number of units at
consecutive indices, the number of objects at consecutive sub-indices, type, writers, value after reset, commit class
(`none` where the object is read only), range and kind. -/
structure ObjDef where
  key : Nat
  units : Nat
  subs : Nat
  typ : OType
  access : Access
  dflt : Val
  commit : Option Commit
  range : Range
  kind : Kind
  deriving DecidableEq, Repr

/-- The row covers this index (R333: the object of unit u lies at the base plus u). -/
def ObjDef.holdsIndex (d : ObjDef) (idx : Nat) : Bool :=
  Nat.ble (d.key / 256) idx && Nat.blt idx (d.key / 256 + d.units)

/-- The row covers this index and sub-index. -/
def ObjDef.holds (d : ObjDef) (idx sub : Nat) : Bool :=
  d.holdsIndex idx && Nat.ble (d.key % 256) sub && Nat.blt sub (d.key % 256 + d.subs)

/-- A named object: the key of its first unit and its value after reset. -/
structure Ref where
  key : Nat
  dflt : Val
  deriving DecidableEq, Repr

end Sys2Proof.Machine
end

