-- ==== Sys2Proof/Machine/Objects.lean ====
section
/-! DEFINITION. The object dictionary's tables (R333 to R337, R352): a named reference for every object of the spec's
object tables, and the table itself, one row per object as the chapters give it (index and sub-index, number of units
at consecutive indices, number of consecutive sub-indices, type, who may write, value after reset, commit class,
range, and what kind of object R348 makes it).  Defaults that the tables do not give as a number stand in the
functions that read those objects.  -/

namespace Sys2Proof.Machine

namespace O

/-- DISCHARGE, 0x4200:01, U8 (R61, Table 3.12). -/
def discharge : Ref := ⟨0x420001, .int 8⟩
/-- WATCH_TAP, 0x4200:02, U8 (R61, Table 3.12). -/
def watchTap : Ref := ⟨0x420002, .int 0⟩
/-- BLANK_SEL, 0x4200:03, U8 (R61, Table 3.12). -/
def blankSel : Ref := ⟨0x420003, .int 0⟩
/-- BLANK_TAIL, 0x4200:04, U32 (R61, Table 3.12). -/
def blankTail : Ref := ⟨0x420004, .int 0⟩
/-- WB_INTERVAL, 0x4200:05, U16 (R61, Table 3.12). -/
def wbInterval : Ref := ⟨0x420005, .int 100⟩
/-- WB_SOAK, 0x4200:06, U16 (R61, Table 3.12). -/
def wbSoak : Ref := ⟨0x420006, .int 2⟩
/-- WB_CURRENT_B, 0x4200:07, U8 (R61, Table 3.12). -/
def wbCurrentB : Ref := ⟨0x420007, .int 1⟩
/-- WB_THRESH_B, 0x4200:08, U16 (R61, Table 3.12). -/
def wbThreshB : Ref := ⟨0x420008, .int 25⟩
/-- WB_THRESH_W, 0x4200:09, U16 (R61, Table 3.12). -/
def wbThreshW : Ref := ⟨0x420009, .int 10⟩
/-- CREEL_STATE, 0x4200:0A, U8 (R61, Table 3.12). -/
def creelState : Ref := ⟨0x42000A, .int 0⟩
/-- CLAMP_CURRENT, 0x4200:0B, U16 (R61, Table 3.12). -/
def clampCurrent : Ref := ⟨0x42000B, .int 0⟩
/-- WB_RUN_START, 0x4200:0C, GTIME (R61, Table 3.12). -/
def wbRunStart : Ref := ⟨0x42000C, .int 0⟩
/-- WB_VOID_COUNT, 0x4200:0D, U32 (R61, Table 3.12). -/
def wbVoidCount : Ref := ⟨0x42000D, .int 0⟩
/-- CLASS, 0x4000:01, U8 (R61, Table 3.13). -/
def channelClass : Ref := ⟨0x400001, .int 0⟩
/-- WB_ENABLE, 0x4000:02, BOOL (R61, Table 3.13). -/
def wbEnable : Ref := ⟨0x400002, .int 0⟩
/-- OPEN_HOLD, 0x4000:03, BOOL (R61, Table 3.13). -/
def openHold : Ref := ⟨0x400003, .int 0⟩
/-- OPEN_STATE, 0x4000:04, BOOL (R61, Table 3.13). -/
def openState : Ref := ⟨0x400004, .int 0⟩
/-- WB_LAST_GOOD, 0x4000:05, GTIME (R61, Table 3.13). -/
def wbLastGood : Ref := ⟨0x400005, .int 0⟩
/-- WB_LAST_FAIL, 0x4000:06, GTIME (R61, Table 3.13). -/
def wbLastFail : Ref := ⟨0x400006, .int 0⟩
/-- WB_LAST_SHIFT, 0x4000:07, I32 (R61, Table 3.13). -/
def wbLastShift : Ref := ⟨0x400007, .int 0⟩
/-- OVR_COUNT, 0x4000:08, U32 (R61, Table 3.13). -/
def ovrCount : Ref := ⟨0x400008, .int 0⟩
/-- RECOV_COUNT, 0x4000:09, U32 (R61, Table 3.13). -/
def recovCount : Ref := ⟨0x400009, .int 0⟩
/-- EXC_MODE, 0x4600:01, U8 (R78, Table 4.5). -/
def excMode : Ref := ⟨0x460001, .int 0⟩
/-- EXC_VOLTAGE, 0x4600:02, U8 (R78, Table 4.5). -/
def excVoltage : Ref := ⟨0x460002, .int 1⟩
/-- EXC_ILIM, 0x4600:03, U8 (R78, Table 4.5). -/
def excIlim : Ref := ⟨0x460003, .int 120⟩
/-- EXC_SETTLE, 0x4600:04, U16 (R78, Table 4.5). -/
def excSettle : Ref := ⟨0x460004, .int 1000⟩
/-- EXC_CHECK, 0x4600:05, BOOL (R78, Table 4.5). -/
def excCheck : Ref := ⟨0x460005, .int 0⟩
/-- EXC_CHECK_THRESH, 0x4600:06, U16 (R78, Table 4.5). -/
def excCheckThresh : Ref := ⟨0x460006, .int 40⟩
/-- EXC_STATE, 0x4600:07, U8 (R78, Table 4.5). -/
def excState : Ref := ⟨0x460007, .int 0⟩
/-- EXC_CURRENT, 0x4600:08, U16 (R78, Table 4.5). -/
def excCurrent : Ref := ⟨0x460008, .int 0⟩
/-- EXC_SENSE, 0x4600:09, U32 (R78, Table 4.5). -/
def excSense : Ref := ⟨0x460009, .int 0⟩
/-- EXC_COST, 0x4600:0A, U16 (R78, Table 4.5). -/
def excCost : Ref := ⟨0x46000A, .int 0⟩
/-- EXC_FAULT_COUNT, 0x4600:0B, U32 (R78, Table 4.5). -/
def excFaultCount : Ref := ⟨0x46000B, .int 0⟩
/-- REF_KEEP, 0x4300:10, U8 (R78, Table 4.6). -/
def refKeep : Ref := ⟨0x430010, .int 1⟩
/-- REF_STATE, 0x4300:11, U8 (R78, Table 4.6). -/
def refState : Ref := ⟨0x430011, .int 0⟩
/-- REF_FILL_COUNT, 0x4300:12, U32 (R78, Table 4.6). -/
def refFillCount : Ref := ⟨0x430012, .int 0⟩
/-- CONV_STATE, 0x4300:01, U8 (R99, Table 5.10). -/
def convState : Ref := ⟨0x430001, .int 1⟩
/-- INTERLEAVE, 0x4300:02, BOOL (R99, Table 5.10). -/
def interleave : Ref := ⟨0x430002, .int 0⟩
/-- IL_RANGE, 0x4300:03, U8 (R99, Table 5.10). -/
def ilRange : Ref := ⟨0x430003, .int 0⟩
/-- IL_REF, 0x4300:04, U8 (R99, Table 5.10). -/
def ilRef : Ref := ⟨0x430004, .int 0⟩
/-- REFCHECK_LIMIT, 0x4300:05, U16 (R99, Table 5.10). -/
def refcheckLimit : Ref := ⟨0x430005, .int 24⟩
/-- REFCHECK_DEV, 0x4300:06, I16 (R99, Table 5.10). -/
def refcheckDev : Ref := ⟨0x430006, .int 0⟩
/-- REFCHECK_TIME, 0x4300:07, GTIME (R99, Table 5.10). -/
def refcheckTime : Ref := ⟨0x430007, .int 0⟩
/-- REFCHECK_SKIPPED, 0x4300:08, U32 (R99, Table 5.10). -/
def refcheckSkipped : Ref := ⟨0x430008, .int 0⟩
/-- SEQ_REGULAR, 0x4400:01, DOMAIN (R99, Table 5.11). -/
def seqRegular : Ref := ⟨0x440001, .bytes [0x13#8, 0x88#8, 0#8, 0#8]⟩
/-- SEQ_INJECTED, 0x4400:02, DOMAIN (R99, Table 5.11). -/
def seqInjected : Ref := ⟨0x440002, .bytes [0#8, 0#8, 0#8, 0#8]⟩
/-- INJ_SOURCE, 0x4400:03, U16 (R99, Table 5.11). -/
def injSource : Ref := ⟨0x440003, .int 0⟩
/-- INJ_START, 0x4400:04, U8 (R99, Table 5.11). -/
def injStart : Ref := ⟨0x440004, .int 0⟩
/-- SEQ_EFFECTIVE, 0x4400:05, GTIME (R99, Table 5.11). -/
def seqEffective : Ref := ⟨0x440005, .int 0⟩
/-- INJ_STATE, 0x4400:06, U8 (R99, Table 5.11). -/
def injState : Ref := ⟨0x440006, .int 0⟩
/-- INJ_COUNT, 0x4400:07, U32 (R99, Table 5.11). -/
def injCount : Ref := ⟨0x440007, .int 0⟩
/-- INJ_OVERRUN, 0x4400:08, U32 (R99, Table 5.11). -/
def injOverrun : Ref := ⟨0x440008, .int 0⟩
/-- DISPLACED_COUNT, 0x4400:09, U32 (R99, Table 5.11). -/
def displacedCount : Ref := ⟨0x440009, .int 0⟩
/-- INJ_LAST, 0x4400:0A, DOMAIN (R99, Table 5.11). -/
def injLast : Ref := ⟨0x44000A, .bytes []⟩
/-- SEQ_LOAD, 0x4400:0B, U16 (R99, Table 5.11). -/
def seqLoad : Ref := ⟨0x44000B, .int 0⟩
/-- CAL_METHOD, 0x4340:20, U8 (R123, Table 6.7). -/
def calMethod : Ref := ⟨0x434020, .int 0⟩
/-- CAL_AUTO, 0x4340:21, BOOL (R123, Table 6.7). -/
def calAuto : Ref := ⟨0x434021, .int 1⟩
/-- CAL_DELTA_T, 0x4340:22, U16 (R123, Table 6.7). -/
def calDeltaT : Ref := ⟨0x434022, .int 40⟩
/-- CAL_INTERVAL, 0x4340:23, U32 (R123, Table 6.7). -/
def calInterval : Ref := ⟨0x434023, .int 86400⟩
/-- CAL_ON_START, 0x4340:24, BOOL (R123, Table 6.7). -/
def calOnStart : Ref := ⟨0x434024, .int 1⟩
/-- CAL_START, 0x4340:25, U8 (R123, Table 6.7). -/
def calStart : Ref := ⟨0x434025, .int 0⟩
/-- CALREF_CERT, 0x4340:26, U32 (R123, Table 6.7). -/
def calrefCert : Ref := ⟨0x434026, .int 0⟩
/-- CAL_STATE, 0x4340:27, U8 (R123, Table 6.7). -/
def calState : Ref := ⟨0x434027, .int 0⟩
/-- CAL_SET_ID, 0x4340:28, U32 (R123, Table 6.7). -/
def calSetId : Ref := ⟨0x434028, .int 0⟩
/-- CALREF_MEASURED, 0x4340:29, U32 (R123, Table 6.7). -/
def calrefMeasured : Ref := ⟨0x434029, .int 0⟩
/-- HANDOVER_LIMIT, 0x4340:2A, U32 (R123, Table 6.7). -/
def handoverLimit : Ref := ⟨0x43402A, .int 2048⟩
/-- SWEEP_START, 0x4340:2B, GTIME (R123, Table 6.7). -/
def sweepStart : Ref := ⟨0x43402B, .int 0⟩
/-- SWEEP_END, 0x4340:2C, GTIME (R123, Table 6.7). -/
def sweepEnd : Ref := ⟨0x43402C, .int 0⟩
/-- DIE_TEMP, 0x4300:30, I16 (R123, Table 6.8). -/
def dieTemp : Ref := ⟨0x430030, .int 0⟩
/-- T_Q, 0x4300:31, I16 (R123, Table 6.8). -/
def tQ : Ref := ⟨0x430031, .int 0⟩
/-- USER_SET_0 to USER_SET_7, 0x4300:32 to 0x4300:39, DOMAIN (R123, Table 6.8). -/
def userSet : Ref := ⟨0x430032, .bytes []⟩
/-- CAL_TIME, 0x4300:3A, GTIME (R123, Table 6.8). -/
def calTime : Ref := ⟨0x43003A, .int 0⟩
/-- CAL_TEMP, 0x4300:3B, I16 (R123, Table 6.8). -/
def calTemp : Ref := ⟨0x43003B, .int 0⟩
/-- HANDOVER_DEV, 0x4300:3C, U32 (R123, Table 6.8). -/
def handoverDev : Ref := ⟨0x43003C, .int 0⟩
/-- SKEW_TRIM, 0x4300:3D, I16 (R123, Table 6.8). -/
def skewTrim : Ref := ⟨0x43003D, .int 0⟩
/-- CAL_REJECT_COUNT, 0x4300:3E, U32 (R123, Table 6.8). -/
def calRejectCount : Ref := ⟨0x43003E, .int 0⟩
/-- USER_CAL_ENABLE, 0x5800:01, BOOL (R123, Table 6.9). -/
def userCalEnable : Ref := ⟨0x580001, .int 1⟩
/-- CAL_GAIN, 0x5800:02, U32 (R123, Table 6.9). -/
def calGain : Ref := ⟨0x580002, .int 1073741824⟩
/-- CAL_OFFSET, 0x5800:03, I32 (R123, Table 6.9). -/
def calOffset : Ref := ⟨0x580003, .int 0⟩
/-- CAL_PATH, 0x5800:04, U8 (R123, Table 6.9). -/
def calPath : Ref := ⟨0x580004, .int 0⟩
/-- CAL_COMBO, 0x5800:05, U8 (R123, Table 6.9). -/
def calCombo : Ref := ⟨0x580005, .int 0⟩
/-- FACTORY_CAL, 0x5A00:01, DOMAIN (R123, Table 6.10). -/
def factoryCal : Ref := ⟨0x5A0001, .bytes factoryUnity⟩
/-- FACTORY_SKEW, 0x5A00:02, I16 (R123, Table 6.10). -/
def factorySkew : Ref := ⟨0x5A0002, .int 0⟩
/-- PROFILE_SEL, 0x4800:02, U8 (R151, Table 7.7). -/
def profileSel : Ref := ⟨0x480002, .int 0⟩
/-- ALIGN_ENABLE, 0x4800:03, BOOL (R151, Table 7.7). -/
def alignEnable : Ref := ⟨0x480003, .int 1⟩
/-- DCB_ENABLE, 0x4800:04, BOOL (R151, Table 7.7). -/
def dcbEnable : Ref := ⟨0x480004, .int 0⟩
/-- DCB_K, 0x4800:05, U8 (R151, Table 7.7). -/
def dcbK : Ref := ⟨0x480005, .int 16⟩
/-- DCB_FREEZE, 0x4800:06, BOOL (R151, Table 7.7). -/
def dcbFreeze : Ref := ⟨0x480006, .int 0⟩
/-- OUT_GAIN, 0x4800:07, Q22 (R151, Table 7.7). -/
def outGain : Ref := ⟨0x480007, .int 4194304⟩
/-- OUT_ROUND, 0x4800:08, U8 (R151, Table 7.7). -/
def outRound : Ref := ⟨0x480008, .int 0⟩
/-- SYNC_ENABLE, 0x4800:09, BOOL (R151, Table 7.7). -/
def syncEnable : Ref := ⟨0x480009, .int 0⟩
/-- DRAFT_CLEAR, 0x4800:0A, U8 (R151, Table 7.7). -/
def draftClear : Ref := ⟨0x48000A, .int 0⟩
/-- DRAFT_STATE, 0x4800:0B, U8 (R151, Table 7.7). -/
def draftState : Ref := ⟨0x48000B, .int 0⟩
/-- OUT_INTERVAL, 0x4800:0C, U64 (R151, Table 7.7). -/
def outInterval : Ref := ⟨0x48000C, .int 0⟩
/-- PLAN_EFFECTIVE, 0x4800:0D, GTIME (R151, Table 7.7). -/
def planEffective : Ref := ⟨0x48000D, .int 0⟩
/-- SETTLE_END, 0x4800:0E, GTIME (R151, Table 7.7). -/
def settleEnd : Ref := ⟨0x48000E, .int 0⟩
/-- CLIP_COUNT, 0x4800:0F, U32 (R151, Table 7.7). -/
def clipCount : Ref := ⟨0x48000F, .int 0⟩
/-- MAC_COST, 0x4800:10, U32 (R151, Table 7.7). -/
def macCost : Ref := ⟨0x480010, .int 0⟩
/-- SYNC_CMD, 0x4800:40, U8 (R151, Table 7.8). -/
def syncCmd : Ref := ⟨0x480040, .int 0⟩
/-- SYNC_ANCHOR, 0x4800:41, U8 (R151, Table 7.8). -/
def syncAnchor : Ref := ⟨0x480041, .int 0⟩
/-- SYNC_CLEAR, 0x4800:42, BOOL (R151, Table 7.8). -/
def syncClear : Ref := ⟨0x480042, .int 0⟩
/-- SYNC_PIN_ENABLE, 0x4800:43, BOOL (R151, Table 7.8). -/
def syncPinEnable : Ref := ⟨0x480043, .int 0⟩
/-- SYNC_LAST, 0x4800:44, GTIME (R151, Table 7.8). -/
def syncLast : Ref := ⟨0x480044, .int 0⟩
/-- T_ANCHOR, 0x4800:45, GTIME (R151, Table 7.8). -/
def tAnchor : Ref := ⟨0x480045, .int 0⟩
/-- UNIT_LOAD_0 to UNIT_LOAD_15, 0x4800:50 to 0x4800:5F, U32 (R151, Table 7.8). -/
def unitLoad : Ref := ⟨0x480050, .int 0⟩
/-- PROFILE, 0x4A00:01, DOMAIN (R151, Table 7.9). -/
def profile : Ref := ⟨0x4A0001, .bytes []⟩
/-- PROFILE_M, 0x4A00:02, U32 (R151, Table 7.9). -/
def profileM : Ref := ⟨0x4A0002, .int 1⟩
/-- GD_DC, 0x4A00:03, U32 (R151, Table 7.9). -/
def gdDc : Ref := ⟨0x4A0003, .int 0⟩
/-- GD_SPREAD, 0x4A00:04, U32 (R151, Table 7.9). -/
def gdSpread : Ref := ⟨0x4A0004, .int 0⟩
/-- SETTLE_LEN, 0x4A00:05, U32 (R151, Table 7.9). -/
def settleLen : Ref := ⟨0x4A0005, .int 0⟩
/-- PROFILE_USERS, 0x4A00:06, U16 (R151, Table 7.9). -/
def profileUsers : Ref := ⟨0x4A0006, .int 0⟩
/-- GRID_TIME, 0x3000:01, GTIME (R184, Table 9.10). -/
def gridTime : Ref := ⟨0x300001, .int 0⟩
/-- GRID_STATE, 0x3000:02, U8 (R184, Table 9.10). -/
def gridState : Ref := ⟨0x300002, .int 0⟩
/-- SOURCE_MODE, 0x3000:03, U8 (R184, Table 9.10). -/
def sourceMode : Ref := ⟨0x300003, .int 0⟩
/-- VOTE_OUTCOME, 0x3000:04, U8 (R184, Table 9.10). -/
def voteOutcome : Ref := ⟨0x300004, .int 0⟩
/-- VOTE_SET, 0x3000:05, U8 (R184, Table 9.10). -/
def voteSet : Ref := ⟨0x300005, .int 0⟩
/-- VOTE_THRESHOLD, 0x3000:06, U32 (R184, Table 9.10). -/
def voteThreshold : Ref := ⟨0x300006, .int 100⟩
/-- START_WAIT, 0x3000:07, U32 (R184, Table 9.10). -/
def startWait : Ref := ⟨0x300007, .int 1000⟩
/-- GRID_ERROR, 0x3000:08, I32 (R184, Table 9.10). -/
def gridError : Ref := ⟨0x300008, .int 0⟩
/-- SLEW_REMAINING, 0x3000:09, U32 (R184, Table 9.10). -/
def slewRemaining : Ref := ⟨0x300009, .int 0⟩
/-- TIME_EPOCH, 0x3000:0A, U16 (R184, Table 9.10). -/
def timeEpoch : Ref := ⟨0x30000A, .int 0⟩
/-- REEPOCH, 0x3000:0B, U8 (R184, Table 9.10). -/
def reepoch : Ref := ⟨0x30000B, .int 0⟩
/-- EPOCH_START, 0x3000:0C, GTIME (R184, Table 9.10). -/
def epochStart : Ref := ⟨0x30000C, .int 0⟩
/-- TAI_UTC_OFFSET, 0x3000:0D, I16 (R184, Table 9.10). -/
def taiUtcOffset : Ref := ⟨0x30000D, .int 37⟩
/-- TIMEQ_FRAMES, 0x3000:0E, U32 (R184, Table 9.10). -/
def timeqFrames : Ref := ⟨0x30000E, .int 0⟩
/-- NOMAJ_COUNT, 0x3000:0F, U32 (R184, Table 9.10). -/
def nomajCount : Ref := ⟨0x30000F, .int 0⟩
/-- SLEEP_OSC_A, 0x3000:10, BOOL (R184, Table 9.10). -/
def sleepOscA : Ref := ⟨0x300010, .int 0⟩
/-- PPS_OUT_ENABLE, 0x3000:11, BOOL (R184, Table 9.10). -/
def ppsOutEnable : Ref := ⟨0x300011, .int 0⟩
/-- PPS_IN_DELAY, 0x3000:12, I32 (R184, Table 9.10). -/
def ppsInDelay : Ref := ⟨0x300012, .int 0⟩
/-- TOD_BAUD, 0x3000:13, U32 (R184, Table 9.10). -/
def todBaud : Ref := ⟨0x300013, .int 9600⟩
/-- PPS_STATE, 0x3000:14, U8 (R184, Table 9.10). -/
def ppsState : Ref := ⟨0x300014, .int 0⟩
/-- SRC_MAP, 0x3001:01, U8 (R184, Table 9.11). -/
def srcMap : Ref := ⟨0x300101, .int 0⟩
/-- SYNTONISE, 0x3001:02, BOOL (R184, Table 9.11). -/
def syntonise : Ref := ⟨0x300102, .int 1⟩
/-- STRAND_STATE, 0x3001:03, U8 (R184, Table 9.11). -/
def strandState : Ref := ⟨0x300103, .int 0⟩
/-- STRAND_OFFSET, 0x3001:04, I32 (R184, Table 9.11). -/
def strandOffset : Ref := ⟨0x300104, .int 0⟩
/-- SOURCE_ERROR, 0x3001:05, I32 (R184, Table 9.11). -/
def sourceError : Ref := ⟨0x300105, .int 0⟩
/-- RATE_CORR, 0x3001:06, I32 (R184, Table 9.11). -/
def rateCorr : Ref := ⟨0x300106, .int 0⟩
/-- OSC_FREQ, 0x3001:07, U32 (R184, Table 9.11). -/
def oscFreq : Ref := ⟨0x300107, .int 0⟩
/-- FIRST_LOCK, 0x3001:08, GTIME (R184, Table 9.11). -/
def firstLock : Ref := ⟨0x300108, .int 0⟩
/-- HOLDOVER_START, 0x3001:09, GTIME (R184, Table 9.11). -/
def holdoverStart : Ref := ⟨0x300109, .int 0⟩
/-- EXCLUDED_COUNT, 0x3001:0A, U32 (R184, Table 9.11). -/
def excludedCount : Ref := ⟨0x30010A, .int 0⟩
/-- DOMAIN, 0x3100:01, U8 (R206, Table 10.9). -/
def ptpDomain : Ref := ⟨0x310001, .int 0⟩
/-- CLOCK_IDENTITY, 0x3100:02, U64 (R206, Table 10.9). -/
def clockIdentity : Ref := ⟨0x310002, .int 0⟩
/-- GM_ENABLE, 0x3100:03, BOOL (R206, Table 10.9). -/
def gmEnable : Ref := ⟨0x310003, .int 0⟩
/-- PRIORITY1, 0x3100:04, U8 (R206, Table 10.9). -/
def priority1 : Ref := ⟨0x310004, .int 128⟩
/-- PRIORITY2, 0x3100:05, U8 (R206, Table 10.9). -/
def priority2 : Ref := ⟨0x310005, .int 128⟩
/-- SYNC_LOG, 0x3100:06, I8 (R206, Table 10.9). -/
def syncLog : Ref := ⟨0x310006, .int (-6)⟩
/-- ANNOUNCE_LOG, 0x3100:07, I8 (R206, Table 10.9). -/
def announceLog : Ref := ⟨0x310007, .int 0⟩
/-- ANNOUNCE_TIMEOUT, 0x3100:08, U8 (R206, Table 10.9). -/
def announceTimeout : Ref := ⟨0x310008, .int 3⟩
/-- TWIN_DOMAIN, 0x3100:09, U8 (R206, Table 10.9). -/
def twinDomain : Ref := ⟨0x310009, .int 100⟩
/-- GM_IDENTITY, 0x3100:0A, U64 (R206, Table 10.9). -/
def gmIdentity : Ref := ⟨0x31000A, .int 0⟩
/-- GM_CLASS, 0x3100:0B, U8 (R206, Table 10.9). -/
def gmClass : Ref := ⟨0x31000B, .int 255⟩
/-- IS_GM, 0x3100:0C, BOOL (R206, Table 10.9). -/
def isGm : Ref := ⟨0x31000C, .int 0⟩
/-- DUP_DROP_COUNT, 0x3100:0D, U32 (R206, Table 10.9). -/
def dupDropCount : Ref := ⟨0x31000D, .int 0⟩
/-- PORT_ENABLE, 0x3101:01, BOOL (R206, Table 10.10).  The objects of port n lie at 0x3100 + n, so the keys of these fourteen
names are those of n = 0. -/
def portEnable : Ref := ⟨0x310001, .int 1⟩
/-- PORT_STATE, 0x3101:02, U8 (R206, Table 10.10). -/
def portState : Ref := ⟨0x310002, .int 3⟩
/-- PDELAY_LOG, 0x3101:03, I8 (R206, Table 10.10). -/
def pdelayLog : Ref := ⟨0x310003, .int 0⟩
/-- ASYM_0, 0x3101:04, I32 (R206, Table 10.10). -/
def asym0 : Ref := ⟨0x310004, .int 0⟩
/-- ASYM_1, 0x3101:05, I32 (R206, Table 10.10). -/
def asym1 : Ref := ⟨0x310005, .int 0⟩
/-- LINK_DELAY_0, 0x3101:06, I32 (R206, Table 10.10). -/
def linkDelay0 : Ref := ⟨0x310006, .int 0⟩
/-- LINK_DELAY_1, 0x3101:07, I32 (R206, Table 10.10). -/
def linkDelay1 : Ref := ⟨0x310007, .int 0⟩
/-- NEIGHBOR_RATE_0, 0x3101:08, I32 (R206, Table 10.10). -/
def neighborRate0 : Ref := ⟨0x310008, .int 0⟩
/-- NEIGHBOR_RATE_1, 0x3101:09, I32 (R206, Table 10.10). -/
def neighborRate1 : Ref := ⟨0x310009, .int 0⟩
/-- TIMING_LANE, 0x3101:0A, U8 (R206, Table 10.10). -/
def timingLane : Ref := ⟨0x31000A, .int 255⟩
/-- LAST_SYNC, 0x3101:0B, GTIME (R206, Table 10.10). -/
def lastSync : Ref := ⟨0x31000B, .int 0⟩
/-- SYNC_RX_COUNT, 0x3101:0C, U32 (R206, Table 10.10). -/
def syncRxCount : Ref := ⟨0x31000C, .int 0⟩
/-- PDELAY_OUTLIER_COUNT, 0x3101:0D, U32 (R206, Table 10.10). -/
def pdelayOutlierCount : Ref := ⟨0x31000D, .int 0⟩
/-- PTP_DISCARD_COUNT, 0x3101:0E, U32 (R206, Table 10.10). -/
def ptpDiscardCount : Ref := ⟨0x31000E, .int 0⟩
/-- TRUNK_CYCLE_ENABLE, 0x3200:01, BOOL (R206, Table 10.11). -/
def trunkCycleEnable : Ref := ⟨0x320001, .int 0⟩
/-- GUARD, 0x3200:02, U32 (R206, Table 10.11). -/
def guard : Ref := ⟨0x320002, .int 256⟩
/-- SCHEDULE_WEST, 0x3200:03, DOMAIN (R206, Table 10.11). -/
def scheduleWest : Ref := ⟨0x320003, .bytes []⟩
/-- SCHEDULE_EAST, 0x3200:04, DOMAIN (R206, Table 10.11). -/
def scheduleEast : Ref := ⟨0x320004, .bytes []⟩
/-- SCHEDULE_UPLINK, 0x3200:05, DOMAIN (R206, Table 10.11). -/
def scheduleUplink : Ref := ⟨0x320005, .bytes []⟩
/-- SCHED_EFFECTIVE, 0x3200:06, GTIME (R206, Table 10.11). -/
def schedEffective : Ref := ⟨0x320006, .int 0⟩
/-- LAUNCH_LATE_COUNT, 0x3200:07, U32 (R206, Table 10.11). -/
def launchLateCount : Ref := ⟨0x320007, .int 0⟩
/-- FORWARD_QUEUED_COUNT, 0x3200:08, U32 (R206, Table 10.11). -/
def forwardQueuedCount : Ref := ⟨0x320008, .int 0⟩
/-- COMP_THRESH, 0x4200:10, U16 (R227, Table 11.11). -/
def compThresh : Ref := ⟨0x420010, .int 512⟩
/-- COMP_HYST, 0x4200:11, U8 (R227, Table 11.11). -/
def compHyst : Ref := ⟨0x420011, .int 4⟩
/-- COMP_BLANK, 0x4200:12, BOOL (R227, Table 11.11). -/
def compBlank : Ref := ⟨0x420012, .int 1⟩
/-- COMP_MASKED, 0x4200:13, U32 (R227, Table 11.11). -/
def compMasked : Ref := ⟨0x420013, .int 0⟩
/-- TRIG_SOURCE, 0x5000:01, U8 (R227, Table 11.12). -/
def trigSource : Ref := ⟨0x500001, .int 0⟩
/-- TRIG_SELECT, 0x5000:02, U16 (R227, Table 11.12). -/
def trigSelect : Ref := ⟨0x500002, .int 0⟩
/-- TRIG_EDGE, 0x5000:03, U8 (R227, Table 11.12). -/
def trigEdge : Ref := ⟨0x500003, .int 1⟩
/-- CROSS_LEVEL, 0x5000:04, I32 (R227, Table 11.12). -/
def crossLevel : Ref := ⟨0x500004, .int 0⟩
/-- CROSS_HYST, 0x5000:05, U32 (R227, Table 11.12). -/
def crossHyst : Ref := ⟨0x500005, .int 0⟩
/-- TIME_START, 0x5000:06, GTIME (R227, Table 11.12). -/
def timeStart : Ref := ⟨0x500006, .int 0⟩
/-- TIME_PERIOD, 0x5000:07, U64 (R227, Table 11.12). -/
def timePeriod : Ref := ⟨0x500007, .int 0⟩
/-- COMBINE_WINDOW, 0x5000:08, U32 (R227, Table 11.12). -/
def combineWindow : Ref := ⟨0x500008, .int 6400⟩
/-- REMOTE_ID, 0x5000:09, U32 (R227, Table 11.12). -/
def remoteId : Ref := ⟨0x500009, .int 0⟩
/-- HOLDOFF, 0x5000:0A, U32 (R227, Table 11.12). -/
def holdoff : Ref := ⟨0x50000A, .int 1280⟩
/-- SEND_REMOTE, 0x5000:0B, BOOL (R227, Table 11.12). -/
def sendRemote : Ref := ⟨0x50000B, .int 0⟩
/-- LAST_TIME, 0x5000:0C, FTIME (R227, Table 11.12). -/
def lastTime : Ref := ⟨0x50000C, .int 0⟩
/-- FIRE_COUNT, 0x5000:0D, U32 (R227, Table 11.12). -/
def fireCount : Ref := ⟨0x50000D, .int 0⟩
/-- HOLDOFF_COUNT, 0x5000:0E, U32 (R227, Table 11.12). -/
def holdoffCount : Ref := ⟨0x50000E, .int 0⟩
/-- REEL_MODE, 0x5100:01, U8 (R227, Table 11.13). -/
def reelMode : Ref := ⟨0x510001, .int 0⟩
/-- REEL_CHANNELS, 0x5100:02, U32 (R227, Table 11.13). -/
def reelChannels : Ref := ⟨0x510002, .int 0⟩
/-- REEL_FORMAT, 0x5100:03, U8 (R227, Table 11.13). -/
def reelFormat : Ref := ⟨0x510003, .int 0⟩
/-- REEL_TRIGGER, 0x5100:04, U8 (R227, Table 11.13). -/
def reelTrigger : Ref := ⟨0x510004, .int 0⟩
/-- PRE_COUNT, 0x5100:05, U32 (R227, Table 11.13). -/
def preCount : Ref := ⟨0x510005, .int 0⟩
/-- POST_COUNT, 0x5100:06, U32 (R227, Table 11.13). -/
def postCount : Ref := ⟨0x510006, .int 1024⟩
/-- SEGMENTS, 0x5100:07, U8 (R227, Table 11.13). -/
def segments : Ref := ⟨0x510007, .int 1⟩
/-- REARM, 0x5100:08, U32 (R227, Table 11.13). -/
def rearm : Ref := ⟨0x510008, .int 1280⟩
/-- REEL_ALLOC, 0x5100:09, U16 (R227, Table 11.13). -/
def reelAlloc : Ref := ⟨0x510009, .int 0⟩
/-- REEL_ARM, 0x5100:0A, U8 (R227, Table 11.13). -/
def reelArm : Ref := ⟨0x51000A, .int 0⟩
/-- REEL_SEND, 0x5100:0B, BOOL (R227, Table 11.13). -/
def reelSend : Ref := ⟨0x51000B, .int 1⟩
/-- REEL_RELEASE, 0x5100:0C, U8 (R227, Table 11.13). -/
def reelRelease : Ref := ⟨0x51000C, .int 0⟩
/-- REEL_STATE, 0x5100:0D, U8 (R227, Table 11.13). -/
def reelState : Ref := ⟨0x51000D, .int 0⟩
/-- REEL_DATA, 0x5100:0E, DOMAIN (R227, Table 11.13). -/
def reelData : Ref := ⟨0x51000E, .bytes []⟩
/-- MISS_COUNT, 0x5100:0F, U32 (R227, Table 11.13). -/
def missCount : Ref := ⟨0x51000F, .int 0⟩
/-- MISS_LOG, 0x5100:10, DOMAIN (R227, Table 11.13). -/
def missLog : Ref := ⟨0x510010, .bytes []⟩
/-- CAPTURE_COUNT, 0x5100:11, U32 (R227, Table 11.13). -/
def captureCount : Ref := ⟨0x510011, .int 0⟩
/-- REARM_EFF, 0x5100:12, U32 (R227, Table 11.13). -/
def rearmEff : Ref := ⟨0x510012, .int 1280⟩
/-- MASK_MODE, 0x5400:01, U8 (R227, Table 11.14). -/
def maskMode : Ref := ⟨0x540001, .int 0⟩
/-- MASK_SPINDLE, 0x5400:02, U8 (R227, Table 11.14). -/
def maskSpindle : Ref := ⟨0x540002, .int 0⟩
/-- MASK_CHANNELS, 0x5400:03, U32 (R227, Table 11.14). -/
def maskChannels : Ref := ⟨0x540003, .int 0⟩
/-- MASK_TRIGGER, 0x5400:04, U8 (R227, Table 11.14). -/
def maskTrigger : Ref := ⟨0x540004, .int 0⟩
/-- MASK_INTERVAL, 0x5400:05, U32 (R227, Table 11.14). -/
def maskInterval : Ref := ⟨0x540005, .int 1000⟩
/-- MASK_UPPER, 0x5400:06, DOMAIN (R227, Table 11.14). -/
def maskUpper : Ref := ⟨0x540006, .bytes []⟩
/-- MASK_LOWER, 0x5400:07, DOMAIN (R227, Table 11.14). -/
def maskLower : Ref := ⟨0x540007, .bytes []⟩
/-- MASK_REEL, 0x5400:08, U8 (R227, Table 11.14). -/
def maskReel : Ref := ⟨0x540008, .int 255⟩
/-- MASK_TAIL, 0x5400:09, U32 (R227, Table 11.14). -/
def maskTail : Ref := ⟨0x540009, .int 1024⟩
/-- MASK_OUTPUT, 0x5400:0A, U8 (R227, Table 11.14). -/
def maskOutput : Ref := ⟨0x54000A, .int 0⟩
/-- MASK_PULSE, 0x5400:0B, U32 (R227, Table 11.14). -/
def maskPulse : Ref := ⟨0x54000B, .int 10000⟩
/-- MASK_VIOL_COUNT, 0x5400:0C, U32 (R227, Table 11.14). -/
def maskViolCount : Ref := ⟨0x54000C, .int 0⟩
/-- MASK_SKIPPED, 0x5400:0D, U32 (R227, Table 11.14). -/
def maskSkipped : Ref := ⟨0x54000D, .int 0⟩
/-- MASK_RETRIG, 0x5400:0E, U32 (R227, Table 11.14). -/
def maskRetrig : Ref := ⟨0x54000E, .int 0⟩
/-- LAST_SLUB, 0x5400:0F, DOMAIN (R227, Table 11.14). -/
def lastSlub : Ref := ⟨0x54000F, .bytes []⟩
/-- RED_PROFILE, 0x5200:01, DOMAIN (R246, Table 12.6). -/
def redProfile : Ref := ⟨0x520001, .bytes []⟩
/-- RED_USERS, 0x5200:02, U16 (R246, Table 12.6). -/
def redUsers : Ref := ⟨0x520002, .int 0⟩
/-- RED_WORD_COST, 0x5200:03, U16 (R246, Table 12.6). -/
def redWordCost : Ref := ⟨0x520003, .int 0⟩
/-- RED_RECORD_COST, 0x5200:04, U16 (R246, Table 12.6). -/
def redRecordCost : Ref := ⟨0x520004, .int 400⟩
/-- RED_SELECT, 0x4000:10, U8 (R246, Table 12.7). -/
def redSelect : Ref := ⟨0x400010, .int 255⟩
/-- RED_EFFECTIVE, 0x4000:11, GTIME (R246, Table 12.7). -/
def redEffective : Ref := ⟨0x400011, .int 0⟩
/-- RED_LAST, 0x4000:12, DOMAIN (R246, Table 12.7). -/
def redLast : Ref := ⟨0x400012, .bytes []⟩
/-- RED_RECOMPUTED_COUNT, 0x4000:13, U32 (R246, Table 12.7). -/
def redRecomputedCount : Ref := ⟨0x400013, .int 0⟩
/-- SPINDLE_LOAD, 0x52F0:01, U32 (R246, Table 12.8). -/
def spindleLoad : Ref := ⟨0x52F001, .int 0⟩
/-- SPINDLE_STATE, 0x52F0:02, U8 (R246, Table 12.8). -/
def spindleState : Ref := ⟨0x52F002, .int 0⟩
/-- FEED_TIMEOUT, 0x52F0:03, U16 (R246, Table 12.8). -/
def feedTimeout : Ref := ⟨0x52F003, .int 100⟩
/-- FEED_PARITY_COUNT, 0x52F0:04, U32 (R246, Table 12.8). -/
def feedParityCount : Ref := ⟨0x52F004, .int 0⟩
/-- FEED_RESYNC_COUNT, 0x52F0:05, U32 (R246, Table 12.8). -/
def feedResyncCount : Ref := ⟨0x52F005, .int 0⟩
/-- FEED_HIGH_WATER, 0x52F0:06, U16 (R246, Table 12.8). -/
def feedHighWater : Ref := ⟨0x52F006, .int 0⟩
/-- RECOMPUTE_BACKLOG, 0x52F0:07, U32 (R246, Table 12.8). -/
def recomputeBacklog : Ref := ⟨0x52F007, .int 0⟩
/-- RED_LOST_COUNT, 0x52F0:08, U32 (R246, Table 12.8). -/
def redLostCount : Ref := ⟨0x52F008, .int 0⟩
/-- BOBBIN_STORE, 0x2900:01, U32 (R266, Table 13.9). -/
def bobbinStore : Ref := ⟨0x290001, .int 0⟩
/-- TAIL_TIMEOUT, 0x2900:02, U16 (R266, Table 13.9). -/
def tailTimeout : Ref := ⟨0x290002, .int 10⟩
/-- STORE_HANKS_FREE, 0x2900:03, U32 (R266, Table 13.9). -/
def storeHanksFree : Ref := ⟨0x290003, .int 0⟩
/-- STORE_USABLE, 0x2900:04, U32 (R266, Table 13.9). -/
def storeUsable : Ref := ⟨0x290004, .int 0⟩
/-- GAP_TOTAL, 0x2900:05, U32 (R266, Table 13.9). -/
def gapTotal : Ref := ⟨0x290005, .int 0⟩
/-- WRITER_FAULT_COUNT, 0x2900:06, U32 (R266, Table 13.9). -/
def writerFaultCount : Ref := ⟨0x290006, .int 0⟩
/-- WINDOW_REQ, 0x2900:10, DOMAIN (R266, Table 13.9). -/
def windowReq : Ref := ⟨0x290010, .bytes []⟩
/-- WINDOW_DATA, 0x2900:11, DOMAIN (R266, Table 13.9). -/
def windowData : Ref := ⟨0x290011, .bytes []⟩
/-- WINDOW_STATE, 0x2900:12, U8 (R266, Table 13.9). -/
def windowState : Ref := ⟨0x290012, .int 0⟩
/-- BOBBIN_MODE, 0x4000:20, U8 (R266, Table 13.10). -/
def bobbinMode : Ref := ⟨0x400020, .int 0⟩
/-- BOBBIN_POLICY, 0x4000:21, U8 (R266, Table 13.10). -/
def bobbinPolicy : Ref := ⟨0x400021, .int 0⟩
/-- BOBBIN_HANKS, 0x4000:22, U32 (R266, Table 13.10). -/
def bobbinHanks : Ref := ⟨0x400022, .int 0⟩
/-- BOBBIN_DISCARD, 0x4000:23, U8 (R266, Table 13.10). -/
def bobbinDiscard : Ref := ⟨0x400023, .int 0⟩
/-- ACK_TIME, 0x4000:24, GTIME (R266, Table 13.10). -/
def ackTime : Ref := ⟨0x400024, .int 0⟩
/-- OLDEST_HELD, 0x4000:25, GTIME (R266, Table 13.10). -/
def oldestHeld : Ref := ⟨0x400025, .int 0⟩
/-- NEWEST_WRITTEN, 0x4000:26, GTIME (R266, Table 13.10). -/
def newestWritten : Ref := ⟨0x400026, .int 0⟩
/-- HANKS_UNDOFFED, 0x4000:27, U32 (R266, Table 13.10). -/
def hanksUndoffed : Ref := ⟨0x400027, .int 0⟩
/-- HANKS_DOFFED, 0x4000:28, U32 (R266, Table 13.10). -/
def hanksDoffed : Ref := ⟨0x400028, .int 0⟩
/-- RETENTION, 0x4000:29, U32 (R266, Table 13.10). -/
def retention : Ref := ⟨0x400029, .int 0⟩
/-- GAP_COUNT, 0x4000:2A, U32 (R266, Table 13.10). -/
def gapCount : Ref := ⟨0x40002A, .int 0⟩
/-- BOBBIN_STATE, 0x4000:2B, U8 (R266, Table 13.10). -/
def bobbinState : Ref := ⟨0x40002B, .int 0⟩
/-- DRAM_SPEED, 0x2800:01, U16 (R286, Table 14.12). -/
def dramSpeed : Ref := ⟨0x280001, .int 3200⟩
/-- DRAM_SPEED_ACTIVE, 0x2800:02, U16 (R286, Table 14.12). -/
def dramSpeedActive : Ref := ⟨0x280002, .int 0⟩
/-- GEOMETRY_NEXT, 0x2800:03, U32 (R286, Table 14.12). -/
def geometryNext : Ref := ⟨0x280003, .int 524552⟩
/-- GEOMETRY, 0x2800:04, U32 (R286, Table 14.12). -/
def geometry : Ref := ⟨0x280004, .int 0⟩
/-- GRAIN_NEXT, 0x2800:05, U8 (R286, Table 14.12). -/
def grainNext : Ref := ⟨0x280005, .int 14⟩
/-- GRAIN, 0x2800:06, U8 (R286, Table 14.12). -/
def grain : Ref := ⟨0x280006, .int 14⟩
/-- HASH_WINDOW_NEXT_0 to 3, 0x2800:08 to 0x2800:0B, DOMAIN (R286, Table 14.12). -/
def hashWindowNext : Ref := ⟨0x280008, .bytes []⟩
/-- HASH_WINDOW_0 to 3, 0x2800:0C to 0x2800:0F, DOMAIN (R286, Table 14.12). -/
def hashWindow : Ref := ⟨0x28000C, .bytes []⟩
/-- RT_BUDGET, 0x2800:10, U32 (R286, Table 14.12). -/
def rtBudget : Ref := ⟨0x280010, .int 0⟩
/-- TRUNK_READ_ALLOC, 0x2800:11, U32 (R286, Table 14.12). -/
def trunkReadAlloc : Ref := ⟨0x280011, .int 2500⟩
/-- RT_ALLOC_0 to 2, 0x2800:12 to 0x2800:14, U32 (R286, Table 14.12). -/
def rtAlloc : Ref := ⟨0x280012, .int 0⟩
/-- PANIC_LEVEL, 0x2800:15, U8 (R286, Table 14.12). -/
def panicLevel : Ref := ⟨0x280015, .int 50⟩
/-- PD_IDLE, 0x2800:16, U16 (R286, Table 14.12). -/
def pdIdle : Ref := ⟨0x280016, .int 64⟩
/-- PAGE_TIMER, 0x2800:17, U16 (R286, Table 14.12). -/
def pageTimer : Ref := ⟨0x280017, .int 128⟩
/-- SCRUB_PERIOD, 0x2800:18, U32 (R286, Table 14.12). -/
def scrubPeriod : Ref := ⟨0x280018, .int 86400⟩
/-- TEMP_SOURCE, 0x2800:19, U8 (R286, Table 14.12). -/
def tempSource : Ref := ⟨0x280019, .int 0⟩
/-- TEMP_PMBUS_ADDR, 0x2800:1A, U8 (R286, Table 14.12). -/
def tempPmbusAddr : Ref := ⟨0x28001A, .int 72⟩
/-- DRAM_TEMP, 0x2800:1B, I16 (R286, Table 14.12). -/
def dramTemp : Ref := ⟨0x28001B, .int 32767⟩
/-- DRAM_STATE, 0x2800:1C, U8 (R286, Table 14.12). -/
def dramState : Ref := ⟨0x28001C, .int 0⟩
/-- REF_BURST_COUNT, 0x2800:1D, U32 (R286, Table 14.12). -/
def refBurstCount : Ref := ⟨0x28001D, .int 0⟩
/-- CE_COUNT, 0x2800:1E, U32 (R286, Table 14.12). -/
def ceCount : Ref := ⟨0x28001E, .int 0⟩
/-- UE_COUNT, 0x2800:1F, U32 (R286, Table 14.12). -/
def ueCount : Ref := ⟨0x28001F, .int 0⟩
/-- LAST_UE_ADDR, 0x2800:20, U64 (R286, Table 14.12). -/
def lastUeAddr : Ref := ⟨0x280020, .int 18446744073709551615⟩
/-- SCRUB_PASS_END, 0x2800:21, GTIME (R286, Table 14.12). -/
def scrubPassEnd : Ref := ⟨0x280021, .int 0⟩
/-- WIPE_DONE, 0x2800:22, U32 (R286, Table 14.12). -/
def wipeDone : Ref := ⟨0x280022, .int 0⟩
/-- PORT_HINT_0 to 7, 0x2800:28 to 0x2800:2F, U8 (R286, Table 14.12). -/
def portHint : Ref := ⟨0x280028, .int 0⟩
/-- PORT_WEIGHT_0 to 7, 0x2800:30 to 0x2800:37, U8 (R286, Table 14.12). -/
def portWeight : Ref := ⟨0x280030, .int 0⟩
/-- PANIC_COUNT_0 to 2, 0x2800:38 to 0x2800:3A, U32 (R286, Table 14.12). -/
def panicCount : Ref := ⟨0x280038, .int 0⟩
/-- LANE_ADMIN, 0x3400:01, U8 (R308, Table 15.7). -/
def laneAdmin : Ref := ⟨0x340001, .int 1⟩
/-- LANE_ROLE, 0x3400:02, U8 (R308, Table 15.7). -/
def laneRole : Ref := ⟨0x340002, .int 0⟩
/-- MAX_SPEED, 0x3400:03, U8 (R308, Table 15.7). -/
def maxSpeed : Ref := ⟨0x340003, .int 3⟩
/-- SPEED, 0x3400:04, U8 (R308, Table 15.7). -/
def speed : Ref := ⟨0x340004, .int 255⟩
/-- LANE_STEP, 0x3400:05, U8 (R308, Table 15.7). -/
def laneStepObj : Ref := ⟨0x340005, .int 0⟩
/-- TAP_MODE, 0x3400:06, U8 (R308, Table 15.7). -/
def tapMode : Ref := ⟨0x340006, .int 0⟩
/-- TAP_FIXED, 0x3400:07, U32 (R308, Table 15.7). -/
def tapFixed : Ref := ⟨0x340007, .int 11466⟩
/-- TX_TAPS, 0x3400:08, U32 (R308, Table 15.7). -/
def txTaps : Ref := ⟨0x340008, .int 11466⟩
/-- TX_SWING, 0x3400:09, U16 (R308, Table 15.7). -/
def txSwing : Ref := ⟨0x340009, .int 800⟩
/-- LANE_POLARITY, 0x3400:0A, U8 (R308, Table 15.7). -/
def lanePolarity : Ref := ⟨0x34000A, .int 0⟩
/-- FOM_THRESHOLD, 0x3400:0B, U8 (R308, Table 15.7). -/
def fomThreshold : Ref := ⟨0x34000B, .int 96⟩
/-- FOM, 0x3400:0C, U8 (R308, Table 15.7). -/
def fom : Ref := ⟨0x34000C, .int 0⟩
/-- EYE, 0x3400:0D, U16 (R308, Table 15.7). -/
def eye : Ref := ⟨0x34000D, .int 0⟩
/-- CTLE_CODE, 0x3400:0E, U8 (R308, Table 15.7). -/
def ctleCode : Ref := ⟨0x34000E, .int 0⟩
/-- STEP_RETRY, 0x3400:0F, U16 (R308, Table 15.7). -/
def stepRetry : Ref := ⟨0x34000F, .int 60⟩
/-- PARTNER_MAC, 0x3400:10, U64 (R308, Table 15.7). -/
def partnerMac : Ref := ⟨0x340010, .int 0⟩
/-- LANE_STATE, 0x3400:11, U8 (R308, Table 15.7). -/
def laneState : Ref := ⟨0x340011, .int 0⟩
/-- LAST_LOCK, 0x3400:12, GTIME (R308, Table 15.7). -/
def lastLock : Ref := ⟨0x340012, .int 0⟩
/-- LOCK_LOSS_COUNT, 0x3400:13, U32 (R308, Table 15.7). -/
def lockLossCount : Ref := ⟨0x340013, .int 0⟩
/-- FALLBACK_COUNT, 0x3400:14, U32 (R308, Table 15.7). -/
def fallbackCount : Ref := ⟨0x340014, .int 0⟩
/-- STEP_DOWN_COUNT, 0x3400:15, U32 (R308, Table 15.7). -/
def stepDownCount : Ref := ⟨0x340015, .int 0⟩
/-- RX_FRAME_ERR_COUNT, 0x3400:16, U32 (R308, Table 15.7). -/
def rxFrameErrCount : Ref := ⟨0x340016, .int 0⟩
/-- RX_OTHER_COUNT, 0x3400:17, U32 (R308, Table 15.7). -/
def rxOtherCount : Ref := ⟨0x340017, .int 0⟩
/-- REORDER_SKIP_COUNT, 0x3400:18, U32 (R308, Table 15.7). -/
def reorderSkipCount : Ref := ⟨0x340018, .int 0⟩
/-- LANE_TEST, 0x3400:19, U8 (R308, Table 15.7). -/
def laneTest : Ref := ⟨0x340019, .int 0⟩
/-- TEST_SPEED, 0x3400:1A, U8 (R308, Table 15.7). -/
def testSpeed : Ref := ⟨0x34001A, .int 0⟩
/-- TEST_ERR_COUNT, 0x3400:1B, U32 (R308, Table 15.7). -/
def testErrCount : Ref := ⟨0x34001B, .int 0⟩
/-- TEST_BITS, 0x3400:1C, U64 (R308, Table 15.7). -/
def testBits : Ref := ⟨0x34001C, .int 0⟩
/-- LOOP_PERMIT, 0x3400:1D, BOOL (R308, Table 15.7). -/
def loopPermit : Ref := ⟨0x34001D, .int 0⟩
/-- TAP_SOURCE, 0x3400:20, U8 (R308, Table 15.7). -/
def tapSource : Ref := ⟨0x340020, .int 0⟩
/-- TAP_SPEED, 0x3400:21, U8 (R308, Table 15.7). -/
def tapSpeed : Ref := ⟨0x340021, .int 3⟩
/-- TAP_DROP_COUNT, 0x3400:22, U32 (R308, Table 15.7). -/
def tapDropCount : Ref := ⟨0x340022, .int 0⟩
/-- HUB_ID, 0x3800:01, U16 (R332, Table 16.13). -/
def hubId : Ref := ⟨0x380001, .int 65535⟩
/-- HUB_ID_NEXT, 0x3800:02, U16 (R332, Table 16.13). -/
def hubIdNext : Ref := ⟨0x380002, .int 65535⟩
/-- ETHERTYPE_NEXT, 0x3800:03, U16 (R332, Table 16.13). -/
def ethertypeNext : Ref := ⟨0x380003, .int 34997⟩
/-- ETHERTYPE, 0x3800:04, U16 (R332, Table 16.13). -/
def ethertype : Ref := ⟨0x380004, .int 34997⟩
/-- ROOT_ID, 0x3800:05, U16 (R332, Table 16.13). -/
def rootId : Ref := ⟨0x380005, .int 65535⟩
/-- ROOT_PORT, 0x3800:06, U8 (R332, Table 16.13). -/
def rootPort : Ref := ⟨0x380006, .int 1⟩
/-- HOPS_INIT, 0x3800:07, U16 (R332, Table 16.13). -/
def hopsInit : Ref := ⟨0x380007, .int 512⟩
/-- SKEIN_WORDS, 0x3800:08, U16 (R332, Table 16.13). -/
def skeinWords : Ref := ⟨0x380008, .int 256⟩
/-- SKEIN_AGE, 0x3800:09, U16 (R332, Table 16.13). -/
def skeinAge : Ref := ⟨0x380009, .int 10⟩
/-- CT_THRESHOLD, 0x3800:0A, U16 (R332, Table 16.13). -/
def ctThreshold : Ref := ⟨0x38000A, .int 256⟩
/-- STORE_FWD_FORCE, 0x3800:0B, U8 (R332, Table 16.13). -/
def storeFwdForce : Ref := ⟨0x38000B, .int 0⟩
/-- SUMMARY_INTERVAL, 0x3800:0C, U32 (R332, Table 16.13). -/
def summaryInterval : Ref := ⟨0x38000C, .int 1000⟩
/-- EVENT_SEND, 0x3800:0D, BOOL (R332, Table 16.13). -/
def eventSend : Ref := ⟨0x38000D, .int 1⟩
/-- LIVE_DEMAND, 0x3800:0E, U32 (R332, Table 16.13). -/
def liveDemand : Ref := ⟨0x38000E, .int 0⟩
/-- LIVE_CAPACITY, 0x3800:0F, U32 (R332, Table 16.13). -/
def liveCapacity : Ref := ⟨0x38000F, .int 0⟩
/-- VIOLATION_COUNT, 0x3800:10, U32 (R332, Table 16.13). -/
def violationCount : Ref := ⟨0x380010, .int 0⟩
/-- NAK_SUPPRESSED_COUNT, 0x3800:11, U32 (R332, Table 16.13). -/
def nakSuppressedCount : Ref := ⟨0x380011, .int 0⟩
/-- BUSY_COUNT, 0x3800:12, U32 (R332, Table 16.13). -/
def busyCount : Ref := ⟨0x380012, .int 0⟩
/-- HOP_DROP_COUNT, 0x3800:13, U32 (R332, Table 16.13). -/
def hopDropCount : Ref := ⟨0x380013, .int 0⟩
/-- LOOP_RX_COUNT, 0x3800:14, U32 (R332, Table 16.13). -/
def loopRxCount : Ref := ⟨0x380014, .int 0⟩
/-- FWD_DROP_COUNT, 0x3800:15, U32 (R332, Table 16.13). -/
def fwdDropCount : Ref := ⟨0x380015, .int 0⟩
/-- FWD_TT_DROP_COUNT, 0x3800:16, U32 (R332, Table 16.13). -/
def fwdTtDropCount : Ref := ⟨0x380016, .int 0⟩
/-- FWD_ABORT_COUNT, 0x3800:17, U32 (R332, Table 16.13). -/
def fwdAbortCount : Ref := ⟨0x380017, .int 0⟩
/-- UNDERRUN_COUNT, 0x3800:18, U32 (R332, Table 16.13). -/
def underrunCount : Ref := ⟨0x380018, .int 0⟩
/-- WINDOW_OVERRUN_COUNT, 0x3800:19, U32 (R332, Table 16.13). -/
def windowOverrunCount : Ref := ⟨0x380019, .int 0⟩
/-- MGMT_QUEUED, 0x3800:1A, U8 (R332, Table 16.13). -/
def mgmtQueued : Ref := ⟨0x38001A, .int 0⟩
/-- REQ_QUEUED, 0x3800:1B, U8 (R332, Table 16.13). -/
def reqQueued : Ref := ⟨0x38001B, .int 0⟩
/-- MGMT_STRAY_COUNT, 0x3800:1C, U32 (R332, Table 16.13). -/
def mgmtStrayCount : Ref := ⟨0x38001C, .int 0⟩
/-- LIVE_SENT_TO, 0x4000:30, GTIME (R332, Table 16.13). -/
def liveSentTo : Ref := ⟨0x400030, .int 0⟩
/-- LIVE_SEQ, 0x4000:31, U32 (R332, Table 16.13). -/
def liveSeq : Ref := ⟨0x400031, .int 0⟩
/-- VENDOR, 0x1000:01, STRING (R351, Table 17.8). -/
def vendor : Ref := ⟨0x100001, .bytes [82#8, 121#8, 117#8, 115#8, 116#8, 97#8, 32#8, 68#8, 101#8, 118#8, 105#8, 99#8, 101#8, 115#8]⟩
/-- DEVICE, 0x1000:02, STRING (R351, Table 17.8). -/
def device : Ref := ⟨0x100002, .bytes [90#8, 72#8, 53#8, 49#8, 50#8]⟩
/-- SILICON_REV, 0x1000:03, U16 (R351, Table 17.8). -/
def siliconRev : Ref := ⟨0x100003, .int 0⟩
/-- SERIAL, 0x1000:04, U64 (R351, Table 17.8). -/
def serial : Ref := ⟨0x100004, .int 0⟩
/-- BASE_MAC, 0x1000:05, U64 (R351, Table 17.8). -/
def baseMac : Ref := ⟨0x100005, .int 0⟩
/-- DICT_VERSION, 0x1000:06, U16 (R351, Table 17.8). -/
def dictVersion : Ref := ⟨0x100006, .int 1⟩
/-- HUB_STATUS, 0x1100:01, U8 (R351, Table 17.9). -/
def hubStatus : Ref := ⟨0x110001, .int 0⟩
/-- BOOT_COUNT, 0x1100:02, U32 (R351, Table 17.9). -/
def bootCount : Ref := ⟨0x110002, .int 0⟩
/-- RESTART_COUNT, 0x1100:03, U32 (R351, Table 17.9). -/
def restartCount : Ref := ⟨0x110003, .int 0⟩
/-- READY_TIME, 0x1100:04, GTIME (R351, Table 17.9). -/
def readyTime : Ref := ⟨0x110004, .int 0⟩
/-- EVENT_NEXT_SEQ, 0x1100:05, U32 (R351, Table 17.9). -/
def eventNextSeq : Ref := ⟨0x110005, .int 0⟩
/-- EVENT_LOG, 0x1100:06, DOMAIN (R351, Table 17.9). -/
def eventLog : Ref := ⟨0x110006, .bytes []⟩
/-- EVENT_OVERWRITTEN, 0x1100:07, U32 (R351, Table 17.9). -/
def eventOverwritten : Ref := ⟨0x110007, .int 0⟩
/-- VIOLATION_LOG, 0x1100:08, DOMAIN (R351, Table 17.9). -/
def violationLog : Ref := ⟨0x110008, .bytes []⟩
/-- STORE, 0x1200:01, U8 (R351, Table 17.12). -/
def store : Ref := ⟨0x120001, .int 0⟩
/-- RESTORE_DEFAULTS, 0x1200:02, U8 (R351, Table 17.12). -/
def restoreDefaults : Ref := ⟨0x120002, .int 0⟩
/-- STORE_STATE, 0x1200:03, U8 (R351, Table 17.12). -/
def storeState : Ref := ⟨0x120003, .int 0⟩
/-- STORE_TIME, 0x1200:04, GTIME (R351, Table 17.12). -/
def storeTime : Ref := ⟨0x120004, .int 0⟩
/-- PENDING_COUNT, 0x1200:05, U16 (R351, Table 17.12). -/
def pendingCount : Ref := ⟨0x120005, .int 0⟩
/-- PENDING_LIST, 0x1200:06, DOMAIN (R351, Table 17.12). -/
def pendingList : Ref := ⟨0x120006, .bytes []⟩
/-- SESSION_IDLE, 0x1200:07, U16 (R351, Table 17.12). -/
def sessionIdle : Ref := ⟨0x120007, .int 600⟩
/-- SESSION_COUNT, 0x1200:08, U8 (R351, Table 17.12). -/
def sessionCount : Ref := ⟨0x120008, .int 0⟩
/-- COUNTER_SNAPSHOT, 0x7000:01, DOMAIN (R351, Table 17.12). -/
def counterSnapshot : Ref := ⟨0x700001, .bytes []⟩
/-- TWIN_ENABLE, 0x2200:01, BOOL (R368, Table 18.4). -/
def twinEnable : Ref := ⟨0x220001, .int 0⟩
/-- TWIN_PRIORITY, 0x2200:02, U8 (R368, Table 18.4). -/
def twinPriority : Ref := ⟨0x220002, .int 32⟩
/-- HB_TIMEOUT, 0x2200:03, U16 (R368, Table 18.4). -/
def hbTimeout : Ref := ⟨0x220003, .int 5⟩
/-- SWITCH_OVER, 0x2200:04, U8 (R368, Table 18.4). -/
def switchOver : Ref := ⟨0x220004, .int 0⟩
/-- STANDBY_HOLD, 0x2200:05, U32 (R368, Table 18.4). -/
def standbyHold : Ref := ⟨0x220005, .int 600⟩
/-- PARTNER_HUB_ID, 0x2200:06, U16 (R368, Table 18.4). -/
def partnerHubId : Ref := ⟨0x220006, .int 65535⟩
/-- TWIN_STATE, 0x2200:07, U8 (R368, Table 18.4). -/
def twinState : Ref := ⟨0x220007, .int 0⟩
/-- CLAIM_OWN, 0x2200:08, U8 (R368, Table 18.4). -/
def claimOwn : Ref := ⟨0x220008, .int 0⟩
/-- CLAIM_PARTNER, 0x2200:09, U8 (R368, Table 18.4). -/
def claimPartner : Ref := ⟨0x220009, .int 0⟩
/-- TWIN_ID, 0x2200:0A, U8 (R368, Table 18.4). -/
def twinId : Ref := ⟨0x22000A, .int 0⟩
/-- TAKEOVER_TIME, 0x2200:0B, GTIME (R368, Table 18.4). -/
def takeoverTime : Ref := ⟨0x22000B, .int 0⟩
/-- TAKEOVER_COUNT, 0x2200:0C, U32 (R368, Table 18.4). -/
def takeoverCount : Ref := ⟨0x22000C, .int 0⟩
/-- SWITCH_COUNT, 0x2200:0D, U32 (R368, Table 18.4). -/
def switchCount : Ref := ⟨0x22000D, .int 0⟩
/-- PARTNER_EPOCH, 0x2200:0E, U32 (R368, Table 18.4). -/
def partnerEpoch : Ref := ⟨0x22000E, .int 0⟩
/-- CLAIM_ERR_COUNT, 0x2200:0F, U32 (R368, Table 18.4). -/
def claimErrCount : Ref := ⟨0x22000F, .int 0⟩
/-- ROOT_ROLE, 0x6000:01, U8 (R386, Table 19.5). -/
def rootRole : Ref := ⟨0x600001, .int 0⟩
/-- ROOT_ROLE_NEXT, 0x6000:02, U8 (R386, Table 19.5). -/
def rootRoleNext : Ref := ⟨0x600002, .int 0⟩
/-- SEGMENT_HUBS, 0x6000:03, U16 (R386, Table 19.5). -/
def segmentHubs : Ref := ⟨0x600003, .int 0⟩
/-- ROOT_TWINS, 0x6000:04, DOMAIN (R386, Table 19.5). -/
def rootTwins : Ref := ⟨0x600004, .bytes []⟩
/-- RELAY_ACK, 0x6000:05, DOMAIN (R386, Table 19.5). -/
def relayAck : Ref := ⟨0x600005, .bytes []⟩
/-- STALE_AGE, 0x6000:06, U16 (R386, Table 19.5). -/
def staleAge : Ref := ⟨0x600006, .int 5⟩
/-- SUMMARY_OLD_COUNT, 0x6000:07, U32 (R386, Table 19.5). -/
def summaryOldCount : Ref := ⟨0x600007, .int 0⟩
/-- FED_ROOTS, 0x6000:08, DOMAIN (R386, Table 19.5). -/
def fedRoots : Ref := ⟨0x600008, .bytes []⟩
/-- FED_INTERVAL, 0x6000:09, U32 (R386, Table 19.5). -/
def fedInterval : Ref := ⟨0x600009, .int 1000⟩
/-- DIR_QUERY, 0x6000:10, DOMAIN (R386, Table 19.5). -/
def dirQuery : Ref := ⟨0x600010, .bytes []⟩
/-- DIR_RESULT, 0x6000:11, DOMAIN (R386, Table 19.5). -/
def dirResult : Ref := ⟨0x600011, .bytes []⟩
/-- DIR_STATE, 0x6000:12, U8 (R386, Table 19.5). -/
def dirState : Ref := ⟨0x600012, .int 0⟩
/-- RETRO_JOB, 0x6000:20, DOMAIN (R386, Table 19.5). -/
def retroJob : Ref := ⟨0x600020, .bytes []⟩
/-- RETRO_DEST, 0x6000:21, U16 (R386, Table 19.5). -/
def retroDest : Ref := ⟨0x600021, .int 65535⟩
/-- RETRO_SLICE, 0x6000:22, U32 (R386, Table 19.5). -/
def retroSlice : Ref := ⟨0x600022, .int 64000000⟩
/-- RETRO_TIMEOUT, 0x6000:23, U16 (R386, Table 19.5). -/
def retroTimeout : Ref := ⟨0x600023, .int 2000⟩
/-- RETRO_STATE, 0x6000:24, U8 (R386, Table 19.5). -/
def retroState : Ref := ⟨0x600024, .int 0⟩
/-- RETRO_SENT, 0x6000:25, U64 (R386, Table 19.5). -/
def retroSent : Ref := ⟨0x600025, .int 0⟩
/-- ACT_JOB, 0x6000:30, DOMAIN (R386, Table 19.5). -/
def actJob : Ref := ⟨0x600030, .bytes []⟩
/-- ACT_MARGIN, 0x6000:31, U32 (R386, Table 19.5). -/
def actMargin : Ref := ⟨0x600031, .int 10000⟩
/-- ACT_RESULT, 0x6000:32, DOMAIN (R386, Table 19.5). -/
def actResult : Ref := ⟨0x600032, .bytes []⟩
/-- MB_STATE, 0x2400:01, U8 (R400, Table 20.10). -/
def mbState : Ref := ⟨0x240001, .int 0⟩
/-- HOST_EPOCH, 0x2400:02, U8 (R400, Table 20.10). -/
def hostEpoch : Ref := ⟨0x240002, .int 0⟩
/-- COLLISION_COUNT, 0x2400:03, U32 (R400, Table 20.10). -/
def collisionCount : Ref := ⟨0x240003, .int 0⟩
/-- DISCARD_COUNT, 0x2400:04, U32 (R400, Table 20.10). -/
def discardCount : Ref := ⟨0x240004, .int 0⟩
/-- CROSSED_COUNT, 0x2400:05, U32 (R400, Table 20.10). -/
def crossedCount : Ref := ⟨0x240005, .int 0⟩
/-- FRAG_ERR_COUNT, 0x2400:06, U32 (R400, Table 20.10). -/
def fragErrCount : Ref := ⟨0x240006, .int 0⟩
/-- WRONG_PAGE_COUNT, 0x2400:07, U32 (R400, Table 20.10). -/
def wrongPageCount : Ref := ⟨0x240007, .int 0⟩
/-- LC_STATE, 0x1400:01, U8 (R416, Table 21.12). -/
def lcState : Ref := ⟨0x140001, .int 0⟩
/-- LC_REQUEST, 0x1400:02, U16 (R416, Table 21.12). -/
def lcRequest : Ref := ⟨0x140002, .int 0⟩
/-- KEY_HASH_0, 0x1400:03, DOMAIN (R416, Table 21.12). -/
def keyHash0 : Ref := ⟨0x140003, .bytes []⟩
/-- KEY_HASH_1, 0x1400:04, DOMAIN (R416, Table 21.12). -/
def keyHash1 : Ref := ⟨0x140004, .bytes []⟩
/-- KEY_STATE, 0x1400:05, U8 (R416, Table 21.12). -/
def keyState : Ref := ⟨0x140005, .int 0⟩
/-- REVOKE_KEY, 0x1400:06, U8 (R416, Table 21.12). -/
def revokeKey : Ref := ⟨0x140006, .int 0⟩
/-- K_ROOT, 0x1400:07, DOMAIN (R416, Table 21.12). -/
def kRoot : Ref := ⟨0x140007, .bytes []⟩
/-- K_SHOST, 0x1400:08, DOMAIN (R416, Table 21.12). -/
def kShost : Ref := ⟨0x140008, .bytes []⟩
/-- JTAG_DEBUG, 0x1400:09, BOOL (R416, Table 21.12). -/
def jtagDebug : Ref := ⟨0x140009, .int 0⟩
/-- LC_CHANGE_COUNT, 0x1400:0A, U32 (R416, Table 21.12). -/
def lcChangeCount : Ref := ⟨0x14000A, .int 0⟩
/-- UPD_MANIFEST, 0x1800:01, DOMAIN (R416, Table 21.13). -/
def updManifest : Ref := ⟨0x180001, .bytes []⟩
/-- UPD_PAYLOAD, 0x1800:02, DOMAIN (R416, Table 21.13). -/
def updPayload : Ref := ⟨0x180002, .bytes []⟩
/-- UPD_STATE, 0x1800:03, U8 (R416, Table 21.13). -/
def updState : Ref := ⟨0x180003, .int 0⟩
/-- UPD_PROGRESS, 0x1800:04, U32 (R416, Table 21.13). -/
def updProgress : Ref := ⟨0x180004, .int 0⟩
/-- UPD_ACTIVATE, 0x1800:05, U8 (R416, Table 21.13). -/
def updActivate : Ref := ⟨0x180005, .int 0⟩
/-- UPD_CONFIRM, 0x1800:06, U8 (R416, Table 21.13). -/
def updConfirm : Ref := ⟨0x180006, .int 0⟩
/-- UPD_REJECT, 0x1800:07, U8 (R416, Table 21.13). -/
def updReject : Ref := ⟨0x180007, .int 0⟩
/-- TRIAL_WINDOW, 0x1800:08, U16 (R416, Table 21.13). -/
def trialWindow : Ref := ⟨0x180008, .int 300⟩
/-- HEALTH_HOLD, 0x1800:09, U16 (R416, Table 21.13). -/
def healthHold : Ref := ⟨0x180009, .int 60⟩
/-- SLOT_ACTIVE, 0x1800:0A, U8 (R416, Table 21.13). -/
def slotActive : Ref := ⟨0x18000A, .int 0⟩
/-- SLOT_INFO, 0x1800:0B, DOMAIN (R416, Table 21.13). -/
def slotInfo : Ref := ⟨0x18000B, .bytes []⟩
/-- ACT_TIME, 0x1800:0C, GTIME (R416, Table 21.13). -/
def actTime : Ref := ⟨0x18000C, .int 0⟩
/-- TRIAL_END, 0x1800:0D, GTIME (R416, Table 21.13). -/
def trialEnd : Ref := ⟨0x18000D, .int 0⟩
/-- ROLLBACK_COUNT, 0x1800:0E, U32 (R416, Table 21.13). -/
def rollbackCount : Ref := ⟨0x18000E, .int 0⟩
/-- UPD_ABORT, 0x1800:0F, U8 (R416, Table 21.13). -/
def updAbort : Ref := ⟨0x18000F, .int 0⟩
/-- SUPPLY_STATE, 0x2000:01, U8 (R434, Table 22.8). -/
def supplyState : Ref := ⟨0x200001, .int 0⟩
/-- VIN, 0x2000:02, U32 (R434, Table 22.8). -/
def vin : Ref := ⟨0x200002, .int 0⟩
/-- VEXC, 0x2000:03, U32 (R434, Table 22.8). -/
def vexc : Ref := ⟨0x200003, .int 0⟩
/-- VEXC_MAX, 0x2000:04, U32 (R434, Table 22.8). -/
def vexcMax : Ref := ⟨0x200004, .int 12000⟩
/-- LAST_RESET_CAUSE, 0x2000:05, U8 (R434, Table 22.8). -/
def lastResetCause : Ref := ⟨0x200005, .int 0⟩
/-- PMBUS_DEVICES, 0x2000:06, DOMAIN (R434, Table 22.8). -/
def pmbusDevices : Ref := ⟨0x200006, .bytes []⟩
/-- PMBUS_SPEED, 0x2000:07, U8 (R434, Table 22.8). -/
def pmbusSpeed : Ref := ⟨0x200007, .int 0⟩
/-- PMBUS_PEC, 0x2000:08, BOOL (R434, Table 22.8). -/
def pmbusPec : Ref := ⟨0x200008, .int 0⟩
/-- PMBUS_DATA, 0x2000:09, DOMAIN (R434, Table 22.8). -/
def pmbusData : Ref := ⟨0x200009, .bytes []⟩
/-- DOMAIN_CTRL, 0x2000:10, U8 (R434, Table 22.8). -/
def domainCtrl : Ref := ⟨0x200010, .int 63⟩
/-- DOMAIN_STATE, 0x2000:11, U8 (R434, Table 22.8). -/
def domainState : Ref := ⟨0x200011, .int 255⟩
/-- HUB_TEMP, 0x2000:20, I16 (R434, Table 22.8). -/
def hubTemp : Ref := ⟨0x200020, .int 0⟩
/-- CONV_TEMP, 0x2000:21, I16 (R434, Table 22.8). -/
def convTemp : Ref := ⟨0x200021, .int 0⟩
/-- FIELD_TEMP, 0x2000:22, I16 (R434, Table 22.8). -/
def fieldTemp : Ref := ⟨0x200022, .int 0⟩
/-- THERMAL_STATE, 0x2000:23, U8 (R434, Table 22.8). -/
def thermalState : Ref := ⟨0x200023, .int 0⟩
/-- THROTTLE_COUNT, 0x2000:24, U32 (R434, Table 22.8). -/
def throttleCount : Ref := ⟨0x200024, .int 0⟩
/-- FULL_RESET, 0x2000:30, U16 (R434, Table 22.8). -/
def fullReset : Ref := ⟨0x200030, .int 0⟩
/-- CORE_RESTART, 0x2000:31, U16 (R434, Table 22.8). -/
def coreRestart : Ref := ⟨0x200031, .int 0⟩
/-- PORT_RESET, 0x2000:32, U16 (R434, Table 22.8). -/
def portReset : Ref := ⟨0x200032, .int 0⟩
/-- SLEEP_REQ, 0x2000:33, U8 (R434, Table 22.8). -/
def sleepReq : Ref := ⟨0x200033, .int 0⟩
/-- WAKE_ENABLE, 0x2000:34, U8 (R434, Table 22.8). -/
def wakeEnable : Ref := ⟨0x200034, .int 4⟩
/-- WAKE_AFTER, 0x2000:35, U32 (R434, Table 22.8). -/
def wakeAfter : Ref := ⟨0x200035, .int 3600⟩
/-- SLEEP_COMP_MASK, 0x2000:36, U8 (R434, Table 22.8). -/
def sleepCompMask : Ref := ⟨0x200036, .int 0⟩
/-- WAKE_CAUSE, 0x2000:37, U8 (R434, Table 22.8). -/
def wakeCause : Ref := ⟨0x200037, .int 0⟩
/-- SLEEP_ENTRY, 0x2000:38, GTIME (R434, Table 22.8). -/
def sleepEntry : Ref := ⟨0x200038, .int 0⟩
/-- SLEEP_COUNT, 0x2000:39, U32 (R434, Table 22.8). -/
def sleepCount : Ref := ⟨0x200039, .int 0⟩
/-- ISLAND_FREQ_0 to ISLAND_FREQ_11, 0x2100:01 to 0x2100:0C, U32 (R434, Table 22.9). -/
def islandFreq : Ref := ⟨0x210001, .int 0⟩

end O

/-- Rows 0 to 39 of the object table (R352). -/
def objRows0 : List ObjDef :=
  [⟨0x420001, 32, 1, .u 1, srAccess, .int 8, (some .frame), .oneOf [8, 16, 24, 32], .setting⟩,
   ⟨0x420002, 32, 1, .u 1, srAccess, .int 0, (some .frame), .span 0 7, .setting⟩,
   ⟨0x420003, 32, 1, .u 1, srAccess, .int 0, (some .frame), .mask 0x0F, .setting⟩,
   ⟨0x420004, 32, 1, .u 4, srAccess, .int 0, (some .frame), .span 0 1000000, .setting⟩,
   ⟨0x420005, 32, 1, .u 2, srAccess, .int 100, (some .frame), .span 1 1000, .setting⟩,
   ⟨0x420006, 32, 1, .u 2, srAccess, .int 2, (some .frame), .span 2 4096, .setting⟩,
   ⟨0x420007, 32, 1, .u 1, srAccess, .int 1, (some .frame), .span 0 1, .setting⟩,
   ⟨0x420008, 32, 1, .u 2, srAccess, .int 25, (some .frame), .span 1 1000, .setting⟩,
   ⟨0x420009, 32, 1, .u 2, srAccess, .int 10, (some .frame), .span 1 90, .setting⟩,
   ⟨0x42000A, 32, 1, .u 1, roAccess, .int 0, none, .any, .status⟩,
   ⟨0x42000B, 32, 1, .u 2, roAccess, .int 0, none, .any, .status⟩,
   ⟨0x42000C, 32, 1, .u 8, roAccess, .int 0, none, .any, .status⟩,
   ⟨0x42000D, 32, 1, .u 4, roAccess, .int 0, none, .any, .counter⟩,
   ⟨0x400001, 512, 1, .u 1, roAccess, .int 0, none, .any, .status⟩,
   ⟨0x400002, 512, 1, .bool, srAccess, .int 0, (some .frame), .any, .setting⟩,
   ⟨0x400003, 512, 1, .bool, srAccess, .int 0, (some .frame), .any, .setting⟩,
   ⟨0x400004, 512, 1, .bool, roAccess, .int 0, none, .any, .status⟩,
   ⟨0x400005, 512, 1, .u 8, roAccess, .int 0, none, .any, .status⟩,
   ⟨0x400006, 512, 1, .u 8, roAccess, .int 0, none, .any, .status⟩,
   ⟨0x400007, 512, 1, .i 4, roAccess, .int 0, none, .any, .status⟩,
   ⟨0x400008, 512, 1, .u 4, roAccess, .int 0, none, .any, .counter⟩,
   ⟨0x400009, 512, 1, .u 4, roAccess, .int 0, none, .any, .counter⟩,
   ⟨0x460001, 32, 1, .u 1, srAccess, .int 0, (some .frame), .span 0 2, .setting⟩,
   ⟨0x460002, 32, 1, .u 1, srAccess, .int 1, (some .frame), .span 0 2, .setting⟩,
   ⟨0x460003, 32, 1, .u 1, srAccess, .int 120, (some .frame), .oneOf [10, 20, 30, 40, 50, 60, 70, 80, 90, 100, 110, 120], .setting⟩,
   ⟨0x460004, 32, 1, .u 2, srAccess, .int 1000, (some .frame), .span 10 10000, .setting⟩,
   ⟨0x460005, 32, 1, .bool, srAccess, .int 0, (some .frame), .any, .setting⟩,
   ⟨0x460006, 32, 1, .u 2, srAccess, .int 40, (some .frame), .span 5 90, .setting⟩,
   ⟨0x460007, 32, 1, .u 1, roAccess, .int 0, none, .any, .status⟩,
   ⟨0x460008, 32, 1, .u 2, roAccess, .int 0, none, .any, .status⟩,
   ⟨0x460009, 32, 1, .u 4, roAccess, .int 0, none, .any, .status⟩,
   ⟨0x46000A, 32, 1, .u 2, roAccess, .int 0, none, .any, .status⟩,
   ⟨0x46000B, 32, 1, .u 4, roAccess, .int 0, none, .any, .counter⟩,
   ⟨0x430010, 32, 1, .u 1, srAccess, .int 1, (some .frame), .mask 0x07, .setting⟩,
   ⟨0x434010, 1, 1, .u 1, srAccess, .int 1, (some .frame), .mask 0x07, .setting⟩,
   ⟨0x430011, 32, 1, .u 1, roAccess, .int 0, none, .any, .status⟩,
   ⟨0x434011, 1, 1, .u 1, roAccess, .int 0, none, .any, .status⟩,
   ⟨0x430012, 32, 1, .u 4, roAccess, .int 0, none, .any, .counter⟩,
   ⟨0x434012, 1, 1, .u 4, roAccess, .int 0, none, .any, .counter⟩,
   ⟨0x430001, 32, 1, .u 1, roAccess, .int 1, none, .any, .status⟩]

/-- Rows 40 to 79 of the object table (R352). -/
def objRows1 : List ObjDef :=
  [⟨0x434001, 1, 1, .u 1, roAccess, .int 1, none, .any, .status⟩,
   ⟨0x430002, 1, 1, .bool, srAccess, .int 0, (some .frame), .any, .setting⟩,
   ⟨0x430102, 1, 1, .bool, roAccess, .int 0, none, .any, .status⟩,
   ⟨0x430202, 1, 1, .bool, srAccess, .int 0, (some .frame), .any, .setting⟩,
   ⟨0x430302, 1, 1, .bool, roAccess, .int 0, none, .any, .status⟩,
   ⟨0x430402, 1, 1, .bool, srAccess, .int 0, (some .frame), .any, .setting⟩,
   ⟨0x430502, 1, 1, .bool, roAccess, .int 0, none, .any, .status⟩,
   ⟨0x430602, 1, 1, .bool, srAccess, .int 0, (some .frame), .any, .setting⟩,
   ⟨0x430702, 1, 1, .bool, roAccess, .int 0, none, .any, .status⟩,
   ⟨0x430802, 1, 1, .bool, srAccess, .int 0, (some .frame), .any, .setting⟩,
   ⟨0x430902, 1, 1, .bool, roAccess, .int 0, none, .any, .status⟩,
   ⟨0x430A02, 1, 1, .bool, srAccess, .int 0, (some .frame), .any, .setting⟩,
   ⟨0x430B02, 1, 1, .bool, roAccess, .int 0, none, .any, .status⟩,
   ⟨0x430C02, 1, 1, .bool, srAccess, .int 0, (some .frame), .any, .setting⟩,
   ⟨0x430D02, 1, 1, .bool, roAccess, .int 0, none, .any, .status⟩,
   ⟨0x430E02, 1, 1, .bool, srAccess, .int 0, (some .frame), .any, .setting⟩,
   ⟨0x430F02, 1, 1, .bool, roAccess, .int 0, none, .any, .status⟩,
   ⟨0x431002, 1, 1, .bool, srAccess, .int 0, (some .frame), .any, .setting⟩,
   ⟨0x431102, 1, 1, .bool, roAccess, .int 0, none, .any, .status⟩,
   ⟨0x431202, 1, 1, .bool, srAccess, .int 0, (some .frame), .any, .setting⟩,
   ⟨0x431302, 1, 1, .bool, roAccess, .int 0, none, .any, .status⟩,
   ⟨0x431402, 1, 1, .bool, srAccess, .int 0, (some .frame), .any, .setting⟩,
   ⟨0x431502, 1, 1, .bool, roAccess, .int 0, none, .any, .status⟩,
   ⟨0x431602, 1, 1, .bool, srAccess, .int 0, (some .frame), .any, .setting⟩,
   ⟨0x431702, 1, 1, .bool, roAccess, .int 0, none, .any, .status⟩,
   ⟨0x431802, 1, 1, .bool, srAccess, .int 0, (some .frame), .any, .setting⟩,
   ⟨0x431902, 1, 1, .bool, roAccess, .int 0, none, .any, .status⟩,
   ⟨0x431A02, 1, 1, .bool, srAccess, .int 0, (some .frame), .any, .setting⟩,
   ⟨0x431B02, 1, 1, .bool, roAccess, .int 0, none, .any, .status⟩,
   ⟨0x431C02, 1, 1, .bool, srAccess, .int 0, (some .frame), .any, .setting⟩,
   ⟨0x431D02, 1, 1, .bool, roAccess, .int 0, none, .any, .status⟩,
   ⟨0x431E02, 1, 1, .bool, srAccess, .int 0, (some .frame), .any, .setting⟩,
   ⟨0x431F02, 1, 1, .bool, roAccess, .int 0, none, .any, .status⟩,
   ⟨0x430003, 1, 1, .u 1, srAccess, .int 0, (some .frame), .span 0 3, .setting⟩,
   ⟨0x430103, 1, 1, .u 1, roAccess, .int 0, none, .span 0 3, .status⟩,
   ⟨0x430203, 1, 1, .u 1, srAccess, .int 0, (some .frame), .span 0 3, .setting⟩,
   ⟨0x430303, 1, 1, .u 1, roAccess, .int 0, none, .span 0 3, .status⟩,
   ⟨0x430403, 1, 1, .u 1, srAccess, .int 0, (some .frame), .span 0 3, .setting⟩,
   ⟨0x430503, 1, 1, .u 1, roAccess, .int 0, none, .span 0 3, .status⟩,
   ⟨0x430603, 1, 1, .u 1, srAccess, .int 0, (some .frame), .span 0 3, .setting⟩]

/-- Rows 80 to 119 of the object table (R352). -/
def objRows2 : List ObjDef :=
  [⟨0x430703, 1, 1, .u 1, roAccess, .int 0, none, .span 0 3, .status⟩,
   ⟨0x430803, 1, 1, .u 1, srAccess, .int 0, (some .frame), .span 0 3, .setting⟩,
   ⟨0x430903, 1, 1, .u 1, roAccess, .int 0, none, .span 0 3, .status⟩,
   ⟨0x430A03, 1, 1, .u 1, srAccess, .int 0, (some .frame), .span 0 3, .setting⟩,
   ⟨0x430B03, 1, 1, .u 1, roAccess, .int 0, none, .span 0 3, .status⟩,
   ⟨0x430C03, 1, 1, .u 1, srAccess, .int 0, (some .frame), .span 0 3, .setting⟩,
   ⟨0x430D03, 1, 1, .u 1, roAccess, .int 0, none, .span 0 3, .status⟩,
   ⟨0x430E03, 1, 1, .u 1, srAccess, .int 0, (some .frame), .span 0 3, .setting⟩,
   ⟨0x430F03, 1, 1, .u 1, roAccess, .int 0, none, .span 0 3, .status⟩,
   ⟨0x431003, 1, 1, .u 1, srAccess, .int 0, (some .frame), .span 0 3, .setting⟩,
   ⟨0x431103, 1, 1, .u 1, roAccess, .int 0, none, .span 0 3, .status⟩,
   ⟨0x431203, 1, 1, .u 1, srAccess, .int 0, (some .frame), .span 0 3, .setting⟩,
   ⟨0x431303, 1, 1, .u 1, roAccess, .int 0, none, .span 0 3, .status⟩,
   ⟨0x431403, 1, 1, .u 1, srAccess, .int 0, (some .frame), .span 0 3, .setting⟩,
   ⟨0x431503, 1, 1, .u 1, roAccess, .int 0, none, .span 0 3, .status⟩,
   ⟨0x431603, 1, 1, .u 1, srAccess, .int 0, (some .frame), .span 0 3, .setting⟩,
   ⟨0x431703, 1, 1, .u 1, roAccess, .int 0, none, .span 0 3, .status⟩,
   ⟨0x431803, 1, 1, .u 1, srAccess, .int 0, (some .frame), .span 0 3, .setting⟩,
   ⟨0x431903, 1, 1, .u 1, roAccess, .int 0, none, .span 0 3, .status⟩,
   ⟨0x431A03, 1, 1, .u 1, srAccess, .int 0, (some .frame), .span 0 3, .setting⟩,
   ⟨0x431B03, 1, 1, .u 1, roAccess, .int 0, none, .span 0 3, .status⟩,
   ⟨0x431C03, 1, 1, .u 1, srAccess, .int 0, (some .frame), .span 0 3, .setting⟩,
   ⟨0x431D03, 1, 1, .u 1, roAccess, .int 0, none, .span 0 3, .status⟩,
   ⟨0x431E03, 1, 1, .u 1, srAccess, .int 0, (some .frame), .span 0 3, .setting⟩,
   ⟨0x431F03, 1, 1, .u 1, roAccess, .int 0, none, .span 0 3, .status⟩,
   ⟨0x430004, 1, 1, .u 1, srAccess, .int 0, (some .frame), .span 0 1, .setting⟩,
   ⟨0x430104, 1, 1, .u 1, roAccess, .int 0, none, .span 0 1, .status⟩,
   ⟨0x430204, 1, 1, .u 1, srAccess, .int 0, (some .frame), .span 0 1, .setting⟩,
   ⟨0x430304, 1, 1, .u 1, roAccess, .int 0, none, .span 0 1, .status⟩,
   ⟨0x430404, 1, 1, .u 1, srAccess, .int 0, (some .frame), .span 0 1, .setting⟩,
   ⟨0x430504, 1, 1, .u 1, roAccess, .int 0, none, .span 0 1, .status⟩,
   ⟨0x430604, 1, 1, .u 1, srAccess, .int 0, (some .frame), .span 0 1, .setting⟩,
   ⟨0x430704, 1, 1, .u 1, roAccess, .int 0, none, .span 0 1, .status⟩,
   ⟨0x430804, 1, 1, .u 1, srAccess, .int 0, (some .frame), .span 0 1, .setting⟩,
   ⟨0x430904, 1, 1, .u 1, roAccess, .int 0, none, .span 0 1, .status⟩,
   ⟨0x430A04, 1, 1, .u 1, srAccess, .int 0, (some .frame), .span 0 1, .setting⟩,
   ⟨0x430B04, 1, 1, .u 1, roAccess, .int 0, none, .span 0 1, .status⟩,
   ⟨0x430C04, 1, 1, .u 1, srAccess, .int 0, (some .frame), .span 0 1, .setting⟩,
   ⟨0x430D04, 1, 1, .u 1, roAccess, .int 0, none, .span 0 1, .status⟩,
   ⟨0x430E04, 1, 1, .u 1, srAccess, .int 0, (some .frame), .span 0 1, .setting⟩]

/-- Rows 120 to 159 of the object table (R352). -/
def objRows3 : List ObjDef :=
  [⟨0x430F04, 1, 1, .u 1, roAccess, .int 0, none, .span 0 1, .status⟩,
   ⟨0x431004, 1, 1, .u 1, srAccess, .int 0, (some .frame), .span 0 1, .setting⟩,
   ⟨0x431104, 1, 1, .u 1, roAccess, .int 0, none, .span 0 1, .status⟩,
   ⟨0x431204, 1, 1, .u 1, srAccess, .int 0, (some .frame), .span 0 1, .setting⟩,
   ⟨0x431304, 1, 1, .u 1, roAccess, .int 0, none, .span 0 1, .status⟩,
   ⟨0x431404, 1, 1, .u 1, srAccess, .int 0, (some .frame), .span 0 1, .setting⟩,
   ⟨0x431504, 1, 1, .u 1, roAccess, .int 0, none, .span 0 1, .status⟩,
   ⟨0x431604, 1, 1, .u 1, srAccess, .int 0, (some .frame), .span 0 1, .setting⟩,
   ⟨0x431704, 1, 1, .u 1, roAccess, .int 0, none, .span 0 1, .status⟩,
   ⟨0x431804, 1, 1, .u 1, srAccess, .int 0, (some .frame), .span 0 1, .setting⟩,
   ⟨0x431904, 1, 1, .u 1, roAccess, .int 0, none, .span 0 1, .status⟩,
   ⟨0x431A04, 1, 1, .u 1, srAccess, .int 0, (some .frame), .span 0 1, .setting⟩,
   ⟨0x431B04, 1, 1, .u 1, roAccess, .int 0, none, .span 0 1, .status⟩,
   ⟨0x431C04, 1, 1, .u 1, srAccess, .int 0, (some .frame), .span 0 1, .setting⟩,
   ⟨0x431D04, 1, 1, .u 1, roAccess, .int 0, none, .span 0 1, .status⟩,
   ⟨0x431E04, 1, 1, .u 1, srAccess, .int 0, (some .frame), .span 0 1, .setting⟩,
   ⟨0x431F04, 1, 1, .u 1, roAccess, .int 0, none, .span 0 1, .status⟩,
   ⟨0x430005, 32, 1, .u 2, srAccess, .int 24, (some .frame), .span 1 1000, .setting⟩,
   ⟨0x434005, 1, 1, .u 2, srAccess, .int 24, (some .frame), .span 1 1000, .setting⟩,
   ⟨0x430006, 32, 1, .i 2, roAccess, .int 0, none, .any, .status⟩,
   ⟨0x434006, 1, 1, .i 2, roAccess, .int 0, none, .any, .status⟩,
   ⟨0x430007, 32, 1, .u 8, roAccess, .int 0, none, .any, .status⟩,
   ⟨0x434007, 1, 1, .u 8, roAccess, .int 0, none, .any, .status⟩,
   ⟨0x430008, 32, 1, .u 4, roAccess, .int 0, none, .any, .counter⟩,
   ⟨0x434008, 1, 1, .u 4, roAccess, .int 0, none, .any, .counter⟩,
   ⟨0x440001, 32, 1, .bytes, srAccess, .bytes [0x13#8, 0x88#8, 0#8, 0#8], (some .frame), .format, .setting⟩,
   ⟨0x440002, 32, 1, .bytes, srAccess, .bytes [0#8, 0#8, 0#8, 0#8], (some .frame), .format, .setting⟩,
   ⟨0x440003, 32, 1, .u 2, srAccess, .int 0, (some .frame), .format, .setting⟩,
   ⟨0x440004, 32, 1, .u 1, srAccess, .int 0, (some .immediate), .oneOf [1], .command⟩,
   ⟨0x440005, 32, 1, .u 8, roAccess, .int 0, none, .any, .status⟩,
   ⟨0x440006, 32, 1, .u 1, roAccess, .int 0, none, .any, .status⟩,
   ⟨0x440007, 32, 1, .u 4, roAccess, .int 0, none, .any, .counter⟩,
   ⟨0x440008, 32, 1, .u 4, roAccess, .int 0, none, .any, .counter⟩,
   ⟨0x440009, 32, 1, .u 4, roAccess, .int 0, none, .any, .counter⟩,
   ⟨0x44000A, 32, 1, .bytes, roAccess, .bytes [], none, .any, .status⟩,
   ⟨0x44000B, 32, 1, .u 2, roAccess, .int 0, none, .any, .status⟩,
   ⟨0x434020, 1, 1, .u 1, srAccess, .int 0, (some .stopped), .span 0 1, .setting⟩,
   ⟨0x434021, 1, 1, .bool, srAccess, .int 1, (some .frame), .any, .setting⟩,
   ⟨0x434022, 1, 1, .u 2, srAccess, .int 40, (some .frame), .span 5 200, .setting⟩,
   ⟨0x434023, 1, 1, .u 4, srAccess, .int 86400, (some .frame), .zeroOr 60 2592000, .setting⟩]

/-- Rows 160 to 199 of the object table (R352). -/
def objRows4 : List ObjDef :=
  [⟨0x434024, 1, 1, .bool, srAccess, .int 1, (some .frame), .any, .setting⟩,
   ⟨0x434025, 1, 1, .u 1, srAccess, .int 0, (some .immediate), .oneOf [1], .command⟩,
   ⟨0x434026, 1, 1, .u 4, sAccess, .int 0, (some .stopped), .zeroOr 2500000 4500000, .setting⟩,
   ⟨0x434027, 1, 1, .u 1, roAccess, .int 0, none, .any, .status⟩,
   ⟨0x434028, 1, 1, .u 4, roAccess, .int 0, none, .any, .status⟩,
   ⟨0x434029, 1, 1, .u 4, roAccess, .int 0, none, .any, .status⟩,
   ⟨0x43402A, 1, 1, .u 4, srAccess, .int 2048, (some .frame), .span 64 1048576, .setting⟩,
   ⟨0x43402B, 1, 1, .u 8, roAccess, .int 0, none, .any, .status⟩,
   ⟨0x43402C, 1, 1, .u 8, roAccess, .int 0, none, .any, .status⟩,
   ⟨0x430030, 32, 1, .i 2, roAccess, .int 0, none, .any, .status⟩,
   ⟨0x434030, 1, 1, .i 2, roAccess, .int 0, none, .any, .status⟩,
   ⟨0x430031, 32, 1, .i 2, roAccess, .int 0, none, .any, .status⟩,
   ⟨0x434031, 1, 1, .i 2, roAccess, .int 0, none, .any, .status⟩,
   ⟨0x430032, 32, 8, .bytes, srAccess, .bytes [], (some .frame), .format, .setting⟩,
   ⟨0x434032, 1, 8, .bytes, srAccess, .bytes [], (some .frame), .format, .setting⟩,
   ⟨0x43003A, 32, 1, .u 8, roAccess, .int 0, none, .any, .status⟩,
   ⟨0x43403A, 1, 1, .u 8, roAccess, .int 0, none, .any, .status⟩,
   ⟨0x43003B, 32, 1, .i 2, roAccess, .int 0, none, .any, .status⟩,
   ⟨0x43403B, 1, 1, .i 2, roAccess, .int 0, none, .any, .status⟩,
   ⟨0x43003C, 32, 1, .u 4, roAccess, .int 0, none, .any, .status⟩,
   ⟨0x43403C, 1, 1, .u 4, roAccess, .int 0, none, .any, .status⟩,
   ⟨0x43003D, 32, 1, .i 2, roAccess, .int 0, none, .any, .status⟩,
   ⟨0x43403D, 1, 1, .i 2, roAccess, .int 0, none, .any, .status⟩,
   ⟨0x43003E, 32, 1, .u 4, roAccess, .int 0, none, .any, .counter⟩,
   ⟨0x43403E, 1, 1, .u 4, roAccess, .int 0, none, .any, .counter⟩,
   ⟨0x580001, 512, 1, .bool, srAccess, .int 1, (some .frame), .any, .setting⟩,
   ⟨0x580002, 512, 1, .u 4, roAccess, .int 1073741824, none, .any, .status⟩,
   ⟨0x580003, 512, 1, .i 4, roAccess, .int 0, none, .any, .status⟩,
   ⟨0x580004, 512, 1, .u 1, roAccess, .int 0, none, .any, .status⟩,
   ⟨0x580005, 512, 1, .u 1, roAccess, .int 0, none, .any, .status⟩,
   ⟨0x5A0001, 33, 1, .bytes, roAccess, .bytes [], none, .any, .status⟩,
   ⟨0x5A0002, 33, 1, .i 2, roAccess, .int 0, none, .any, .status⟩,
   ⟨0x480002, 512, 1, .u 1, srAccess, .int 0, (some .frame), .span 0 63, .setting⟩,
   ⟨0x480003, 512, 1, .bool, srAccess, .int 1, (some .frame), .any, .setting⟩,
   ⟨0x480004, 512, 1, .bool, srAccess, .int 0, (some .frame), .any, .setting⟩,
   ⟨0x480005, 512, 1, .u 1, srAccess, .int 16, (some .frame), .span 6 24, .setting⟩,
   ⟨0x480006, 512, 1, .bool, srAccess, .int 0, (some .frame), .any, .setting⟩,
   ⟨0x480007, 512, 1, .i 4, srAccess, .int 4194304, (some .frame), .span (-8388608) 8388607, .setting⟩,
   ⟨0x480008, 512, 1, .u 1, srAccess, .int 0, (some .frame), .span 0 16, .setting⟩,
   ⟨0x480009, 512, 1, .bool, srAccess, .int 0, (some .frame), .any, .setting⟩]

/-- Rows 200 to 239 of the object table (R352). -/
def objRows5 : List ObjDef :=
  [⟨0x48000A, 512, 1, .u 1, srAccess, .int 0, (some .frame), .oneOf [1], .command⟩,
   ⟨0x48000B, 512, 1, .u 1, roAccess, .int 0, none, .any, .status⟩,
   ⟨0x48000C, 512, 1, .u 8, roAccess, .int 0, none, .any, .status⟩,
   ⟨0x48000D, 512, 1, .u 8, roAccess, .int 0, none, .any, .status⟩,
   ⟨0x48000E, 512, 1, .u 8, roAccess, .int 0, none, .any, .status⟩,
   ⟨0x48000F, 512, 1, .u 4, roAccess, .int 0, none, .any, .counter⟩,
   ⟨0x480010, 512, 1, .u 4, roAccess, .int 0, none, .any, .status⟩,
   ⟨0x480040, 1, 1, .u 1, srAccess, .int 0, (some .immediate), .oneOf [1], .command⟩,
   ⟨0x480041, 1, 1, .u 1, srAccess, .int 0, (some .frame), .span 0 1, .setting⟩,
   ⟨0x480042, 1, 1, .bool, srAccess, .int 0, (some .frame), .any, .setting⟩,
   ⟨0x480043, 1, 1, .bool, srAccess, .int 0, (some .frame), .any, .setting⟩,
   ⟨0x480044, 1, 1, .u 8, roAccess, .int 0, none, .any, .status⟩,
   ⟨0x480045, 1, 1, .u 8, roAccess, .int 0, none, .any, .status⟩,
   ⟨0x480050, 1, 16, .u 4, roAccess, .int 0, none, .any, .status⟩,
   ⟨0x4A0001, 24, 1, .bytes, roAccess, .bytes [], none, .any, .status⟩,
   ⟨0x4A1801, 40, 1, .bytes, srAccess, .bytes [0#8, 1#8, 0#8, 0#8, 0x80#8, 0#8, 0#8, 0#8], (some .frame), .format, .setting⟩,
   ⟨0x4A0002, 64, 1, .u 4, roAccess, .int 1, none, .any, .status⟩,
   ⟨0x4A0003, 64, 1, .u 4, roAccess, .int 0, none, .any, .status⟩,
   ⟨0x4A0004, 64, 1, .u 4, roAccess, .int 0, none, .any, .status⟩,
   ⟨0x4A0005, 64, 1, .u 4, roAccess, .int 0, none, .any, .status⟩,
   ⟨0x4A0006, 64, 1, .u 2, roAccess, .int 0, none, .any, .status⟩,
   ⟨0x300001, 1, 1, .u 8, roAccess, .int 0, none, .any, .status⟩,
   ⟨0x300002, 1, 1, .u 1, roAccess, .int 0, none, .any, .status⟩,
   ⟨0x300003, 1, 1, .u 1, roAccess, .int 0, none, .any, .status⟩,
   ⟨0x300004, 1, 1, .u 1, roAccess, .int 0, none, .any, .status⟩,
   ⟨0x300005, 1, 1, .u 1, roAccess, .int 0, none, .any, .status⟩,
   ⟨0x300006, 1, 1, .u 4, srAccess, .int 100, (some .frame), .span 25 10000, .setting⟩,
   ⟨0x300007, 1, 1, .u 4, srAccess, .int 1000, (some .frame), .span 100 60000, .setting⟩,
   ⟨0x300008, 1, 1, .i 4, roAccess, .int 0, none, .any, .status⟩,
   ⟨0x300009, 1, 1, .u 4, roAccess, .int 0, none, .any, .status⟩,
   ⟨0x30000A, 1, 1, .u 2, roAccess, .int 0, none, .any, .status⟩,
   ⟨0x30000B, 1, 1, .u 1, srAccess, .int 0, (some .immediate), .oneOf [1], .command⟩,
   ⟨0x30000C, 1, 1, .u 8, roAccess, .int 0, none, .any, .status⟩,
   ⟨0x30000D, 1, 1, .i 2, srAccess, .int 37, (some .frame), .span 0 1000, .setting⟩,
   ⟨0x30000E, 1, 1, .u 4, roAccess, .int 0, none, .any, .counter⟩,
   ⟨0x30000F, 1, 1, .u 4, roAccess, .int 0, none, .any, .counter⟩,
   ⟨0x300010, 1, 1, .bool, srAccess, .int 0, (some .frame), .any, .setting⟩,
   ⟨0x300011, 1, 1, .bool, srAccess, .int 0, (some .frame), .any, .setting⟩,
   ⟨0x300012, 1, 1, .i 4, srAccess, .int 0, (some .frame), .span (-1000000) 1000000, .setting⟩,
   ⟨0x300013, 1, 1, .u 4, srAccess, .int 9600, (some .frame), .oneOf [4800, 9600, 38400, 115200], .setting⟩]

/-- Rows 240 to 279 of the object table (R352). -/
def objRows6 : List ObjDef :=
  [⟨0x300014, 1, 1, .u 1, roAccess, .int 0, none, .any, .status⟩,
   ⟨0x300101, 1, 1, .u 1, srAccess, .int 0, (some .frame), .oneOf [0, 1, 2, 3, 4], .setting⟩,
   ⟨0x300201, 1, 1, .u 1, srAccess, .int 1, (some .frame), .span 0 4, .setting⟩,
   ⟨0x300301, 1, 1, .u 1, srAccess, .int 2, (some .frame), .span 0 4, .setting⟩,
   ⟨0x300102, 3, 1, .bool, srAccess, .int 1, (some .frame), .any, .setting⟩,
   ⟨0x300103, 3, 1, .u 1, roAccess, .int 0, none, .any, .status⟩,
   ⟨0x300104, 3, 1, .i 4, roAccess, .int 0, none, .any, .status⟩,
   ⟨0x300105, 3, 1, .i 4, roAccess, .int 0, none, .any, .status⟩,
   ⟨0x300106, 3, 1, .i 4, roAccess, .int 0, none, .any, .status⟩,
   ⟨0x300107, 3, 1, .u 4, roAccess, .int 0, none, .any, .status⟩,
   ⟨0x300108, 3, 1, .u 8, roAccess, .int 0, none, .any, .status⟩,
   ⟨0x300109, 3, 1, .u 8, roAccess, .int 0, none, .any, .status⟩,
   ⟨0x30010A, 3, 1, .u 4, roAccess, .int 0, none, .any, .counter⟩,
   ⟨0x310001, 1, 1, .u 1, srAccess, .int 0, (some .frame), .span 0 127, .setting⟩,
   ⟨0x310002, 1, 1, .u 8, roAccess, .int 0, none, .any, .status⟩,
   ⟨0x310003, 1, 1, .bool, srAccess, .int 0, (some .frame), .any, .setting⟩,
   ⟨0x310004, 1, 1, .u 1, srAccess, .int 128, (some .frame), .any, .setting⟩,
   ⟨0x310005, 1, 1, .u 1, srAccess, .int 128, (some .frame), .any, .setting⟩,
   ⟨0x310006, 1, 1, .i 1, srAccess, .int (-6), (some .frame), .span (-7) 0, .setting⟩,
   ⟨0x310007, 1, 1, .i 1, srAccess, .int 0, (some .frame), .span (-3) 3, .setting⟩,
   ⟨0x310008, 1, 1, .u 1, srAccess, .int 3, (some .frame), .span 2 10, .setting⟩,
   ⟨0x310009, 1, 1, .u 1, srAccess, .int 100, (some .frame), .span 0 127, .setting⟩,
   ⟨0x31000A, 1, 1, .u 8, roAccess, .int 0, none, .any, .status⟩,
   ⟨0x31000B, 1, 1, .u 1, roAccess, .int 255, none, .any, .status⟩,
   ⟨0x31000C, 1, 1, .bool, roAccess, .int 0, none, .any, .status⟩,
   ⟨0x31000D, 1, 1, .u 4, roAccess, .int 0, none, .any, .counter⟩,
   ⟨0x310101, 20, 1, .bool, srAccess, .int 1, (some .frame), .any, .setting⟩,
   ⟨0x310102, 20, 1, .u 1, roAccess, .int 3, none, .any, .status⟩,
   ⟨0x310103, 20, 1, .i 1, srAccess, .int 0, (some .frame), .span (-4) 5, .setting⟩,
   ⟨0x310104, 20, 1, .i 4, srAccess, .int 0, (some .frame), .span (-1000000) 1000000, .setting⟩,
   ⟨0x310105, 20, 1, .i 4, srAccess, .int 0, (some .frame), .span (-1000000) 1000000, .setting⟩,
   ⟨0x310106, 20, 1, .i 4, roAccess, .int 0, none, .any, .status⟩,
   ⟨0x310107, 20, 1, .i 4, roAccess, .int 0, none, .any, .status⟩,
   ⟨0x310108, 20, 1, .i 4, roAccess, .int 0, none, .any, .status⟩,
   ⟨0x310109, 20, 1, .i 4, roAccess, .int 0, none, .any, .status⟩,
   ⟨0x31010A, 20, 1, .u 1, roAccess, .int 255, none, .any, .status⟩,
   ⟨0x31010B, 20, 1, .u 8, roAccess, .int 0, none, .any, .status⟩,
   ⟨0x31010C, 20, 1, .u 4, roAccess, .int 0, none, .any, .counter⟩,
   ⟨0x31010D, 20, 1, .u 4, roAccess, .int 0, none, .any, .counter⟩,
   ⟨0x31010E, 20, 1, .u 4, roAccess, .int 0, none, .any, .counter⟩]

/-- Rows 280 to 319 of the object table (R352). -/
def objRows7 : List ObjDef :=
  [⟨0x320001, 1, 1, .bool, srAccess, .int 0, (some .frame), .any, .setting⟩,
   ⟨0x320002, 1, 1, .u 4, srAccess, .int 256, (some .frame), .span 0 8000, .setting⟩,
   ⟨0x320003, 1, 1, .bytes, srAccess, .bytes [], (some .frame), .format, .setting⟩,
   ⟨0x320004, 1, 1, .bytes, srAccess, .bytes [], (some .frame), .format, .setting⟩,
   ⟨0x320005, 1, 1, .bytes, srAccess, .bytes [], (some .frame), .format, .setting⟩,
   ⟨0x320006, 1, 1, .u 8, roAccess, .int 0, none, .any, .status⟩,
   ⟨0x320007, 1, 1, .u 4, roAccess, .int 0, none, .any, .counter⟩,
   ⟨0x320008, 1, 1, .u 4, roAccess, .int 0, none, .any, .counter⟩,
   ⟨0x420010, 32, 1, .u 2, srAccess, .int 512, (some .frame), .span 0 1023, .setting⟩,
   ⟨0x420011, 32, 1, .u 1, srAccess, .int 4, (some .frame), .any, .setting⟩,
   ⟨0x420012, 32, 1, .bool, srAccess, .int 1, (some .frame), .any, .setting⟩,
   ⟨0x420013, 32, 1, .u 4, roAccess, .int 0, none, .any, .counter⟩,
   ⟨0x500001, 64, 1, .u 1, srAccess, .int 0, (some .frame), .span 0 9, .setting⟩,
   ⟨0x500002, 64, 1, .u 2, srAccess, .int 0, (some .frame), .format, .setting⟩,
   ⟨0x500003, 64, 1, .u 1, srAccess, .int 1, (some .frame), .span 1 3, .setting⟩,
   ⟨0x500004, 64, 1, .i 4, srAccess, .int 0, (some .frame), .span (-8388608) 8388607, .setting⟩,
   ⟨0x500005, 64, 1, .u 4, srAccess, .int 0, (some .frame), .span 0 16777215, .setting⟩,
   ⟨0x500006, 64, 1, .u 8, srAccess, .int 0, (some .frame), .any, .setting⟩,
   ⟨0x500007, 64, 1, .u 8, srAccess, .int 0, (some .frame), .zeroOr 1280 281474976710656, .setting⟩,
   ⟨0x500008, 64, 1, .u 4, srAccess, .int 6400, (some .frame), .span 0 640000000, .setting⟩,
   ⟨0x500009, 64, 1, .u 4, srAccess, .int 0, (some .frame), .mask 0x3FFF003F, .setting⟩,
   ⟨0x50000A, 64, 1, .u 4, srAccess, .int 1280, (some .frame), .span 0 640000000, .setting⟩,
   ⟨0x50000B, 64, 1, .bool, srAccess, .int 0, (some .frame), .any, .setting⟩,
   ⟨0x50000C, 64, 1, .u 10, roAccess, .int 0, none, .any, .status⟩,
   ⟨0x50000D, 64, 1, .u 4, roAccess, .int 0, none, .any, .counter⟩,
   ⟨0x50000E, 64, 1, .u 4, roAccess, .int 0, none, .any, .counter⟩,
   ⟨0x510001, 16, 1, .u 1, srAccess, .int 0, (some .frame), .span 0 3, .setting⟩,
   ⟨0x510002, 16, 1, .u 4, srAccess, .int 0, (some .stopped), .format, .setting⟩,
   ⟨0x510003, 16, 1, .u 1, srAccess, .int 0, (some .stopped), .span 0 1, .setting⟩,
   ⟨0x510004, 16, 1, .u 1, srAccess, .int 0, (some .stopped), .span 0 63, .setting⟩,
   ⟨0x510005, 16, 1, .u 4, srAccess, .int 0, (some .stopped), .any, .setting⟩,
   ⟨0x510006, 16, 1, .u 4, srAccess, .int 1024, (some .stopped), .span 1 536870912, .setting⟩,
   ⟨0x510007, 16, 1, .u 1, srAccess, .int 1, (some .stopped), .span 1 64, .setting⟩,
   ⟨0x510008, 16, 1, .u 4, srAccess, .int 1280, (some .stopped), .span 1280 640000000, .setting⟩,
   ⟨0x510009, 16, 1, .u 2, srAccess, .int 0, (some .stopped), .span 0 1024, .setting⟩,
   ⟨0x51000A, 16, 1, .u 1, srAccess, .int 0, (some .frame), .oneOf [1], .command⟩,
   ⟨0x51000B, 16, 1, .bool, srAccess, .int 1, (some .stopped), .any, .setting⟩,
   ⟨0x51000C, 16, 1, .u 1, srAccess, .int 0, (some .immediate), .oneOf [1], .command⟩,
   ⟨0x51000D, 16, 1, .u 1, roAccess, .int 0, none, .any, .status⟩,
   ⟨0x51000E, 16, 1, .bytes, roAccess, .bytes [], none, .any, .status⟩]

/-- Rows 320 to 359 of the object table (R352). -/
def objRows8 : List ObjDef :=
  [⟨0x51000F, 16, 1, .u 4, roAccess, .int 0, none, .any, .counter⟩,
   ⟨0x510010, 16, 1, .bytes, roAccess, .bytes [], none, .any, .status⟩,
   ⟨0x510011, 16, 1, .u 4, roAccess, .int 0, none, .any, .counter⟩,
   ⟨0x510012, 16, 1, .u 4, roAccess, .int 1280, none, .any, .status⟩,
   ⟨0x540001, 16, 1, .u 1, srAccess, .int 0, (some .frame), .span 0 2, .setting⟩,
   ⟨0x540002, 16, 1, .u 1, srAccess, .int 0, (some .stopped), .span 0 15, .setting⟩,
   ⟨0x540003, 16, 1, .u 4, srAccess, .int 0, (some .stopped), .format, .setting⟩,
   ⟨0x540004, 16, 1, .u 1, srAccess, .int 0, (some .stopped), .span 0 63, .setting⟩,
   ⟨0x540005, 16, 1, .u 4, srAccess, .int 1000, (some .stopped), .span 1 3600000, .setting⟩,
   ⟨0x540006, 16, 1, .bytes, srAccess, .bytes [], (some .stopped), .format, .setting⟩,
   ⟨0x540007, 16, 1, .bytes, srAccess, .bytes [], (some .stopped), .format, .setting⟩,
   ⟨0x540008, 16, 1, .u 1, srAccess, .int 255, (some .stopped), .oneOf [0, 1, 2, 3, 4, 5, 6, 7, 8, 9, 10, 11, 12, 13, 14, 15, 255], .setting⟩,
   ⟨0x540009, 16, 1, .u 4, srAccess, .int 1024, (some .stopped), .span 1 536870912, .setting⟩,
   ⟨0x54000A, 16, 1, .u 1, srAccess, .int 0, (some .stopped), .oneOf [0, 4, 5, 6, 7], .setting⟩,
   ⟨0x54000B, 16, 1, .u 4, srAccess, .int 10000, (some .stopped), .span 1 10000000, .setting⟩,
   ⟨0x54000C, 16, 1, .u 4, roAccess, .int 0, none, .any, .counter⟩,
   ⟨0x54000D, 16, 1, .u 4, roAccess, .int 0, none, .any, .counter⟩,
   ⟨0x54000E, 16, 1, .u 4, roAccess, .int 0, none, .any, .counter⟩,
   ⟨0x54000F, 16, 1, .bytes, roAccess, .bytes [], none, .any, .status⟩,
   ⟨0x520001, 64, 1, .bytes, srAccess, .bytes [], (some .frame), .format, .setting⟩,
   ⟨0x520002, 64, 1, .u 2, roAccess, .int 0, none, .any, .status⟩,
   ⟨0x520003, 64, 1, .u 2, roAccess, .int 0, none, .any, .status⟩,
   ⟨0x520004, 64, 1, .u 2, roAccess, .int 400, none, .any, .status⟩,
   ⟨0x400010, 512, 1, .u 1, srAccess, .int 255, (some .frame), .oneOf [0, 1, 2, 3, 4, 5, 6, 7, 8, 9, 10, 11, 12, 13, 14, 15, 16, 17, 18, 19, 20, 21, 22, 23, 24, 25, 26, 27, 28, 29, 30, 31, 32, 33, 34, 35, 36, 37, 38, 39, 40, 41, 42, 43, 44, 45, 46, 47, 48, 49, 50, 51, 52, 53, 54, 55, 56, 57, 58, 59, 60, 61, 62, 63, 255], .setting⟩,
   ⟨0x400011, 512, 1, .u 8, roAccess, .int 0, none, .any, .status⟩,
   ⟨0x400012, 512, 1, .bytes, roAccess, .bytes [], none, .any, .status⟩,
   ⟨0x400013, 512, 1, .u 4, roAccess, .int 0, none, .any, .counter⟩,
   ⟨0x52F001, 16, 1, .u 4, roAccess, .int 0, none, .any, .status⟩,
   ⟨0x52F002, 16, 1, .u 1, roAccess, .int 0, none, .any, .status⟩,
   ⟨0x52F003, 16, 1, .u 2, srAccess, .int 100, (some .frame), .span 10 10000, .setting⟩,
   ⟨0x52F004, 16, 1, .u 4, roAccess, .int 0, none, .any, .counter⟩,
   ⟨0x52F005, 16, 1, .u 4, roAccess, .int 0, none, .any, .counter⟩,
   ⟨0x52F006, 16, 1, .u 2, roAccess, .int 0, none, .any, .status⟩,
   ⟨0x52F007, 16, 1, .u 4, roAccess, .int 0, none, .any, .status⟩,
   ⟨0x52F008, 16, 1, .u 4, roAccess, .int 0, none, .any, .counter⟩,
   ⟨0x290001, 1, 1, .u 4, srAccess, .int 0, (some .stopped), .step 16 24576, .setting⟩,
   ⟨0x290002, 1, 1, .u 2, srAccess, .int 10, (some .frame), .span 1 10000, .setting⟩,
   ⟨0x290003, 1, 1, .u 4, roAccess, .int 0, none, .any, .status⟩,
   ⟨0x290004, 1, 1, .u 4, roAccess, .int 0, none, .any, .status⟩,
   ⟨0x290005, 1, 1, .u 4, roAccess, .int 0, none, .any, .counter⟩]

/-- Rows 360 to 399 of the object table (R352). -/
def objRows9 : List ObjDef :=
  [⟨0x290006, 1, 1, .u 4, roAccess, .int 0, none, .any, .counter⟩,
   ⟨0x290010, 1, 1, .bytes, srAccess, .bytes [], (some .immediate), .format, .request⟩,
   ⟨0x290011, 1, 1, .bytes, roAccess, .bytes [], none, .any, .status⟩,
   ⟨0x290012, 1, 1, .u 1, roAccess, .int 0, none, .any, .status⟩,
   ⟨0x400020, 512, 1, .u 1, srAccess, .int 0, (some .frame), .span 0 2, .setting⟩,
   ⟨0x400021, 512, 1, .u 1, srAccess, .int 0, (some .frame), .span 0 1, .setting⟩,
   ⟨0x400022, 512, 1, .u 4, srAccess, .int 0, (some .stopped), .zeroOr 4 1572864, .setting⟩,
   ⟨0x400023, 512, 1, .u 1, srAccess, .int 0, (some .immediate), .oneOf [1], .command⟩,
   ⟨0x400024, 512, 1, .u 8, roAccess, .int 0, none, .any, .status⟩,
   ⟨0x400025, 512, 1, .u 8, roAccess, .int 0, none, .any, .status⟩,
   ⟨0x400026, 512, 1, .u 8, roAccess, .int 0, none, .any, .status⟩,
   ⟨0x400027, 512, 1, .u 4, roAccess, .int 0, none, .any, .status⟩,
   ⟨0x400028, 512, 1, .u 4, roAccess, .int 0, none, .any, .status⟩,
   ⟨0x400029, 512, 1, .u 4, roAccess, .int 0, none, .any, .status⟩,
   ⟨0x40002A, 512, 1, .u 4, roAccess, .int 0, none, .any, .counter⟩,
   ⟨0x40002B, 512, 1, .u 1, roAccess, .int 0, none, .any, .status⟩,
   ⟨0x280001, 1, 1, .u 2, srAccess, .int 3200, (some .frame), .format, .setting⟩,
   ⟨0x280002, 1, 1, .u 2, roAccess, .int 0, none, .any, .status⟩,
   ⟨0x280003, 1, 1, .u 4, srAccess, .int 524552, (some .immediate), .format, .setting⟩,
   ⟨0x280004, 1, 1, .u 4, roAccess, .int 0, none, .any, .status⟩,
   ⟨0x280005, 1, 1, .u 1, srAccess, .int 14, (some .immediate), .span 8 16, .setting⟩,
   ⟨0x280006, 1, 1, .u 1, roAccess, .int 14, none, .any, .status⟩,
   ⟨0x280008, 1, 4, .bytes, srAccess, .bytes [], (some .immediate), .format, .setting⟩,
   ⟨0x28000C, 1, 4, .bytes, roAccess, .bytes [], none, .any, .status⟩,
   ⟨0x280010, 1, 1, .u 4, roAccess, .int 0, none, .any, .status⟩,
   ⟨0x280011, 1, 1, .u 4, srAccess, .int 2500, (some .frame), .span 100 7500, .setting⟩,
   ⟨0x280012, 1, 3, .u 4, roAccess, .int 0, none, .any, .status⟩,
   ⟨0x280015, 1, 1, .u 1, srAccess, .int 50, (some .frame), .span 20 90, .setting⟩,
   ⟨0x280016, 1, 1, .u 2, srAccess, .int 64, (some .frame), .span 0 1023, .setting⟩,
   ⟨0x280017, 1, 1, .u 2, srAccess, .int 128, (some .frame), .span 0 1023, .setting⟩,
   ⟨0x280018, 1, 1, .u 4, srAccess, .int 86400, (some .frame), .span 3600 604800, .setting⟩,
   ⟨0x280019, 1, 1, .u 1, srAccess, .int 0, (some .frame), .span 0 1, .setting⟩,
   ⟨0x28001A, 1, 1, .u 1, srAccess, .int 72, (some .frame), .span 8 119, .setting⟩,
   ⟨0x28001B, 1, 1, .i 2, roAccess, .int 32767, none, .any, .status⟩,
   ⟨0x28001C, 1, 1, .u 1, roAccess, .int 0, none, .any, .status⟩,
   ⟨0x28001D, 1, 1, .u 4, roAccess, .int 0, none, .any, .counter⟩,
   ⟨0x28001E, 1, 1, .u 4, roAccess, .int 0, none, .any, .counter⟩,
   ⟨0x28001F, 1, 1, .u 4, roAccess, .int 0, none, .any, .counter⟩,
   ⟨0x280020, 1, 1, .u 8, roAccess, .int 18446744073709551615, none, .any, .status⟩,
   ⟨0x280021, 1, 1, .u 8, roAccess, .int 0, none, .any, .status⟩]

/-- Rows 400 to 439 of the object table (R352). -/
def objRows10 : List ObjDef :=
  [⟨0x280022, 1, 1, .u 4, roAccess, .int 0, none, .any, .status⟩,
   ⟨0x280028, 1, 1, .u 1, srAccess, .int 1, (some .frame), .span 0 2, .setting⟩,
   ⟨0x280029, 1, 1, .u 1, srAccess, .int 1, (some .frame), .span 0 2, .setting⟩,
   ⟨0x28002A, 1, 1, .u 1, srAccess, .int 1, (some .frame), .span 0 2, .setting⟩,
   ⟨0x28002B, 1, 1, .u 1, srAccess, .int 2, (some .frame), .span 0 2, .setting⟩,
   ⟨0x28002C, 1, 1, .u 1, srAccess, .int 0, (some .frame), .span 0 2, .setting⟩,
   ⟨0x28002D, 1, 1, .u 1, srAccess, .int 0, (some .frame), .span 0 2, .setting⟩,
   ⟨0x28002E, 1, 1, .u 1, srAccess, .int 2, (some .frame), .span 0 2, .setting⟩,
   ⟨0x28002F, 1, 1, .u 1, srAccess, .int 0, (some .frame), .span 0 2, .setting⟩,
   ⟨0x280030, 1, 1, .u 1, roAccess, .int 0, none, .span 1 255, .status⟩,
   ⟨0x280031, 1, 1, .u 1, roAccess, .int 0, none, .span 1 255, .status⟩,
   ⟨0x280032, 1, 1, .u 1, roAccess, .int 0, none, .span 1 255, .status⟩,
   ⟨0x280033, 1, 1, .u 1, srAccess, .int 4, (some .frame), .span 1 255, .setting⟩,
   ⟨0x280034, 1, 1, .u 1, srAccess, .int 8, (some .frame), .span 1 255, .setting⟩,
   ⟨0x280035, 1, 1, .u 1, srAccess, .int 4, (some .frame), .span 1 255, .setting⟩,
   ⟨0x280036, 1, 1, .u 1, roAccess, .int 0, none, .span 1 255, .status⟩,
   ⟨0x280037, 1, 1, .u 1, srAccess, .int 2, (some .frame), .span 1 255, .setting⟩,
   ⟨0x280038, 1, 3, .u 4, roAccess, .int 0, none, .any, .counter⟩,
   ⟨0x340001, 24, 1, .u 1, srAccess, .int 1, (some .immediate), .span 0 2, .setting⟩,
   ⟨0x340002, 1, 1, .u 1, roAccess, .int 0, none, .span 0 1, .status⟩,
   ⟨0x340102, 1, 1, .u 1, roAccess, .int 0, none, .span 0 1, .status⟩,
   ⟨0x340202, 1, 1, .u 1, roAccess, .int 0, none, .span 0 1, .status⟩,
   ⟨0x340302, 1, 1, .u 1, roAccess, .int 0, none, .span 0 1, .status⟩,
   ⟨0x340402, 1, 1, .u 1, roAccess, .int 0, none, .span 0 1, .status⟩,
   ⟨0x340502, 1, 1, .u 1, roAccess, .int 0, none, .span 0 1, .status⟩,
   ⟨0x340602, 1, 1, .u 1, roAccess, .int 0, none, .span 0 1, .status⟩,
   ⟨0x340702, 1, 1, .u 1, roAccess, .int 0, none, .span 0 1, .status⟩,
   ⟨0x340802, 1, 1, .u 1, roAccess, .int 0, none, .span 0 1, .status⟩,
   ⟨0x340902, 1, 1, .u 1, roAccess, .int 0, none, .span 0 1, .status⟩,
   ⟨0x340A02, 1, 1, .u 1, roAccess, .int 0, none, .span 0 1, .status⟩,
   ⟨0x340B02, 1, 1, .u 1, roAccess, .int 0, none, .span 0 1, .status⟩,
   ⟨0x340C02, 1, 1, .u 1, roAccess, .int 0, none, .span 0 1, .status⟩,
   ⟨0x340D02, 1, 1, .u 1, roAccess, .int 0, none, .span 0 1, .status⟩,
   ⟨0x340E02, 1, 1, .u 1, roAccess, .int 0, none, .span 0 1, .status⟩,
   ⟨0x340F02, 1, 1, .u 1, roAccess, .int 0, none, .span 0 1, .status⟩,
   ⟨0x341002, 1, 1, .u 1, roAccess, .int 0, none, .span 0 1, .status⟩,
   ⟨0x341102, 1, 1, .u 1, roAccess, .int 0, none, .span 0 1, .status⟩,
   ⟨0x341202, 1, 1, .u 1, roAccess, .int 0, none, .span 0 1, .status⟩,
   ⟨0x341302, 1, 1, .u 1, roAccess, .int 0, none, .span 0 1, .status⟩,
   ⟨0x341402, 1, 1, .u 1, roAccess, .int 0, none, .span 0 1, .status⟩]

/-- Rows 440 to 479 of the object table (R352). -/
def objRows11 : List ObjDef :=
  [⟨0x341502, 1, 1, .u 1, roAccess, .int 0, none, .span 0 1, .status⟩,
   ⟨0x341602, 1, 1, .u 1, srAccess, .int 0, (some .stopped), .span 0 1, .setting⟩,
   ⟨0x341702, 1, 1, .u 1, roAccess, .int 0, none, .span 0 1, .status⟩,
   ⟨0x340003, 24, 1, .u 1, srAccess, .int 3, (some .immediate), .span 0 3, .setting⟩,
   ⟨0x340004, 24, 1, .u 1, roAccess, .int 255, none, .any, .status⟩,
   ⟨0x340005, 24, 1, .u 1, srAccess, .int 0, (some .immediate), .span 1 2, .command⟩,
   ⟨0x340006, 24, 1, .u 1, srAccess, .int 0, (some .stopped), .span 0 1, .setting⟩,
   ⟨0x340007, 24, 1, .u 4, srAccess, .int 11466, (some .stopped), .format, .setting⟩,
   ⟨0x340008, 24, 1, .u 4, roAccess, .int 11466, none, .any, .status⟩,
   ⟨0x340009, 24, 1, .u 2, srAccess, .int 800, (some .stopped), .oneOf [400, 450, 500, 550, 600, 650, 700, 750, 800, 850, 900, 950, 1000], .setting⟩,
   ⟨0x34000A, 24, 1, .u 1, srAccess, .int 0, (some .stopped), .mask 0x03, .setting⟩,
   ⟨0x34000B, 24, 1, .u 1, srAccess, .int 96, (some .immediate), .span 1 255, .setting⟩,
   ⟨0x34000C, 24, 1, .u 1, roAccess, .int 0, none, .any, .status⟩,
   ⟨0x34000D, 24, 1, .u 2, roAccess, .int 0, none, .any, .status⟩,
   ⟨0x34000E, 24, 1, .u 1, roAccess, .int 0, none, .any, .status⟩,
   ⟨0x34000F, 24, 1, .u 2, srAccess, .int 60, (some .immediate), .span 1 3600, .setting⟩,
   ⟨0x340010, 24, 1, .u 8, roAccess, .int 0, none, .any, .status⟩,
   ⟨0x340011, 24, 1, .u 1, roAccess, .int 0, none, .any, .status⟩,
   ⟨0x340012, 24, 1, .u 8, roAccess, .int 0, none, .any, .status⟩,
   ⟨0x340013, 24, 1, .u 4, roAccess, .int 0, none, .any, .counter⟩,
   ⟨0x340014, 24, 1, .u 4, roAccess, .int 0, none, .any, .counter⟩,
   ⟨0x340015, 24, 1, .u 4, roAccess, .int 0, none, .any, .counter⟩,
   ⟨0x340016, 24, 1, .u 4, roAccess, .int 0, none, .any, .counter⟩,
   ⟨0x340017, 24, 1, .u 4, roAccess, .int 0, none, .any, .counter⟩,
   ⟨0x340018, 24, 1, .u 4, roAccess, .int 0, none, .any, .counter⟩,
   ⟨0x340019, 24, 1, .u 1, srAccess, .int 0, (some .stopped), .span 0 6, .setting⟩,
   ⟨0x34001A, 24, 1, .u 1, srAccess, .int 0, (some .stopped), .span 0 3, .setting⟩,
   ⟨0x34001B, 24, 1, .u 4, roAccess, .int 0, none, .any, .counter⟩,
   ⟨0x34001C, 24, 1, .u 8, roAccess, .int 0, none, .any, .status⟩,
   ⟨0x34001D, 24, 1, .bool, srAccess, .int 0, (some .immediate), .any, .setting⟩,
   ⟨0x341620, 1, 1, .u 1, srAccess, .int 0, (some .stopped), .span 0 21, .setting⟩,
   ⟨0x341720, 1, 1, .u 1, srAccess, .int 2, (some .stopped), .span 0 21, .setting⟩,
   ⟨0x341621, 1, 1, .u 1, srAccess, .int 3, (some .stopped), .span 0 3, .setting⟩,
   ⟨0x341721, 1, 1, .u 1, srAccess, .int 3, (some .stopped), .span 0 3, .setting⟩,
   ⟨0x340022, 24, 1, .u 4, roAccess, .int 0, none, .any, .counter⟩,
   ⟨0x380001, 1, 1, .u 2, roAccess, .int 65535, none, .any, .status⟩,
   ⟨0x380002, 1, 1, .u 2, srAccess, .int 65535, (some .immediate), .format, .setting⟩,
   ⟨0x380003, 1, 1, .u 2, srAccess, .int 34997, (some .immediate), .format, .setting⟩,
   ⟨0x380004, 1, 1, .u 2, roAccess, .int 34997, none, .any, .status⟩,
   ⟨0x380005, 1, 1, .u 2, srAccess, .int 65535, (some .frame), .format, .setting⟩]

/-- Rows 480 to 519 of the object table (R352). -/
def objRows12 : List ObjDef :=
  [⟨0x380006, 1, 1, .u 1, srAccess, .int 1, (some .frame), .oneOf [1, 2, 20], .setting⟩,
   ⟨0x380007, 1, 1, .u 2, srAccess, .int 512, (some .frame), .span 1 1024, .setting⟩,
   ⟨0x380008, 1, 1, .u 2, srAccess, .int 256, (some .frame), .span 20 2048, .setting⟩,
   ⟨0x380009, 1, 1, .u 2, srAccess, .int 10, (some .frame), .span 1 10000, .setting⟩,
   ⟨0x38000A, 1, 1, .u 2, srAccess, .int 256, (some .frame), .span 64 2048, .setting⟩,
   ⟨0x38000B, 1, 1, .u 1, srAccess, .int 0, (some .frame), .mask 0x07, .setting⟩,
   ⟨0x38000C, 1, 1, .u 4, srAccess, .int 1000, (some .frame), .span 100 3600000, .setting⟩,
   ⟨0x38000D, 1, 1, .bool, srAccess, .int 1, (some .frame), .any, .setting⟩,
   ⟨0x38000E, 1, 1, .u 4, roAccess, .int 0, none, .any, .status⟩,
   ⟨0x38000F, 1, 1, .u 4, roAccess, .int 0, none, .any, .status⟩,
   ⟨0x380010, 1, 1, .u 4, roAccess, .int 0, none, .any, .counter⟩,
   ⟨0x380011, 1, 1, .u 4, roAccess, .int 0, none, .any, .counter⟩,
   ⟨0x380012, 1, 1, .u 4, roAccess, .int 0, none, .any, .counter⟩,
   ⟨0x380013, 1, 1, .u 4, roAccess, .int 0, none, .any, .counter⟩,
   ⟨0x380014, 1, 1, .u 4, roAccess, .int 0, none, .any, .counter⟩,
   ⟨0x380015, 1, 1, .u 4, roAccess, .int 0, none, .any, .counter⟩,
   ⟨0x380016, 1, 1, .u 4, roAccess, .int 0, none, .any, .counter⟩,
   ⟨0x380017, 1, 1, .u 4, roAccess, .int 0, none, .any, .counter⟩,
   ⟨0x380018, 1, 1, .u 4, roAccess, .int 0, none, .any, .counter⟩,
   ⟨0x380019, 1, 1, .u 4, roAccess, .int 0, none, .any, .counter⟩,
   ⟨0x38001A, 1, 1, .u 1, roAccess, .int 0, none, .any, .status⟩,
   ⟨0x38001B, 1, 1, .u 1, roAccess, .int 0, none, .any, .status⟩,
   ⟨0x38001C, 1, 1, .u 4, roAccess, .int 0, none, .any, .counter⟩,
   ⟨0x400030, 512, 1, .u 8, roAccess, .int 0, none, .any, .status⟩,
   ⟨0x400031, 512, 1, .u 4, roAccess, .int 0, none, .any, .status⟩,
   ⟨0x100001, 1, 1, .bytes, roAccess, .bytes [82#8, 121#8, 117#8, 115#8, 116#8, 97#8, 32#8, 68#8, 101#8, 118#8, 105#8, 99#8, 101#8, 115#8], none, .any, .status⟩,
   ⟨0x100002, 1, 1, .bytes, roAccess, .bytes [90#8, 72#8, 53#8, 49#8, 50#8], none, .any, .status⟩,
   ⟨0x100003, 1, 1, .u 2, roAccess, .int 0, none, .any, .status⟩,
   ⟨0x100004, 1, 1, .u 8, roAccess, .int 0, none, .any, .status⟩,
   ⟨0x100005, 1, 1, .u 8, roAccess, .int 0, none, .any, .status⟩,
   ⟨0x100006, 1, 1, .u 2, roAccess, .int 1, none, .any, .status⟩,
   ⟨0x110001, 1, 1, .u 1, roAccess, .int 0, none, .any, .status⟩,
   ⟨0x110002, 1, 1, .u 4, roAccess, .int 0, none, .any, .counter⟩,
   ⟨0x110003, 1, 1, .u 4, roAccess, .int 0, none, .any, .counter⟩,
   ⟨0x110004, 1, 1, .u 8, roAccess, .int 0, none, .any, .status⟩,
   ⟨0x110005, 1, 1, .u 4, roAccess, .int 0, none, .any, .status⟩,
   ⟨0x110006, 1, 1, .bytes, roAccess, .bytes [], none, .any, .status⟩,
   ⟨0x110007, 1, 1, .u 4, roAccess, .int 0, none, .any, .counter⟩,
   ⟨0x110008, 1, 1, .bytes, roAccess, .bytes [], none, .any, .status⟩,
   ⟨0x120001, 1, 1, .u 1, srAccess, .int 0, (some .immediate), .oneOf [1], .command⟩]

/-- Rows 520 to 559 of the object table (R352). -/
def objRows13 : List ObjDef :=
  [⟨0x120002, 1, 1, .u 1, srAccess, .int 0, (some .immediate), .oneOf [1], .command⟩,
   ⟨0x120003, 1, 1, .u 1, roAccess, .int 0, none, .any, .status⟩,
   ⟨0x120004, 1, 1, .u 8, roAccess, .int 0, none, .any, .status⟩,
   ⟨0x120005, 1, 1, .u 2, roAccess, .int 0, none, .any, .status⟩,
   ⟨0x120006, 1, 1, .bytes, roAccess, .bytes [], none, .any, .status⟩,
   ⟨0x120007, 1, 1, .u 2, sAccess, .int 600, (some .frame), .span 60 3600, .setting⟩,
   ⟨0x120008, 1, 1, .u 1, roAccess, .int 0, none, .any, .status⟩,
   ⟨0x700001, 1, 1, .bytes, roAccess, .bytes [], none, .any, .status⟩,
   ⟨0x220001, 1, 1, .bool, srAccess, .int 0, (some .frame), .any, .setting⟩,
   ⟨0x220002, 1, 1, .u 1, srAccess, .int 32, (some .frame), .span 0 63, .setting⟩,
   ⟨0x220003, 1, 1, .u 2, srAccess, .int 5, (some .frame), .span 2 1000, .setting⟩,
   ⟨0x220004, 1, 1, .u 1, srAccess, .int 0, (some .frame), .oneOf [1], .command⟩,
   ⟨0x220005, 1, 1, .u 4, srAccess, .int 600, (some .frame), .span 10 86400, .setting⟩,
   ⟨0x220006, 1, 1, .u 2, roAccess, .int 65535, none, .any, .status⟩,
   ⟨0x220007, 1, 1, .u 1, roAccess, .int 0, none, .any, .status⟩,
   ⟨0x220008, 1, 1, .u 1, roAccess, .int 0, none, .any, .status⟩,
   ⟨0x220009, 1, 1, .u 1, roAccess, .int 0, none, .any, .status⟩,
   ⟨0x22000A, 1, 1, .u 1, roAccess, .int 0, none, .any, .status⟩,
   ⟨0x22000B, 1, 1, .u 8, roAccess, .int 0, none, .any, .status⟩,
   ⟨0x22000C, 1, 1, .u 4, roAccess, .int 0, none, .any, .counter⟩,
   ⟨0x22000D, 1, 1, .u 4, roAccess, .int 0, none, .any, .counter⟩,
   ⟨0x22000E, 1, 1, .u 4, roAccess, .int 0, none, .any, .status⟩,
   ⟨0x22000F, 1, 1, .u 4, roAccess, .int 0, none, .any, .counter⟩,
   ⟨0x600001, 1, 1, .u 1, roAccess, .int 0, none, .any, .status⟩,
   ⟨0x600002, 1, 1, .u 1, sAccess, .int 0, (some .immediate), .span 0 1, .setting⟩,
   ⟨0x600003, 1, 1, .u 2, roAccess, .int 0, none, .any, .status⟩,
   ⟨0x600004, 1, 1, .bytes, srAccess, .bytes [], (some .frame), .format, .setting⟩,
   ⟨0x600005, 1, 1, .bytes, rAccess, .bytes [], (some .immediate), .format, .request⟩,
   ⟨0x600006, 1, 1, .u 2, srAccess, .int 5, (some .frame), .span 2 3600, .setting⟩,
   ⟨0x600007, 1, 1, .u 4, roAccess, .int 0, none, .any, .counter⟩,
   ⟨0x600008, 1, 1, .bytes, srAccess, .bytes [], (some .frame), .format, .setting⟩,
   ⟨0x600009, 1, 1, .u 4, srAccess, .int 1000, (some .frame), .span 100 3600000, .setting⟩,
   ⟨0x600010, 1, 1, .bytes, srAccess, .bytes [], (some .immediate), .format, .request⟩,
   ⟨0x600011, 1, 1, .bytes, roAccess, .bytes [], none, .any, .status⟩,
   ⟨0x600012, 1, 1, .u 1, roAccess, .int 0, none, .any, .status⟩,
   ⟨0x600020, 1, 1, .bytes, srAccess, .bytes [], (some .immediate), .format, .request⟩,
   ⟨0x600021, 1, 1, .u 2, srAccess, .int 65535, (some .frame), .format, .setting⟩,
   ⟨0x600022, 1, 1, .u 4, srAccess, .int 64000000, (some .frame), .format, .setting⟩,
   ⟨0x600023, 1, 1, .u 2, srAccess, .int 2000, (some .frame), .span 100 60000, .setting⟩,
   ⟨0x600024, 1, 1, .u 1, roAccess, .int 0, none, .any, .status⟩]

/-- Rows 560 to 599 of the object table (R352). -/
def objRows14 : List ObjDef :=
  [⟨0x600025, 1, 1, .u 8, roAccess, .int 0, none, .any, .status⟩,
   ⟨0x600030, 1, 1, .bytes, rAccess, .bytes [], (some .immediate), .format, .request⟩,
   ⟨0x600031, 1, 1, .u 4, srAccess, .int 10000, (some .frame), .span 1000 600000, .setting⟩,
   ⟨0x600032, 1, 1, .bytes, roAccess, .bytes [], none, .any, .status⟩,
   ⟨0x240001, 4, 1, .u 1, roAccess, .int 0, none, .any, .status⟩,
   ⟨0x240002, 4, 1, .u 1, roAccess, .int 0, none, .any, .status⟩,
   ⟨0x240003, 4, 1, .u 4, roAccess, .int 0, none, .any, .counter⟩,
   ⟨0x240004, 4, 1, .u 4, roAccess, .int 0, none, .any, .counter⟩,
   ⟨0x240005, 4, 1, .u 4, roAccess, .int 0, none, .any, .counter⟩,
   ⟨0x240006, 4, 1, .u 4, roAccess, .int 0, none, .any, .counter⟩,
   ⟨0x240007, 4, 1, .u 4, roAccess, .int 0, none, .any, .counter⟩,
   ⟨0x140001, 1, 1, .u 1, roAccess, .int 0, none, .any, .status⟩,
   ⟨0x140002, 1, 1, .u 2, keyAccess, .int 0, (some .frame), .format, .security⟩,
   ⟨0x140003, 1, 1, .bytes, keyAccess, .bytes [], (some .immediate), .format, .security⟩,
   ⟨0x140004, 1, 1, .bytes, keyAccess, .bytes [], (some .immediate), .format, .security⟩,
   ⟨0x140005, 1, 1, .u 1, roAccess, .int 0, none, .any, .status⟩,
   ⟨0x140006, 1, 1, .u 1, sAccess, .int 0, (some .immediate), .span 0 1, .security⟩,
   ⟨0x140007, 1, 1, .bytes, keyAccess, .bytes [], (some .frame), .format, .security⟩,
   ⟨0x140008, 1, 1, .bytes, keyAccess, .bytes [], (some .frame), .format, .security⟩,
   ⟨0x140009, 1, 1, .bool, roAccess, .int 0, none, .any, .status⟩,
   ⟨0x14000A, 1, 1, .u 4, roAccess, .int 0, none, .any, .counter⟩,
   ⟨0x180001, 1, 1, .bytes, srAccess, .bytes [], (some .immediate), .format, .request⟩,
   ⟨0x180002, 1, 1, .bytes, srAccess, .bytes [], (some .immediate), .format, .request⟩,
   ⟨0x180003, 1, 1, .u 1, roAccess, .int 0, none, .any, .status⟩,
   ⟨0x180004, 1, 1, .u 4, roAccess, .int 0, none, .any, .status⟩,
   ⟨0x180005, 1, 1, .u 1, srAccess, .int 0, (some .frame), .oneOf [1], .command⟩,
   ⟨0x180006, 1, 1, .u 1, srAccess, .int 0, (some .immediate), .oneOf [1], .command⟩,
   ⟨0x180007, 1, 1, .u 1, srAccess, .int 0, (some .frame), .oneOf [1], .command⟩,
   ⟨0x180008, 1, 1, .u 2, srAccess, .int 300, (some .frame), .span 60 3600, .setting⟩,
   ⟨0x180009, 1, 1, .u 2, srAccess, .int 60, (some .frame), .span 10 600, .setting⟩,
   ⟨0x18000A, 1, 1, .u 1, roAccess, .int 0, none, .any, .status⟩,
   ⟨0x18000B, 1, 1, .bytes, roAccess, .bytes [], none, .any, .status⟩,
   ⟨0x18000C, 1, 1, .u 8, roAccess, .int 0, none, .any, .status⟩,
   ⟨0x18000D, 1, 1, .u 8, roAccess, .int 0, none, .any, .status⟩,
   ⟨0x18000E, 1, 1, .u 4, roAccess, .int 0, none, .any, .counter⟩,
   ⟨0x18000F, 1, 1, .u 1, srAccess, .int 0, (some .immediate), .oneOf [1], .command⟩,
   ⟨0x200001, 1, 1, .u 1, roAccess, .int 0, none, .any, .status⟩,
   ⟨0x200002, 1, 1, .u 4, roAccess, .int 0, none, .any, .status⟩,
   ⟨0x200003, 1, 1, .u 4, roAccess, .int 0, none, .any, .status⟩,
   ⟨0x200004, 1, 1, .u 4, srAccess, .int 12000, (some .frame), .span 3500 12000, .setting⟩]

/-- Rows 600 to 622 of the object table (R352). -/
def objRows15 : List ObjDef :=
  [⟨0x200005, 1, 1, .u 1, roAccess, .int 0, none, .any, .status⟩,
   ⟨0x200006, 1, 1, .bytes, srAccess, .bytes [], (some .frame), .format, .setting⟩,
   ⟨0x200007, 1, 1, .u 1, srAccess, .int 0, (some .frame), .span 0 1, .setting⟩,
   ⟨0x200008, 1, 1, .bool, srAccess, .int 0, (some .frame), .any, .setting⟩,
   ⟨0x200009, 1, 1, .bytes, roAccess, .bytes [], none, .any, .status⟩,
   ⟨0x200010, 1, 1, .u 1, srAccess, .int 63, (some .frame), .mask 0x3F, .setting⟩,
   ⟨0x200011, 1, 1, .u 1, roAccess, .int 255, none, .any, .status⟩,
   ⟨0x200020, 1, 1, .i 2, roAccess, .int 0, none, .any, .status⟩,
   ⟨0x200021, 1, 1, .i 2, roAccess, .int 0, none, .any, .status⟩,
   ⟨0x200022, 1, 1, .i 2, roAccess, .int 0, none, .any, .status⟩,
   ⟨0x200023, 1, 1, .u 1, roAccess, .int 0, none, .any, .status⟩,
   ⟨0x200024, 1, 1, .u 4, roAccess, .int 0, none, .any, .counter⟩,
   ⟨0x200030, 1, 1, .u 2, srAccess, .int 0, (some .frame), .oneOf [42241], .command⟩,
   ⟨0x200031, 1, 1, .u 2, srAccess, .int 0, (some .frame), .oneOf [42241], .command⟩,
   ⟨0x200032, 1, 1, .u 2, srAccess, .int 0, (some .immediate), .format, .command⟩,
   ⟨0x200033, 1, 1, .u 1, srAccess, .int 0, (some .frame), .oneOf [1], .command⟩,
   ⟨0x200034, 1, 1, .u 1, srAccess, .int 4, (some .frame), .mask 0x1F, .setting⟩,
   ⟨0x200035, 1, 1, .u 4, srAccess, .int 3600, (some .frame), .span 1 4294967295, .setting⟩,
   ⟨0x200036, 1, 1, .u 1, srAccess, .int 0, (some .frame), .any, .setting⟩,
   ⟨0x200037, 1, 1, .u 1, roAccess, .int 0, none, .any, .status⟩,
   ⟨0x200038, 1, 1, .u 8, roAccess, .int 0, none, .any, .status⟩,
   ⟨0x200039, 1, 1, .u 4, roAccess, .int 0, none, .any, .counter⟩,
   ⟨0x210001, 1, 12, .u 4, roAccess, .int 0, none, .any, .status⟩]

/-- Every object of the dictionary (Table 17.13). -/
def objTable : List ObjDef :=
  objRows0 ++ objRows1 ++ objRows2 ++ objRows3 ++ objRows4 ++ objRows5 ++ objRows6 ++ objRows7 ++ objRows8 ++ objRows9 ++ objRows10 ++ objRows11 ++ objRows12 ++ objRows13 ++ objRows14 ++ objRows15

/-- ASYM_1, LINK_DELAY_1 and NEIGHBOR_RATE_1 are absent on branch ports, ports 3 to 18 (R206). -/
def branchAbsent (idx sub : Nat) : Bool :=
  Nat.ble 0x3103 idx && Nat.ble idx 0x3112 && (Nat.beq sub 5 || Nat.beq sub 7 || Nat.beq sub 9)

/-- The row that defines an index and sub-index, if one does (R333). -/
def findObj (idx sub : Nat) : Option ObjDef :=
  if branchAbsent idx sub then none else objTable.find? (fun d => d.holds idx sub)

/-- The highest sub-index present at an index: what sub-index 0 reads (R333); `none` when the index does not exist. -/
def highestSub (idx : Nat) : Option Nat :=
  let subs := (objTable.filter (fun d => d.holdsIndex idx)).map (fun d => d.key % 256 + d.subs - 1)
  if subs.isEmpty then none else some (subs.foldl max 0)

end Sys2Proof.Machine
end

