-- ==== Sys2Proof/Machine/State.lean ====
section
/-! DEFINITION. The state of the ZH512 as plain data: every register, queue, buffer, counter and mode that the spec gives
the hub, grouped by chapter; `State.reset`; and the reasons a step can stop.  Each field's docstring cites the rule that
names it.  A field whose reset value the spec does not state starts empty, zero or false (assumption log, entry 3). -/

namespace Sys2Proof.Machine

/-- A sparse array: pairs of an index and a value, indices strictly rising; an index not listed holds the default that
its reader names. -/
abbrev Map (β : Type) := List (Nat × β)

/-- The values of the dictionary's objects that differ from their defaults, keyed by `index * 256 + sub` (R333). -/
abbrev Store := List (Nat × Val)

/-- Why a step stops for good. -/
inductive Fault where
  /-- Raised by no meaning of this model: every command of the table has an effect. Kept so that the interface has a
  fault type. Safe: a fault stops a run. -/
  | none
  deriving DecidableEq, Repr

/-- Why a step is refused. -/
inductive Refusal where
  /-- Raised by a dispatch arm whose command has no meaning yet. Safe. -/
  | notModelled (mnemonic : String)
  deriving DecidableEq, Repr

/-- One event-log entry (R351, Table 17.10). -/
structure Event where
  seq : Nat
  code : Nat
  unit : Nat
  notRunning : Bool
  time : Nat
  frac : Nat
  param : Bytes
  deriving DecidableEq, Repr

/-- The event log in the retained region: at most 16,384 entries, oldest first (R351). -/
structure EventLog where
  /-- Held entries, oldest first (0x1100:06, R351). -/
  entries : List Event := []
  /-- SEQ the next entry will carry (0x1100:05, Table 17.9). Reset 0. -/
  nextSeq : Nat := 0
  /-- Entries overwritten since the last full reset (0x1100:07). Reset 0. -/
  overwritten : Nat := 0
  deriving DecidableEq, Repr

/-! ### Creels, excitation, converters (03_creels.md, 04_excitation.md, 05_converters.md) -/

/-- A joined RECOV span of one creel: first and last instants inside, highest tier, and whether it is in the event log
(R47, R48). -/
structure RecovSpan where
  lo : Nat
  hi : Nat
  tier : Nat
  logged : Bool := false
  deriving DecidableEq, Repr

/-- A wire-break verdict: its test hold and whether the check failed (R52, R55). -/
structure Verdict where
  testHold : Nat
  failed : Bool
  deriving DecidableEq, Repr

/-- The verdicts that hold or clear OPEN for one kind of check: the latest, the one before it, and the test hold of the
last check that passed (R55, R70). -/
structure OpenTrack where
  last : Option Verdict := none
  prev : Option Verdict := none
  lastGood : Option Nat := none
  deriving DecidableEq, Repr

/-- The check run of one creel: inputs left (16 is the sense lead, R70), the start of the period whose reserved window
takes the next check, whether a later due run waits for this one (R49, R53). -/
structure WbRun where
  pending : List Nat := []
  nextPeriod : Nat := 0
  delayed : Bool := false
  deriving DecidableEq, Repr

/-- State of one creel beyond its objects. -/
structure Creel where
  /-- RECOV spans not yet past use, newest first (R47, 03_creels.md). -/
  spans : List RecovSpan := []
  /-- End of the second-tier span: last instant with RECOV (Table 3.7). -/
  t2Until : Nat := 0
  /-- End of the third-tier span of the creel's quadrant (Table 3.7). -/
  t3Until : Nat := 0
  /-- A second-tier excess was seen since the present input was connected (R39, R46). -/
  t2Seen : Bool := false
  /-- Discharge lasts 32 ticks at every switch up to this instant (Table 3.7). -/
  dischargeUntil : Nat := 0
  /-- The pending wire-break run (R49). -/
  wb : WbRun := {}
  /-- The last check's input, baseline hold and test hold (R51, R209). -/
  wbLast : Option (Nat × Nat × Nat) := none
  /-- Sense-lead verdicts (R70). -/
  sense : OpenTrack := {}
  /-- The watch comparator's output is masked until this instant (R60). -/
  watchMask : Nat := 0
  deriving DecidableEq, Repr

/-- State of one excitation driver beyond its objects (04_excitation.md). -/
structure Driver where
  /-- t0 of the last switching event (R75). -/
  lastSwitch : Option Nat := none
  /-- EXC_SETTLE after the last switching event (Tables 4.3, 4.4). -/
  settleAt : Nat := 0
  /-- Last hold instant that carries FILL from the switching events so far, joined where they meet (Table 4.4, R76). -/
  fillEnd : Nat := 0
  /-- EXC_STATE[1]: settling after a switching event (Table 4.5). -/
  settling : Bool := false
  /-- First slot boundary of the present stay out of regulation (R68, R69). -/
  oorSince : Option Nat := none
  /-- The driver is tripped (R69). -/
  tripped : Bool := false
  /-- A switch-over's first enable of this driver is being watched (R367). -/
  drill : Bool := false
  deriving DecidableEq, Repr

/-- Enable instants of a converter's three reference buffers (R71). -/
structure Buffers where
  internal : Option Nat := none
  refin : Option Nat := none
  ratio : Option Nat := none
  deriving DecidableEq, Repr

/-- State of one converter beyond its objects (05_converters.md). -/
structure Converter where
  /-- Reference buffers (R71). -/
  buf : Buffers := {}
  /-- Frame index of the last frame with a reference check (R87). -/
  refFrame : Option Nat := none
  /-- CONV_STATE[4]: the last reference check failed (R87). -/
  refFailed : Bool := false
  deriving DecidableEq, Repr

/-- What started an injected sequence (R89, Table 5.5). -/
structure InjStart where
  cause : Nat
  source : Nat
  late : Bool
  start : Nat
  queued : Bool
  deriving DecidableEq, Repr

/-- A running injected sequence: its start, mode and entries as accepted, the entry that runs now with the boundary at
which it began, the next entry, the last hold, and the displaced samples of its span (R90 to R93). -/
structure InjRun where
  start : InjStart
  mode : Nat
  entries : List Nat
  /-- Its start boundary has come with the converter running (R121). -/
  started : Bool := false
  nextIdx : Nat := 0
  current : Option (Nat × Nat) := none
  lastHold : Nat := 0
  displaced : Nat := 0
  deriving DecidableEq, Repr

/-- An injection record being gathered: samples still to be formed follow the queue of holds (R94). -/
structure InjRecord where
  start : InjStart
  mode : Nat
  channel : Nat
  expected : Option Nat := none
  aborted : Bool := false
  samples : List (Nat × Nat × Nat) := []
  deriving DecidableEq, Repr

/-- The span of a finished PREEMPT run of which an entry may still be displaced (R91): its start, its end, its count so far. -/
structure PreSpan where
  lo : Nat
  hi : Nat
  displaced : Nat
  deriving DecidableEq, Repr

/-- Sequencer state of one converter (R88 to R93). -/
structure Injector where
  run : Option InjRun := none
  waiting : Option InjStart := none
  spans : List PreSpan := []
  deriving DecidableEq, Repr

/-- A coefficient pair applied to a sample (R102). -/
structure Coef where
  g : Int := 1073741824
  o : Int := 0
  deriving DecidableEq, Repr

/-- Side-band bits of a sample (R125), and the parts that only the grid island keeps. -/
structure Flags where
  poison : Bool := false
  opn : Bool := false
  fill : Bool := false
  recov : Bool := false
  settle : Bool := false
  clip : Bool := false
  ovr : Bool := false
  timeq : Bool := false
  deriving DecidableEq, Repr

/-- A held code that waits 512 ticks in the grid island (R58, R80): instant, channel, converter path, code, flags known
at the hold, the blanking selection and tail in force at the hold, coefficients, and for an injected sample the
converter, its entry index and the run's start. -/
structure Hold where
  t : Nat
  ch : Nat
  path : Nat
  code : Int
  flags : Flags
  blankSel : Nat
  blankTail : Nat
  fillEnd : Nat
  coef : Coef
  inj : Option (Nat × Nat × Nat)
  /-- In a comparison frame, the other path's CAL output at the same instant (R119). -/
  other : Option Int := none
  /-- Interval of the channel's samples at the hold. -/
  interval : Nat := 0
  deriving DecidableEq, Repr

/-! ### Drafting (07_drafting.md) -/

/-- One section's stored coefficients (R137, Table 7.10). -/
structure SectionCoef where
  b0 : Int
  b1 : Int
  b2 : Int
  a1 : Int
  a2 : Int
  s : Nat
  d : Nat
  deriving DecidableEq, Repr

/-- A filter profile's active content (R147). -/
structure Profile where
  passband : Nat := 32768
  sections : List SectionCoef := []
  deriving DecidableEq, Repr

/-- The settings under which a channel's chain computes (R145): input interval, offset of the instant from the aligned
instant, occurrence count, entry word, ALIGN, DCB and OUT settings, profile, SETTLE_LEN and anchor. -/
structure Plan where
  delta : Nat
  d : Nat
  r : Nat := 1
  entry : Nat
  align : Bool
  dcb : Bool
  k : Nat
  freeze : Bool
  gain : Int
  round : Nat
  profSel : Nat
  profile : Profile
  settleLen : Nat
  anchor : Nat
  deriving DecidableEq, Repr

/-- What a change at a boundary does to a channel's state (Table 7.5, R133, R134, R148). -/
inductive DraftAct where
  | keep | clearAll | clearDcb | leave | start
  deriving DecidableEq, Repr

/-- An item of the path from the grid island to drafting: a formed sample, or a change of one channel's plan that takes
its place in grid-time order (R12, R145). -/
inductive DraftItem where
  | sample (t ch path : Nat) (code : Int) (flags : Flags) (fillEnd : Nat) (coef : Coef)
  | change (t0 ch : Nat) (plan : Option Plan) (act : DraftAct) (settle : Bool)
  deriving DecidableEq, Repr

/-- An item that waits in the grid island: a hold, or a plan change that keeps its place among the holds (R80, R88). -/
inductive GridItem where
  | hold (h : Hold)
  | change (t0 ch : Nat) (plan : Option Plan) (act : DraftAct) (settle : Bool)
  deriving DecidableEq, Repr

/-- A sample inside the chain: value, aligned index, instant and flags. -/
structure ChainWord where
  v : Int
  n : Nat
  t : Nat
  flags : Flags
  deriving DecidableEq, Repr

/-- One section's state (R137) and the flags gathered for its next passed output (Table 7.4). -/
structure SectionState where
  x1 : Int := 0
  x2 : Int := 0
  y1 : Int := 0
  y2 : Int := 0
  acc : Flags := {}
  deriving DecidableEq, Repr

/-- Drafting state of one channel (07_drafting.md). -/
structure Chain where
  /-- The plan in force; `none` when drafting does not run for the channel (R124). -/
  plan : Option Plan := none
  /-- A plan whose settings apply from an output instant on, with its SETTLE (R145). -/
  next : List (Nat × Plan × DraftAct × Bool) := []
  /-- Samples after a clear start with instants after this t0 (R134). -/
  clearedAt : Nat := 0
  /-- ALIGN history, newest first, at most four (R131). -/
  hist : List ChainWord := []
  /-- DC-blocker estimate in Q1.47; `none` after a clear (R135). -/
  est : Option Int := none
  /-- The last CAL output without FILL (R128). -/
  holdVal : Int := 0
  /-- Section states (R137). -/
  secs : List SectionState := []
  /-- The last input carried FILL (R76), and the last input before that FILL (R146). -/
  inFill : Bool := false
  fillAfter : Nat := 0
  /-- SETTLE starts with the first output instant at or after this (R146). -/
  settleFrom : Option Nat := none
  /-- Instant of the last word of the running SETTLE interval; 0 while none runs (R76, R146). -/
  settleUntil : Nat := 0
  /-- Instant of the last word of the running or last SETTLE interval (SETTLE_END). -/
  settleEnd : Nat := 0
  /-- Instant of the last output, and of the last input. -/
  lastOut : Nat := 0
  lastIn : Nat := 0
  /-- DRAFT_STATE[4], [3], [2] (Table 7.7). -/
  clipSeen : Bool := false
  frozen : Bool := false
  /-- POISON goes on the output word being formed (R143). -/
  poison : Bool := false
  deriving DecidableEq, Repr

/-- An output word with its channel and instant (R140): value and flags as Table 7.3 lays them out. -/
structure OutWord where
  ch : Nat
  t : Nat
  word : Nat
  deriving DecidableEq, Repr

/-- A SYNC waiting for its boundary: T_s, and whether the pin and a command caused it (R148). -/
structure SyncPending where
  ts : Nat
  pin : Bool
  cmd : Bool
  deriving DecidableEq, Repr

/-- One entry of a feed queue (R242): channel, instant, interval at which the channel outputs, output word. -/
structure FeedEntry where
  ch : Nat
  t : Nat
  interval : Nat
  word : Nat
  /-- OPEN_HOLD was in force at the word's instant (R56); read in the delay line alone. -/
  hold : Bool := false
  deriving DecidableEq, Repr

/-- Drafting island. -/
structure DraftState where
  /-- Items on their way into drafting, oldest first (R12, R125). -/
  queue : List DraftItem := []
  /-- Per-channel chains (R124). -/
  chains : Map Chain := []
  /-- The plan each channel has from the last boundary on (R145). -/
  plans : Map Plan := []
  /-- Decimator anchor of the channels a SYNC has reached (R144, R148). Reset 0. -/
  anchors : Map Nat := []
  /-- Pending SYNCs by boundary (R148). -/
  sync : List SyncPending := []
  /-- The OPEN_HOLD delay line in DRAM, oldest first per channel (R56). -/
  delay : Map (List FeedEntry) := []
  deriving DecidableEq, Repr

/-- The sampling path. -/
structure SampState where
  /-- The last slot boundary that has passed (R79). -/
  lastSlot : Nat := 0
  /-- The last grid frame boundary that has passed (R2). -/
  lastFrame : Nat := 0
  /-- The bobbin writer's staging overflows as raw words reach it, as the last slot boundary showed (R27). -/
  writerFault : Bool := false
  creels : Map Creel := []
  drivers : Map Driver := []
  convs : Map Converter := []
  injectors : Map Injector := []
  /-- Injection records being gathered, by converter, oldest first (R94). -/
  injRecords : Map (List InjRecord) := []
  /-- Holds of the last 512 ticks, oldest first (R58, R80). -/
  holds : List GridItem := []
  /-- CODE of each channel's previous raw word under the sequence in force (R92). -/
  prevCode : Map Int := []
  /-- Input-check verdicts per channel (R55). -/
  inputOpen : Map OpenTrack := []
  /-- Blanking intervals per BLANK input, newest first: fine times of assertion and release (R57, R58). -/
  blank : Map (List (Nat × Option Nat)) := []
  /-- First and last boundary of the present or last REFIN excursion; whether it is out of range now (R73). -/
  refinFirst : Nat := 0
  refinLast : Option Nat := none
  refinOut : Bool := false
  deriving DecidableEq, Repr

/-! ### Calibration (06_calibration.md) -/

/-- What a calibration run has measured for one combination, still to be accepted (R110). -/
structure RunResult where
  combo : Nat
  gt : Int
  ot : Int
  deriving DecidableEq, Repr

/-- What a calibration run has formed (R110 to R112): the path, the user set that it fills and its content, the skew trim, the
end of the run and T_q there. -/
structure FormedRun where
  path : Nat
  slot : Nat
  content : Bytes
  skew : Int
  stop : Nat
  tq : Int
  deriving DecidableEq, Repr

/-- A running sweep (R116, R120): its first frame boundary, its method, paths refused at the first comparison, the reference
sources that were settled as the run of each path began (R110), a formed run waiting for acceptance, and whether the sweep is
to be abandoned after this path (R115). -/
structure Sweep where
  start : Nat
  method : Nat
  refused : List Nat := []
  refs : Map (List Nat) := []
  formed : Option FormedRun := none
  rejected : Bool := false
  aborting : Bool := false
  deriving DecidableEq, Repr

/-- Calibration scheduling. -/
structure CalState where
  sweep : Option Sweep := none
  /-- The converter that C32 stands in for: connected, and delivering (Table 6.6). -/
  connected : Option Nat := none
  serving : Option Nat := none
  /-- Largest difference found so far in the comparison frame (R119). -/
  dev : Nat := 0
  /-- Converters stopped for the compatibility method (R120). -/
  stopped : List Nat := []
  /-- A sweep request: boundary and whether automatic (R113). -/
  request : Option (Nat × Bool) := none
  /-- The temperature condition held at the last boundary (R113). -/
  tempCond : Bool := false
  /-- When the interval was last counted from, in ticks (R113). -/
  intervalFrom : Option Nat := none
  /-- CAL_STATE[4], [3], [2] (Table 6.7). -/
  saturated : Bool := false
  rejection : Bool := false
  noRef : Bool := false
  /-- CAL_ON_START's request has been made (R113). -/
  onStartDone : Bool := false
  /-- Enable times of C32's two ratiometric buffers with the creel each one follows (R117). -/
  ratioA : Option (Nat × Nat) := none
  ratioB : Option (Nat × Nat) := none
  deriving DecidableEq, Repr

/-! ### The dictionary (17_dictionary.md) -/

/-- A pending write (R338 to R340): its boundary, whether it is timed, object, value, principal code, batch number (0
alone) and order of acceptance. -/
structure PendWrite where
  t : Nat
  timed : Bool
  key : Nat
  val : Val
  principal : Nat
  batch : Nat
  order : Nat
  deriving DecidableEq, Repr

/-- A segmented write in progress (R343): requester, object, TOTAL, pieces received as block offset, block length, block CRC, piece offset and bytes, blocks held as
offset and length, and the time of its last request. -/
structure SegWrite where
  owner : Path × Nat
  key : Nat
  total : Nat
  pieces : List (Nat × Nat × Nat × Nat × Bytes)
  held : List (Nat × Bytes)
  last : Nat
  deriving DecidableEq, Repr

/-- A SEG_READ snapshot (R344): requester, object, value, bytes read so far, grid time taken, time of the last read. -/
structure Snapshot where
  owner : Path × Nat
  key : Nat
  value : Bytes
  reached : Nat
  taken : Nat
  last : Nat
  deriving DecidableEq, Repr

/-- A session (R346, R347): id, principal, path it is bound to, session key, whether it is live, the last REQ_ID, and
when its last request came. -/
structure Session where
  id : Nat
  principal : Principal
  path : Path
  key : Bytes
  live : Bool
  lastReq : Option Nat
  last : Nat
  deriving DecidableEq, Repr

/-- A stored copy in the boot flash (R348): when it was written, and its objects. -/
structure StoredCopy where
  seq : Nat
  objs : Store
  deriving DecidableEq, Repr

/-- The dictionary's own state. -/
structure DictState where
  /-- Pending writes in order of acceptance (R338 to R340); at most 256 timed ones. -/
  pend : List PendWrite := []
  /-- Order of the next accepted write (R339). -/
  order : Nat := 1
  /-- Number of the next batch (Table 17.12). -/
  batchNo : Nat := 1
  /-- Segmented writes, at most 8 (R343). -/
  segs : List SegWrite := []
  /-- SEG_READ snapshots (R344). -/
  snaps : List Snapshot := []
  /-- Sessions, live and opening (R346, R347). -/
  sessions : List Session := []
  /-- A STORE or RESTORE_DEFAULTS waits for its snapshot boundary, and which (R348, R349). -/
  storeAt : Option (Nat × Bool) := none
  /-- The copy being written to flash (R348). -/
  storing : Option Store := none
  /-- The objects as sampled at the last frame boundary, for COUNTER_SNAPSHOT (0x7000:01). -/
  counters : Option Store := none
  deriving DecidableEq, Repr

/-! ### Time (09_time_core.md) -/

/-- A strand beyond its objects (R162 to R165). -/
structure Strand where
  /-- Strand time in 1/65536 tick (R162). Reset 0. -/
  time : Int := 0
  /-- Offsets of the consecutive valid measurements, newest first, at most 16 (Table 9.4). -/
  window : List Int := []
  /-- The strand has had its first lock (R162). -/
  locked : Bool := false
  /-- The strand's source is present (Table 9.1). -/
  present : Bool := false
  /-- Strand time - source time at the last valid measurement, in 1/65536 tick (Table 9.11). -/
  err : Int := 0
  /-- The servo's rate without the 150 ppm of R165, in 0.001 ppm: rate estimate and phase trim (R163). -/
  servo : Int := 0
  /-- The rate estimate of the source without the phase trim, in 0.001 ppm (R163, R199). -/
  freq : Int := 0
  /-- The servo's average of the offsets, time constant 256 measurements, in 1/65536 tick (R163). -/
  avg : Int := 0
  /-- The voter excludes the strand (R168). -/
  excluded : Bool := false
  /-- In OSC_FAULT: since when the oscillator has been within 50 ppm of both others (Table 9.4). -/
  clearSince : Option Nat := none
  deriving DecidableEq, Repr

/-- A ToD sentence sent on TOD_TX: the UTC second it labels and whether its mode field says valid (R180). -/
structure TodSent where
  utc : Int
  valid : Bool
  deriving DecidableEq, Repr

/-- A re-epoch in its pause (Table 9.6): T_e, D and T_e′. -/
structure Reepoch where
  te : Nat
  d : Int
  start : Nat
  deriving DecidableEq, Repr

/-- The time core. -/
structure TimeState where
  /-- Strands A, B, C by number. -/
  strands : Map Strand := []
  /-- TIMEQ holds for the frame that runs (R169). -/
  timeq : Bool := false
  /-- End of the grid slew that runs (R171). -/
  slewEnd : Option Nat := none
  /-- Twice the target of the last vote, in 1/65536 tick (Table 9.5). -/
  target2 : Int := 0
  /-- The strand whose oscillator the DPLL uses (R171). -/
  refOsc : Nat := 0
  /-- The tracked rate: the target's rate as the DPLL last held it, against the reference oscillator, in 0.001 ppm (R171). -/
  rate : Int := 0
  /-- What the slew planned at the last vote adds to the rate, and until when (R171). -/
  slewOff : Int := 0
  slewUntil : Nat := 0
  /-- The grid time up to which the strands' times are brought (R162). -/
  strandsAt : Nat := 0
  /-- Cycles of the crystal in strand A's last 4,096 ms, as the last frame boundary showed (R181). -/
  crystal : Nat := 0
  /-- The hub's own count when a strand's source first became present after the full reset (R172). -/
  firstPresent : Option Nat := none
  /-- The hub's own count when the first strand entered TRACKING (R170). -/
  firstTracking : Option Nat := none
  /-- The strand that was the first to enter TRACKING (R170). -/
  firstStrand : Nat := 0
  /-- The hub's own count when P1 was switched on (R172). -/
  p1On : Nat := 0
  /-- A re-epoch request's T_e (R176). -/
  reepochAt : Option Nat := none
  /-- The re-epoch between T_e and T_e′ (R177). -/
  pause : Option Reepoch := none
  /-- The last PPS_IN edge that awaits its label: own time in ticks, and the corrected stamps of strands A, B, C (R179). -/
  ppsEdge : Option (Nat × List Int) := none
  /-- PPS_STATE[1], and the time of the last valid edge (Table 9.10). -/
  labelOk : Bool := false
  ppsLast : Option Nat := none
  /-- The last PPS_OUT edge, when the pulse that it began falls, and the last sentence sent on TOD_TX (R180). -/
  ppsOut : Option Nat := none
  ppsFall : Option Nat := none
  tod : Option TodSent := none
  /-- Rate of the transmit timebase in 0.001 ppm (R199). -/
  txRate : Int := 0
  /-- When it last changed. -/
  txStepAt : Nat := 0
  deriving DecidableEq, Repr

/-! ### Network time and egress (10_network_time.md, 16_twine.md) -/

/-- An Announce sender (R195): port, clock and port number of the sender, its last Announce messages' times newest
first, its announce interval, its last data, and whether it is qualified. -/
structure Sender where
  port : Nat
  clock : Nat
  portNumber : Nat
  times : List Nat
  interval : Nat
  data : Announce
  qualified : Bool
  deriving DecidableEq, Repr

/-- Peer-delay state of a lane (R192, R194).  Delays are exact, in 2^-20 ns / (2 * 10^9). -/
structure PeerDelay where
  /-- Accepted values, newest first, at most 16. -/
  held : List Int := []
  /-- The link delay has become valid (8th accepted value). -/
  valid : Bool := false
  /-- Departure stamp and sequenceId of the Pdelay_Req that awaits its response. -/
  asked : Option (Nat × Nat) := none
  /-- sequenceId of the next Pdelay_Req. -/
  seq : Nat := 0
  /-- Times of the requests answered within the last second (R194). -/
  answered : List Nat := []
  /-- When the next Pdelay_Req is due (R192). -/
  nextReq : Nat := 0
  deriving DecidableEq, Repr

/-- What is written into a PTP message as it departs. -/
inductive PtpFix where
  | asIs
  /-- d + A of the ingress lane, exact, and the ingress stamp in the transmit timebase (R197). -/
  | residence (dA : Int) (ingress : Nat)
  /-- Arrival stamp t2 of the Pdelay_Req (R194). -/
  | turnaround (t2 : Nat)
  /-- The grid time of its own transmit stamp (R200). -/
  | gridTime
  /-- Strand A's time at its own transmit stamp (R198). -/
  | strandA
  /-- The departure stamp t1 is kept for the exchange (R192). -/
  | departure
  deriving DecidableEq, Repr

/-- The content of an outgoing frame: a Twine frame from its header to its end-to-end CRC, or a PTP message. -/
inductive TxBody where
  | twine (b : Bytes)
  | ptp (m : PtpMsg) (fix : PtpFix)
  deriving DecidableEq, Repr

/-- A frame that waits on an egress port: launch class (Table 10.7: 0 own TT, 1 forwarded TT, 2 PTP, 3 to 5 BE0 to BE2),
content, the lane it must use if any, and whether it is sent by cut-through (R320). -/
structure TxFrame where
  cls : Nat
  body : TxBody
  lane : Option Nat := none
  cut : Bool := false
  /-- The Ethernet header of a Twine frame on the line: destination, source, EtherType (R309). -/
  eth : Bytes := []
  deriving DecidableEq, Repr

/-- An egress port (R201 to R204, R301). -/
structure Egress where
  /-- Frames that wait, in order of arrival. -/
  queue : List TxFrame := []
  /-- Launch queue: launch time L and frame, at most 64 (R204). -/
  launch : List (Nat × TxFrame) := []
  /-- Frames on the line, by lane. -/
  line : Map TxFrame := []
  /-- The stripe number of the port's next Twine frame (R301). -/
  stripe : Nat := 0
  /-- Own live skeins that wait for an OWN window, in the order in which they closed (R319). -/
  waiting : List TxFrame := []
  /-- How many of them, from the front, are already counted in WINDOW_OVERRUN_COUNT (R325). -/
  overrun : Nat := 0
  /-- The actual transmit stamp of the last launched frame, as reported to its owner, in 1/65536 tick (R204). -/
  stamp : Option Nat := none
  deriving DecidableEq, Repr

/-- Network time. -/
structure PtpState where
  /-- Announce senders (R195). -/
  senders : List Sender := []
  /-- When a qualified Announce was last received, in the hub's time (R172). -/
  lastQualified : Nat := 0
  /-- ANNOUNCE_TIMEOUT announce intervals have passed without a qualified Announce (R172). -/
  quiet : Bool := false
  /-- The last valid Sync from the selected grandmaster by port: when it arrived, and its Sync interval in ticks (Tables 9.1, 10.5). -/
  syncOk : Map (Nat × Nat) := []
  /-- Peer delay by lane. -/
  lanes : Map PeerDelay := []
  /-- The last 32 pairs per message type: clock, port number, sequenceId (R197). -/
  seenSync : List (Nat × Nat × Nat) := []
  seenAnnounce : List (Nat × Nat × Nat) := []
  /-- clockClass 6 has been reached since the last full reset (Table 10.6). -/
  class6 : Bool := false
  /-- sequenceId of the next Sync, Announce and twin time message. -/
  syncSeq : Nat := 0
  announceSeq : Nat := 0
  twinSeq : Nat := 0
  /-- Egress ports by portNumber. -/
  egress : Map Egress := []
  deriving DecidableEq, Repr

/-! ### Lanes (15_lanes.md) -/

/-- A step under way (Table 15.3): the code left, the new code, the GO_ACK time (`none` before it), whether an attempt
under R304 runs without GO, when the lane locked, own and partner's CONFIRM figures. -/
structure LaneStep where
  old : Nat
  new : Nat
  ack : Option Nat := none
  retry : Bool := false
  switched : Bool := false
  locked : Option Nat := none
  dead : Bool := false
  own : Option Nat := none
  peer : Option Nat := none
  deriving DecidableEq, Repr

/-- Adaptation of the partner's taps (R300): best figure, trials made, place in the round of four moves, whether this
round improved, the taps as the receiver knows them, and the request that is out: `some (taps, undo)`. -/
structure Adapt where
  best : Option Nat := none
  trials : Nat := 0
  move : Nat := 0
  improved : Bool := false
  taps : Nat := 0
  asked : Option (Nat × Bool) := none
  acked : Bool := false
  closed : Bool := false
  deriving DecidableEq, Repr

/-- A lane beyond its objects. -/
structure Lane where
  /-- The lane was started (R291). -/
  started : Bool := false
  /-- In lock (R291). -/
  lock : Bool := false
  /-- Carries frames of its port (R293, R303). -/
  service : Bool := false
  /-- Rate code it runs at (Table 15.2). -/
  code : Nat := 0
  /-- Since when it has been in lock, and when it last entered service at a new rate, with the old code. -/
  lockAt : Nat := 0
  entered : Option (Nat × Nat) := none
  /-- DFE converged since the last lock (R299). -/
  dfe : Bool := false
  /-- Comma position or gearbox offset since the last lock (R190). -/
  align : Nat := 0
  step : Option LaneStep := none
  adapt : Option Adapt := none
  /-- No step-up until this time (R292, R294). -/
  noStepUntil : Nat := 0
  /-- Partner's MAX_SPEED and TAP_MODE from its OFFER (R292). -/
  partnerMax : Option Nat := none
  partnerTapMode : Nat := 0
  /-- This end leads (R292). -/
  leader : Bool := false
  /-- Retrying after loss of lock: failed attempts in a row, and when the last attempt was made (R304). -/
  retrying : Bool := false
  fails : Nat := 0
  /-- When its next attempt is due (R304), and its next OFFER (R292). -/
  retryAt : Nat := 0
  offerAt : Nat := 0
  /-- It has stepped down while retrying, so STEP_RETRY runs from its return (R304). -/
  dropped : Bool := false
  /-- A request held during a trial: true up, false down, with the new code (R295). -/
  held : Option Nat := none
  /-- This end returns the received bits (R307); the partner does so for this end. -/
  looping : Bool := false
  loopRefused : Bool := false
  /-- STEP frames waiting to be sent on the lane, oldest first (R329). -/
  out : List Bytes := []
  deriving DecidableEq, Repr

/-- A doubled port's reorder buffer (R302): next stripe number; frames held by stripe number, each with its arrival. -/
structure Reorder where
  next : Option Nat := none
  held : List (Nat × Nat × Bytes) := []
  deriving DecidableEq, Repr

/-- The lane island. -/
structure LaneState where
  /-- When P6 was switched on with the whole hub (R291). -/
  startAt : Nat := 0
  lanes : Map Lane := []
  /-- Reorder buffers of ports 1, 2, 19 and 20. -/
  reorder : Map Reorder := []
  /-- Copies that wait on tap lanes: tap lane, end of the original, frame (R306). -/
  taps : Map (List (Nat × EthFrame)) := []
  /-- The copy that a tap lane sends (R306). -/
  tapLine : Map EthFrame := []
  /-- STEP frames handed to their lanes and not yet handled: lane and frame (R329). -/
  steps : List (Nat × Bytes) := []
  /-- Twine frames handed to Twine and not yet handled: port and frame (R290, R302). -/
  delivered : List (Nat × Bytes) := []
  /-- PTP messages handed to the PTP ports and not yet handled (R290). -/
  ptp : List (PtpRx × PtpMsg) := []
  deriving DecidableEq, Repr

/-! ### Bobbins (13_bobbins.md) -/

/-- One record held in a record hank: its key, its serial number in the order of writing, and its bytes (R250). -/
structure HeldRecord where
  key : Nat
  serial : Nat
  bytes : Bytes
  deriving DecidableEq, Repr

/-- A hank that is not free (Table 13.1): words of one channel at one interval, or records back to back. -/
structure Hank where
  /-- 1 output words, 2 raw words, 3 records. -/
  kind : Nat
  sealed : Bool := false
  doffed : Bool := false
  damaged : Bool := false
  /-- Instant of word 0; for a record hank its smallest key. -/
  first : Nat := 0
  interval : Nat := 0
  /-- Largest instant or key held. -/
  last : Nat := 0
  gen : Nat := 1
  words : List Nat := []
  recs : List HeldRecord := []
  deriving DecidableEq, Repr

/-- A gap record to write (Table 13.3), with WRITTEN when it already has one. -/
structure GapRec where
  reason : Nat
  scope : Nat
  start : Nat
  stop : Nat
  written : Option Nat := none
  deriving DecidableEq, Repr

/-- A channel's bobbin (R248 to R260). -/
structure Bobbin where
  /-- Hanks that are not free, in the order in which they were opened. -/
  hanks : List Hank := []
  /-- Gap records in the writer's staging (R258). -/
  staged : List GapRec := []
  /-- Recording stopped under KEEP_OLDEST: first lost instant; smallest and largest lost key (R258). -/
  stopped : Bool := false
  lostWords : Option Nat := none
  lostRecs : Option (Nat × Nat) := none
  /-- When an item was last written (R252). -/
  lastItem : Nat := 0
  /-- Serial number of the next record. -/
  serial : Nat := 0
  /-- Undoffed hanks are released when doffed (R266). -/
  discard : Bool := false
  /-- The first instant to write after an enable (R254). -/
  since : Nat := 0
  /-- A mode change's t0 and the mode that words with earlier instants still have (R145, R254). -/
  oldMode : Option (Nat × Nat) := none
  /-- End of the span of the word hanks reused so far: words before it may be gone (R241). -/
  reusedTo : Nat := 0
  /-- BOBBIN_STATE[2]: the last hank taken was an undoffed one (R258). -/
  overwriting : Bool := false
  deriving DecidableEq, Repr

/-- A window answer (R262 to R265): the request, and the answer once formed with the bytes read so far. -/
structure WindowAnswer where
  request : Bytes
  data : Option Bytes := none
  reached : Nat := 0
  deriving DecidableEq, Repr

/-- The bobbin writer. -/
structure BobbinState where
  bobbins : Map Bobbin := []
  /-- Hanks of the store wiped and usable (R253). -/
  usable : Nat := 0
  /-- The window request in hand (R265). -/
  window : Option WindowAnswer := none
  /-- A hardware fault makes the writer's staging overflow while a command runs (R27). -/
  overflow : Bool := false
  deriving DecidableEq, Repr

/-! ### Spindles (12_spindles.md) -/

/-- A feed queue (R242 to R245). -/
structure Feed where
  entries : List FeedEntry := []
  /-- When an entry was last written (R244). -/
  lastWrite : Nat := 0
  /-- A tag failed parity: entries carry POISON up to this boundary (R243). -/
  resync : Option Nat := none
  /-- Entries discarded since then, each with the boundary at which its word is made up for (R243). -/
  missing : List (FeedEntry × Nat) := []
  deriving DecidableEq, Repr

/-- A slot descriptor of a reduction profile (Table 12.3). -/
structure RedSlot where
  kind : Nat
  shift : Nat
  p1 : Int
  p2 : Nat
  deriving DecidableEq, Repr

/-- A reduction profile's content (Table 12.3). -/
structure RedProfile where
  n : Nat
  slots : List RedSlot
  deriving DecidableEq, Repr

/-- A running interval of a channel (R233, R234): profile, where its coverage starts, its aligned end, the output
instants seen, the instant from which words are awaited, the valid words in order as value and index, and the flags gathered
for the header. -/
structure RedAcc where
  profIdx : Nat
  prof : RedProfile
  start : Nat
  stop : Nat
  seen : Nat := 0
  next : Nat := 0
  vals : List (Int × Nat) := []
  fPoison : Bool := false
  fFill : Bool := false
  fTimeq : Bool := false
  fSettle : Bool := false
  fOver : Bool := false
  /-- A word that the interval needs is gone (R241). -/
  lost : Bool := false
  /-- The first interval after a re-epoch or a wake carries PARTIAL wherever it begins (R240). -/
  first : Bool := false
  /-- The interval's last word has been taken and its record stored (R233). -/
  stored : Bool := false
  deriving DecidableEq, Repr

/-- An accepted selection that waits for the interval's end (R239): its t0, the profile, and its content. -/
structure RedPend where
  t0 : Nat
  sel : Nat
  prof : RedProfile
  deriving DecidableEq, Repr

/-- Reduction state of a channel (R239 to R241). -/
structure RedChan where
  acc : Option RedAcc := none
  pend : List RedPend := []
  /-- The interval that ran when a core restart began and that is still to be recomputed (R241). -/
  redo : Option RedAcc := none
  /-- Live words since the restart, while intervals wait for recomputation: instant, interval, word (R241). -/
  live : List (Nat × Nat × Nat) := []
  /-- Instants lost to a full feed queue that no record accounts for yet (R245). -/
  gone : List Nat := []
  /-- First and last instant not evaluated during a core restart (R19, R241). -/
  unev : Option (Nat × Nat) := none
  deriving DecidableEq, Repr

/-- What recomputation has found and not yet stored or logged (R241): the spindle, a slub record with its mask set, channel
and instant, and the trigger events as unit and fine time. -/
structure LateItem where
  spindle : Nat
  slub : Option (Nat × Nat × Nat × Bytes)
  events : List (Nat × Nat)
  deriving DecidableEq, Repr

/-- The spindles. -/
structure SpindleState where
  feeds : Map Feed := []
  red : Map RedChan := []
  /-- Spindles that a core restart has wiped and not yet restarted (R19). -/
  restarting : Bool := false
  /-- When the restart began (R19). -/
  downSince : Nat := 0
  /-- Spindles that still recompute (R241): spindle and the grid time at which its restart began and ended. -/
  recompute : List (Nat × Nat × Nat) := []
  late : List LateItem := []
  deriving DecidableEq, Repr

/-! ### Triggers, reels, masks (11_triggers_reels.md) -/

/-- A trigger event (R210): fine time in 1/65536 tick, COARSE, LATE. -/
structure TrigEvent where
  fine : Nat
  coarse : Bool
  late : Bool
  deriving DecidableEq, Repr

/-- A trigger unit beyond its objects. -/
structure TrigUnit where
  /-- The last firing, from which holdoff runs (R214). -/
  last : Option Nat := none
  /-- Crossing state: the previous word's instant and value; the value has been at or below L - H, at or above L + H (R212). -/
  prev : Option (Nat × Int) := none
  low : Bool := false
  high : Bool := false
  /-- Unused operand events of an AND unit (R213). -/
  evA : List TrigEvent := []
  evB : List TrigEvent := []
  /-- The last grid-time instant that came due (source 5). -/
  lastDue : Option Nat := none
  /-- Fine times of the last events that an OR unit took from its operands (R213). -/
  recent : List Nat := []
  /-- When its settings changed: words and events from such an instant on are gathered anew (R21). -/
  clears : List Nat := []
  deriving DecidableEq, Repr

/-- A capture in progress (R217). -/
structure Capture where
  unit : Nat
  ev : TrigEvent
  arm : Nat
  seg : Nat
  post : Nat
  maskStop : Bool := false
  /-- INTERVAL of each channel's words (Table 11.6), and whether the reel is in mode 3. -/
  intervals : Map Nat := []
  segmented : Bool := false
  /-- Slubs that end it early: instant of the violating word and MASK_TAIL (R225). -/
  stops : List (Nat × Nat) := []
  deriving DecidableEq, Repr

/-- An event that a reel cannot judge before its running capture is complete (R216, R219). -/
structure LaterEvent where
  unit : Nat
  ev : TrigEvent
  post : Nat
  maskStop : Bool
  deriving DecidableEq, Repr

/-- A completed capture held in the allocation (R222): its id, its bytes, and what the root has acknowledged. -/
structure HeldCapture where
  id : Nat
  bytes : Bytes
  sent : Nat := 0
  acked : Nat := 0
  deriving DecidableEq, Repr

/-- A missed event (Table 11.4). -/
structure Miss where
  ev : TrigEvent
  unit : Nat
  reason : Nat
  deriving DecidableEq, Repr

/-- A reel beyond its objects (R216 to R222). -/
structure Reel where
  /-- Armed since this instant. -/
  arm : Option Nat := none
  /-- Words held per channel since the arm, oldest first: instant and word. -/
  words : Map (List (Nat × Nat)) := []
  capture : Option Capture := none
  /-- When it is due to arm again, and the miss reason until then (R220). -/
  rearmAt : Option (Nat × Nat) := none
  /-- It waits for room (R220). -/
  noSpace : Bool := false
  /-- Segment index of the next capture, and the trigger instants of the last two segments (R220). -/
  seg : Nat := 0
  segTrig : List Nat := []
  /-- The last capture's trigger in 1/65536 tick and its last word's instant, and the miss reason from then to the next arm. -/
  prior : Option (Nat × Nat × Nat) := none
  /-- Its re-arm fell due in a core restart (R220). -/
  restartDue : Bool := false
  later : List LaterEvent := []
  /-- From which instant a channel's words keep the interval that they have now (R221, R222). -/
  since : Map Nat := []
  held : List HeldCapture := []
  misses : List Miss := []
  /-- Captures begun since the last full reset. -/
  count : Nat := 0
  deriving DecidableEq, Repr

/-- A mask set beyond its objects (R223 to R226). -/
structure MaskSet where
  /-- References of spans that words may still fall into, fine times, oldest first (R223). -/
  spans : List Nat := []
  /-- Spans whose earlier words are still to be tested. -/
  todo : List Nat := []
  /-- Channel and span reference of every first violation (R224). -/
  hit : List (Nat × Nat) := []
  /-- Words of the last while by channel, for spans that reach back: instant, value, not to be tested (R223). -/
  hist : Map (List (Nat × Int × Bool)) := []
  /-- When MASK_MODE changed: earlier spans end there (R21). -/
  clears : List Nat := []
  deriving DecidableEq, Repr

/-- What a watch comparator has seen since its last edges or since its last write (R208): armed for a rising, for a
falling edge. -/
structure Watch where
  rise : Bool := false
  fall : Bool := false
  /-- When one of its objects was last written, until an edge from then on has come. -/
  wrote : Option Nat := none
  deriving DecidableEq, Repr

/-- A setting's value before a change at `t0` (R12, R21): words with earlier instants are judged by it. -/
structure PastSetting where
  key : Nat
  t0 : Nat
  old : Option Val
  deriving DecidableEq, Repr

/-- Triggers, reels and mask sets. -/
structure TrigState where
  /-- The last edge on each TDC channel in 1/65536 tick (R207). -/
  tdc : Map Nat := []
  watch : Map Watch := []
  units : Map TrigUnit := []
  reels : Map Reel := []
  masks : Map MaskSet := []
  /-- End of the pulse on FIO4 to FIO7, by pin; `none` listed once it ended (R226). -/
  fio : Map Nat := []
  /-- SEQ of the next TRIGGER frame (Table 16.8). -/
  seq : Nat := 0
  /-- The last 64 TRIGGER pairs seen: SRC and SEQ (R328). -/
  seen : List (Nat × Nat) := []
  /-- Changed settings that words on their way are still judged by, oldest first. -/
  past : List PastSetting := []
  deriving DecidableEq, Repr

/-! ### Twine (16_twine.md) -/

/-- A live stream (R317): position (instant for words, serial for records, byte offset for captures), SEQ of the next
live skein, RESUME due, when the oldest unsent item was committed. -/
structure Stream where
  pos : Nat := 0
  seq : Nat := 0
  resume : Bool := true
  since : Option Nat := none
  deriving DecidableEq, Repr

/-- A held RETX or RETRO (R322 to R324): ingress port, SRC, whether RETRO, frame body. -/
structure HeldRequest where
  src : Nat
  retro : Bool
  body : Bytes
  deriving DecidableEq, Repr

/-- A violation-log entry (Table 16.11). -/
structure Violation where
  time : Nat
  port : Nat
  kind : Nat
  reason : Nat
  srcField : Bytes
  head : Bytes
  deriving DecidableEq, Repr

/-- A request of this hub that is outstanding (R327, R373, R385): REQ_ID, the hub asked, what it serves (0 SESSION_OPEN, 1
SESSION_PROVE, 2 the timed write, 3 CANCEL, 4 a RETX), and its frame body. -/
structure Outstanding where
  reqId : Nat
  hub : Nat
  job : Nat
  body : Bytes
  deriving DecidableEq, Repr

/-- What a channel's next summary entry tells of the time since the last one (Table 19.2): OVR or RECOV, TIMEQ, FILL on the
newest word, words with OPEN, FILL, RECOV, CLIP or OVR, GAP_COUNT at the last summary, and the end of the last reduction
record's coverage. -/
structure SummaryNote where
  bad : Bool := false
  timeq : Bool := false
  fill : Bool := false
  flagged : Nat := 0
  gaps : Nat := 0
  redEnd : Option Nat := none
  deriving DecidableEq, Repr

/-- Twine's own state. -/
structure TwineState where
  /-- Learning table: SRC to port and time of its last frame (R312). -/
  learned : Map (Nat × Nat) := []
  /-- Live streams: word stream of channel c at 2c, record stream at 2c + 1, reel r at 1024 + r. -/
  streams : Map Stream := []
  /-- RETX and RETRO requests held, the first being answered (R324). -/
  requests : List HeldRequest := []
  /-- DOFF frames held during a core restart, with their ports (R19). -/
  heldDoffs : List (Nat × Bytes) := []
  /-- Notes for the next summary, by channel (R328). -/
  notes : Map SummaryNote := []
  outstanding : List Outstanding := []
  /-- Times of NAKs in the last second, by SRC (R330). -/
  naks : Map (List Nat) := []
  /-- Violation log, oldest first, at most 128 (R330). -/
  violations : List Violation := []
  /-- SEQ of the first log entry not yet sent in an EVENT (R328). -/
  eventSent : Nat := 0
  /-- A request of this hub answered with BUSY: when it may be sent again, DEST, and its kind and body (R331). -/
  retry : List (Nat × Nat × Bytes) := []
  deriving DecidableEq, Repr

/-! ### Twin operation (18_twin.md) -/

/-- A switch-over in progress (Table 18.3): T0, whether this unit is the active one that hands over, and whether the ACK
has arrived. -/
structure SwitchOver where
  t0 : Nat
  giving : Bool
  acked : Bool := false
  deriving DecidableEq, Repr

/-- Twin state beyond the objects. -/
structure TwinState where
  /-- ACTIVE, bit 7 of the claim number (Table 18.1). Reset false. -/
  active : Bool := false
  /-- The shared output stages are enabled (R354, R357). Reset false. -/
  stages : Bool := false
  /-- The TWIN_ID strap (Table 18.1). -/
  strap : Bool := false
  /-- The partner's claim in force and when its last valid frame came, in the hub's time (R356). -/
  partner : Option Nat := none
  partnerAt : Nat := 0
  /-- No valid partner claim for 60 µs (R357). -/
  claimLost : Bool := false
  /-- Until when the unit listens before taking its role (R360). -/
  listenUntil : Option Nat := none
  /-- No role resolved or dual active, TWIN_STATE[5] (R360, R363). -/
  unresolved : Bool := false
  /-- Since when exceeding active claims arrive without a break (R363). -/
  dualSince : Option Nat := none
  /-- HB_OUT's level and its last edge (R358, R361); the field die toggles it until this time (R358). -/
  hbOut : Bool := false
  hbOutAt : Nat := 0
  hbHanded : Option Nat := none
  /-- The last edge on HB_IN, the last TWIN frame with a rising COUNTER, and that COUNTER (R361). -/
  hbInAt : Nat := 0
  frameAt : Nat := 0
  lastCounter : Option Nat := none
  /-- TWIN_STATE[2] and [3] (R361). -/
  hbSilent : Bool := false
  linkSilent : Bool := false
  /-- The partner's last HEARTBEAT carried a grid time, so the partner was READY (R366). -/
  partnerReady : Bool := false
  /-- COUNTER of the next TWIN frame (Table 16.8). -/
  counter : Nat := 0
  /-- The pending switch-over (R366). -/
  switch : Option SwitchOver := none
  /-- The claim number last sent on CLAIM_OUT, its parity bit, and when the next frame starts (R356). -/
  claimSent : Nat := 0
  claimParity : Bool := false
  claimNext : Nat := 0
  /-- A takeover's switching events wait for the stages to enable (R362). -/
  recordOnEnable : Bool := false
  deriving DecidableEq, Repr

/-! ### DRAM (14_dram.md) -/

/-- A rank (R277 to R280): refresh debt, precharge power-down, self-refresh, and a periodic ZQCS that is due. -/
structure Rank where
  debt : Nat := 0
  pd : Bool := false
  sr : Bool := false
  zq : Bool := false
  deriving DecidableEq, Repr

/-- The DRAM controllers. -/
structure DramState where
  /-- Ranks by 2 * channel + rank. -/
  ranks : Map Rank := []
  /-- Open rows by 16 * (2 * channel + rank) + 4 * bank group + bank: row, and the hint of the request that opened it (R274). -/
  rows : Map (Nat × Nat) := []
  /-- HOT, readings that failed in a row, and source-0 readings in a row that show no component above 85 °C (R278). -/
  hot : Bool := false
  failed : Nat := 0
  cool : Nat := 0
  /-- DRAM_STATE[2]. -/
  lost : Bool := false
  /-- Training step under way, 1 to 8, and the rate trained (R280). -/
  training : Option (Nat × Nat) := none
  /-- A frequency change that waits for the step's end (R281). -/
  waiting : Option Nat := none
  /-- DRAM_STATE[4], [0] and [5]. -/
  changing : Bool := false
  ready : Bool := false
  wiping : Bool := false
  /-- Training failed at DDR4-1600 (R280). -/
  broken : Bool := false
  /-- Real-time ports in panic (R276). -/
  panic : List Nat := []
  /-- System address of the burst that patrol scrub reads next (R284). -/
  scrub : Nat := 0
  /-- When it is due to read it, and when it read the last one, in 1/65536 tick; `none` where scrub has not begun (R284). -/
  scrubDue : Option Nat := none
  scrubLast : Nat := 0
  /-- Weighted round robin among P3, P4, P5 and P7: the port being served and the requests it may still be granted (R275). -/
  robin : Nat × Nat := (3, 0)
  /-- Times of the corrected errors logged in the last second (R283). -/
  ceLogged : List Nat := []
  /-- Reel extents: base and size in MiB by reel (R271). -/
  extents : Map (Nat × Nat) := []
  deriving DecidableEq, Repr

/-! ### Power, reset and sleep (22_power_startup.md) -/

/-- A PMBus device as last polled (R421): address, whether it answers, reads failed in a row, STATUS_WORD, VOUT in mV, IOUT
in mA, temperature in 1/64 °C, and the exponent of its VOUT_MODE once read. -/
structure PmbDevice where
  addr : Nat
  answers : Bool := false
  fails : Nat := 0
  status : Nat := 0
  vout : Int := 0
  iout : Int := 0
  temp : Int := 0
  mode : Option Int := none
  deriving DecidableEq, Repr

/-- A sleep (R429 to R432): T_s, and whether a thermal trip forced it. -/
structure Sleep where
  ts : Nat
  thermal : Bool
  /-- Crystal cycles in the last 4,096 ms of strand A before entry (R181). -/
  cycles : Nat := 0
  deriving DecidableEq, Repr

/-- A core restart under way (R425): what caused it, its start, and whether it boots another image. -/
structure Restart where
  watchdog : Bool
  since : Nat
  deriving DecidableEq, Repr

/-- Supply, resets, sleep and thermal state. -/
structure PowerState where
  /-- VIN valid; the 5 V rail good; rail groups enabled and good, as 0 B, 1 A, 2 C (R417 to R420). -/
  vin : Bool := false
  v5 : Bool := false
  enabled : List Nat := []
  good : List Nat := []
  /-- PG faults in a row, the 100 ms wait, and the groups staying off (R420). -/
  pgFaults : Nat := 0
  pgWait : Bool := false
  pgOff : Bool := false
  /-- RESET_N is low (R424). -/
  held : Bool := false
  /-- The SRAM wipe has ended; every boot part is loaded; the stored copy has been read (R390, R426). -/
  sram : Bool := false
  booted : Bool := false
  copyRead : Bool := false
  /-- The hub has been READY since the last full reset or wake (R426). -/
  ready : Bool := false
  /-- A core restart under way, and when the last one caused by a watchdog ended (R425). -/
  restart : Option Restart := none
  wdEnd : Option Nat := none
  /-- A full reset is to happen once the command that asked for it is done, with its cause (R423). -/
  resetCause : Option Nat := none
  /-- The sleep that runs, and one that is due at its T_s (R429, R433). -/
  sleep : Option Sleep := none
  sleepDue : Option Sleep := none
  /-- Channels that still owe their SLEEP gap record (R432). -/
  sleepGaps : List Nat := []
  /-- Dies over their warning threshold, throttling, field-die trip, buck stopped by the field die (R433). -/
  warm : List Nat := []
  throttled : Bool := false
  fieldTrip : Bool := false
  buckStop : Bool := false
  pmbus : List PmbDevice := []
  deriving DecidableEq, Repr

/-! ### Life cycle, boot flash and update (21_update_lifecycle.md) -/

/-- An image slot of the boot flash (R401): its manifest, its seven parts (`none`: the part as manufactured), sequence number,
key slot, state (0 empty, 1 valid, 2 failed), and whether the image is the one it left the factory with. -/
structure Slot where
  manifest : Bytes := []
  parts : List (Option Bytes) := []
  seq : Nat := 0
  keySlot : Nat := 255
  state : Nat := 0
  factory : Bool := false
  deriving DecidableEq, Repr

/-- A slot pointer copy (Table 21.2). -/
structure SlotPointer where
  gen : Nat
  active : Nat
  failedA : Bool := false
  failedB : Bool := false
  trial : Bool := false
  boots : Nat := 0
  deriving DecidableEq, Repr

/-- What survives a full reset: OTP and boot flash (Table 22.3). -/
structure NvmState where
  /-- OTP key slots and revocation bits (R412). Reset: unprogrammed. -/
  keyHash0 : Option Bytes := none
  keyHash1 : Option Bytes := none
  revoked0 : Bool := false
  revoked1 : Bool := false
  /-- Life-cycle state and changes since manufacture (R414, Table 21.12). -/
  lc : Nat := 0
  lcCount : Nat := 0
  /-- The OTP device key is present (R413, Table 21.11). -/
  deviceKey : Bool := true
  /-- Session keys in the key store (R413). -/
  kRoot : Option Bytes := none
  kShost : Option Bytes := none
  /-- Full resets since manufacture (Table 17.9). -/
  bootCount : Nat := 0
  /-- The two stored copies, and whether a RESTORE_DEFAULTS made the newer one (R348, R349). -/
  copy0 : Option StoredCopy := none
  copy1 : Option StoredCopy := none
  defaults : Bool := false
  /-- Slot pointer copies and slots (R401, R402). -/
  ptr0 : Option SlotPointer := some { gen := 1, active := 0 }
  ptr1 : Option SlotPointer := none
  slotA : Slot := { parts := List.replicate 7 none, state := 1, factory := true }
  slotB : Slot := {}
  deriving DecidableEq, Repr

/-- A part map of a manifest (Table 21.3). -/
structure PartMap where
  part : Nat
  size : Nat
  digest : Bytes
  base : Option Bytes
  offset : Nat
  length : Nat
  deriving DecidableEq, Repr

/-- An accepted manifest's fields (Table 21.3). -/
structure Manifest where
  seq : Nat
  minSilicon : Nat
  parts : List PartMap
  ack : Bool
  size : Nat
  digest : Bytes
  keySlot : Nat
  deriving DecidableEq, Repr

/-- The update engine (R404 to R410). -/
structure UpdState where
  /-- The accepted manifest, its bytes and fields. -/
  bytes : Bytes := []
  manifest : Option Manifest := none
  /-- Pieces of blocks not yet held, and held blocks: block offset, length, CRC, piece offset, bytes; offset and bytes (R405). -/
  pieces : List (Nat × Nat × Nat × Nat × Bytes) := []
  blocks : List (Nat × Bytes) := []
  /-- The conditions of R409 have held since. -/
  healthSince : Option Nat := none
  /-- Ports among 1, 2 and 20 that had a lane in service at T (R409). -/
  ports : List Nat := []
  /-- T of an activation or rollback whose interrupting parts are being loaded (Table 21.8). -/
  gapFrom : Option Nat := none
  /-- Sampling is to resume at this frame boundary, T_r (Table 21.8). -/
  resumeAt : Option Nat := none
  deriving DecidableEq, Repr

/-! ### Root services (19_root.md) -/

/-- A hub of the segment: when its last SUMMARY came and the INTERVAL that it carried (R370). -/
structure SegHub where
  last : Nat
  interval : Nat
  deriving DecidableEq, Repr

/-- A channel of a slice (R381): hub, channel, answered, word runs as raw, FIRST, INTERVAL and words, and records with keys. -/
structure SliceChannel where
  hub : Nat
  ch : Nat
  done : Bool := false
  runs : List (Bool × Nat × Nat × List Nat) := []
  recs : List (Nat × Bytes) := []
  deriving DecidableEq, Repr

/-- An outstanding slice (R381): index, start, end, its channels, bytes answered so far, and per hub when it was last asked
and how often in a row it was silent (R384). -/
structure RetroSlice where
  index : Nat
  start : Nat
  stop : Nat
  chans : List SliceChannel
  bytes : Nat := 0
  asked : Map (Nat × Nat) := []
  deriving DecidableEq, Repr

/-- A capture-assembly job (R380 to R384): id, what is wanted, window, hubs with bitmaps, slice length, next slice's start and
index, outstanding slices, whether no further slice is to be asked, and the output stream: bytes before it that were
acknowledged, bytes from there on, how many were sent, whether it has ended. -/
structure RetroJob where
  id : Nat
  words : Bool
  recs : Bool
  t1 : Nat
  t2 : Nat
  hubs : List (Nat × Bytes)
  s : Nat
  nextStart : Nat
  nextIndex : Nat := 0
  slices : List RetroSlice := []
  closing : Option Nat := none
  acked : Nat := 0
  stream : Bytes := []
  sent : Nat := 0
  ended : Bool := false
  seq : Nat := 0
  deriving DecidableEq, Repr

/-- One hub of an activation job (R385): its outcome, abort, the state of the session opened with it (0 asked, 1 opened, 2
proved), session, session key, and the cancel that is out. -/
structure ActHub where
  hub : Nat
  outcome : Nat := 3
  abort : Nat := 0
  stage : Nat := 0
  session : Nat := 0
  nonce : Bytes := []
  key : Bytes := []
  cancelling : Bool := false
  deriving DecidableEq, Repr

/-- An activation job (R385). -/
structure ActJob where
  t : Nat
  hubs : List ActHub
  armed : Bool := false
  cancelled : Bool := false
  deriving DecidableEq, Repr

/-- A DIR_RESULT: its bytes and how far it has been read (R378, R379). -/
structure DirResult where
  bytes : Bytes
  reached : Nat := 0
  deriving DecidableEq, Repr

/-- Root services. -/
structure RootState where
  /-- The segment by hub ID, at most 256 (R370). -/
  segment : Map SegHub := []
  /-- Directory records that are not empty, by hub * 512 + channel (R374). -/
  dir : Map Bytes := []
  /-- Receipt time of the last SUMMARY that carried each hub's entries (R376). -/
  receipts : Map Nat := []
  /-- The acknowledgement table by hub * 512 + channel (R372). -/
  acks : Map Nat := []
  /-- The query being scanned with the scan's start, and the result (R378). -/
  query : Option (Bytes × Nat) := none
  result : Option DirResult := none
  retro : Option RetroJob := none
  /-- Records changed since the last federation send (R377). -/
  changed : List Nat := []
  act : Option ActJob := none
  /-- ACT_RESULT of the last job. -/
  actResult : Bytes := []
  /-- REQ_ID of the next request this hub makes (R327). -/
  nextReq : Nat := 1
  /-- ROOT_CONFIG_BAD has been logged for the present configuration (R369). -/
  badLogged : Bool := false
  deriving DecidableEq, Repr

/-! ### Host port and mailboxes (20_host_port.md) -/

/-- One register page (Table 20.2). -/
structure Page where
  scratch : Nat := 0
  irqStatus : Nat := 0
  irqEnable : Nat := 0
  gridLo : Nat := 0
  deriving DecidableEq, Repr

/-- A body being assembled (R395): next SEQ, EPOCH, bytes so far. -/
structure Partial where
  next : Nat
  epoch : Nat
  bytes : Bytes
  deriving DecidableEq, Repr

/-- A mailbox (Tables 20.5 to 20.7). -/
structure Mailbox where
  /-- OUT_W0 to OUT_W7, IN_W0 to IN_W7, and their FULL bits. -/
  out : List Nat := [0, 0, 0, 0, 0, 0, 0, 0]
  inn : List Nat := [0, 0, 0, 0, 0, 0, 0, 0]
  outFull : Bool := false
  inFull : Bool := false
  /-- MB_STATUS[5:2]. -/
  collision : Bool := false
  discarded : Bool := false
  crossed : Bool := false
  oldEpoch : Bool := false
  /-- EPOCH of the last host message read (MB_EPOCH[31:24]). -/
  hostEpoch : Nat := 0
  part : Option Partial := none
  /-- Response bodies waiting, the first being sent; bytes of it already posted, next SEQ, and the epoch it is sent under. -/
  responses : List Bytes := []
  posted : Nat := 0
  seq : Nat := 0
  /-- A crossed message in the reserve slot, with its COLLISION (R397). -/
  reserve : Option (List Nat × Bool) := none
  /-- Both queues have been FULL since (R397). -/
  fullSince : Option Nat := none
  deriving DecidableEq, Repr

/-- An internal mailbox pair (R399): a message to the distaff and one from it, each unread, and the discarded bits. -/
structure InternalPair where
  toDistaff : Option (List Nat) := none
  fromDistaff : Option (List Nat) := none
  peerDiscarded : Bool := false
  distaffDiscarded : Bool := false
  /-- Messages of the pair destroyed unread since the last full reset (R399). -/
  discards : Nat := 0
  deriving DecidableEq, Repr

/-- The host port. -/
structure HostState where
  /-- Non-secure and secure page. -/
  ns : Page := {}
  sec : Page := {}
  /-- NS0, NS1, S0, S1. -/
  mb : Map Mailbox := []
  /-- Data words of the last read transaction (R388). -/
  data : List Nat := []
  /-- Internal pairs: spindles 0 to 15, secure core 16 (R399). -/
  internal : Map InternalPair := []
  deriving DecidableEq, Repr

/-- The ZH512: its waiting commands and everything the spec gives it. -/
structure State where
  /-- Commands that wait, first in, first out. Reset: none. -/
  pending : List Instr := []
  /-- Grid time in ticks while the grid runs; before that the hub's own count since power-on, reset or wake (R2, R170). Reset 0. -/
  now : Nat := 0
  /-- The model's own counter of free values taken; no statement rests on its value (log entry 1). Reset 0, DESIGN CHOICE. -/
  free : Nat := 0
  /-- Dictionary objects that differ from their defaults (R333). Reset: LAST_RESET_CAUSE 1, power-on. -/
  objs : Store := [(0x200005, .int 1)]
  /-- The event log (R351). -/
  log : EventLog := {}
  /-- Creels, excitation, converters, sequencer (chapters 3 to 5). -/
  samp : SampState := {}
  /-- Drafting (chapter 7). -/
  draft : DraftState := {}
  /-- Calibration (chapter 6). -/
  cal : CalState := {}
  /-- Pending writes, transfers, sessions (chapter 17). -/
  dict : DictState := {}
  /-- The time core (chapter 9). -/
  time : TimeState := {}
  /-- Network time and egress ports (chapter 10). -/
  ptp : PtpState := {}
  /-- Serial lanes (chapter 15). -/
  lanes : LaneState := {}
  /-- Bobbins (chapter 13). -/
  bob : BobbinState := {}
  /-- Spindles and feed queues (chapter 12). -/
  spin : SpindleState := {}
  /-- Triggers, reels, mask sets (chapter 11). -/
  trig : TrigState := {}
  /-- Twine (chapter 16). -/
  twine : TwineState := {}
  /-- Twin operation (chapter 18). -/
  twin : TwinState := {}
  /-- DRAM controllers (chapter 14). -/
  dram : DramState := {}
  /-- Supply, resets, sleep, thermal (chapter 22). -/
  pwr : PowerState := {}
  /-- OTP and boot flash (chapters 17 and 21). -/
  nvm : NvmState := {}
  /-- The update engine (chapter 21). -/
  upd : UpdState := {}
  /-- Root services (chapter 19). -/
  root : RootState := {}
  /-- Host port and mailboxes (chapter 20). -/
  host : HostState := {}
  deriving DecidableEq, Repr

/-- The machine right after reset: nothing waits, every register at the value the spec gives, or at the value the log names
where it gives none (entries 3 to 6). -/
def State.reset : State := {}

end Sys2Proof.Machine
end

