-- ==== Sys2Proof/Machine/Ops.lean ====
section
/-! DEFINITION. The named operations that every chapter shares: sparse arrays, the object store, big-endian bytes,
convergent rounding and saturation (R7), the event log (R24, R351), counters, and free values. -/

namespace Sys2Proof.Machine

/-! ### Sparse arrays -/

/-- The value at an index, if listed. -/
def Map.find? {β : Type} : Map β → Nat → Option β
  | [], _ => none
  | (i, v) :: m, k => if Nat.beq i k then some v else if Nat.blt k i then none else Map.find? m k

/-- The value at an index, or the default. -/
def Map.getD {β : Type} (m : Map β) (k : Nat) (d : β) : β := (Map.find? m k).getD d

/-- Write an index, keeping indices strictly rising. -/
def Map.set {β : Type} : Map β → Nat → β → Map β
  | [], k, v => [(k, v)]
  | (i, w) :: m, k, v =>
    if Nat.beq i k then (k, v) :: m else if Nat.blt k i then (k, v) :: (i, w) :: m else (i, w) :: Map.set m k v

/-- Remove an index. -/
def Map.erase {β : Type} : Map β → Nat → Map β
  | [], _ => []
  | (i, w) :: m, k => if Nat.beq i k then m else (i, w) :: Map.erase m k

/-- Indices strictly rise. -/
def Map.wf {β : Type} : Map β → Bool
  | [] => true
  | [_] => true
  | (i, _) :: (j, w) :: m => Nat.blt i j && Map.wf ((j, w) :: m)

/-! ### Rounding, saturation, integers -/

/-- `a / 2^n` rounded convergently (R7, 07_drafting.md). -/
def roundConv (a : Int) (n : Nat) : Int :=
  if n = 0 then a
  else
    let q := a / (2 ^ n : Int)
    let r := a - q * (2 ^ n : Int)
    let h : Int := 2 ^ (n - 1)
    if r > h ∨ (r = h ∧ q % 2 = 1) then q + 1 else q

/-- `a / b` rounded convergently, for a positive divisor (R7). -/
def roundDiv (a : Int) (b : Nat) : Int :=
  let q := a / (b : Int)
  let r := a - q * (b : Int)
  if 2 * r > (b : Int) ∨ (2 * r = (b : Int) ∧ q % 2 = 1) then q + 1 else q

/-- `a / b` rounded convergently for a divisor of either sign, not 0. -/
def roundDivInt (a b : Int) : Int := if b < 0 then roundDiv (-a) b.natAbs else roundDiv a b.natAbs

/-- Saturation to a range (R7). -/
def clampInt (lo hi a : Int) : Int := if a < lo then lo else if a > hi then hi else a

/-- The quotient rounded up. -/
def ceilDiv (a b : Nat) : Nat := (a + b - 1) / b

/-- Insert an entry into a list that ascends in a key, behind equal keys. -/
def insertBy {α : Type} (key : α → Nat) (x : α) : List α → List α
  | [] => [x]
  | y :: l => if Nat.blt (key x) (key y) then x :: y :: l else y :: insertBy key x l

/-- Sort by a key, entries of equal keys in their order. -/
def sortBy {α : Type} (key : α → Nat) (l : List α) : List α := l.foldl (fun a x => insertBy key x a) []

/-- Two's complement of `w` bits, as a natural number. -/
def toTwos (w : Nat) (i : Int) : Nat := (i % (2 ^ w : Int)).toNat

/-- The integer a two's complement number of `w` bits stands for. -/
def ofTwos (w : Nat) (n : Nat) : Int := if Nat.blt (n % 2 ^ w) (2 ^ (w - 1)) then (n % 2 ^ w : Nat) else (n % 2 ^ w : Nat) - (2 ^ w : Int)

/-- Bit `i` of a number. -/
def bitOf (n i : Nat) : Bool := n.testBit i

/-- 1 for true, 0 for false. -/
def b2n (b : Bool) : Nat := if b then 1 else 0

/-! ### Bytes, most significant first (R5) -/

/-- A number as `n` bytes, most significant first. -/
def be (n : Nat) (v : Nat) : Bytes := (List.range n).map (fun i => BitVec.ofNat 8 (v / 256 ^ (n - 1 - i)))

/-- The number that bytes spell, most significant first. -/
def beNat (b : Bytes) : Nat := b.foldl (fun a x => a * 256 + x.toNat) 0

/-- `n` bytes from an offset. -/
def slice (b : Bytes) (off n : Nat) : Bytes := (b.drop off).take n

/-- The number at an offset. -/
def field (b : Bytes) (off n : Nat) : Nat := beNat (slice b off n)

/-- The two's complement number at an offset. -/
def fieldI (b : Bytes) (off n : Nat) : Int := ofTwos (8 * n) (field b off n)

/-- `n` zero bytes. -/
def zeros (n : Nat) : Bytes := List.replicate n 0#8

/-- Signed number as `n` bytes. -/
def beI (n : Nat) (v : Int) : Bytes := be n (toTwos (8 * n) v)

/-- Pad or cut to a length. -/
def fit (n : Nat) (b : Bytes) : Bytes := (b ++ zeros n).take n

/-- CRC-32C over bytes: reflected polynomial 0x82F63B78, initial value and final XOR all ones (R310). -/
def crc32cByte (c : Nat) (x : Byte) : Nat :=
  (List.range 8).foldl (fun c _ => if c % 2 = 1 then (c / 2) ^^^ 0x82F63B78 else c / 2) (c ^^^ x.toNat)

/-- CRC-32C (R310). -/
def crc32c (b : Bytes) : Nat := (b.foldl crc32cByte 0xFFFFFFFF) ^^^ 0xFFFFFFFF

/-! ### The object store -/

/-- The key of unit `u` of an object (R333). -/
def Ref.at (r : Ref) (u : Nat) : Nat := r.key + u * 256

/-- The key of converter `c`'s object; C32 stands at 0x4340. -/
def Ref.conv (r : Ref) (c : Nat) : Nat := if c = 32 then r.key + 0x4000 else r.key + c * 256

/-- The value stored under a key. -/
def Store.val (st : Store) (key : Nat) (d : Val) : Val := Map.getD st key d

/-- A value as an integer. -/
def Val.toInt : Val → Int
  | .int i => i
  | .bytes _ => 0

/-- A value as bytes. -/
def Val.toBytes : Val → Bytes
  | .int _ => []
  | .bytes b => b

/-- Object of unit `u`, as an integer. -/
def Store.int (st : Store) (r : Ref) (u : Nat := 0) : Int := (st.val (r.at u) r.dflt).toInt

/-- Object of unit `u`, as a natural number. -/
def Store.nat (st : Store) (r : Ref) (u : Nat := 0) : Nat := (st.int r u).toNat

/-- Object of unit `u`, as a Boolean. -/
def Store.bool (st : Store) (r : Ref) (u : Nat := 0) : Bool := decide (st.int r u ≠ 0)

/-- Object of unit `u`, as bytes. -/
def Store.bytes (st : Store) (r : Ref) (u : Nat := 0) : Bytes := (st.val (r.at u) r.dflt).toBytes

/-- The same reads with a key of one's own (converters, consecutive sub-indices). -/
def Store.intK (st : Store) (r : Ref) (key : Nat) : Int := (st.val key r.dflt).toInt
def Store.natK (st : Store) (r : Ref) (key : Nat) : Nat := (st.intK r key).toNat
def Store.bytesK (st : Store) (r : Ref) (key : Nat) : Bytes := (st.val key r.dflt).toBytes

/-- Write a value under a key. -/
def Store.put (st : Store) (key : Nat) (v : Val) : Store := Map.set st key v

namespace State

/-- Integer value of an object of unit `u`. -/
def int (s : State) (r : Ref) (u : Nat := 0) : Int := s.objs.int r u
def nat (s : State) (r : Ref) (u : Nat := 0) : Nat := s.objs.nat r u
def bool (s : State) (r : Ref) (u : Nat := 0) : Bool := s.objs.bool r u
def bytes (s : State) (r : Ref) (u : Nat := 0) : Bytes := s.objs.bytes r u

/-- Set an object of unit `u` to a number. -/
def putI (s : State) (r : Ref) (u : Nat) (v : Int) : State := { s with objs := s.objs.put (r.at u) (.int v) }
def put (s : State) (r : Ref) (u : Nat) (v : Nat) : State := s.putI r u v
def putB (s : State) (r : Ref) (u : Nat) (v : Bytes) : State := { s with objs := s.objs.put (r.at u) (.bytes v) }
def putK (s : State) (key : Nat) (v : Val) : State := { s with objs := s.objs.put key v }

/-- Add to a U32 counter object; past its largest value it reads a free value (assumption log, entry 2). -/
def addK (s : State) (r : Ref) (key n : Nat) : State :=
  let v := s.objs.natK r key + n
  s.putK key (.int (if Nat.blt v (2 ^ 32) then v else Config.counterPastMax v % 2 ^ 32 : Nat))

/-- Add `n` to a counter of unit `u`. -/
def add (s : State) (r : Ref) (u : Nat) (n : Nat) : State := s.addK r (r.at u) n

/-- Count one. -/
def bump (s : State) (r : Ref) (u : Nat := 0) : State := s.add r u 1

/-- Time does not run backwards: a command that names a later instant moves time there. -/
def advance (s : State) (t : Nat) : State := { s with now := max s.now t }

/-- The grid runs (GRID_STATE[0], R184). -/
def gridOn (s : State) : Bool := bitOf (s.nat O.gridState) 0

/-- Grid time at this instant: 0 before the grid starts (0x3000:01). -/
def gridTime (s : State) : Nat := if s.gridOn then s.now else 0

end State

/-- Append an entry; the oldest of 16,384 is overwritten (R351). -/
def EventLog.push (l : EventLog) (e : Event) : EventLog :=
  let es := l.entries ++ [e]
  if Nat.ble es.length 16384 then { l with entries := es, nextSeq := (l.nextSeq + 1) % 2 ^ 32 }
  else { entries := es.drop 1, nextSeq := (l.nextSeq + 1) % 2 ^ 32, overwritten := l.overwritten + 1 }

/-- Log an event with the fine time of its instant (R24, Table 17.10). -/
def State.evAt (s : State) (code unit t frac : Nat) (param : Bytes := []) : State :=
  { s with log := s.log.push ⟨s.log.nextSeq, code, unit, !s.gridOn, t, frac, fit 12 param⟩ }

/-- Log an event at this instant. -/
def State.ev (s : State) (code unit : Nat) (param : Bytes := []) : State := s.evAt code unit s.gridTime 0 param

/-- Take a fresh free integer. -/
def State.freshInt (s : State) : Int × State := (Config.freeInt s.free, { s with free := s.free + 1 })

/-- Take a fresh free natural number. -/
def State.freshNat (s : State) : Nat × State := (Config.freeNat s.free, { s with free := s.free + 1 })

/-- Take `n` fresh free bytes. -/
def State.freshBytes (s : State) (n : Nat) : Bytes × State :=
  ((List.range n).map (fun i => Config.freeByte s.free i), { s with free := s.free + 1 })

/-- Fold a state change over a list. -/
def State.each {α : Type} (s : State) (l : List α) (f : State → α → State) : State := l.foldl f s

/-- Ticks in a frame, in a slot, in a second (R2). -/
def frameTicks : Nat := 640000
def slotTicks : Nat := 128
def secondTicks : Nat := 640000000
def msTicks : Nat := 640000
def usTicks : Nat := 640

/-- The first frame boundary after an instant. -/
def nextFrame (t : Nat) : Nat := (t / frameTicks + 1) * frameTicks

/-- The first frame boundary at or after an instant. -/
def frameAtOrAfter (t : Nat) : Nat := ceilDiv t frameTicks * frameTicks

/-- The first slot boundary at or after a fine time in 1/65,536 tick (R57). -/
def slotAtOrAfterFine (ft : Nat) : Nat := ceilDiv ft (128 * 65536) * 128

/-- Creel and input of a channel (R8). -/
def creelOf (ch : Nat) : Nat := ch / 16
def inputOf (ch : Nat) : Nat := ch % 16

/-- A B-class channel (R8). -/
def isB (ch : Nat) : Bool := Nat.blt (ch % 16) 8

/-- A TDC stamp of an edge on TDC channel `c` (R174, R207): 1/128 tick when the previous edge on the channel lies at least
32 ticks earlier, else the tick alone with COARSE. -/
def State.tdc (s : State) (c fine : Nat) : (Nat × Bool) × State :=
  let coarse := match Map.find? s.trig.tdc c with
    | some p => Nat.blt fine (p + 32 * 65536)
    | none => false
  ((if coarse then fine / 65536 * 65536 else fine / 512 * 512, coarse),
   { s with trig := { s.trig with tdc := Map.set s.trig.tdc c fine } })

/-- The result type of every meaning. -/
abbrev Out := Host.Outcome State Fault Refusal

end Sys2Proof.Machine
end

