-- ==== Sys2Proof/Machine/Operands.lean ====
section
/-! DEFINITION. Operand forms of the sampling path: sequence entries and sequences (Tables 5.2 and 5.12), where an entry
stands in its period (R81, R85), full scale and code formation (R38, R40, R79), and reserved wire-break windows (R49). -/

namespace Sys2Proof.Machine

/-! ### Sequence entries (Table 5.2) -/

/-- Bit 15: the entry is idle. -/
def entryIdle (w : Nat) : Bool := bitOf w 15
/-- Bits 13:12: 0 internal, 1 REFIN, 2 ratiometric. -/
def entryRef (w : Nat) : Nat := w / 4096 % 4
/-- Bits 11:10: 1, 2, 4 or 8 slots. -/
def entryWidth (w : Nat) : Nat := 2 ^ (w / 1024 % 4)
/-- Bits 9:7: gain or range. -/
def entryGain (w : Nat) : Nat := w / 128 % 8
/-- Bits 3:0: input j. -/
def entryInput (w : Nat) : Nat := w % 16
/-- Bits 31:16, 14 and 6:4 are reserved. -/
def entryReserved (w : Nat) : Bool := decide (w / 65536 ≠ 0) || bitOf w 14 || decide (w / 16 % 8 ≠ 0)

/-- Combination index of an entry (Table 6.1). -/
def comboOf (b : Bool) (ref gr : Nat) : Nat := if b then ref * 8 + gr else 24 + ref * 4 + gr

/-- A regular sequence: period and entry words (R81). -/
structure Seq where
  p : Nat
  entries : List Nat
  deriving DecidableEq, Repr

/-- `n` 32-bit words from an offset. -/
def words32 (b : Bytes) (off n : Nat) : List Nat := (List.range n).map (fun i => field b (off + 4 * i) 4)

/-- SEQ_REGULAR's layout (Table 5.12). -/
def decodeSeq (b : Bytes) : Seq := ⟨field b 0 2, words32 b 4 (field b 2 1)⟩

/-- SEQ_INJECTED's layout: mode and entry words (Table 5.12). -/
def decodeInj (b : Bytes) : Nat × List Nat := (field b 1 1, words32 b 4 (field b 0 1))

/-- The regular sequence stored for converter `c`. -/
def seqOf (st : Store) (c : Nat) : Seq := decodeSeq (st.bytes O.seqRegular c)

/-- The injected sequence stored for converter `c`: mode and entries. -/
def injOf (st : Store) (c : Nat) : Nat × List Nat := decodeInj (st.bytes O.seqInjected c)

/-- Converter `c` belongs to a pair that interleaves (R96). -/
def interleaved (st : Store) (c : Nat) : Bool := Nat.blt c 32 && st.bool O.interleave (c / 2 * 2)

/-- Sum of the entry widths: o_L of R81. -/
def seqLoad (es : List Nat) : Nat := (es.map entryWidth).sum

/-- The entry that covers slot `pos` of the period, with its first slot (R81). -/
def locateFrom : List Nat → Nat → Nat → Option (Nat × Nat)
  | [], _, _ => none
  | w :: es, o, pos =>
    if Nat.blt pos (o + entryWidth w) then (if Nat.ble o pos then some (w, o) else none) else locateFrom es (o + entryWidth w) pos

/-- The entry that covers slot `pos`. -/
def Seq.locate (q : Seq) (pos : Nat) : Option (Nat × Nat) := locateFrom q.entries 0 pos

/-- Position in its period of the slot that begins at tick `b` (R81). -/
def Seq.pos (q : Seq) (b : Nat) : Nat := b % frameTicks / slotTicks % (max q.p 1)

/-- The slot is idle: outside the entries, or in an idle entry (R81). -/
def Seq.idleAt (q : Seq) (pos : Nat) : Bool :=
  match q.locate pos with
  | some (w, _) => entryIdle w
  | none => true

/-- The regular entry whose hold is at tick `t` (R85): its word. -/
def Seq.holdAt (q : Seq) (t : Nat) : Option Nat :=
  if Nat.blt t slotTicks then none else
  match q.locate (q.pos (t - slotTicks)) with
  | some (w, o) => if !entryIdle w && Nat.beq (q.pos (t - slotTicks) + 1) (o + entryWidth w) then some w else none
  | none => none

/-- Maximal runs of idle slots of one period, as first slot and length, in order: a run inside the entries ends where the
next entry begins, and the last one ends with the period (R49). -/
def idleRunsFrom (p : Nat) : List Nat → Nat → Option Nat → List (Nat × Nat)
  | [], o, r => match r with
    | some a => [(a, p - a)]
    | none => if Nat.blt o p then [(o, p - o)] else []
  | w :: es, o, r =>
    if entryIdle w then idleRunsFrom p es (o + entryWidth w) (some (r.getD o))
    else match r with
      | some a => (a, o - a) :: idleRunsFrom p es (o + entryWidth w) none
      | none => idleRunsFrom p es (o + entryWidth w) none

/-- Runs of idle slots within one period. -/
def Seq.idleRuns (q : Seq) : List (Nat × Nat) := idleRunsFrom q.p q.entries 0 none

/-- The reserved window: first slot of the first run of at least S idle slots (R49). -/
def Seq.window (q : Seq) (soak : Nat) : Option Nat :=
  (q.idleRuns.find? (fun r => Nat.ble soak r.2)).map (·.1)

/-- Indices of the entries that name an input, with their offsets. -/
def occurrencesFrom (j : Nat) : List Nat → Nat → List (Nat × Nat)
  | [], _ => []
  | w :: es, o =>
    if !entryIdle w && Nat.beq (entryInput w) j then (w, o) :: occurrencesFrom j es (o + entryWidth w)
    else occurrencesFrom j es (o + entryWidth w)

/-- Occurrences of input `j`: entry word and offset (R84). -/
def Seq.occurrences (q : Seq) (j : Nat) : List (Nat × Nat) := occurrencesFrom j q.entries 0

/-! ### Full scale and codes (R38, R40, R79) -/

/-- Full scale in nV as a fraction: numerator, denominator. The 0 to 10 V range stands 5 V around its middle. -/
def fullScale (b : Bool) (ref gr refin : Nat) (sense : Int) (setpoint : Nat) : Int × Nat :=
  let base : Nat := if b then 2500000000 else if gr % 4 = 0 then 10000000000 else if gr % 4 = 2 then 2500000000 else 5000000000
  let g : Nat := if b then 2 ^ gr else 1
  match ref with
  | 0 => (base, g)
  | 1 => ((base * refin : Nat), 4096000 * g)
  | _ => (sense, 2 ^ setpoint * g)

/-- The input relative to code 0, times the denominator of full scale: W range 3 subtracts the middle (R40). -/
def relative (b : Bool) (gr : Nat) (fs : Int × Nat) (v : Int) : Int :=
  v * fs.2 - (if !b && Nat.beq gr 3 then fs.1 else 0)

/-- The rounded code before saturation: `none` where full scale is not positive and no quotient exists. -/
def rawCode (b : Bool) (gr : Nat) (fs : Int × Nat) (v : Int) : Option Int :=
  if fs.1 > 0 then some (roundDiv (relative b gr fs v * 8192) fs.1.toNat) else none

/-- Saturated code, and whether it saturated (R38, R79). -/
def satCode (c : Int) : Int × Bool := (clampInt (-8192) 8191 c, decide (c < -8192 ∨ c > 8191))

/-- The input lies beyond 1.25 × full scale (Table 3.7). -/
def beyondTier2 (b : Bool) (gr : Nat) (fs : Int × Nat) (v : Int) : Bool :=
  decide (4 * (relative b gr fs v).natAbs > 5 * fs.1.toNat)

/-- Excitation setpoint in nV (Table 4.1). -/
def setpointNv (v : Nat) : Nat := if v = 0 then 2500000000 else if v = 1 then 5000000000 else 10000000000

end Sys2Proof.Machine
end

