-- ==== Sys2Proof/Machine/Flags.lean ====
section
/-! DEFINITION. Flags: the raw word's and the output word's flag bits (Tables 5.1 and 7.3), how flags join (Table 7.4),
and the OPEN state at an instant (R55, R70). -/

namespace Sys2Proof.Machine

/-- OR of two sets of flags; SETTLE is set at OUT alone (R141). -/
def Flags.join (a b : Flags) : Flags :=
  { poison := a.poison || b.poison, opn := a.opn || b.opn, fill := a.fill || b.fill, recov := a.recov || b.recov,
    settle := a.settle || b.settle, clip := a.clip || b.clip, ovr := a.ovr || b.ovr, timeq := a.timeq || b.timeq }

/-- OR of a list of flags. -/
def joinAll (l : List Flags) : Flags := l.foldl Flags.join {}

/-- Raw word: MARK, OVR, 14-bit CODE (R80, Table 5.1). -/
def rawWord (mark ovr : Bool) (code : Int) : Nat := b2n mark * 32768 + b2n ovr * 16384 + toTwos 14 code

/-- The MARK of a sample: FILL, RECOV or OPEN (R125). -/
def Flags.mark (f : Flags) : Bool := f.fill || f.recov || f.opn

/-- Output word (R140, Table 7.3). -/
def outWord (v : Int) (f : Flags) : Nat :=
  toTwos 24 v * 256 + b2n f.poison * 128 + b2n f.opn * 64 + b2n f.fill * 32 + b2n f.recov * 16
    + b2n f.settle * 8 + b2n f.clip * 4 + b2n f.ovr * 2 + b2n f.timeq

/-- The value of an output word. -/
def wordValue (w : Nat) : Int := ofTwos 24 (w / 256)

/-- Set OPEN in an output word. -/
def setOpen (w : Nat) : Nat := if bitOf w 6 then w else w + 64

/-- Set POISON in an output word. -/
def setPoison (w : Nat) : Nat := if bitOf w 7 then w else w + 128

/-- OPEN at an instant: the latest verdict whose test hold is not after it is a failure (R55). -/
def OpenTrack.openAt (o : OpenTrack) (t : Nat) : Bool :=
  match o.last with
  | some v => if Nat.ble v.testHold t then v.failed else match o.prev with
    | some p => Nat.ble p.testHold t && p.failed
    | none => false
  | none => false

/-- The last verdict is a failure: OPEN is held now. -/
def OpenTrack.isOpen (o : OpenTrack) : Bool :=
  match o.last with
  | some v => v.failed
  | none => false

/-- Enter a verdict (R52, R55). -/
def OpenTrack.enter (o : OpenTrack) (v : Verdict) : OpenTrack :=
  { last := some v, prev := o.last, lastGood := if v.failed then o.lastGood else some v.testHold }

/-- Saturation to Q1.23, and whether it clipped (07_drafting.md, sat24). -/
def sat24 (a : Int) : Int × Bool := (clampInt (-8388608) 8388607 a, decide (a < -8388608 ∨ a > 8388607))

/-- Saturation to 25 bits (R127). -/
def sat25 (a : Int) : Int × Bool := (clampInt (-16777216) 16777215 a, decide (a < -16777216 ∨ a > 16777215))

/-- CAL: the coefficients applied to a code (R102, R127), and whether it clipped. -/
def calApply (c : Coef) (code : Int) : Int × Bool :=
  let x0 := sat25 (code * 1024 + c.o)
  let y := sat24 (roundConv (c.g * x0.1) 30)
  (y.1, x0.2 || y.2)

end Sys2Proof.Machine
end

