-- ==== Sys2Proof/Machine/Coefs.lean ====
section
/-! DEFINITION. From stored calibration sets to applied coefficients (06_calibration.md, R103 to R108). -/

namespace Sys2Proof.Machine

/-- Interpolation between two points, the division rounded convergently (R106). -/
def interp (va vb : Int) (ta tb tq : Int) : Int :=
  if tb = ta then va else va + roundDivInt ((vb - va) * (tq - ta)) (tb - ta)

/-- A point of a coefficient table: temperature, gain, offset. -/
structure CalPoint where
  temp : Int
  g : Int
  o : Int
  deriving DecidableEq, Repr

/-- Factory points of a combination (Table 6.2). -/
def factoryPoints (rec : Bytes) (combo : Nat) : List CalPoint :=
  (List.range 3).map (fun t =>
    ⟨fieldI rec (2 + 2 * t) 2, (field rec (8 + 256 * t + 8 * combo) 4 : Nat), fieldI rec (12 + 256 * t + 8 * combo) 4⟩)

/-- Factory gain and offset at T_q: by segment, extrapolated beyond the ends (R106). -/
def factoryAt (rec : Bytes) (combo : Nat) (tq : Int) : Int × Int :=
  match factoryPoints rec combo with
  | [p0, p1, p2] =>
    if tq < p1.temp then (interp p0.g p1.g p0.temp p1.temp tq, interp p0.o p1.o p0.temp p1.temp tq)
    else (interp p1.g p2.g p1.temp p2.temp tq, interp p1.o p2.o p1.temp p2.temp tq)
  | _ => (1073741824, 0)

/-- The points that the user sets give a combination, with GTIME and set number (Table 6.3). -/
def userPoints (sets : List Bytes) (combo : Nat) : List (CalPoint × Nat × Nat) :=
  (sets.zip (List.range 8)).filterMap (fun p =>
    let b := p.1
    if Nat.beq (field b 0 1) 0 || !bitOf (field b 4 4) combo then none
    else some (⟨fieldI b 2 2, (field b (16 + 8 * combo) 4 : Nat), fieldI b (20 + 8 * combo) 4⟩, field b 8 8, p.2))

/-- Of points with equal TEMP the one with the latest GTIME enters, then the highest number (R106). -/
def betterPoint (a b : CalPoint × Nat × Nat) : Bool :=
  Nat.blt b.2.1 a.2.1 || (Nat.beq a.2.1 b.2.1 && Nat.blt b.2.2 a.2.2)

/-- Insert a point in order of TEMP, one per TEMP. -/
def insertPoint (p : CalPoint × Nat × Nat) : List (CalPoint × Nat × Nat) → List (CalPoint × Nat × Nat)
  | [] => [p]
  | q :: l =>
    if p.1.temp = q.1.temp then (if betterPoint p q then p :: l else q :: l)
    else if p.1.temp < q.1.temp then p :: q :: l
    else q :: insertPoint p l

/-- Interpolate along ordered points; the end values hold beyond the outermost points. -/
def alongPoints (tq : Int) : List CalPoint → Int × Int
  | [] => (1073741824, 0)
  | [p] => (p.g, p.o)
  | p :: q :: l =>
    if tq ≤ p.temp then (p.g, p.o)
    else if tq ≤ q.temp then (interp p.g q.g p.temp q.temp tq, interp p.o q.o p.temp q.temp tq)
    else alongPoints tq (q :: l)

/-- User gain and offset at T_q (R106). -/
def userAt (sets : List Bytes) (combo : Nat) (tq : Int) : Int × Int :=
  alongPoints tq (((userPoints sets combo).foldl (fun l p => insertPoint p l) []).map (·.1))

/-- The eight user sets of a path. -/
def userSets (st : Store) (c : Nat) : List Bytes :=
  (List.range 8).map (fun i => st.bytesK O.userSet (O.userSet.conv c + i))

/-- Applied coefficients of a path and combination, and whether R107 saturated. -/
def coefsOf (st : Store) (c combo : Nat) (user : Bool) : Coef × Bool :=
  let tq := st.intK O.tQ (O.tQ.conv c)
  let f := factoryAt (st.bytes O.factoryCal c) combo tq
  let u := if user then userAt (userSets st c) combo tq else (1073741824, 0)
  let g := roundConv (f.1 * u.1) 30
  let o := f.2 + u.2
  let g' := clampInt (2 ^ 29) (2 ^ 31 - 1) g
  let o' := clampInt (-(2 ^ 31)) (2 ^ 31 - 1) o
  (⟨g', o'⟩, decide (g ≠ g' ∨ o ≠ o'))

/-- A path's store with a formed run's coefficients in it. -/
def withFormed (st : Store) (x : FormedRun) : Store := st.put (O.userSet.conv x.path + x.slot) (.bytes x.content)

end Sys2Proof.Machine
end

