-- ==== Sys2Proof/Machine/Excite.lean ====
section
/-! DEFINITION. Excitation drivers and converter references (04_excitation.md): switching events, regulation, trip,
reference buffers and their settling, and the commands that belong to them. -/

namespace Sys2Proof.Machine

namespace State

/-- Creel, driver, converter and sequencer records by number. -/
def creel (s : State) (k : Nat) : Creel := Map.getD s.samp.creels k {}
def setCreel (s : State) (k : Nat) (c : Creel) : State := { s with samp := { s.samp with creels := Map.set s.samp.creels k c } }
def driver (s : State) (k : Nat) : Driver := Map.getD s.samp.drivers k {}
def setDriver (s : State) (k : Nat) (d : Driver) : State := { s with samp := { s.samp with drivers := Map.set s.samp.drivers k d } }
def conv (s : State) (c : Nat) : Converter := Map.getD s.samp.convs c {}
def setConv (s : State) (c : Nat) (x : Converter) : State := { s with samp := { s.samp with convs := Map.set s.samp.convs c x } }
def injector (s : State) (c : Nat) : Injector := Map.getD s.samp.injectors c {}
def setInjector (s : State) (c : Nat) (x : Injector) : State := { s with samp := { s.samp with injectors := Map.set s.samp.injectors c x } }
def inputTrack (s : State) (ch : Nat) : OpenTrack := Map.getD s.samp.inputOpen ch {}
def setInputTrack (s : State) (ch : Nat) (o : OpenTrack) : State := { s with samp := { s.samp with inputOpen := Map.set s.samp.inputOpen ch o } }

end State

/-- EXC_SETTLE in ticks (R75). -/
def excSettleTicks (st : Store) (k : Nat) : Nat := st.nat O.excSettle k * usTicks

/-- The driver is enabled: on or booster, not tripped, and not switched off while interrupting parts load (R69, R408,
Table 4.5). -/
def excEnabled (s : State) (k : Nat) : Bool :=
  decide (s.nat O.excMode k ≠ 0) && !(s.driver k).tripped && s.upd.gapFrom.isNone

/-- Set FILL on the held samples of a creel's B channels from an instant on (Table 4.4, R57). -/
def fillHolds (k t0 : Nat) (l : List GridItem) : List GridItem :=
  l.map (fun g => match g with
    | .hold h => if Nat.beq (creelOf h.ch) k && isB h.ch && Nat.ble t0 h.t then .hold { h with flags := { h.flags with fill := true } } else .hold h
    | .change t c p a b => .change t c p a b)

/-- A switching event of driver `k` at `t0`: FILL from here joins what still runs (R75, R76, Table 4.4). -/
def switchEvent (s : State) (k t0 : Nat) : State :=
  let d := s.driver k
  let e := t0 + excSettleTicks s.objs k
  let s := s.setDriver k { d with lastSwitch := some t0, settleAt := e, fillEnd := max d.fillEnd e, settling := true, oorSince := none }
  { s with samp := { s.samp with holds := fillHolds k t0 s.samp.holds } }

/-- What a write of EXC_MODE or EXC_VOLTAGE does at its t0, given the values before it (R69, R75). -/
def excWritten (s : State) (k t0 : Nat) (modeBefore voltBefore : Nat) (modeWritten : Bool) : State :=
  let d := s.driver k
  let changed := decide (s.nat O.excMode k ≠ modeBefore) || (decide (s.nat O.excMode k ≠ 0) && decide (s.nat O.excVoltage k ≠ voltBefore))
  if modeWritten && d.tripped then switchEvent (s.setDriver k { d with tripped := false }) k t0
  else if changed then switchEvent s k t0
  else s

/-- The driver is out of regulation: the sense differential differs from the setpoint by more than 1 % (R68). -/
def outOfRegulation (sense : Int) (volt : Nat) : Bool :=
  decide ((sense - setpointNv volt).natAbs * 100 > setpointNv volt)

/-- The regulation comparator at a slot boundary (R68): ignored while the driver's own switching FILL runs. EXC_SENSE is the
sense differential in whole µV, 0 where it is negative (log entry 142). -/
def excSlot (s : State) (k t : Nat) (sense : Int) (current : Nat) : State :=
  let s := (s.put O.excSense k (sense.toNat / 1000)).put O.excCurrent k (if Nat.beq (s.nat O.excMode k) 1 then current else 0)
  let d := s.driver k
  if !excEnabled s k || (d.lastSwitch.isSome && Nat.ble t d.fillEnd) then s
  else if outOfRegulation sense (s.nat O.excVoltage k) then
    if d.oorSince.isSome then s
    else ((s.setDriver k { d with oorSince := some t }).bump O.excFaultCount k).evAt Ev.excOutOfReg k t 0
  else if d.oorSince.isSome then switchEvent s k t
  else s

/-- FILL from excitation on a B sample of creel `k` held at `t` (R68, R69, Table 4.4). -/
def excFill (s : State) (k t : Nat) : Bool :=
  let d := s.driver k
  (match d.lastSwitch with | some t0 => Nat.ble t0 t && Nat.ble t d.fillEnd | none => false) || d.oorSince.isSome || d.tripped

/-! ### References (R71 to R73) -/

/-- Settling counts of Table 4.3. -/
def internalSettle : Nat := 1280000
def refinSettle : Nat := 128000

/-- The creel whose driver feeds a converter's ratiometric buffer: its own; for C32 the creel it stands in for. -/
def ratioCreel (s : State) (c : Nat) : Nat := if c = 32 then (s.cal.connected.getD 0) else c

/-- The instant from which a buffer is settled; `none` while it is off or cannot settle (R71, R73). -/
def settledFrom (s : State) (c src : Nat) : Option Nat :=
  let b := (s.conv c).buf
  match src with
  | 0 => b.internal.map (· + internalSettle)
  | 1 => match b.refin with
    | none => none
    | some e => if s.samp.refinOut then none else some (max (e + refinSettle) (match s.samp.refinLast with | some l => l + refinSettle | none => 0))
  | _ => match b.ratio with
    | none => none
    | some e =>
      let d := s.driver (ratioCreel s c)
      some (max (e + refinSettle) (if d.lastSwitch.isSome then d.settleAt else 0))

/-- A buffer is settled at `t` (R71). -/
def bufSettled (s : State) (c src t : Nat) : Bool :=
  match settledFrom s c src with
  | some e => Nat.ble e t
  | none => false

/-- A buffer is on. -/
def bufOn (s : State) (c src : Nat) : Bool :=
  let b := (s.conv c).buf
  match src with
  | 0 => b.internal.isSome
  | 1 => b.refin.isSome
  | _ => b.ratio.isSome

/-- REF_SETTLED: every enabled buffer is settled (R72). -/
def refSettled (s : State) (c t : Nat) : Bool :=
  (List.range 3).all (fun src => !bufOn s c src || bufSettled s c src t)

/-- The last instant at which a settled buffer of the converter was still unsettled, if it is past: the end of R72's FILL. -/
def refFillEnd (s : State) (c t : Nat) : Nat :=
  (List.range 3).foldl (fun m src => match settledFrom s c src with | some e => if Nat.ble e t then max m e else m | none => m) 0

/-- A buffer is wanted: an entry names its source, or REF_KEEP keeps it (R71); an interleaved pair's IL_REF names a source too
(log entry 143). -/
def bufWanted (st : Store) (c src : Nat) : Bool :=
  bitOf (st.natK O.refKeep (O.refKeep.conv c)) src ||
    (Nat.blt c 32 && (((seqOf st c).entries.any (fun w => !entryIdle w && Nat.beq (entryRef w) src)) ||
      ((injOf st c).2.any (fun w => Nat.beq (entryRef w) src)) ||
      (interleaved st c && Nat.beq (st.nat O.ilRef (c / 2 * 2)) src)))

/-- Keep an enable time, start one, or switch the buffer off. -/
def keepOr (on : Bool) (t0 : Nat) (e : Option Nat) : Option Nat := if on then some (e.getD t0) else none

/-- Recompute which buffers of converter `c` are on, from `t0` (R71). A sweep adds C32's internal and REFIN buffers
(R116), and its ratiometric buffers follow the creel it serves (R117). -/
def refreshBuffers (s : State) (c t0 : Nat) : State :=
  let b := (s.conv c).buf
  if !bitOf (s.nat O.domainCtrl) 0 then s.setConv c { s.conv c with buf := {} } else
  let sw := Nat.beq c 32 && (match s.cal.sweep with | some w => Nat.beq w.method 0 | none => false)
  let ratioOn := bufWanted s.objs c 2
  s.setConv c { s.conv c with buf :=
    { internal := keepOr (bufWanted s.objs c 0 || sw) t0 b.internal
      refin := keepOr (bufWanted s.objs c 1 || sw) t0 b.refin
      ratio := if c = 32 then (match s.cal.connected with
          | some k => if ratioOn || bufWanted s.objs k 2 then
              (match s.cal.ratioA, s.cal.ratioB with
                | some (k', e), _ => if Nat.beq k' k then some e else (match s.cal.ratioB with | some (k'', e') => if Nat.beq k'' k then some e' else some t0 | none => some t0)
                | none, some (k'', e') => if Nat.beq k'' k then some e' else some t0
                | none, none => some t0) else none
          | none => keepOr ratioOn t0 b.ratio)
        else keepOr ratioOn t0 b.ratio } }

/-- A hold at or after `t0` whose converter's references were all settled in `old` and are not in `s` (R72). -/
def unsettledBy (old s : State) (t0 : Nat) (h : Hold) : Bool :=
  Nat.ble t0 h.t && refSettled old h.path h.t && !refSettled s h.path h.t

/-- The converter path of a hold that an event at `t0` takes the reference from. -/
def unsettledPath (old s : State) (t0 : Nat) : GridItem → Option Nat
  | .hold h => if unsettledBy old s t0 h then some h.path else none
  | .change .. => none

/-- FILL on such a hold. -/
def fillUnsettled (old s : State) (t0 : Nat) : GridItem → GridItem
  | .hold h => if unsettledBy old s t0 h then .hold { h with flags := { h.flags with fill := true } } else .hold h
  | .change t ch p a b => .change t ch p a b

/-- Samples already held at or after `t0` carry R72's FILL, and are counted, where an event at `t0` has left a reference of
their converter unsettled; `old` is the state before the event. -/
def refillHolds (old : State) (t0 : Nat) (s : State) : State :=
  let hit := s.samp.holds.filterMap (unsettledPath old s t0)
  let holds := s.samp.holds.map (fillUnsettled old s t0)
  State.each { s with samp := { s.samp with holds := holds } } hit (fun s p => s.addK O.refFillCount (O.refFillCount.conv p) 1)

/-- A switching event of driver `k` at `t0` with what it does to the converters that use the driver (R72, R75). -/
def switchDriver (s : State) (k t0 : Nat) : State := refillHolds s t0 (switchEvent s k t0)

/-- The REFIN monitor at a slot boundary, REFIN in µV (R73). -/
def refinSlot (s : State) (t refin : Nat) : State :=
  let out := Nat.blt refin 2400000 || Nat.blt 4600000 refin
  if out then
    if s.samp.refinOut then { s with samp := { s.samp with refinLast := some t } }
    else { s with samp := { s.samp with refinFirst := t, refinLast := some t, refinOut := true } }
  else if s.samp.refinOut then
    ({ s with samp := { s.samp with refinOut := false } } : State).evAt Ev.refinOutOfRange 0xFF (s.samp.refinLast.getD t) 0
      (be 8 s.samp.refinFirst ++ be 4 ((s.samp.refinLast.getD t - s.samp.refinFirst) % 2 ^ 32))
  else s

/-! ### Costs and states that objects report -/

/-- Dissipation cost of a driver in µW (R66). EXC_COST shows it in mW, a fraction rounded up (log entry 139). -/
def excCostUw (st : Store) (k : Nat) : Nat :=
  match st.nat O.excMode k with
  | 0 => 0
  | 1 => (st.nat O.vexcMax - setpointNv (st.nat O.excVoltage k) / 1000000) * st.nat O.excIlim k + 30000
  | _ => 60000

/-- EXC_STATE (Table 4.5). -/
def excState (s : State) (k : Nat) : Nat :=
  let d := s.driver k
  b2n d.tripped * 32 + b2n s.twin.stages * 16 + b2n (s.creel k).sense.isOpen * 8
    + b2n d.oorSince.isSome * 4 + b2n d.settling * 2 + b2n (excEnabled s k)

/-- REF_STATE (Table 4.6). -/
def refState (s : State) (c : Nat) : Nat :=
  let t := s.now
  b2n s.samp.refinOut * 16 + b2n (refSettled s c t) * 8 + b2n (bufSettled s c 2 t) * 4 + b2n (bufSettled s c 1 t) * 2 + b2n (bufSettled s c 0 t)

/-! ### Commands -/

/-- Switch a driver off as tripped (R69). EXC_STATE[2] stays set while the trip holds (log entry 141). -/
def tripDriver (s : State) (k : Nat) : State :=
  (s.setDriver k { s.driver k with tripped := true, settling := false }).ev Ev.excTripped k

/-- EXC_TRIPPED: the driver has been out of regulation for 10 ms (R69); only a unit that holds the claim trips (R359). -/
def execExcTripped (k : Fin 32) (s : State) : Out :=
  match (s.driver k).oorSince with
  | some t => if excEnabled s k && s.twin.stages then .next (tripDriver (s.advance (t + 6400000)) k) else .next s
  | none => .next s

/-- REF_BUFFER_SETTLED: a buffer's settling count elapses (R71 to R73). -/
def execRefBufferSettled (c : Fin 33) (src : Fin 3) (s : State) : Out :=
  match settledFrom s c src with
  | some e => let s := s.advance e; .next (s.putK (O.refState.conv c) (.int (refState s c)))
  | none => .next s

end Sys2Proof.Machine
end

