-- ==== Sys2Proof/Machine/Sampling.lean ====
section
/-! DEFINITION. Creels, converters and sequencing (03_creels.md, 05_converters.md): what happens at a slot boundary,
overload spans, blanking, wire-break runs, reference checks, interleaved pairs and injected sequences. -/

namespace Sys2Proof.Machine

/-! ### Overload spans (Table 3.7, R46, R47) -/

/-- The instant lies in a span. -/
def RecovSpan.holds (r : RecovSpan) (t : Nat) : Bool := Nat.ble r.lo t && Nat.ble t r.hi

/-- RECOV applies to a sample of this creel held at `t`. -/
def Creel.recovAt (c : Creel) (t : Nat) : Bool := c.spans.any (·.holds t)

/-- Add a span, joined with the newest one where they meet (R47). -/
def addSpan (lo hi tier : Nat) : List RecovSpan → List RecovSpan
  | [] => [{ lo := lo, hi := hi, tier := tier }]
  | r :: l =>
    if !r.logged && Nat.ble lo (r.hi + 1) then { r with hi := max r.hi hi, tier := max r.tier tier } :: l
    else { lo := lo, hi := hi, tier := tier } :: r :: l

/-- A second-tier overload on the sample held at `t`. -/
def tier2 (s : State) (k t : Nat) : State :=
  let c := s.creel k
  s.setCreel k { c with spans := addSpan (t + 1) (t + 512) 2 c.spans, t2Until := t + 512, dischargeUntil := t + 512 }

/-- Third-tier excess seen in the creel's quadrant at boundary `t`. -/
def tier3 (s : State) (k t : Nat) : State :=
  let c := s.creel k
  s.setCreel k { c with spans := addSpan t (t + 1280) 3 c.spans, t3Until := t + 1280 }

/-- Ticks between two holds of a creel's samples: an interleaved pair's lie 64 apart (R96, R98). -/
def holdTicks (st : Store) (k : Nat) : Nat := if interleaved st k && Nat.beq (k % 2) 0 then 64 else slotTicks

/-- Log spans that have ended, with their first and last hold instants, and forget those long past (R48). -/
def closeSpans (s : State) (k t : Nat) : State :=
  let c := s.creel k
  let g := holdTicks s.objs k
  let s := (c.spans.filter (fun r => !r.logged && Nat.blt r.hi t)).foldl
    (fun s r => s.evAt Ev.recovSpan k (ceilDiv r.lo g * g) 0 (be 8 (r.hi / g * g) ++ be 1 r.tier)) s
  let marked := c.spans.map (fun r => if Nat.blt r.hi t then { r with logged := true } else r)
  s.setCreel k { c with spans := marked.filter (fun r => Nat.ble t (r.hi + frameTicks)) }

/-- Quadrants in which clamp current exceeds the third tier's limits (R45, Table 3.7). -/
def tier3Quadrants (e : SlotEnv) : List Nat :=
  (List.range 4).filter (fun q =>
    let cs := (List.range 8).map (fun i => (e.creels.getD (8 * q + i) {}).clamp)
    cs.any (fun c => Nat.blt 10000 c) || Nat.blt 50000 cs.sum)

/-! ### Blanking (R57) -/

/-- FILL from blanking at hold instant `h`, for a selection and a tail in µs. -/
def blankedAt (blank : Map (List (Nat × Option Nat))) (sel tail h : Nat) : Bool :=
  (List.range 4).any (fun i => bitOf sel i && (Map.getD blank i []).any (fun iv =>
    Nat.ble (slotAtOrAfterFine iv.1) h &&
      (match iv.2 with | none => true | some r => Nat.ble (h * 65536) (r + tail * usTicks * 65536))))

/-- End of the last blanking interval that is past at `h`. -/
def blankEnd (blank : Map (List (Nat × Option Nat))) (sel tail h : Nat) : Nat :=
  (List.range 4).foldl (fun m i => if bitOf sel i then (Map.getD blank i []).foldl (fun m iv =>
    match iv.2 with
    | some r => let e := (r + tail * usTicks * 65536) / 65536
                if Nat.blt e h && Nat.ble (slotAtOrAfterFine iv.1) h then max m e else m
    | none => m) m else m) 0

/-- The creel is blanked now (CREEL_STATE[0]). -/
def creelBlanked (s : State) (k : Nat) : Bool :=
  blankedAt s.samp.blank (s.nat O.blankSel k) (s.nat O.blankTail k) s.now

/-- BLANK_EDGE: an edge of BLANKi is stamped and logged (R57, R58). The stamp is a fine time in 1/65,536 tick. -/
def execBlankEdge (i : Fin 4) (high : Bool) (edge : Nat) (s : State) : Out :=
  let d := s.tdc (32 + i) edge
  let stamp := d.1.1
  let s := d.2
  let old := (Map.getD s.samp.blank i []).filter (fun iv => match iv.2 with
    | some r => Nat.ble (s.now * 65536) (r + 641000000 * 65536)
    | none => true)
  let new := if high then (match old with | (_, none) :: _ => old | _ => (stamp, none) :: old)
    else match old with
      | (a, none) :: l => (a, some stamp) :: l
      | l => l
  .next (({ s with samp := { s.samp with blank := Map.set s.samp.blank i new } } : State).evAt Ev.blankEdge 0xFF
    (stamp / 65536) (stamp % 65536) [BitVec.ofNat 8 i.val, BitVec.ofNat 8 (b2n high)])

/-! ### Holds -/

/-- The converter path that delivers converter `c`'s entries: its own, or C32's (R116). -/
def pathOf (s : State) (c : Nat) : Nat := if s.cal.serving = some c then 32 else c

/-- Queue a hold in the grid island for 512 ticks (R58). -/
def pushHold (s : State) (h : Hold) : State := { s with samp := { s.samp with holds := s.samp.holds ++ [.hold h] } }

/-- The code of an input, and whether it saturated; a free code where full scale is not positive. -/
def takeCode (s : State) (b : Bool) (gr : Nat) (fs : Int × Nat) (v : Int) : (Int × Bool) × State :=
  match rawCode b gr fs v with
  | some c => (satCode c, s)
  | none => let f := s.freshInt; (satCode f.1, f.2)

/-- The connected input goes beyond the second tier's limits in this slot (Table 3.7, R39). -/
def tier2Excess (b : Bool) (gr : Nat) (fs : Int × Nat) (e : CreelEnv) : Bool :=
  beyondTier2 b gr fs e.vMin || beyondTier2 b gr fs e.vMax || beyondTier2 b gr fs e.vin ||
    (b && (decide (e.ballMin < 200000000) || decide (e.ballMax > 11000000000)))

/-- The path that a handover compares with the delivering one, with the store that its coefficients come from: C32 at offset 0,
the path just calibrated, under its new coefficients, at offset 41 (R116, R119). -/
def comparedPath (s : State) (c : Nat) : Option (Nat × Store) :=
  if s.cal.connected ≠ some c then none
  else match s.cal.serving, s.cal.sweep.bind (·.formed) with
    | none, _ => some (32, s.objs)
    | some _, some x => if Nat.beq x.path c then some (c, withFormed s.objs x) else none
    | some _, none => none

/-- The other path's CAL output at the same instant, unless that path's own sample carries OVR or FILL (R119). -/
def otherOutput (s : State) (c ch t : Nat) (b : Bool) (ref gr : Nat) (fs : Int × Nat) (relief : Int) : Option Int :=
  match comparedPath s c, rawCode b gr fs relief with
  | some (p, st), some v =>
    let r := satCode v
    if r.2 || !refSettled s p t then none else some (calApply (coefsOf st p (comboOf b ref gr) (s.bool O.userCalEnable ch)).1 r.1).1
  | _, _ => none

/-- A sample of channel `ch` taken by converter `c` at `t`: `k` is the creel whose marks apply (R98). `inj` marks an
injected sample (R94). Counts, code history and spans follow (Tables 3.7, 5.1). -/
def sampleAt (s : State) (k c ch t : Nat) (b : Bool) (ref gr : Nat) (e : CreelEnv) (refin : Nat)
    (inj : Option (Nat × Nat × Nat)) : State :=
  let fs := fullScale b ref gr refin e.sense (s.nat O.excVoltage k)
  let r := takeCode s b gr fs e.vin
  let s := r.2
  let cr := s.creel k
  let t2 := cr.t2Seen || tier2Excess b gr fs e
  let ovr := r.1.2 || t2
  let path := pathOf s c
  let settled := refSettled s path t
  let fill := (b && excFill s k t) || !settled
  let recov := cr.recovAt t
  let d := s.driver k
  let fe := max (if b && d.lastSwitch.isSome && Nat.blt d.fillEnd t then d.fillEnd else 0) (refFillEnd s path t)
  let co := (coefsOf s.objs path (comboOf b ref gr) (s.bool O.userCalEnable ch)).1
  let h : Hold :=
    { t := t, ch := ch, path := path, code := r.1.1, flags := { ovr := ovr, fill := fill, recov := recov, timeq := s.time.timeq },
      blankSel := s.nat O.blankSel k, blankTail := s.nat O.blankTail k, fillEnd := fe, coef := co, inj := inj,
      other := if inj.isSome then none else otherOutput s c ch t b ref gr fs e.relief,
      interval := ((Map.find? s.draft.plans ch).map (·.delta)).getD 0 }
  let s := pushHold (s.setCreel k { cr with t2Seen := false }) h
  let s := if t2 then tier2 s k t else s
  let s := if ovr then s.bump O.ovrCount ch else s
  let s := if recov then s.bump O.recovCount ch else s
  let s := if settled then s else s.addK O.refFillCount (O.refFillCount.conv path) 1
  if inj.isSome then s else { s with samp := { s.samp with prevCode := Map.set s.samp.prevCode ch r.1.1 } }

/-- A sample whose converter did not take it: displaced under PREEMPT (R92) or stopped for calibration (R121). It keeps its
instant and repeats the previous CODE under FILL. -/
def repeatAt (s : State) (k c ch t : Nat) (b : Bool) (ref gr : Nat) : State :=
  let path := pathOf s c
  let h : Hold :=
    { t := t, ch := ch, path := path, code := Map.getD s.samp.prevCode ch 0, flags := { fill := true, recov := (s.creel k).recovAt t, timeq := s.time.timeq },
      blankSel := s.nat O.blankSel k, blankTail := s.nat O.blankTail k, fillEnd := 0,
      coef := (coefsOf s.objs path (comboOf b ref gr) (s.bool O.userCalEnable ch)).1, inj := none,
      interval := ((Map.find? s.draft.plans ch).map (·.delta)).getD 0 }
  let s := if h.flags.recov then s.bump O.recovCount ch else s
  let s := if refSettled s path t then s else s.addK O.refFillCount (O.refFillCount.conv path) 1
  pushHold s h

/-- A sample's flags once every stamp that can bear on it is known (R55, R57, R58). -/
def finalFlags (s : State) (h : Hold) : Flags :=
  let opn := (s.inputTrack h.ch).openAt h.t || (isB h.ch && (s.creel (creelOf h.ch)).sense.openAt h.t)
  { h.flags with fill := h.flags.fill || blankedAt s.samp.blank h.blankSel h.blankTail h.t, opn := h.flags.opn || opn }

/-- The difference of the two CAL outputs of a held sample, where neither carries OVR, FILL, RECOV or OPEN (R119). -/
def holdDev (s : State) (h : Hold) : Nat :=
  let f := finalFlags s h
  match h.other with
  | some y => if f.ovr || f.fill || f.recov || f.opn then 0 else ((calApply h.coef h.code).1 - y).natAbs
  | none => 0

/-! ### Injected sequences (R89 to R95) -/

/-- Accept a start: a run with the entries and mode in force (R89, R93). It counts as started at its start boundary. -/
def beginRun (s : State) (c : Nat) (st : InjStart) : State :=
  let q := injOf s.objs c
  let r : InjRun := { start := st, mode := q.1, entries := q.2 }
  let rec0 : InjRecord := { start := st, mode := q.1, channel := 16 * c + entryInput (q.2.getD 0 0) }
  let s := s.setInjector c { s.injector c with run := some r, waiting := none }
  { s with samp := { s.samp with injRecords := Map.set s.samp.injRecords c (Map.getD s.samp.injRecords c [] ++ [rec0]) } }

/-- Set what the newest record of a converter expects (R94). -/
def closeRecord (s : State) (c n : Nat) (aborted : Bool) : State :=
  let l := Map.getD s.samp.injRecords c []
  match l.reverse with
  | r :: rs => { s with samp := { s.samp with injRecords := Map.set s.samp.injRecords c ((({ r with expected := some n, aborted := aborted } : InjRecord) :: rs).reverse) } }
  | [] => s

/-- A trigger and an INJ_START fall on one boundary: the trigger goes first, INJ_START is queued behind it (R93). -/
def swapStart (s : State) (c : Nat) (i : Injector) (r : InjRun) (st : InjStart) : State :=
  let s := s.setInjector c { i with run := some { r with start := st }, waiting := some { r.start with queued := true } }
  { s with samp := { s.samp with injRecords := Map.set s.samp.injRecords c ((Map.getD s.samp.injRecords c []).map (fun x =>
      if x.start = r.start then { x with start := st } else x)) } }

/-- A trigger or INJ_START of grid time `stamp`, in 1/65,536 tick, reaches converter `c` (R89, R93). -/
def injRequest (s : State) (c stamp : Nat) (st : InjStart) : State :=
  if (injOf s.objs c).2.isEmpty || interleaved s.objs c then s
  else
    let i := s.injector c
    match i.run, i.waiting with
    | none, _ => beginRun s c st
    | some r, none =>
      if Nat.blt st.cause 2 && Nat.ble 2 r.start.cause && Nat.beq r.nextIdx 0 && r.current.isNone && Nat.beq r.start.start st.start then
        swapStart s c i r st
      else s.setInjector c { i with waiting := some { st with queued := true } }
    | some _, some _ => (s.bump O.injOverrun c).evAt Ev.injOverrun c (stamp / 65536) (stamp % 65536)

/-- Start boundary: first slot boundary at or after a fine time plus 384 ticks (Table 5.4). -/
def injBoundaryFine (ft : Nat) : Nat := slotAtOrAfterFine (ft + 384 * 65536)

/-- Start boundary of a start that depends on arrival: first slot boundary at least 384 ticks after it (Table 5.4). -/
def injBoundaryNow (t : Nat) : Nat := ceilDiv (t + 384) 128 * 128

/-- A PREEMPT run takes every slot from its start boundary on: it has one that ends at or before `t` (R91). -/
def InjRun.preempts (r : InjRun) (t : Nat) : Bool := Nat.beq r.mode 1 && Nat.blt r.start.start t

/-- The run ends at `t`: close its record, keep a PREEMPT span for its trailing entry, and start a queued one (R91, R93). -/
def endRun (s : State) (c t : Nat) (r : InjRun) (aborted : Bool) : State :=
  let s := closeRecord s c r.nextIdx aborted
  let i := s.injector c
  let sp := if r.preempts t then i.spans ++ [{ lo := r.start.start, hi := t, displaced := r.displaced : PreSpan }] else i.spans
  let s := s.setInjector c { i with run := none, spans := sp }
  if aborted then
    match i.waiting with
    | some w => (s.setInjector c { run := none, waiting := none, spans := sp }).ev Ev.injTriggerDiscarded c (be 8 w.start)
    | none => s
  else match i.waiting with
    | some w => beginRun s c { w with start := max w.start (t + 128) }
    | none => s

/-- The input connected in the slot that ends at `t` goes beyond the second tier's limits (R39, R45). -/
def excessSeen (s : State) (k : Nat) (b : Bool) (gr : Nat) (fs : Int × Nat) (e : CreelEnv) : State :=
  if tier2Excess b gr fs e then s.setCreel k { s.creel k with t2Seen := true } else s

/-- The slot that ends at `t` belongs to injected entry `idx`, which began at `b0`: its hold, or what its input does while a
wide entry tracks (R43, R46, R90, R91). -/
def injectedSlot (s : State) (c t idx b0 : Nat) (e : CreelEnv) (refin : Nat) : State :=
  match (s.injector c).run with
  | none => s
  | some r =>
    let w := r.entries.getD idx 0
    let ch := 16 * c + entryInput w
    if !Nat.beq t (b0 + 128 * entryWidth w) then
      excessSeen s c (isB ch) (entryGain w) (fullScale (isB ch) (entryRef w) (entryGain w) refin e.sense (s.nat O.excVoltage c)) e
    else
      let s := sampleAt s c c ch t (isB ch) (entryRef w) (entryGain w) e refin (some (c, idx, r.start.start))
      let r' := { r with current := none, nextIdx := idx + 1, lastHold := t }
      if Nat.beq (idx + 1) r.entries.length then endRun s c t r' false
      else s.setInjector c { s.injector c with run := some r' }

/-- A regular entry that began at `eb` is displaced by `t` (R91): it has a slot, ended at or before `t`, inside the span of a
PREEMPT run. -/
def displacedAt (i : Injector) (eb t : Nat) : Bool :=
  (match i.run with | some r => r.preempts t | none => false) || i.spans.any (fun p => Nat.blt p.lo t && Nat.blt eb p.hi)

/-- Count a displaced sample of an entry that began at `eb`, held at `t`: once for the converter, and in every span that it
has a slot in (R92). -/
def countDisplaced (s : State) (c eb t : Nat) : State :=
  let i := s.injector c
  (s.bump O.displacedCount c).setInjector c
    { i with run := i.run.map (fun r => if r.preempts t then { r with displaced := r.displaced + 1 } else r)
             spans := i.spans.map (fun p => if Nat.blt p.lo t && Nat.blt eb p.hi then { p with displaced := p.displaced + 1 } else p) }

/-- Log finished spans (R92). -/
def logPreSpans (s : State) (c : Nat) (l : List PreSpan) : State :=
  s.each l (fun s p => s.evAt Ev.injSpan c p.lo 0 (be 8 p.hi ++ be 4 p.displaced))

/-- The boundary at which the entry, or the idle slot, that ends or goes on at `t` began. -/
def Seq.begunAt (q : Seq) (t : Nat) : Nat :=
  let pos := q.pos (t - 128)
  match q.locate pos with
  | some (w, o) => if entryIdle w then t - 128 else t - 128 - (pos - o) * 128
  | none => t - 128

/-- Log the finished spans that no entry can still be displaced by (R92). -/
def closePreSpan (s : State) (c t : Nat) : State :=
  let i := s.injector c
  let gone_ := fun p : PreSpan => Nat.blt p.hi t && Nat.ble p.hi ((seqOf s.objs c).begunAt t)
  logPreSpans (s.setInjector c { i with spans := i.spans.filter (fun p => !gone_ p) }) c (i.spans.filter gone_)

/-- The start boundary of the run under way has come: it counts as started, or, where its converter is stopped for
calibration, it is lost and a queued start takes its place (R93, R121). -/
def judgeStart (s : State) (c b : Nat) : State :=
  let i := s.injector c
  match i.run with
  | some r =>
    if r.started || Nat.blt b r.start.start then s
    else if s.cal.stopped.contains c then
      let s := s.setInjector c { i with run := none, waiting := none }
      let kept := (Map.getD s.samp.injRecords c []).filter (fun x => x.start ≠ r.start)
      let s : State := { s with samp := { s.samp with injRecords := Map.set s.samp.injRecords c kept } }
      let s := (s.bump O.injOverrun c).evAt Ev.calInjLost c r.start.start 0
      match i.waiting with
      | some w => beginRun s c w
      | none => s
    else (s.setInjector c { i with run := some { r with started := true } }).bump O.injCount c
  | none => s

/-! ### Wire-break windows -/

/-- Slot `pos` of the period that begins at `base` lies in a reserved window of a pending run (R49). -/
def reservedAt (s : State) (k base pos : Nat) : Bool :=
  let r := (s.creel k).wb
  !r.pending.isEmpty && Nat.ble r.nextPeriod base &&
    (match (seqOf s.objs k).window (s.nat O.wbSoak k) with
      | some w => Nat.ble w pos && Nat.blt pos (w + s.nat O.wbSoak k)
      | none => false)

/-- The slot that begins at `b` is free for an injected entry: idle and not reserved (R90). -/
def freeSlot (s : State) (c b : Nat) : Bool :=
  let q := seqOf s.objs c
  let pos := q.pos b
  q.idleAt pos && !reservedAt s c (b - pos * 128) pos

/-- The slot that begins at `b` lies in a reserved window. -/
def reservedSlot (s : State) (c b : Nat) : Bool :=
  let pos := (seqOf s.objs c).pos b
  reservedAt s c (b - pos * 128) pos

/-- `w` free slots begin at `b` (R90). -/
def freeRun (s : State) (c b w : Nat) : Bool := (List.range w).all (fun i => freeSlot s c (b + 128 * i))

/-- The slot that begins at `b` goes to the injected sequence: to an entry that has begun, inside a PREEMPT span, or to an
entry that waits under IDLE_ONLY and finds its run of free slots there (R86, R90, R91). -/
def injectedTakes (s : State) (c b : Nat) : Bool :=
  match (s.injector c).run with
  | some r => r.current.isSome || (Nat.ble r.start.start b && Nat.blt r.nextIdx r.entries.length &&
      (Nat.beq r.mode 1 || freeRun s c b (entryWidth (r.entries.getD r.nextIdx 0))))
  | none => false

/-- INJECTED_ENTRY_BEGIN: the next injected entry of converter `c` begins at the present slot boundary, where its start
boundary and the free slots allow (R90, R91). -/
def execInjectedEntryBegin (c : Fin 32) (s : State) : Out :=
  let b := s.samp.lastSlot
  let s := judgeStart s c b
  match (s.injector c).run with
  | none => .next s
  | some r =>
    let w := entryWidth (r.entries.getD r.nextIdx 0)
    let can := r.current.isNone && Nat.blt r.nextIdx r.entries.length && Nat.ble r.start.start b && Nat.ble r.lastHold b &&
      !s.cal.stopped.contains c.val &&
      (if Nat.beq r.mode 1 then (List.range w).all (fun i => !reservedSlot s c (b + 128 * i))
       else freeRun s c b w)
    if can then .next (s.setInjector c { s.injector c with run := some { r with current := some (r.nextIdx, b) } })
    else .next s

/-! ### The reference check (R87) -/

/-- Convert the 2.048 V tap of converter `c` at `t`. -/
def refCheck (s : State) (c t : Nat) (tap : Int) : State :=
  let code := (satCode (roundDiv (tap * 8192) 2500000000)).1
  let y := (calApply (coefsOf s.objs c 0 true).1 code).1
  let dev := roundDiv (y - 6871948) 1024
  let bad := decide (dev.natAbs > s.objs.natK O.refcheckLimit (O.refcheckLimit.conv c))
  let s := s.setConv c { s.conv c with refFrame := some ((t - 128) / frameTicks), refFailed := bad }
  let s := (s.putK (O.refcheckDev.conv c) (.int (clampInt (-32768) 32767 dev))).putK (O.refcheckTime.conv c) (.int t)
  if bad then s.evAt Ev.refCheckFail c t 0 (beI 4 dev) else s

/-- Run the check if the slot that ends at `t` is free for it; `taken` names the converters whose slot went to an injected
sequence (R86, R87). -/
def refCheckSlot (taken : List Nat) (s : State) (c t : Nat) (tap : Int) : State :=
  let b := t - 128
  let done := (s.conv c).refFrame = some (b / frameTicks)
  let runs := if c = 32 then s.cal.serving else (if s.cal.serving = some c then none else some c)
  let free := match runs with
    | some k => !interleaved s.objs k && (seqOf s.objs k).idleAt ((seqOf s.objs k).pos b) && !reservedSlot s k b && !taken.contains k
    | none => c = 32
  if !done && free && bufSettled s c 0 t && !s.cal.stopped.contains c then refCheck s c t tap else s

/-! ### Wire-break scale -/

/-- Full scale that a check converts against, referred to the balls, and the reference it needs settled (R51, R70). A
sequence whose entry 0 is missing or idle names no reference: the internal one is taken (log entry 135). -/
def wbScale (s : State) (k j refin : Nat) (sense : Int) : (Int × Nat) × Nat :=
  if Nat.beq j 16 then (((2500000000 * 2 * 2 ^ s.nat O.excVoltage k : Nat), 1), 0) else
  let r0 := match (seqOf s.objs k).entries with
    | w :: _ => if entryIdle w then 0 else entryRef w
    | [] => 0
  let b := Nat.blt j 8
  let ref := if !b && Nat.beq r0 2 then 0 else r0
  (fullScale b ref 0 refin sense (s.nat O.excVoltage k), ref)

/-! ### SLOT_BOUNDARY -/

/-- What the creel has connected in a slot: nothing, an injected entry with its begin, the input of a wire-break check, or a
regular entry with its first slot (R41, R42, R51, R90, R91). -/
inductive SlotUse where
  | nothing
  | injected (idx b0 : Nat)
  | check (j : Nat)
  | regular (w o : Nat)
  deriving DecidableEq, Repr

/-- The use of the slot that ends at `t`. -/
def slotUse (s : State) (c t : Nat) : SlotUse :=
  let b := t - 128
  let q := seqOf s.objs c
  if s.cal.stopped.contains c then .nothing else
  match (s.injector c).run.bind (·.current) with
  | some (idx, b0) => .injected idx b0
  | none =>
    if reservedSlot s c b then (match (s.creel c).wb.pending with | j :: _ => .check j | [] => .nothing)
    else match q.locate (q.pos b) with
      | some (w, o) => if entryIdle w || displacedAt (s.injector c) (q.begunAt t) t then .nothing else .regular w o
      | none => .nothing

/-- The slot that ends at `t` is the first of its use. -/
def SlotUse.fresh (s : State) (c t : Nat) : SlotUse → Bool
  | .nothing => true
  | .injected _ b0 => Nat.beq b0 (t - 128)
  | .check _ => (seqOf s.objs c).window (s.nat O.wbSoak c) = some ((seqOf s.objs c).pos (t - 128))
  | .regular _ o => Nat.beq ((seqOf s.objs c).pos (t - 128)) o

/-- An entry was cut short at `b` after its input had gone beyond the second tier's limits: its sample is discarded, the span
follows (R45, R92, log entry 137). -/
def cutShort (s : State) (c b : Nat) : State :=
  if (s.creel c).t2Seen then tier2 (s.setCreel c { s.creel c with t2Seen := false }) c b else s

/-- A slot of the reserved window under check of input `j` (R51): an excess counts with the check's next hold, the baseline's
or the test's (R45, log entry 136). The sense lead is not the creel's connected input. -/
def checkSlot (s : State) (k t j : Nat) (e : CreelEnv) (refin : Nat) : State :=
  if Nat.beq j 16 then s else
  let s := excessSeen s k (Nat.blt j 8) 0 (wbScale s k j refin e.sense).1 e
  let q := seqOf s.objs k
  let at_ := q.pos (t - 128)
  match q.window (s.nat O.wbSoak k) with
  | some w => if Nat.beq at_ w || Nat.beq (at_ + 1) (w + s.nat O.wbSoak k) then cutShort s k t else s
  | none => s

/-- The regular hold of converter `c` at `t` (R85), and a wide entry's excess while it tracks (R43, R46). -/
def regularSlot (s : State) (c t : Nat) (e : CreelEnv) (refin : Nat) : State :=
  let q := seqOf s.objs c
  match q.locate (q.pos (t - 128)) with
  | none => s
  | some (w, o) =>
    if entryIdle w then s else
    let ch := 16 * c + entryInput w
    let b := isB ch
    let eb := q.begunAt t
    let stopped := s.cal.stopped.contains c
    let displaced := displacedAt (s.injector c) eb t
    if Nat.beq (q.pos (t - 128) + 1) (o + entryWidth w) then
      if stopped then repeatAt s c c ch t b (entryRef w) (entryGain w)
      else if displaced then countDisplaced (repeatAt s c c ch t b (entryRef w) (entryGain w)) c eb t
      else sampleAt s c c ch t b (entryRef w) (entryGain w) e refin none
    else if stopped || displaced then s
    else excessSeen s c b (entryGain w) (fullScale b (entryRef w) (entryGain w) refin e.sense (s.nat O.excVoltage c)) e

/-- The slot of a converter with its own sequence that ends at `t`. -/
def ownSlot (s : State) (c t : Nat) (e : CreelEnv) (refin : Nat) : State :=
  let use_ := slotUse s c t
  let s := if use_.fresh s c t then cutShort s c (t - 128) else s
  let s := regularSlot s c t e refin
  match use_ with
  | .injected idx b0 => injectedSlot s c t idx b0 e refin
  | .check j => checkSlot s c t j e refin
  | .nothing => s
  | .regular _ _ => s

/-- An interleaved pair at `t` (R96, R98): the odd converter's hold at `t - 64`, then the even converter's at `t`. -/
def pairSlot (s : State) (c t : Nat) (e : SlotEnv) : State :=
  let gr := s.nat O.ilRange c
  let ref := s.nat O.ilRef c
  let ch := 16 * c + 8
  let one := fun (s : State) (c' t' : Nat) =>
    if s.cal.stopped.contains c' || s.cal.stopped.contains c then repeatAt s c c' ch t' false ref gr
    else sampleAt s c c' ch t' false ref gr (e.creels.getD c' {}) e.refin none
  one (one s (c + 1) (t - 64)) c t

/-- CLAMP_CURRENT from the measured current in µA: whole units of 10 µA, at most what a U16 holds (log entry 138). -/
def clampUnits (ua : Nat) : Nat := min (ua / 10) 65535

/-- One creel at slot boundary `t`. -/
def creelSlot (e : SlotEnv) (t : Nat) (q3 taken : List Nat) (s : State) (k : Nat) : State :=
  let env := e.creels.getD k {}
  let s := s.put O.clampCurrent k (clampUnits env.clamp)
  let s := excSlot s k t env.sense env.current
  let s := if q3.contains (k / 8) then tier3 s k t else s
  let s := judgeStart s k (t - 128)
  let s := if interleaved s.objs k then (if Nat.beq (k % 2) 0 then pairSlot (cutShort s k (t - 128)) k t e else s)
    else ownSlot s k t env e.refin
  refCheckSlot taken (closePreSpan (closeSpans s k t) k t) k t env.tap

/-- SLOT_BOUNDARY: tick 0 of the next slot (R46, R68, R73, R79 to R86). -/
def execSlotBoundary (e : SlotEnv) (s : State) : Out :=
  if !s.gridOn || s.time.pause.isSome || s.upd.gapFrom.isSome then .next s else
  let b := s.samp.lastSlot
  let t := b + slotTicks
  let s := { s.advance t with samp := { s.samp with lastSlot := t, writerFault := e.writer } }
  let s := refinSlot s t e.refin
  let taken := (List.range 32).filter (fun c => injectedTakes s c b)
  let s := (List.range 32).foldl (creelSlot e t (tier3Quadrants e) taken) s
  .next (refCheckSlot taken s 32 t e.tap32)

/-! ### Wire-break runs (R49 to R53) -/

/-- Inputs a run checks: the sense lead first (16), then each enabled input in ascending order (R49, R70). -/
def wbInputs (st : Store) (k : Nat) : List Nat :=
  (if st.bool O.excCheck k then [16] else []) ++ (List.range 16).filter (fun j => st.bool O.wbEnable (16 * k + j))

/-- First period start at or after `t` (R81). -/
def periodAtOrAfter (q : Seq) (t : Nat) : Nat := ceilDiv t (128 * max q.p 1) * (128 * max q.p 1)

/-- Start a run whose first window lies in the period that begins at `t`. -/
def startRun (s : State) (k t : Nat) : State :=
  (s.setCreel k { s.creel k with wb := { pending := wbInputs s.objs k, nextPeriod := t, delayed := false } }).put O.wbRunStart k t

/-- WB_RUN_START: a due frame boundary of creel `k` (R49, R53). A creel with nothing to check starts no run, and its
WB_RUN_START stays (log entry 134). -/
def execWbRunStart (k : Fin 32) (s : State) : Out :=
  let f := s.samp.lastFrame
  let n := s.nat O.wbInterval k
  let r := (s.creel k).wb
  if !s.gridOn || !Nat.beq (f / frameTicks % max n 1) 0 || (wbInputs s.objs k).isEmpty || Nat.blt (f + slotTicks) s.now then .next s
  else if r.pending.isEmpty then .next (startRun s k f)
  else if r.delayed || Nat.beq (s.nat O.wbRunStart k) f then .next s
  else .next ((s.setCreel k { s.creel k with wb := { r with delayed := true } }).ev Ev.wbRunLate k)

/-- The check under way moves on: to the next input, or to a delayed run (R53). -/
def wbAdvance (s : State) (k : Nat) (rest : List Nat) (ended next : Nat) : State :=
  let c := s.creel k
  if rest.isEmpty && c.wb.delayed then startRun s k (periodAtOrAfter (seqOf s.objs k) (ended + 1))
  else s.setCreel k { c with wb := { c.wb with pending := rest, nextPeriod := next } }

/-- The verdict of a check that is not void: shift in units of full scale / 8,192, and whether it failed (R52, R70). -/
def wbFails (s : State) (k j : Nat) (fs : Int × Nat) (b t : Int × Bool) : Bool :=
  let d := (t.1 - b.1) * fs.1
  let thr : Nat := if Nat.beq j 16 then s.nat O.excCheckThresh k else if Nat.blt j 8 then s.nat O.wbThreshB k else s.nat O.wbThreshW k
  let lim : Int := (thr * 1000000 * 8192 * fs.2 : Nat)
  b.2 || t.2 || decide ((if Nat.beq j 16 then (d.natAbs : Int) else d) > lim)

/-- Either hold of the check makes it void: RECOV, BLANK, a compatibility stop, or an unsettled reference (R51, R53, R121). -/
def wbVoid (s : State) (k ref h1 h2 : Nat) : Bool :=
  let bad := fun h => (s.creel k).recovAt h || blankedAt s.samp.blank (s.nat O.blankSel k) (s.nat O.blankTail k) h
    || !bufSettled s (pathOf s k) ref h
  bad h1 || bad h2 || s.cal.stopped.contains k

/-- Enter a verdict of creel `k`, input `j` (16 the sense lead), test hold `th` (R52, R55, R70). -/
def wbEnter (s : State) (k j th : Nat) (failed : Bool) (shiftUv : Int) : State :=
  if Nat.beq j 16 then
    let c := s.creel k
    let s := s.setCreel k { c with sense := c.sense.enter ⟨th, failed⟩ }
    if failed then s.evAt Ev.excSenseOpen k th 0 (be 8 (c.sense.lastGood.getD 0)) else s
  else
    let ch := 16 * k + j
    let o := s.inputTrack ch
    let s := (s.setInputTrack ch (o.enter ⟨th, failed⟩)).putI O.wbLastShift ch (clampInt (-(2 ^ 31)) (2 ^ 31 - 1) shiftUv)
    if failed then (s.put O.wbLastFail ch th).evAt Ev.wbFail k th 0 (be 8 (o.lastGood.getD 0) ++ be 2 ch)
    else s.put O.wbLastGood ch th

/-- Inputs left out of a pending run when their enable is cleared at `t` (R37, R49): they are never connected from then on. A
check whose window has passed still gives its verdict. A run that is left with nothing has ended (log entry 133). -/
def wbPrune (t : Nat) (s : State) (k : Nat) : State :=
  let c := s.creel k
  let keep := fun j => if Nat.beq j 16 then s.bool O.excCheck k else s.bool O.wbEnable (16 * k + j)
  let rest := match c.wb.pending with
    | j :: l => if Nat.blt c.wb.nextPeriod t then j :: l.filter keep else (j :: l).filter keep
    | [] => []
  if rest = c.wb.pending then s
  else if rest.isEmpty && c.wb.delayed then startRun s k t
  else s.setCreel k { c with wb := { c.wb with pending := rest } }

/-- A check of the window that begins at `ws`, in the period that begins at `base`: conversions, verdict, and the run's next
step, one input per period (R49, R51 to R53). -/
def wbCheckAt (s : State) (k j base ws : Nat) (rest : List Nat) (e : WbEnv) : State :=
  let soak := s.nat O.wbSoak k
  let th := ws + 128 * soak
  let q := seqOf s.objs k
  let s := s.advance (th + 80)
  let s := s.setCreel k { s.creel k with wbLast := some (j, ws + 128, th) }
  let sc := wbScale s k j e.refin e.sense
  let next := base + 128 * max q.p 1
  if wbVoid s k sc.2 (ws + 128) th then
    ((wbAdvance s k (j :: rest) (th + 80) next).bump O.wbVoidCount k).evAt Ev.wbVoid k th 0 [BitVec.ofNat 8 j]
  else
    let b := takeCode s (Nat.beq j 16 || Nat.blt j 8) 0 sc.1 e.baseline
    let t := takeCode b.2 (Nat.beq j 16 || Nat.blt j 8) 0 sc.1 e.test
    let shift := roundDiv ((t.1.1 - b.1.1) * sc.1.1) (8192 * sc.1.2 * 1000)
    wbAdvance (wbEnter t.2 k j th (wbFails t.2 k j sc.1 b.1 t.1) shift) k rest (th + 80) next

/-- Abort a pending run at a sequence change (R53). -/
def wbAbort (s : State) (k : Nat) : State :=
  let c := s.creel k
  if c.wb.pending.isEmpty then s else (s.setCreel k { c with wb := {} }).ev Ev.wbRunAborted k

/-! ### Status -/

/-- CREEL_STATE (Table 3.12). -/
def creelState (s : State) (k : Nat) : Nat :=
  let c := s.creel k
  b2n (Nat.ble s.now c.t3Until && Nat.blt 0 c.t3Until) * 4 + b2n (Nat.ble s.now c.t2Until && Nat.blt 0 c.t2Until) * 2 + b2n (creelBlanked s k)

/-- CONV_STATE (Table 5.10). -/
def convState (s : State) (c : Nat) : Nat :=
  b2n (s.conv c).refFailed * 16 + b2n (interleaved s.objs c) * 8 + b2n (s.cal.serving = some c) * 4 + b2n (s.cal.stopped.contains c) * 2
    + b2n (bitOf (s.nat O.domainCtrl) 0 && !s.cal.stopped.contains c)

/-- INJ_STATE (Table 5.11). -/
def injState (s : State) (c : Nat) : Nat :=
  let i := s.injector c
  b2n i.waiting.isSome * 4 + (match i.run with | some r => b2n (r.current.isNone && Nat.ble r.start.start s.samp.lastSlot) * 2 + 1 | none => 0)

/-- OPEN_STATE (Table 3.13, R70). -/
def openState (s : State) (ch : Nat) : Bool := (s.inputTrack ch).isOpen || (isB ch && (s.creel (creelOf ch)).sense.isOpen)

/-! ### Sequence checks (Table 5.3) -/

/-- Minimum settling in ticks (Table 3.6). -/
def minSettling (gr : Nat) : Nat := if Nat.ble gr 3 then 39 else if Nat.beq gr 4 then 52 else if Nat.beq gr 5 then 71 else if Nat.beq gr 6 then 103 else 154

/-- The entry has the settling time it needs (R44). -/
def settlesOk (discharge w : Nat) : Bool :=
  entryIdle w || (if Nat.blt (entryInput w) 8 then Nat.ble (minSettling (entryGain w) + 2 + discharge) (128 * entryWidth w)
    else Nat.ble (64 + 3) (128 * entryWidth w))

/-- Occurrences of one input are equally spaced (R84). -/
def equallySpaced (p : Nat) (offs : List Nat) : Bool :=
  let r := offs.length
  if Nat.ble r 1 then true else
  Nat.beq (p % r) 0 && (match offs with
    | [] => true
    | o :: _ => (offs.zip (List.range r)).all (fun x => Nat.beq x.1 (o + x.2 * (p / r))))

/-- An idle entry with a field set that does not apply (R82), or a reserved field set, or a refused code. -/
def entryMalformed (inj : Bool) (w : Nat) : Bool :=
  entryReserved w || Nat.beq (entryRef w) 3 || (!entryIdle w && Nat.ble 8 (entryInput w) && Nat.ble 4 (entryGain w)) ||
    (entryIdle w && (inj || !Nat.beq (entryRef w) 0 || !Nat.beq (entryGain w) 0 || !Nat.beq (entryInput w) 0))

/-- Sample offset of an occurrence: the end of its entry (R85). -/
def occOffsets (l : List (Nat × Nat)) : List Nat := l.map (fun x => x.2 + entryWidth x.1)

/-- Format and range checks of SEQ_REGULAR (Table 5.12, then the 0x0200 rows of Table 5.3); 0 when they pass. -/
def seqFormat (st : Store) (c : Nat) (b : Bytes) : Nat :=
  let q := decodeSeq b
  if Nat.blt b.length 4 || !Nat.beq b.length (4 + 4 * field b 2 1) then 0x02000001
  else if Nat.beq q.p 0 || Nat.blt 5000 q.p || !Nat.beq (5000 % max q.p 1) 0 then 0x02000010
  else if Nat.blt 32 q.entries.length || !Nat.beq (field b 3 1) 0 || q.entries.any (entryMalformed false) then 0x02000001
  else if q.entries.any (fun w => !settlesOk (st.nat O.discharge c) w) then 0x02000011
  else if q.entries.any (fun w => !entryIdle w && Nat.ble 8 (entryInput w) && Nat.beq (entryRef w) 2) then 0x02000012
  else if (List.range 16).any (fun j => !equallySpaced q.p (occOffsets (q.occurrences j))) then 0x02000013
  else if (List.range 16).any (fun j => match q.occurrences j with
      | [] => false
      | x :: l => l.any (fun y => !Nat.beq x.1 y.1)) then 0x02000014
  else 0

/-- Format and range checks of SEQ_INJECTED. -/
def injFormat (st : Store) (c : Nat) (b : Bytes) : Nat :=
  let es := (decodeInj b).2
  if Nat.blt b.length 4 || !Nat.beq b.length (4 + 4 * field b 0 1) then 0x02000001
  else if Nat.blt 8 es.length || Nat.blt 1 (field b 1 1) || !Nat.beq (field b 2 2) 0 || es.any (entryMalformed true) then 0x02000001
  else if es.any (fun w => !settlesOk (st.nat O.discharge c) w) then 0x02000011
  else if es.any (fun w => Nat.ble 8 (entryInput w) && Nat.beq (entryRef w) 2) then 0x02000012
  else 0

/-- State checks of a configuration of creel `k`: a ratiometric reference needs its driver on (R74); a tripped driver whose
EXC_MODE still has it on counts as on (log entry 140). -/
def ratioState (st : Store) (k : Nat) : Nat :=
  let names := (seqOf st k).entries.any (fun w => !entryIdle w && Nat.beq (entryRef w) 2) ||
    (injOf st k).2.any (fun w => Nat.beq (entryRef w) 2) || bitOf (st.nat O.refKeep k) 2
  if names && Nat.beq (st.nat O.excMode k) 0 then 0x03000003 else 0

/-- Runs of free slots across a repeated period, with the reserved window taken: the longest run (R95). -/
def longestFree (q : Seq) (win : Option (Nat × Nat)) : Nat :=
  let free := fun i => q.idleAt (i % max q.p 1) && (match win with | some (w, n) => !(Nat.ble w (i % max q.p 1) && Nat.blt (i % max q.p 1) (w + n)) | none => true)
  ((List.range (2 * q.p + 8)).foldl (fun (a : Nat × Nat) i => if free i then (a.1 + 1, max a.2 (a.1 + 1)) else (0, a.2)) (0, 0)).2

/-- Admission of creel `k`'s sequencing: R81's load, wire-break windows (R50), free run for IDLE_ONLY (R95), pairs (R97). -/
def seqAdmit (st : Store) (k : Nat) : Nat :=
  let q := seqOf st k
  let n := (wbInputs st k).length
  let soak := st.nat O.wbSoak k
  let inj := injOf st k
  if Nat.blt q.p (seqLoad q.entries) then 0x04000014
  else if interleaved st k then (if Nat.beq n 0 then 0 else 0x04000010)
  else if Nat.blt 0 n && (q.window soak).isNone then 0x04000010
  else if Nat.blt (st.nat O.wbInterval k * (5000 / max q.p 1)) n then 0x04000011
  else if Nat.beq inj.1 0 && !inj.2.isEmpty &&
      Nat.blt (min (longestFree q (if Nat.blt 0 n then (q.window soak).map (fun w => (w, soak)) else none)) 8)
        ((inj.2.map entryWidth).foldl max 0) then 0x04000013
  else 0

end Sys2Proof.Machine
end

