-- ==== Sys2Proof/Machine/Calib.lean ====
section
/-! DEFINITION. Calibration: temperatures, requests, runs, the relief handover and the compatibility method
(06_calibration.md). -/

namespace Sys2Proof.Machine

/-- A recomputation of a path's coefficients at `t` saturated some of them: CAL_STATE[4], and an entry for each (R107). -/
def noteSaturation (s : State) (c t : Nat) : State :=
  let bad := (List.range 32).filter (fun i => (coefsOf s.objs c i true).2)
  let s : State := if bad.isEmpty then s else { s with cal := { s.cal with saturated := true } }
  s.each bad (fun s i => s.evAt Ev.calSaturated c t 0 [BitVec.ofNat 8 i])

/-- A path's stored coefficients have changed: CAL_SET_ID counts it, and the coefficients are formed anew (R107, R108). -/
def calSetChanged (s : State) (c t : Nat) : State :=
  let v := (s.nat O.calSetId + 1) % 2 ^ 32
  noteSaturation ((s.put O.calSetId 0 v).evAt Ev.calSetChanged c t 0 (be 4 v)) c t

/-- A path's new mean temperature at a frame boundary (R101, R105). -/
def tempStep (t : Nat) (s : State) (x : Nat × Int) : State :=
  let c := x.1
  let s := s.putK (O.dieTemp.conv c) (.int x.2)
  let tq := s.objs.intK O.tQ (O.tQ.conv c)
  if (x.2 - tq).natAbs > 16 then
    let q := roundDiv x.2 16 * 16
    noteSaturation ((s.putK (O.tQ.conv c) (.int q)).evAt Ev.calTq c t 0 (beI 4 q)) c t
  else s

/-- Some path's T_q differs by more than CAL_DELTA_T (0.1 K) from its CAL_TEMP (1/64 °C) (R113). -/
def tempCondition (st : Store) : Bool :=
  (List.range 33).any (fun c =>
    Nat.blt (st.nat O.calDeltaT * 64) ((st.intK O.tQ (O.tQ.conv c) - st.intK O.calTemp (O.calTemp.conv c)).natAbs * 10))

/-- An automatic request at boundary `t`: dropped while a sweep runs (R113). -/
def calAutoRequest (s : State) (t : Nat) : State :=
  if s.cal.sweep.isSome || s.cal.request.isSome then s else { s with cal := { s.cal with request := some (t, true) } }

/-- The temperature condition at `t`: a request when it holds and did not hold before (R113). -/
def tempRequest (s : State) (t : Nat) : State :=
  let cond := s.bool O.calAuto && tempCondition s.objs
  let s1 := if cond && !s.cal.tempCond then calAutoRequest s t else s
  { s1 with cal := { s1.cal with tempCond := cond } }

/-- Reference sources of path `c` whose buffers are settled at `t` (R110). -/
def settledRefs (s : State) (c t : Nat) : List Nat := (List.range 3).filter (fun src => bufSettled s c src t)

/-- The run of path `c` begins at `t` (R110). -/
def runBegins (t : Nat) (s : State) (c : Nat) : State :=
  { s with cal := { s.cal with sweep := s.cal.sweep.map (fun w => { w with refs := Map.set w.refs c (settledRefs s c t) }) } }

/-- C32's own run in the native method begins two frames after the sweep's start (R116). -/
def reliefRunBegins (s : State) (t : Nat) : State :=
  match s.cal.sweep with
  | some w => if Nat.beq w.method 0 && Nat.beq t (w.start + 2 * frameTicks) then runBegins t s 32 else s
  | none => s

/-- The boundary's work for calibration (R105, R113, R116). -/
def calBoundary (s : State) (t : Nat) (temps : List Int) : State :=
  tempRequest (reliefRunBegins (((List.range 33).zip temps).foldl (tempStep t) s) t) t

/-- CAL_START takes effect: a sweep at boundary `t` (R113). -/
def calStartAt (s : State) (t : Nat) : State := { s with cal := { s.cal with request := some (t, false) } }

/-- CAL_START is refused: a sweep runs (R113), or CALREF is absent or implausible (R114). -/
def calStartState (s : State) : Nat :=
  if s.cal.sweep.isSome then 0x03000006
  else if Nat.beq (s.nat O.calrefCert) 0 || s.cal.noRef then 0x03000007 else 0

/-- A dropped automatic request (R114). -/
def calNoRef (s : State) (auto : Bool) : State :=
  let s : State := { s with cal := { s.cal with noRef := true, request := none } }
  if auto then s.ev Ev.calNoRef 32 else s

/-- CAL_INTERVAL_EXPIRY: CAL_INTERVAL seconds have passed (R113). -/
def execCalIntervalExpiry (s : State) : Out :=
  match s.cal.intervalFrom with
  | none => .next s
  | some t0 =>
    let n := s.nat O.calInterval
    if !s.bool O.calAuto || Nat.beq n 0 then .next s else
    let t := t0 + n * secondTicks
    let s := s.advance t
    let s : State := { s with cal := { s.cal with intervalFrom := some t } }
    if s.cal.sweep.isSome then .next s
    else if Nat.beq (s.nat O.calrefCert) 0 then .next (calNoRef s true)
    else .next (calAutoRequest s (nextFrame s.now))

/-- CALREF in µV from the sum of 1,024 codes of C32 at combination 0 (R114). -/
def calrefUv (st : Store) (codeSum : Int) : Nat :=
  let c := (coefsOf st 32 0 true).1
  (clampInt 0 (2 ^ 32 - 1) (roundDiv (c.g * (codeSum + c.o) * 5000000) (2 ^ 53))).toNat

/-- CAL_SWEEP_START: the sweep's boundary comes; C32 measures CALREF (R114, R116, R120). -/
def execCalSweepStart (codeSum : Int) (s : State) : Out :=
  match s.cal.request with
  | none => .next s
  | some (t, auto) =>
    if Nat.blt s.samp.lastFrame t || s.cal.sweep.isSome then .next s else
    let f := s.samp.lastFrame
    let m := calrefUv s.objs codeSum
    let s := s.put O.calrefMeasured 0 m
    let cert := s.nat O.calrefCert
    if Nat.beq cert 0 || Nat.blt (2 * cert) (1000 * ((m : Int) - cert).natAbs) then .next (calNoRef s auto)
    else
      let s : State := { s with cal := { s.cal with request := none, noRef := false, rejection := false, sweep := some { start := f, method := s.nat O.calMethod } } }
      .next (refreshBuffers (s.put O.sweepStart 0 f) 32 f)

/-- Class, reference and gain or range of a combination (Table 6.1). -/
def comboParts (i : Nat) : Bool × Nat × Nat := if Nat.blt i 24 then (true, i / 8, i % 8) else (false, (i - 24) / 4, (i - 24) % 4)

/-- The ideal values of a combination's levels in Q1.23 LSB, as numerators over one denominator (Table 6.5), for a certified
CALREF and a REFIN in µV: L is the smaller of 0.75 × full scale and 0.9 × CALREF. -/
def idealLevels (cert refin i : Nat) : List Int × Int :=
  let p := comboParts i
  let b := p.1
  let gr := p.2.2
  if b && Nat.beq p.2.1 2 then ([-25165824, 0, 25165824], 4)
  else
    let fs := fullScale b p.2.1 gr refin 0 0
    let v := fun nv : Int => relative b gr fs nv * 8388608
    if !b && Nat.beq gr 3 then ([v 1000000000, v (900 * cert : Nat)], fs.1)
    else if 3 * fs.1 ≤ (3600 * cert * fs.2 : Nat) then ([-25165824, 0, 25165824], 4)
    else ([v (-(900 * cert : Nat)), 0, v (900 * cert : Nat)], fs.1)

/-- Gu and Ou of a combination (R110): a least-squares line through pairs of ideal value, over the denominator `q`, and mean. A
mean in Q1.23 LSB is the sum of the 1,024 codes. A line without a slope gives free values. -/
def fitLevels (free : Nat) (f : Int × Int) (q : Int) (l : List (Int × Int)) : Int × Int :=
  let n : Int := l.length
  let si := (l.map (·.1)).sum
  let sm := (l.map (·.2)).sum
  let smi := (l.map (fun p => p.1 * p.2)).sum
  let smm := (l.map (fun p => p.2 * p.2)).sum
  let num := n * smi - sm * si
  let den := n * smm - sm * sm
  if num = 0 ∨ den = 0 ∨ f.1 = 0 ∨ q = 0 then (Config.freeInt free, Config.freeInt (free + 1))
  else (roundDivInt (num * 2 ^ 60) (q * den * f.1), roundDivInt (si * den - sm * num - f.2 * n * num) (n * num))

/-- Gu and Ou of combination `i` from a run's sums of codes. -/
def runFit (free cert : Nat) (f : Int × Int) (r : CalRun) (i : Nat) : Int × Int :=
  let p := idealLevels cert r.refin i
  let sums := r.sums.getD i []
  fitLevels free f p.2 (p.1.zip ((List.range p.1.length).map (fun j => sums.getD j 0)))

/-- The user set that a run's result replaces (R110). -/
def replacedSet (st : Store) (c : Nat) (tq : Int) : Nat :=
  let sets := (userSets st c).zip (List.range 8)
  let near := sets.find? (fun p => !Nat.beq (field p.1 0 1) 0 && Nat.ble ((fieldI p.1 2 2 - tq).natAbs * 20) (st.nat O.calDeltaT * 64))
  match near with
  | some p => p.2
  | none => match sets.find? (fun p => Nat.beq (field p.1 0 1) 0) with
    | some p => p.2
    | none => (sets.foldl (fun (a : Nat × Nat) p => let d := (fieldI p.1 2 2 - tq).natAbs; if Nat.blt d a.1 then (d, p.2) else a) (2 ^ 20, 0)).2

/-- The measured set of a run that ended at `t`: combinations whose source is not among the settled `refs` keep what the replaced
set holds (R110, Table 6.3). -/
def measuredSet (free cert : Nat) (old rec : Bytes) (tq : Int) (t : Nat) (refs : List Nat) (r : CalRun) : Bytes :=
  let old := fit 272 old
  let was := if Nat.beq (field old 0 1) 0 then 0 else field old 4 4
  let runs := fun i => refs.contains (comboParts i).2.1
  let present := (List.range 32).foldl (fun p i => if runs i && !bitOf p i then p + 2 ^ i else p) was
  let body := (List.range 32).flatMap (fun i =>
    if runs i then
      let x := runFit (free + 2 * i) cert (factoryAt rec i tq) r i
      be 4 (clampInt 0 (2 ^ 32 - 1) x.1).toNat ++ beI 4 (clampInt (-(2 ^ 31)) (2 ^ 31 - 1) x.2)
    else if bitOf was i then slice old (16 + 8 * i) 8 else zeros 8)
  [1#8, 0#8] ++ beI 2 tq ++ be 4 present ++ be 8 t ++ body

/-- SKEW_TRIM now: the factory trim until a run changes it (Table 6.8). -/
def skewTrim (st : Store) (c : Nat) : Int :=
  match Map.find? st (O.skewTrim.conv c) with
  | some v => v.toInt
  | none => st.int O.factorySkew c

/-- The timing error in 0.1 ps (R111): the mean of the slope-signed codes over the slope of a 2.0 V, 5 MHz tone on the ±2.5 V
range, which is 65,536 × 8,192 ÷ 2.5 × 2π × 10^7 × 10^-13 = 429.4967296 π for the sum; π to 21 digits (log entry 145). -/
def skewError (tone : Int) : Int := roundDiv (tone * 10 ^ 27) (4294967296 * 314159265358979323846)

/-- Form a run's result at boundary `t`, the run's end (R110 to R112). -/
def formRun (s : State) (t : Nat) (refs : List Nat) (r : CalRun) : FormedRun × State :=
  let c := r.path
  let tq := s.objs.intK O.tQ (O.tQ.conv c)
  let slot := replacedSet s.objs c tq
  let set := measuredSet s.free (s.nat O.calrefCert) (s.objs.bytesK O.userSet (O.userSet.conv c + slot)) (s.bytes O.factoryCal c) tq t refs r
  let sk := skewTrim s.objs c - skewError r.tone
  let s : State := { s with free := s.free + 64 }
  ({ path := c, slot := slot, content := set, skew := clampInt (-100) 100 sk, stop := t, tq := tq },
    if sk < -100 ∨ sk > 100 then s.evAt Ev.skewRange c t 0 else s)

/-- Accept a formed result; the new coefficients apply from `t` (R108, Table 6.8). -/
def acceptRun (s : State) (t : Nat) (x : FormedRun) : State :=
  let c := x.path
  let s : State := { s with objs := withFormed s.objs x }
  let s := s.putK (O.skewTrim.conv c) (.int x.skew)
  calSetChanged ((s.putK (O.calTime.conv c) (.int x.stop)).putK (O.calTemp.conv c) (.int x.tq)) c t

/-- Form and accept a run without comparison (R116 own path, R120). -/
def takeRun (t : Nat) (w : Sweep) (s : State) (r : CalRun) : State :=
  let p := formRun s t (Map.getD w.refs r.path []) r
  acceptRun p.2 t p.1

/-- The end of a sweep, after which the temperature condition is evaluated afresh (R113, R116). -/
def endSweep (s : State) (t : Nat) (completed : Bool) : State :=
  let s : State := { s with cal := { s.cal with sweep := none, connected := none, serving := none, stopped := [], tempCond := false, ratioA := none, ratioB := none } }
  let s := refreshBuffers s 32 t
  let s : State := if completed then { s.put O.sweepEnd 0 t with cal := { s.cal with intervalFrom := some t } }
    else s.ev Ev.calSweepAborted 32
  tempRequest s t

/-- The comparison of a queued item. -/
def itemDev (s : State) : GridItem → Nat
  | .hold h => holdDev s h
  | .change .. => 0

/-- A queued item without its comparison. -/
def dropOther : GridItem → GridItem
  | .hold h => .hold { h with other := none }
  | .change t ch p a b => .change t ch p a b

/-- The largest difference of the comparison frame just ended, the samples still in the grid island among them; the next
comparison begins at 0 (R119, log entry 146). -/
def takeDev (s : State) : Nat × State :=
  ((s.samp.holds.map (itemDev s)).foldl max s.cal.dev,
   { s with cal := { s.cal with dev := 0 }, samp := { s.samp with holds := s.samp.holds.map dropOther } })

/-- C32's spare ratiometric buffer connects to creel `k` (R117). -/
def connectSpare (s : State) (k t : Nat) : State :=
  if Nat.beq (k % 2) 0 then { s with cal := { s.cal with ratioA := some (k, t) } } else { s with cal := { s.cal with ratioB := some (k, t) } }

/-- Offset 0 of creel `c`: the relief PGA connects (Table 6.6). -/
def handoverConnect (s : State) (c t : Nat) : State :=
  let s : State := { s with cal := { s.cal with connected := some c, serving := none } }
  let s := if c = 0 then connectSpare s 0 t else s
  refreshBuffers s 32 t

/-- Offset 1: the first comparison is over; C32 delivers, or the creel is not calibrated (R119). -/
def handoverTake (s : State) (w : Sweep) (c t : Nat) : State :=
  let d := takeDev s
  let dev := d.1
  let s := d.2.putK (O.handoverDev.conv c) (.int dev)
  if Nat.blt (s.nat O.handoverLimit) dev then
    let s : State := { s with cal := { s.cal with connected := none, serving := none, sweep := some { w with refused := c :: w.refused } } }
    let s := if Nat.blt c 31 then connectSpare s (c + 1) t else s
    let s := refreshBuffers s 32 t
    (s.addK O.calRejectCount (O.calRejectCount.conv c) 1).evAt Ev.calHandoverRefused c t 0 (be 4 dev)
  else
    let s : State := runBegins t { s with cal := { s.cal with serving := some c } } c
    if Nat.blt c 31 then connectSpare s (c + 1) t else s

/-- Offset 41: the run is over, its coefficients are formed, and the second comparison begins under them (R112, R119). -/
def handoverForm (s : State) (w : Sweep) (c t : Nat) (runs : List CalRun) : State :=
  match runs.find? (fun r => Nat.beq r.path c) with
  | some r => if w.refused.contains c then s else
      let p := formRun s t (Map.getD w.refs c []) r
      { p.2 with cal := { p.2.cal with sweep := some { w with formed := some p.1 } } }
  | none => s

/-- Offset 42: the second comparison is over; the new coefficients stand or fall (R119). -/
def handoverBack (s : State) (w : Sweep) (c t : Nat) : State :=
  if w.refused.contains c then s else
  let d := takeDev s
  let dev := d.1
  let s := d.2.putK (O.handoverDev.conv c) (.int dev)
  let s : State := { s with cal := { s.cal with connected := none, serving := none, sweep := some { w with formed := none } } }
  if Nat.blt (s.nat O.handoverLimit) dev then
    let s : State := { s with cal := { s.cal with rejection := true } }
    (s.addK O.calRejectCount (O.calRejectCount.conv c) 1).evAt Ev.calRejected c t 0 (be 4 dev)
  else match w.formed with
    | some x => acceptRun s t x
    | none => s

/-- HANDOVER_STEP: a handover offset begins at the present frame boundary (R116, Table 6.6); `relief` is what C32's own run has measured as
it ends, and `runs` what the other runs just ended have. -/
def execHandoverStep (relief : Option CalRun) (runs : List CalRun) (s : State) : Out :=
  match s.cal.sweep with
  | none => .next s
  | some w =>
    let t := s.samp.lastFrame
    if !Nat.beq w.method 0 then .next s else
    let o := (t - w.start) / frameTicks
    if Nat.blt o 42 then .next s else
    let c := (o - 42) / 42
    let n := (o - 42) % 42
    if Nat.beq n 0 then
      let s := if c = 0 then (match relief.filter (fun r => Nat.beq r.path 32) with | some r => takeRun t w s r | none => s) else handoverBack s w (c - 1) t
      if w.aborting then .next (endSweep s t false)
      else if Nat.ble 32 c then .next (endSweep s t true)
      else .next (handoverConnect s c t)
    else if Nat.beq n 1 then .next (handoverTake s w c t)
    else if Nat.beq n 41 then .next (handoverForm s w c t runs)
    else .next s

/-- COMPAT_STOP: a stop boundary of the compatibility method (R120). -/
def execCompatStop (runs : List CalRun) (s : State) : Out :=
  match s.cal.sweep with
  | none => .next s
  | some w =>
    let t := s.samp.lastFrame
    let o := (t - w.start) / frameTicks
    if !Nat.beq w.method 1 || !Nat.beq (o % 40) 0 then .next s else
    let c := o / 40
    let done := s.cal.stopped ++ (if c = 1 then [32] else [])
    let s := (runs.filter (fun r => done.contains r.path)).foldl (takeRun t w) s
    let s : State := { s with cal := { s.cal with stopped := [] } }
    if w.aborting && Nat.blt 0 c then .next (endSweep s t false)
    else if Nat.ble 32 c then .next (endSweep s t true)
    else
      let st := if interleaved s.objs c then (if Nat.beq (c % 2) 0 then [c, c + 1] else []) else [c]
      .next (({ s with cal := { s.cal with stopped := st } } : State).each ((if c = 0 then [32] else []) ++ st) (runBegins t))

/-- CAL_STATE (Table 6.7). -/
def calState (s : State) : Nat :=
  b2n s.cal.saturated * 16 + b2n s.cal.rejection * 8 + b2n s.cal.noRef * 4 + b2n (!s.cal.stopped.isEmpty) * 2 + b2n s.cal.sweep.isSome

/-- A USER_SET write in force at `t` (R104): SOURCE 0 empties the set; SOURCE 2 stores it as written but for its bytes 8 to 15,
which Table 6.3 makes the time of the write: the boundary from which it is in force (log entry 96). -/
def userSetWritten (b : Bytes) (t : Nat) : Bytes :=
  if Nat.beq (field b 0 1) 0 then zeros 272 else slice b 0 1 ++ be 1 0 ++ slice b 2 6 ++ be 8 t ++ b.drop 16

end Sys2Proof.Machine
end

