-- ==== Sys2Proof/Machine/Presets.lean ====
section
/-! DEFINITION. The filter presets in ROM (08_drafting_presets.md): the quantised sections that the rule of R152 to R154
gives for each family and each decimation factor, the plans of Table 8.2, and the settling lengths of Table 8.3. -/

namespace Sys2Proof.Machine

/-- Anti-alias section, D = 2 (R152, R154). -/
def aa2 : SectionCoef := ⟨1637978, 3275952, 1637978, -3954428, 1398101, 2, 2⟩
/-- Anti-alias section, D = 5. -/
def aa5 : SectionCoef := ⟨2695544, 5391088, 2695544, -6547384, 2690023, 5, 5⟩
/-- Anti-alias section, D = 10. -/
def aa10 : SectionCoef := ⟨2975724, 5951528, 2975724, -7460122, 3358810, 7, 10⟩
/-- besselLow prototype section (R152 to R154). -/
def besselLow : SectionCoef := ⟨1720030, 3440060, 1720030, -3122685, 648411, 2, 1⟩
/-- besselHigh prototype section (R152 to R154). -/
def besselHigh : SectionCoef := ⟨2373861, 4747722, 2373861, -3186401, 1365958, 2, 1⟩
/-- butterworthLow prototype section (R152 to R154). -/
def butterworthLow : SectionCoef := ⟨3085380, 6170760, 3085380, -1379824, 270900, 2, 1⟩
/-- butterworthHigh prototype section (R152 to R154). -/
def butterworthHigh : SectionCoef := ⟨2124847, 4249694, 2124847, -1900521, 1955911, 1, 1⟩
/-- ellipticLow prototype section (R152 to R154; Tables 8.1 and 8.3 give figures that do not follow from the rule, log entry 148). -/
def ellipticLow : SectionCoef := ⟨2620760, 4963688, 2620760, -2383815, 740813, 2, 1⟩
/-- ellipticHigh prototype section (R152 to R154). -/
def ellipticHigh : SectionCoef := ⟨3275338, 4809590, 3275338, -1243484, 2729313, 1, 1⟩

/-- Sections of presets 1 to 23 in profile order (R153, Table 8.2). -/
def presetSections : List (List SectionCoef) :=
  [[besselLow, besselHigh],
   [aa2, besselLow, besselHigh],
   [aa5, besselLow, besselHigh],
   [aa10, besselLow, besselHigh],
   [aa5, aa5, besselLow, besselHigh],
   [aa10, aa10, besselLow, besselHigh],
   [aa5, aa5, aa5, besselLow, besselHigh],
   [aa10, aa10, aa10, besselLow, besselHigh],
   [butterworthLow, butterworthHigh],
   [aa2, butterworthLow, butterworthHigh],
   [aa5, butterworthLow, butterworthHigh],
   [aa10, butterworthLow, butterworthHigh],
   [aa5, aa5, butterworthLow, butterworthHigh],
   [aa10, aa10, butterworthLow, butterworthHigh],
   [aa5, aa5, aa5, butterworthLow, butterworthHigh],
   [aa10, aa10, aa10, butterworthLow, butterworthHigh],
   [aa2, ellipticLow, ellipticHigh],
   [aa5, ellipticLow, ellipticHigh],
   [aa10, ellipticLow, ellipticHigh],
   [aa5, aa5, ellipticLow, ellipticHigh],
   [aa10, aa10, ellipticLow, ellipticHigh],
   [aa5, aa5, aa5, ellipticLow, ellipticHigh],
   [aa10, aa10, aa10, ellipticLow, ellipticHigh]]

/-- SETTLE_LEN of presets 0 to 23 (Table 8.3, whose values R155 calls exact; log entry 148). -/
def presetSettle : List Nat := [3, 51, 65, 64, 64, 67, 65, 67, 65, 60, 74, 73, 73, 76, 74, 76, 74, 110, 109, 109, 112, 110, 112, 110]

/-- PASSBAND of preset `p` (Table 8.1). -/
def presetPassband (p : Nat) : Nat := if p = 0 then 32768 else if Nat.ble p 8 then 3277 else 6554

/-- ROM content of profile `p` below 24. -/
def presetProfile (p : Nat) : Profile :=
  if p = 0 then {} else { passband := presetPassband p, sections := presetSections.getD (p - 1) [] }

end Sys2Proof.Machine
end

