-- ==== Sys2Proof/Machine/Drafting.lean ====
section
/-! DEFINITION. Drafting (07_drafting.md, 08_drafting_presets.md): profiles, plans, the chain of CAL, ALIGN, DCB, sections
and OUT, changes at a boundary, SYNC, and admission. -/

namespace Sys2Proof.Machine

/-! ### Profiles (Table 7.10, R150, R157, R158) -/

/-- Section `i` of a PROFILE value. -/
def decodeSection (b : Bytes) (i : Nat) : SectionCoef :=
  let o := 8 + 24 * i
  ⟨fieldI b o 4, fieldI b (o + 4) 4, fieldI b (o + 8) 4, fieldI b (o + 12) 4, fieldI b (o + 16) 4, field b (o + 20) 1, field b (o + 21) 1⟩

/-- Content of a PROFILE value. -/
def decodeProfile (b : Bytes) : Profile :=
  if b.isEmpty then {} else { passband := field b 4 2, sections := (List.range (field b 1 1)).map (decodeSection b) }

/-- The PROFILE value of a content. -/
def encodeProfile (p : Profile) : Bytes :=
  [1#8, BitVec.ofNat 8 p.sections.length, 0#8, 0#8] ++ be 2 p.passband ++ zeros 2 ++
    p.sections.flatMap (fun c => beI 4 c.b0 ++ beI 4 c.b1 ++ beI 4 c.b2 ++ beI 4 c.a1 ++ beI 4 c.a2 ++ be 1 c.s ++ be 1 c.d ++ zeros 2)

/-- The active content of profile `p`: ROM below 24 (R147). -/
def profileOf (st : Store) (p : Nat) : Profile :=
  if Nat.blt p 24 then presetProfile p else decodeProfile (st.bytes O.profile p)

/-- Total decimation M. -/
def Profile.m (p : Profile) : Nat := (p.sections.map (·.d)).foldl (· * ·) 1

/-- Decimation before each section: M_0, M_1, … -/
def mBefore : List SectionCoef → Nat → List Nat
  | [], _ => []
  | c :: l, m => m :: mBefore l (m * c.d)

/-- A coefficient lies in Q2.22. -/
def inQ22 (a : Int) : Bool := decide (-8388608 ≤ a) && decide (a ≤ 8388607)

/-- A section's fields are legal (Table 7.10). -/
def sectionOk (b : Bytes) (i : Nat) : Bool :=
  let c := decodeSection b i
  inQ22 c.b0 && inQ22 c.b1 && inQ22 c.b2 && inQ22 c.a1 && inQ22 c.a2 && Nat.ble c.s 7 &&
    [1, 2, 4, 5, 8, 10].contains c.d && Nat.beq (field b (30 + 24 * i) 2) 0

/-- The three stages of R150: the abort of the first that fails, or 0. -/
def profileFormat (b : Bytes) : Nat :=
  let n := field b 1 1
  if Nat.blt b.length 8 || !Nat.beq b.length (8 + 24 * n) || !Nat.beq (field b 0 1) 1 || Nat.blt 8 n ||
     !Nat.beq (field b 2 2) 0 || !Nat.beq (field b 6 2) 0 || Nat.beq (field b 4 2) 0 || Nat.blt 32768 (field b 4 2) ||
     !(List.range n).all (sectionOk b) then 0x02000001
  else if Nat.blt 65536 (decodeProfile b).m then 0x02000020
  else if (decodeProfile b).sections.any (fun c =>
      Nat.ble 4194304 c.a2.natAbs || decide ((c.a1.natAbs : Int) ≥ 4194304 + c.a2)) then 0x02000021
  else 0

/-- Integer square root by Newton steps from above. -/
def isqrtFrom : Nat → Nat → Nat → Nat
  | 0, _, x => x
  | k + 1, n, x => if Nat.beq x 0 then 0 else
    let y := (x + n / x) / 2
    if Nat.ble x y then x else isqrtFrom k n y

/-- ⌊√n⌋. -/
def isqrt (n : Nat) : Nat := isqrtFrom (n.log2 + 8) n (2 ^ (n.log2 / 2 + 1))

/-- Pole radius of a section as a fixed-point number of 160 fraction bits (R158). -/
def poleRadius (c : SectionCoef) : Nat :=
  let disc := c.a1 * c.a1 - 4 * c.a2 * 4194304
  if disc < 0 then isqrt (c.a2.toNat * 2 ^ 298)
  else (c.a1.natAbs * 2 ^ 160 + isqrt (disc.toNat * 2 ^ 320)) / 2 ^ 23

/-- Powers r, r², r⁴, … while they exceed 2^−24, with 160 fraction bits. -/
def squares : Nat → Nat → List Nat
  | 0, _ => []
  | k + 1, r => if Nat.ble r (2 ^ 136) then [] else r :: squares k (r * r / 2 ^ 160)

/-- The largest power of r that still exceeds 2^−24, from the squares, largest first: (power so far, exponent). -/
def climb : List (Nat × Nat) → Nat × Nat → Nat × Nat
  | [], a => a
  | (r, e) :: l, a =>
    let p := a.1 * r / 2 ^ 160
    if Nat.blt (2 ^ 136) p then climb l (p, a.2 + e) else climb l a

/-- n_i of R158: the least n with r^n at most 2^−24. -/
def settleSamples (c : SectionCoef) : Nat :=
  let r := poleRadius c
  if Nat.beq r 0 then 2 else
  let sq := squares 64 r
  let l := (sq.zip ((List.range 64).map (2 ^ ·))).reverse
  (climb l (2 ^ 160, 0)).2 + 1

/-- SETTLE_LEN of a content (R158). -/
def settleOf (p : Profile) : Nat :=
  let l := p.sections.zip (mBefore p.sections 1)
  max 1 (ceilDiv (3 + (l.map (fun x => settleSamples x.1 * x.2)).sum) p.m)

/-- SETTLE_LEN of profile `p`: Table 8.3 for presets (R155). -/
def settleLenOf (st : Store) (p : Nat) : Nat :=
  if Nat.blt p 24 then presetSettle.getD p 3 else settleOf (profileOf st p)

/-! ### Group delay (R157) -/

/-- A binary64 number: mantissa and exponent of 2. -/
abbrev F64 := Int × Int

/-- A quotient rounded to 53 bits, half to even: what one binary64 operation answers for an exact result `n / d`, `d` positive,
in the range of R157's figures. -/
def f64 (n : Int) (d : Nat) : F64 :=
  if n = 0 then (0, 0) else
  let e : Int := (n.natAbs.log2 : Int) - d.log2 - 53
  let at_ := fun e : Int => if e < 0 then roundDiv (n * 2 ^ e.natAbs) d else roundDiv n (d * 2 ^ e.natAbs)
  let m := at_ e
  if Nat.ble m.natAbs (2 ^ 53) then (m, e) else (at_ (e + 1), e + 1)

/-- An exact value `m × 2^e` as a fraction. -/
def F64.frac (x : F64) : Int × Nat := if x.2 < 0 then (x.1, 2 ^ x.2.natAbs) else (x.1 * 2 ^ x.2.natAbs, 1)

/-- Difference, sum and product in binary64. -/
def F64.sub (x y : F64) : F64 := let a := x.frac; let b := y.frac; f64 (a.1 * b.2 - b.1 * a.2) (a.2 * b.2)
def F64.add (x y : F64) : F64 := let a := x.frac; let b := y.frac; f64 (a.1 * b.2 + b.1 * a.2) (a.2 * b.2)
def F64.mul (x y : F64) : F64 := let a := x.frac; let b := y.frac; f64 (a.1 * b.1) (a.2 * b.2)

/-- A quotient of integers in binary64, for a divisor of either sign, not 0. -/
def F64.quot (a b : Int) : F64 := if b < 0 then f64 (-a) b.natAbs else f64 a b.natAbs

/-- A figure as a U32 in 1/65,536 of an input interval: rounded convergently, at most 0xFFFF_FFFE. -/
def stored32 (x : Int × Nat) : Nat := min (roundDiv (x.1 * 65536) x.2).toNat 0xFFFFFFFE

/-- tau at w = 0 in binary64. -/
def tauDc (c0 c1 c2 : Int) : Option F64 := if c0 + c1 + c2 = 0 then none else some (F64.quot (c1 + 2 * c2) (c0 + c1 + c2))

/-- gd at f = 0 in binary64, in the order of R157's text; `none` when a numerator is zero there. -/
def groupDelayDc (p : Profile) : Option F64 :=
  (p.sections.zip (mBefore p.sections 1)).foldl (fun a x => match a, tauDc x.1.b0 x.1.b1 x.1.b2, tauDc 4194304 x.1.a1 x.1.a2 with
    | some q, some n, some d => some (F64.add q (F64.mul (x.2, 0) (F64.sub n d)))
    | _, _, _ => none) (some (0, 0))

/-- π with 160 fraction bits. -/
def piFix : Nat := 4591442807048218921384805199743311128454155024418

/-- The cosine series at x² with 160 fraction bits: 1 - x²/2 (1 - x²/12 (…)), `n` terms from the last. -/
def cosSeries (x2 : Int) : Nat → Int → Int
  | 0, acc => acc
  | n + 1, acc => cosSeries x2 n (2 ^ 160 - x2 * acc / (2 ^ 160 * ((2 * n + 1) * (2 * n + 2) : Nat)))

/-- cos 2π n/d with 160 fraction bits, for n/d from 0 to 1/2: exact where the cosine is rational. -/
def cosTurn (n d : Nat) : Int :=
  if Nat.beq (6 * n) d then 2 ^ 159
  else if Nat.beq (4 * n) d then 0
  else if Nat.beq (3 * n) d then -(2 ^ 159)
  else if Nat.blt d (4 * n) then (let x := piFix * (d - 2 * n) / d; -(cosSeries (x * x / 2 ^ 160 : Nat) 30 (2 ^ 160)))
  else (let x := piFix * (2 * n) / d; cosSeries (x * x / 2 ^ 160 : Nat) 30 (2 ^ 160))

/-- tau at a frequency of cosine `c`, with 160 fraction bits, as numerator and denominator; the denominator is |c0 + c1 z + c2 z²|². -/
def tauAt (c0 c1 c2 c : Int) : Int × Int :=
  let one : Int := 2 ^ 160
  let c2w := 2 * c * c / one - one
  ((c1 * c1 + 2 * c2 * c2) * one + (c0 * c1 + 3 * c1 * c2) * c + 2 * c0 * c2 * c2w,
   (c0 * c0 + c1 * c1 + c2 * c2) * one + 2 * c1 * (c0 + c2) * c + 2 * c0 * c2 * c2w)

/-- gd at f_m = m × PASSBAND ÷ 2^24 of the output rate, in 2^-120 input intervals; `none` when a numerator is zero there. -/
def groupDelayAt (p : Profile) (m : Nat) : Option Int :=
  (p.sections.zip (mBefore p.sections 1)).foldl (fun a x => match a with
    | none => none
    | some q =>
      let c := cosTurn (m * p.passband * x.2) (16777216 * p.m)
      let n := tauAt x.1.b0 x.1.b1 x.1.b2 c
      let d := tauAt 4194304 x.1.a1 x.1.a2 c
      if n.2 ≤ 0 ∨ d.2 ≤ 0 then none
      else some (q + (x.2 : Int) * (roundDiv (n.1 * 2 ^ 120) n.2.toNat - roundDiv (d.1 * 2 ^ 120) d.2.toNat))) (some 0)

/-- gd at the 257 points of R157; `none` when a numerator is zero at one of them. -/
def groupDelays (p : Profile) : Option (List Int) := (List.range 257).mapM (groupDelayAt p)

/-- GD_DC as stored (R157). -/
def gdDc (p : Profile) : Nat :=
  match groupDelayDc p, groupDelays p with
  | some q, some _ => let x := q.frac; if x.1 < 0 then 0xFFFFFFFF else stored32 x
  | _, _ => 0xFFFFFFFF

/-- GD_SPREAD as stored (R157): the largest departure over the 257 points, evaluated to 2^-100 where the rule has binary64, whose
last bit the order of the complex operations would decide (log entry 10). -/
def gdSpreadOf (st : Store) (p : Nat) : Nat :=
  let c := profileOf st p
  if Nat.beq (gdDc c) 0xFFFFFFFF then 0xFFFFFFFF
  else match groupDelays c with
    | some (g0 :: l) => stored32 (((l.map (fun g => (g - g0).natAbs)).foldl max 0 : Nat), 2 ^ 120)
    | _ => 0xFFFFFFFF

/-! ### Plans -/

/-- Input interval, offset d, occurrence count r and entry of a channel in the sequence in force (R124, R130). -/
def placeOf (st : Store) (ch : Nat) : Option (Nat × Nat × Nat × Nat) :=
  let c := creelOf ch
  if interleaved st c then
    (if Nat.beq (c % 2) 0 && Nat.beq (inputOf ch) 8 then some (64, 64, 1, st.nat O.ilRange c * 128 + st.nat O.ilRef c * 4096 + 8) else none)
  else
    let q := seqOf st c
    match q.occurrences (inputOf ch) with
    | [] => none
    | (w, o) :: l =>
      let delta := 128 * q.p / (l.length + 1)
      let t := 128 * (o + entryWidth w)
      some (delta, if Nat.beq (t % delta) 0 then delta else t % delta, l.length + 1, w)

/-- The plan that the objects give a channel (R145). -/
def planOf (s : State) (ch : Nat) : Option Plan :=
  match placeOf s.objs ch with
  | none => none
  | some (delta, d, r, w) =>
    let p := s.nat O.profileSel ch
    some { delta := delta, d := d, r := r, entry := w, align := s.bool O.alignEnable ch, dcb := s.bool O.dcbEnable ch, k := s.nat O.dcbK ch,
           freeze := s.bool O.dcbFreeze ch, gain := s.int O.outGain ch, round := s.nat O.outRound ch, profSel := p,
           profile := profileOf s.objs p, settleLen := settleLenOf s.objs p, anchor := Map.getD s.draft.anchors ch 0 }

/-- ALIGN weights (R131). -/
def alignWeights (delta d : Nat) : List Int :=
  let D : Int := delta
  let f : Int := (delta : Int) - d
  let den : Nat := 6 * delta ^ 3
  let raw : List Int :=
    [-(f * (f - D) * (f - 2 * D)), 3 * ((f + D) * (f - D) * (f - 2 * D)), -(3 * ((f + D) * f * (f - 2 * D))), (f + D) * f * (f - D)]
  let w := raw.map (fun x => roundDiv (x * 4194304) den)
  let diff := 4194304 - w.sum
  let big := (w.map Int.natAbs).foldl max 0
  let i := (w.map Int.natAbs).idxOf big
  w.set i (w.getD i 0 + diff)

/-! ### The chain (R127 to R141) -/

/-- One section's computation (R137): output, whether it clipped, new state. -/
def sectionStep (c : SectionCoef) (st : SectionState) (x : Int) : Int × Bool × SectionState :=
  let acc := c.b0 * x + c.b1 * st.x1 + c.b2 * st.x2 - (c.a1 * st.y1 + c.a2 * st.y2) * 2 ^ c.s
  let y := sat24 (roundConv acc (22 + c.s))
  (y.1, y.2, { st with x1 := x, x2 := st.x1, y1 := y.1, y2 := st.y1 })

/-- The sections and decimators (R137, R138, Table 7.4): the passed word, if one passes the last decimator, and the states.
`m` is the decimation before this section and `k` the index relative to the anchor. -/
def runSections : List SectionCoef → List SectionState → Nat → Int → ChainWord → Option ChainWord × List SectionState
  | [], sts, m, k, w => (if Nat.beq m 1 || k % (m : Int) = 0 then some w else none, sts)
  | c :: cs, sts, m, k, w =>
    let st := sts.headD {}
    let r := sectionStep c st w.v
    let acc := (st.acc.join w.flags).join { clip := r.2.1 }
    let m' := m * c.d
    if k % (m' : Int) = 0 then
      let q := runSections cs sts.tail m' k { w with v := r.1, flags := acc }
      (q.1, { r.2.2 with acc := {} } :: q.2)
    else (none, { r.2.2 with acc := acc } :: sts.tail)

/-- OUT (R139): value and whether it clipped. -/
def outStage (p : Plan) (x : Int) : Int × Bool :=
  let v := sat24 (roundConv (x * p.gain) 22)
  if Nat.blt 0 p.round then
    let u := sat24 (roundConv v.1 p.round * 2 ^ p.round)
    (u.1, v.2 || u.2)
  else v

/-- The DC blocker (R135, R136): output, whether it clipped, new estimate. -/
def dcbStage (p : Plan) (est : Option Int) (x : Int) (fill : Bool) : Int × Bool × Int :=
  let e0 := est.getD (x * 2 ^ 24)
  let e1 := if est.isNone || p.freeze || fill then e0 else e0 + roundConv (x * 2 ^ 24 - e0) p.k
  let y := sat24 (x - roundConv e1 24)
  (y.1, y.2, e1)

/-- A discontinuity at `f` lies inside the FILL interval that runs: SETTLE waits for its end (R76, R146, log entry 147). -/
def Chain.waits (c : Chain) (f : Nat) : Bool := c.inFill && Nat.blt c.fillAfter f

/-- Clear ALIGN history, DCB and sections at `t0` (Table 7.5). -/
def Chain.clear (c : Chain) (t0 : Nat) : Chain :=
  { c with clearedAt := t0, hist := [], est := none, secs := [] }

/-- Apply the changes that are due for an output instant (R145): settings, DCB clear, and SETTLE from their t0. -/
def Chain.due (c : Chain) (a : Nat) : Chain :=
  let ready := c.next.filter (fun x => Nat.ble x.1 a)
  let c := { c with next := c.next.filter (fun x => !Nat.ble x.1 a) }
  ready.foldl (fun c x =>
    { c with plan := some x.2.1, est := if x.2.2.1 = .clearDcb then none else c.est,
             settleFrom := if x.2.2.2 then some (max x.1 (c.settleFrom.getD 0)) else c.settleFrom }) c

/-- SETTLE of an output at `t`: an interval of `len` words begins with the first output at or after its discontinuity; of two
intervals the later end stands (R76, R146, R159). -/
def Chain.settleStep (c : Chain) (t len : Nat) : Chain × Bool :=
  let step := match c.plan with | some p => p.delta * p.profile.m | none => 0
  let c := match c.settleFrom with
    | some f =>
      if Nat.ble f t && !c.waits f then
        let e := max c.settleUntil (t + (len - 1) * step)
        { c with settleFrom := none, settleUntil := e, settleEnd := e }
      else c
    | none => c
  (c, Nat.ble t c.settleUntil && Nat.blt 0 c.settleUntil)

/-- From ALIGN's output on: DCB, sections, OUT (R135 to R140). -/
def Chain.tail (ch : Nat) (c : Chain) (w : ChainWord) : Chain × List OutWord :=
  let c := c.due w.t
  match c.plan with
  | none => (c, [])
  | some p =>
    let r := if p.dcb then
        let q := dcbStage p c.est w.v w.flags.fill
        ({ w with v := q.1, flags := w.flags.join { clip := q.2.1 } }, { c with est := some q.2.2, frozen := p.freeze || w.flags.fill })
      else (w, { c with frozen := false })
    let k : Int := (w.n : Int) - (p.anchor / max p.delta 1 : Nat)
    let q := runSections p.profile.sections r.2.secs 1 k r.1
    let c := { r.2 with secs := q.2 }
    match q.1 with
    | none => (c, [])
    | some x =>
      let o := outStage p x.v
      let st := c.settleStep x.t p.settleLen
      let f := { x.flags.join { clip := o.2 } with settle := st.2, poison := x.flags.poison || st.1.poison }
      ({ st.1 with lastOut := x.t, poison := false, clipSeen := st.1.clipSeen || f.clip }, [⟨ch, x.t, outWord o.1 f⟩])

/-- ALIGN on the history, newest first: the word at A_n of the second newest sample, with x_(n+1) the newest (R131, R132). -/
def alignOut (p : Plan) (hist : List ChainWord) : Option ChainWord :=
  match hist with
  | xp :: x :: xm :: rest =>
    let xmm := rest.headD xm
    let h := alignWeights p.delta p.d
    let acc := h.getD 0 0 * xmm.v + h.getD 1 0 * xm.v + h.getD 2 0 * x.v + h.getD 3 0 * xp.v
    let y := sat24 (roundConv acc 22)
    let fl := ((xp.flags.join x.flags).join xm.flags).join (match rest with | z :: _ => z.flags | [] => {})
    some { v := y.1, n := x.n, t := x.n * p.delta, flags := fl.join { clip := y.2 } }
  | _ => none

/-- CAL (R127, R128): hold value under FILL. -/
def Chain.cal (c : Chain) (code : Int) (co : Coef) (f : Flags) : Int × Bool × Chain :=
  if f.fill then (c.holdVal, false, c)
  else let y := calApply co code; (y.1, y.2, { c with holdVal := y.1 })

/-- One input sample through the chain (R124). -/
def Chain.sample (ch : Nat) (c : Chain) (t : Nat) (code : Int) (f : Flags) (fillEnd : Nat) (co : Coef) : Chain × List OutWord :=
  match c.plan with
  | none => (c, [])
  | some p =>
    let r := c.cal code co f
    let c := r.2.2
    let c := if c.inFill && !f.fill then { c with settleFrom := some (max (max c.lastIn fillEnd + 1) (c.settleFrom.getD 0)) } else c
    let c := { c with inFill := f.fill, fillAfter := if f.fill && !c.inFill then c.lastIn else c.fillAfter, lastIn := t }
    let w : ChainWord := { v := r.1, n := (t - p.d) / max p.delta 1, t := t, flags := f.join { clip := r.2.1 } }
    if p.align then
      let hist := (w :: c.hist).take 4
      let c := { c with hist := hist }
      match alignOut p hist with
      | some y => c.tail ch y
      | none => (c, [])
    else c.tail ch w

/-- The last output of an entry that ends: x_(n+1) := x_n (R134). -/
def Chain.leave (ch : Nat) (c : Chain) : Chain × List OutWord :=
  match c.plan, c.hist with
  | some p, x :: l =>
    if p.align && !l.isEmpty then
      match alignOut p (x :: x :: l) with
      | some y => c.tail ch y
      | none => (c, [])
    else (c, [])
  | _, _ => (c, [])

/-- A change of a channel's plan at `t0`, in grid-time order (Table 7.5, R133, R134). -/
def Chain.change (ch : Nat) (c : Chain) (t0 : Nat) (plan : Option Plan) (act : DraftAct) (settle : Bool) : Chain × List OutWord :=
  match act with
  | .leave => let r := c.leave ch; ({ (r.1.clear t0) with plan := none, next := [], settleFrom := none, inFill := false }, r.2)
  | .start => ({ (c.clear t0) with plan := plan, next := [], holdVal := 0, settleFrom := if settle then some t0 else none, inFill := false }, [])
  | .clearAll =>
    let c' := { (c.clear t0) with plan := plan, next := [] }
    ({ c' with settleFrom := if settle then some (max t0 (c'.settleFrom.getD 0)) else c'.settleFrom }, [])
  | .keep => (match plan with | some p => { c with next := c.next ++ [(t0, p, .keep, settle)] } | none => c, [])
  | .clearDcb => (match plan with | some p => { c with next := c.next ++ [(t0, p, .clearDcb, settle)] } | none => c, [])

/-! ### Changes at a frame boundary (Table 7.5) -/

/-- What the change from one plan to another does. -/
def changeActs (old new : Option Plan) : List (DraftAct × Bool) :=
  match old, new with
  | none, none => []
  | none, some _ => [(.start, true)]
  | some _, none => [(.leave, false)]
  | some a, some b =>
    if a.entry ≠ b.entry ∨ a.delta ≠ b.delta ∨ a.d ≠ b.d ∨ a.r ≠ b.r then [(.leave, false), (.start, true)]
    else if a.profile.sections.map (·.d) ≠ b.profile.sections.map (·.d) ∨ a.align ≠ b.align then [(.clearAll, true)]
    else if a.dcb ≠ b.dcb then [(.clearDcb, true)]
    else if a.profSel ≠ b.profSel ∨ a.profile ≠ b.profile then [(.keep, true)]
    else if a = b then [] else [(.keep, false)]

/-- The item changes channel `ch` at `t0`. -/
def changesAt (t0 ch : Nat) : GridItem → Bool
  | .change t c .. => Nat.beq t t0 && Nat.beq c ch
  | .hold .. => false

/-- The item is a hold at or after `t0`. -/
def heldFrom (t0 : Nat) : GridItem → Bool
  | .hold h => Nat.ble t0 h.t
  | .change .. => false

/-- Place an item before the holds at `t0` or after them, and never before a change of the same channel at `t0` (R88, R145). -/
def placeChange (early : Bool) (t0 ch : Nat) (g : GridItem) (l : List GridItem) : List GridItem :=
  let before := l.takeWhile (fun x => !heldFrom t0 x)
  let after := l.dropWhile (fun x => !heldFrom t0 x)
  if early && !after.any (changesAt t0 ch) then before ++ [g] ++ after else l ++ [g]

/-- Enter a change for channel `ch` at `t0`. Settings act on outputs from t0 on. Without ALIGN the sample held at t0 has its
output there, so every act goes before it; with ALIGN its output lies before t0, and clears and sequence changes follow it
(R88, R133, R145). -/
def enterChange (s : State) (t0 ch : Nat) (plan : Option Plan) (a : DraftAct × Bool) : State :=
  let aligned := match Map.find? s.draft.plans ch with | some p => p.align | none => false
  let early := !aligned || a.1 = .keep || a.1 = .clearDcb
  { s with samp := { s.samp with holds := placeChange early t0 ch (.change t0 ch plan a.1 a.2) s.samp.holds } }

/-- Recompute one channel's plan at `t0` and enter what changes (Table 7.5); `force` is a DRAFT_CLEAR. -/
def replan (t0 : Nat) (force : Nat → Bool) (s : State) (ch : Nat) : State :=
  let old := Map.find? s.draft.plans ch
  let new := planOf s ch
  let acts := changeActs old new
  let acts := if force ch && new.isSome && !acts.any (fun a => a.1 = .start || a.1 = .clearAll) then [(DraftAct.clearAll, true)] else acts
  let s := acts.foldl (fun s a => enterChange s t0 ch new a) s
  let s := if acts.isEmpty then s else s.put O.planEffective ch t0
  if old = new then s else
  { s with draft := { s.draft with plans := match new with | some p => Map.set s.draft.plans ch p | none => Map.erase s.draft.plans ch } }

/-- Recompute every channel's plan at `t0`. -/
def replanAll (s : State) (t0 : Nat) (force : Nat → Bool) : State := (List.range 512).foldl (replan t0 force) s

/-! ### SYNC (R148) -/

/-- Boundaries at which a SYNC is pending: requested ones and timed SYNC_CMD writes (R148). -/
def syncBoundaries (s : State) : List Nat :=
  s.draft.sync.map (·.ts) ++ (s.dict.pend.filter (fun w => Nat.beq w.key O.syncCmd.key)).map (·.t)

/-- Ask for a SYNC at T_s: causes that fall on one boundary act once; a pin edge while a SYNC is pending for another
boundary is logged and ignored (R148). -/
def syncRequest (s : State) (ts : Nat) (pin : Bool) : State :=
  match s.draft.sync.find? (fun p => Nat.beq p.ts ts) with
  | some _ => { s with draft := { s.draft with sync := s.draft.sync.map (fun p =>
      if Nat.beq p.ts ts then ⟨ts, p.pin || pin, p.cmd || !pin⟩ else p) } }
  | none =>
    if pin && !(syncBoundaries s).isEmpty && !(syncBoundaries s).contains ts then s.ev Ev.sync 0xFF (be 8 ts ++ [0xFF#8])
    else { s with draft := { s.draft with sync := s.draft.sync ++ [⟨ts, pin, !pin⟩] } }

/-- SYNC acts on one enabled channel at `ts`. -/
def syncChannel (ts : Nat) (s : State) (ch : Nat) : State :=
  if !s.bool O.syncEnable ch then s else
  let a := if Nat.beq (s.nat O.syncAnchor) 1 then ts else 0
  let s : State := { s with draft := { s.draft with anchors := Map.set s.draft.anchors ch a } }
  match Map.find? s.draft.plans ch with
  | none => s
  | some p =>
    let p' := { p with anchor := a }
    let s := enterChange s ts ch (some p') (if s.bool O.syncClear then (.clearAll, true) else (.keep, false))
    { s with draft := { s.draft with plans := Map.set s.draft.plans ch p' } }

/-- A pending SYNC's boundary has come (R148). -/
def syncBoundary (s : State) (t : Nat) : State :=
  match s.draft.sync.find? (fun p => Nat.beq p.ts t) with
  | some p =>
    let s : State := { s with draft := { s.draft with sync := s.draft.sync.filter (fun q => Nat.blt t q.ts) } }
    let s := (List.range 512).foldl (syncChannel t) s
    ((s.put O.syncLast 0 t).put O.tAnchor 0 (if Nat.beq (s.nat O.syncAnchor) 1 then t else 0)).evAt Ev.sync 0xFF t 0
      (be 8 t ++ [BitVec.ofNat 8 (b2n p.pin + 2 * b2n p.cmd)])
  | none => s

/-- SYNC_PIN_EDGE: a rising edge of SYNC with its fine time (R148). -/
def execSyncPinEdge (edge : Nat) (s : State) : Out :=
  let d := s.tdc 38 edge
  let stamp := d.1.1
  let s := d.2
  if s.bool O.syncPinEnable && s.gridOn then
    .next (syncRequest s (frameAtOrAfter (ceilDiv (stamp + 384 * 65536) 65536)) true)
  else .next s

/-! ### Admission (R149) -/

/-- Twice-free cost of a channel as a fraction of MAC/s (R149). -/
def macCost (st : Store) (ch : Nat) : Nat × Nat :=
  match placeOf st ch with
  | none => (0, 1)
  | some (delta, _, _, _) =>
    let p := profileOf st (st.nat O.profileSel ch)
    let m := p.m
    let inner := (1 + 4 * b2n (st.bool O.alignEnable ch) + b2n (st.bool O.dcbEnable ch)) * m + ((mBefore p.sections 1).map (fun x => 5 * (m / max x 1))).sum + 1
    (640000000 * inner, max delta 1 * m)

/-- Exact load of biquad unit `u`: the sum of C over its channels, as a fraction. -/
def unitLoad (st : Store) (u : Nat) : Nat × Nat :=
  (List.range 32).foldl (fun a i => let c := macCost st (32 * u + i); if Nat.beq c.1 0 then a else (a.1 * c.2 + c.1 * a.2, a.2 * c.2)) (0, 1)

/-- Every unit fits: twice the sum of C is at most 1,000,000,000 MAC/s (R149). -/
def draftAdmit (st : Store) (us : List Nat) : Nat :=
  if us.all (fun u => let l := unitLoad st u; Nat.ble (2 * l.1) (1000000000 * l.2)) then 0 else 0x04000020

/-- DRAFT_STATE (Table 7.7). -/
def draftState (s : State) (ch : Nat) : Nat :=
  let c := Map.getD s.draft.chains ch {}
  b2n c.clipSeen * 16 + b2n c.inFill * 8 + b2n c.frozen * 4 + b2n (Nat.blt c.lastOut c.settleUntil || c.settleFrom.isSome) * 2 + b2n c.plan.isSome

end Sys2Proof.Machine
end

