-- ==== Sys2Proof/Machine/Bobbin.lean ====
section
/-! DEFINITION. The bobbin store: hanks, the bobbin writer with both policies, doffing, gap records and window answers
(13_bobbins.md, R247 to R266; R428). -/

namespace Sys2Proof.Machine

/-! ### Sizes (R247, R248, R268, R428) -/

/-- Installed DRAM in MiB, from the geometry word (Table 14.1, R268): density in Gb, ranks, width. -/
def geometryMiB (g : Nat) : Nat := 2 * (g / 65536 % 256) * (64 / max (g % 256) 1) * (g / 256 % 256) * 128

/-- The geometry in force; before the first full reset has applied one, GEOMETRY_NEXT's. -/
def installedMiB (st : Store) : Nat :=
  let g := st.nat O.geometry
  geometryMiB (if g = 0 then st.nat O.geometryNext else g)

/-- BOBBIN_STORE in MiB; its default is half the installed DRAM, at most 24,576 (Table 13.9). -/
def storeMiB (st : Store) : Nat :=
  (st.val (O.bobbinStore.at 0) (.int (min (installedMiB st / 2) 24576))).toInt.toNat

/-- Hanks of the store. -/
def storeHanks (st : Store) : Nat := storeMiB st * 64

/-- Hanks that a channel owns when enabled (R248). -/
def ownedHanks (st : Store) (ch : Nat) : Nat :=
  let n := st.nat O.bobbinHanks ch
  if n = 0 then max (storeHanks st / 512) 4 else n

/-- Enabled channels. -/
def enabledChannels (st : Store) : List Nat := (List.range 512).filter (fun ch => !Nat.beq (st.nat O.bobbinMode ch) 0)

/-- Hanks allocated to enabled channels (R248). -/
def allocatedHanks (st : Store) : Nat := ((enabledChannels st).map (ownedHanks st)).sum

/-- Hanks given out after `t` turns (R428). -/
def afterTurns (owned : List Nat) (t : Nat) : Nat := (owned.map (min t)).sum

/-- The largest number of turns that the usable hanks allow, by bisection. -/
def turnsFor (owned : List Nat) (usable : Nat) : Nat → Nat → Nat → Nat
  | 0, lo, _ => lo
  | fuel + 1, lo, hi =>
    let mid := (lo + hi + 1) / 2
    if Nat.ble (afterTurns owned mid) usable then turnsFor owned usable fuel mid hi else turnsFor owned usable fuel lo (mid - 1)

/-- Usable hanks of a channel (R253, R428): one hank per channel in each turn, in ascending channel order. -/
def usableHanks (st : Store) (usable ch : Nat) : Nat :=
  let chs := enabledChannels st
  let owned := chs.map (ownedHanks st)
  if Nat.ble owned.sum usable then ownedHanks st ch
  else
    let t := turnsFor owned usable 22 0 2097152
    let left := usable - afterTurns owned t
    let later := (chs.filter (fun c => Nat.blt c ch && Nat.blt t (ownedHanks st c))).length
    min (ownedHanks st ch) t + (if Nat.blt t (ownedHanks st ch) && Nat.blt later left then 1 else 0)

/-! ### Hanks and records -/

/-- Bytes used in a record hank. -/
def Hank.used (h : Hank) : Nat := (h.recs.map (·.bytes.length)).sum

/-- Words a word hank holds (R249). -/
def hankWords (kind : Nat) : Nat := if kind = 1 then 4096 else 8192

/-- A gap record (Table 13.3). -/
def gapBytes (ch : Nat) (g : GapRec) (written : Nat) : Bytes :=
  be 1 0x25 ++ be 1 g.reason ++ be 1 g.scope ++ be 1 0 ++ be 2 ch ++ be 2 0 ++ be 8 g.start ++ be 8 g.stop ++ be 8 written

/-- The gap record a held record is, if it is one. -/
def gapOf (r : HeldRecord) : Option GapRec :=
  if Nat.beq (field r.bytes 0 1) 0x25 then
    some ⟨field r.bytes 1 1, field r.bytes 2 1, field r.bytes 8 8, field r.bytes 16 8, some (field r.bytes 24 8)⟩
  else none

/-- What the writer knows as it writes: channel, usable hanks, KEEP_NEWEST, grid time, ACK_TIME. -/
structure WriterCtx where
  ch : Nat
  usable : Nat
  newest : Bool
  now : Nat
  ack : Nat
  deriving DecidableEq, Repr

/-- Doff sealed hanks that end before ACK_TIME; release them under a pending discard (R256, R266). -/
def Bobbin.doff (b : Bobbin) (ack : Nat) : Bobbin :=
  let hs := b.hanks.map (fun h => if h.sealed && Nat.blt h.last ack then { h with doffed := true } else h)
  { b with hanks := if b.discard then hs.filter (fun h => !h.doffed) else hs }

/-- Seal the open hanks that a test selects, if not empty (R252). -/
def Bobbin.seal (b : Bobbin) (p : Hank → Bool) (ack : Nat) : Bobbin :=
  Bobbin.doff { b with hanks := b.hanks.map (fun h => if !h.sealed && p h && !(h.words.isEmpty && h.recs.isEmpty) then { h with sealed := true } else h) } ack

/-- The hank with the smallest LAST_TIME among those that a test selects, and the others. -/
def takeOldest (p : Hank → Bool) (hs : List Hank) : Option (Hank × List Hank) :=
  match ((hs.filter p).map (·.last)).min? with
  | none => none
  | some m => takeFirst' (fun h => p h && Nat.beq h.last m) hs
where
  takeFirst' (q : Hank → Bool) : List Hank → Option (Hank × List Hank)
    | [] => none
    | h :: l => if q h then some (h, l) else (takeFirst' q l).map (fun r => (r.1, h :: r.2))

/-- A hank for a new item (R257 to R259): the hank reused if any, the bobbin without it, and the gap records to write. -/
def Bobbin.takeHank (b : Bobbin) (cx : WriterCtx) : Option (Option Hank × Bobbin) :=
  let reuse := fun (h : Hank) (rest : List Hank) (lost : Bool) =>
    let copies := h.recs.filterMap gapOf
    let gap : List GapRec := if lost then
        (if Nat.beq h.kind 3 then [⟨2, 2, h.first, h.last + 1, none⟩] else [⟨2, 1, h.first, h.last + h.interval, none⟩]) else []
    let gone := if Nat.beq h.kind 3 then b.reusedTo else max b.reusedTo (h.last + h.interval)
    some (some h, { b with hanks := rest, staged := b.staged ++ copies ++ gap, overwriting := lost, reusedTo := gone })
  if Nat.blt b.hanks.length cx.usable then some (none, { b with overwriting := false })
  else match takeOldest (·.doffed) b.hanks with
    | some (h, rest) => reuse h rest false
    | none =>
      if cx.newest then
        match takeOldest (fun h => h.sealed && !h.doffed) b.hanks with
        | some (h, rest) => reuse h rest true
        | none => none
      else none

/-- Drop doffed hanks, the smallest LAST_TIME first, until at most `n` hanks are held or none is doffed (R248); the gap records in them are kept
in staging (R259). -/
def Bobbin.shrink (n : Nat) : Nat → Bobbin → Bobbin
  | 0, b => b
  | fuel + 1, b =>
    if Nat.ble b.hanks.length n then b else
    match takeOldest (·.doffed) b.hanks with
    | none => b
    | some (h, rest) =>
      let gone := if Nat.beq h.kind 3 then b.reusedTo else max b.reusedTo (h.last + h.interval)
      Bobbin.shrink n fuel { b with hanks := rest, staged := b.staged ++ h.recs.filterMap gapOf, reusedTo := gone }

/-- Append a record to the open record hank, if it fits. -/
def Bobbin.append (b : Bobbin) (key : Nat) (bytes : Bytes) : Option Bobbin :=
  match b.hanks.find? (fun h => Nat.beq h.kind 3 && !h.sealed) with
  | some h0 =>
    if Nat.ble (h0.used + bytes.length) 16384 then
      some { b with serial := b.serial + 1, hanks := b.hanks.map (fun h => if Nat.beq h.kind 3 && !h.sealed then
        { h with recs := h.recs ++ [⟨key, b.serial, bytes⟩],
                 first := if h.recs.isEmpty then key else min h.first key, last := if h.recs.isEmpty then key else max h.last key } else h) }
    else none
  | none => none

/-- A hank for a new item, in a ring of the hanks that the channel has (R248, R257). -/
def Bobbin.take (b : Bobbin) (cx : WriterCtx) : Option (Option Hank × Bobbin) := (b.shrink cx.usable b.hanks.length).takeHank cx

/-- Open a hank. -/
def Bobbin.openHank (b : Bobbin) (kind interval first : Nat) (old : Option Hank) : Bobbin :=
  { b with hanks := b.hanks ++ [{ kind := kind, interval := interval, first := first, last := first, gen := ((old.map (fun h => h.gen)).getD 0) + 1 }] }

/-- Write staged gap records in order, opening record hanks as needed and possible (R258, R259). -/
def Bobbin.flush (cx : WriterCtx) : Nat → Bobbin → Bobbin
  | 0, b => b
  | fuel + 1, b =>
    match b.staged with
    | [] => b
    | g :: gs =>
      let w := g.written.getD cx.now
      match b.append w (gapBytes cx.ch g w) with
      | some b' => Bobbin.flush cx fuel { b' with staged := gs, lastItem := cx.now }
      | none =>
        match (b.seal (fun h => Nat.beq h.kind 3) cx.ack).take cx with
        | some (old, b') => Bobbin.flush cx fuel (b'.openHank 3 0 cx.now old)
        | none => b

/-- Fuel that lets every staged record be written: each takes at most one hank. -/
def Bobbin.fuel (b : Bobbin) : Nat := 2 * b.staged.length + 2 * b.hanks.length + 4

/-- A record hank is open. -/
def Bobbin.recordOpen (b : Bobbin) : Bool := b.hanks.any (fun h => Nat.beq h.kind 3 && !h.sealed)

/-- Hanks that may be taken without losing anything. -/
def Bobbin.available (b : Bobbin) (cx : WriterCtx) : Nat := (cx.usable - b.hanks.length) + (b.hanks.filter (·.doffed)).length

/-- Recording may resume (R258): room for the item and for the gap records that come first. -/
def Bobbin.mayResume (b : Bobbin) (cx : WriterCtx) : Bool :=
  let extra := b.staged.length * 32 / 16384
  Nat.ble ((if b.recordOpen then 1 else 2) + extra) (b.available cx)

/-- Losing a word or a record under a stop (R258). -/
def Bobbin.loseWord (b : Bobbin) (t : Nat) : Bobbin := { b with stopped := true, lostWords := some (b.lostWords.getD t) }
def Bobbin.loseRecord (b : Bobbin) (key : Nat) : Bobbin :=
  { b with stopped := true, lostRecs := match b.lostRecs with | some (lo, hi) => some (min lo key, max hi key) | none => some (key, key) }

/-- Gap records for what a stop lost, once it can be named (R258). -/
def Bobbin.stageStops (b : Bobbin) (word : Option Nat) : Bobbin :=
  let w : List GapRec := match b.lostWords, word with
    | some lo, some t => [⟨1, 1, lo, t, none⟩]
    | _, _ => []
  let r : List GapRec := match b.lostRecs with
    | some (lo, hi) => [⟨1, 2, lo, hi + 1, none⟩]
    | none => []
  { b with staged := b.staged ++ w ++ r, lostWords := if word.isSome then none else b.lostWords, lostRecs := none }

/-- Write one word (R249 to R258). -/
def Bobbin.writeWord (b : Bobbin) (cx : WriterCtx) (kind t interval word : Nat) : Bobbin :=
  if b.stopped && !b.mayResume cx then b.loseWord t
  else
    let b := { b with stopped := false }
    let b := if b.lostWords.isSome || b.lostRecs.isSome then b else b.flush cx b.fuel
    let fits := fun h : Hank => Nat.beq h.kind kind && !h.sealed && Nat.beq h.interval interval &&
      Nat.blt h.words.length (hankWords kind) && Nat.beq (h.first + h.words.length * interval) t
    let push := fun h : Hank => if fits h then { h with words := h.words ++ [word], last := t } else h
    let full := fun h : Hank => Nat.beq h.kind kind && Nat.ble (hankWords kind) h.words.length
    if b.hanks.any fits && b.lostWords.isNone then Bobbin.seal { b with hanks := b.hanks.map push, lastItem := cx.now } full cx.ack
    else
      let b := b.seal (fun h => !Nat.beq h.kind 3) cx.ack
      match b.take cx with
      | none => b.loseWord t
      | some (old, b') =>
        let b' := b'.stageStops (some t)
        let b' := (b'.openHank kind interval t old).flush cx b'.fuel
        { b' with hanks := b'.hanks.map push, lastItem := cx.now }

/-- Write one record (R250, R252, R258). -/
def Bobbin.writeRecord (b : Bobbin) (cx : WriterCtx) (key : Nat) (bytes : Bytes) : Bobbin :=
  if b.stopped && !b.mayResume cx then b.loseRecord key
  else
    let b := ({ b with stopped := false }).stageStops none
    let b := b.flush cx b.fuel
    if !b.staged.isEmpty then b.loseRecord key
    else match b.append key bytes with
      | some b' => { b' with lastItem := cx.now }
      | none =>
        match (b.seal (fun h => Nat.beq h.kind 3) cx.ack).take cx with
        | none => b.loseRecord key
        | some (old, b') =>
          let b' := (b'.openHank 3 0 key old).flush cx b'.fuel
          match b'.append key bytes with
          | some b'' => { b'' with lastItem := cx.now }
          | none => b'.loseRecord key

/-- Stage and write a gap record (R241, R245, R283, R432). -/
def Bobbin.writeGap (b : Bobbin) (cx : WriterCtx) (g : GapRec) : Bobbin :=
  let b := { b with staged := b.staged ++ [g] }
  if b.stopped then b else b.flush cx b.fuel

/-! ### The writer on the state -/

/-- Bobbin of a channel. -/
def State.bobbin (s : State) (ch : Nat) : Bobbin := Map.getD s.bob.bobbins ch {}
/-- Replace it. -/
def State.setBobbin (s : State) (ch : Nat) (b : Bobbin) : State := { s with bob := { s.bob with bobbins := Map.set s.bob.bobbins ch b } }

/-- The acknowledged time that doffs hanks: none while the unit is standby or a core restart pauses doffing (R19, R256, R364). -/
def doffTime (s : State) (ch : Nat) : Nat := if s.twin.active && !s.spin.restarting then s.nat O.ackTime ch else 0

/-- The writer's context for a channel now. -/
def writerCtx (s : State) (ch : Nat) : WriterCtx :=
  { ch := ch, usable := usableHanks s.objs s.bob.usable ch, newest := Nat.beq (s.nat O.bobbinPolicy ch) 1, now := s.now, ack := doffTime s ch }

/-- A live stream's oldest unsent item was committed now, if none waited (R319). -/
def noteCommit (s : State) (id : Nat) : State :=
  let m := Map.getD s.twine.streams id {}
  if m.since.isSome then s else { s with twine := { s.twine with streams := Map.set s.twine.streams id { m with since := some s.now } } }

/-- Put a bobbin back after the writer worked on it: count and log the gap records it wrote (R24, Tables 13.9, 13.10). -/
def settleBobbin (s : State) (ch : Nat) (old new : Bobbin) (kind : Nat) : State :=
  let fresh := new.hanks.flatMap (fun h => h.recs.filter (fun r => Nat.ble old.serial r.serial && Nat.beq r.key s.now && (gapOf r).isSome))
  let s := s.setBobbin ch new
  let s := s.each fresh (fun s r =>
    let s := ((s.bump O.gapTotal).bump O.gapCount ch).ev Ev.gapWritten (field r.bytes 1 1) (be 2 ch ++ slice r.bytes 8 8)
    if Nat.beq (field r.bytes 1 1) 6 then s.bump O.writerFaultCount else s)
  let s := if fresh.isEmpty then s else noteCommit s (2 * ch + 1)
  if new.stopped then s else noteCommit s (2 * ch + kind)

/-- A gap record of a channel (Table 13.4). -/
def bobGap (s : State) (ch reason scope start stop : Nat) : State :=
  let b := s.bobbin ch
  settleBobbin s ch b (b.writeGap (writerCtx s ch) ⟨reason, scope, start, stop, none⟩) 1

/-- A word reaches the writer (R251, R254); where a hardware fault makes its staging overflow, a gap record names the instant (R27). -/
def bobWord (s : State) (ch kind t interval word : Nat) : State :=
  let b := s.bobbin ch
  if Nat.blt t b.since then s
  else if s.bob.overflow then bobGap s ch 6 1 t (t + interval)
  else
    let b' := b.writeWord (writerCtx s ch) kind t interval word
    let s := settleBobbin s ch b b' 0
    if b'.stopped then s else s.put O.newestWritten ch (max (s.nat O.newestWritten ch) t)

/-- A record reaches the writer (R250, R251), or is lost to an overflow of its staging (R27). -/
def bobRecord (s : State) (ch key : Nat) (bytes : Bytes) : State :=
  if Nat.beq (s.nat O.bobbinMode ch) 0 then s
  else if s.bob.overflow then bobGap s ch 6 2 key (key + 1)
  else
    let b := s.bobbin ch
    let b' := b.writeRecord (writerCtx s ch) key bytes
    let s := settleBobbin s ch b b' 1
    if b'.stopped then s else s.put O.newestWritten ch (max (s.nat O.newestWritten ch) key)

/-- A command runs while the writer's staging overflows, or not (R27). -/
def overflowed (on : Bool) (f : State → State) (s : State) : State :=
  let mark := fun (x : Bool) (s : State) => ({ s with bob := { s.bob with overflow := x } } : State)
  if on then mark false (f (mark true s)) else f s

/-- Seal a bobbin's open hanks: all, or its word hank alone (R252). -/
def sealBobbin (s : State) (ch : Nat) (all : Bool) : State :=
  if (Map.find? s.bob.bobbins ch).isSome then s.setBobbin ch ((s.bobbin ch).seal (fun h => all || !Nat.beq h.kind 3) (doffTime s ch)) else s

/-- TAIL_TIMEOUT: no item has reached the bobbin for TAIL_TIMEOUT (R252). -/
def execTailTimeout (ch : Fin 512) (s : State) : Out :=
  match Map.find? s.bob.bobbins ch with
  | some b => .next (sealBobbin (s.advance (b.lastItem + s.nat O.tailTimeout * msTicks)) ch true)
  | none => .next s

/-- An acknowledgement through `t` (R255, R256). -/
def ackChannel (s : State) (ch t : Nat) : State :=
  if Nat.ble t (s.nat O.ackTime ch) then s
  else
    let s := s.put O.ackTime ch t
    if (Map.find? s.bob.bobbins ch).isSome then s.setBobbin ch ((s.bobbin ch).doff (doffTime s ch)) else s

/-- Doffing goes on for every bobbin after a pause (R19, R256). -/
def resumeDoffing (s : State) : State := s.each (s.bob.bobbins.map (·.1)) (fun s ch => s.setBobbin ch ((s.bobbin ch).doff (doffTime s ch)))

/-- A channel owns fewer hanks than before: its ring gives up doffed ones (R248). -/
def shrinkBobbin (s : State) (ch : Nat) : State :=
  if (Map.find? s.bob.bobbins ch).isSome then s.setBobbin ch ((s.bobbin ch).shrink (ownedHanks s.objs ch) (s.bobbin ch).hanks.length) else s

/-- BOBBIN_DISCARD of a channel (R266). -/
def discardBobbin (s : State) (ch : Nat) : State :=
  let b := s.bobbin ch
  (s.setBobbin ch (Bobbin.doff { b with discard := true } (doffTime s ch))).ev Ev.bobbinDiscarded 0xFF (be 2 ch)

/-- The bobbin is enabled, disabled or changes its mode at `t0`: a disable seals its open hanks; a change of the words' kind seals the word hank
once the old words have come (R252, R254). -/
def bobbinModeChanged (s : State) (ch t0 old new : Nat) : State :=
  let s := if new = 0 then sealBobbin s ch true else s
  let b := { s.bobbin ch with oldMode := if old = 0 then none else some (t0, old) }
  let s := s.setBobbin ch b
  if new = 0 then s
  else
    let s := s.setBobbin ch { b with discard := false, since := if old = 0 then t0 else b.since }
    if old = 0 then
      let fresh := fun m : Stream => { m with resume := true }
      let st := s.twine.streams
      let a := fresh (Map.getD st (2 * ch) {})
      let r := fresh (Map.getD st (2 * ch + 1) {})
      { s with twine := { s.twine with streams := Map.set (Map.set st (2 * ch) a) (2 * ch + 1) r } }
    else s

/-- The bobbin mode that applies to a word with instant `t` (R145, R254). -/
def wordMode (s : State) (ch t : Nat) : Nat :=
  match (s.bobbin ch).oldMode with
  | some (t0, old) => if Nat.blt t t0 then old else s.nat O.bobbinMode ch
  | none => s.nat O.bobbinMode ch

/-- An undoffed hank is held (R266). -/
def holdsUndoffed (s : State) (ch : Nat) : Bool := (s.bobbin ch).hanks.any (fun h => !h.doffed)

/-! ### Figures (Table 13.10) -/

/-- OLDEST_HELD: smallest instant or key still readable. -/
def oldestHeld (b : Bobbin) : Nat := ((b.hanks.filter (fun h => !(h.words.isEmpty && h.recs.isEmpty))).map (·.first)).min?.getD 0

/-- HANKS_UNDOFFED and HANKS_DOFFED. -/
def hanksUndoffed (b : Bobbin) : Nat := (b.hanks.filter (fun h => !h.doffed)).length
def hanksDoffed (b : Bobbin) : Nat := (b.hanks.filter (·.doffed)).length

/-- BOBBIN_STATE: during a core restart doffing is paused (R19). -/
def bobbinState (s : State) (ch : Nat) : Nat :=
  let b := s.bobbin ch
  8 * b2n b.stopped + 4 * b2n b.overwriting + 2 * b2n s.spin.restarting + b2n (!Nat.beq (s.nat O.bobbinMode ch) 0 && !b.stopped)

/-! ### Window answers (R262 to R265) -/

/-- An item of an answer: a word with its instant, interval and whether raw; or a record. -/
inductive AnsItem where
  | word (t interval w : Nat) (raw : Bool)
  | record (key serial : Nat) (bytes : Bytes)
  deriving DecidableEq, Repr

/-- Place of an item in the answer's order: a NOT_HELD record by its START and first (R263). -/
def AnsItem.place : AnsItem → Nat × Nat
  | .word t _ _ _ => (t, 1)
  | .record k _ b => if Nat.beq (field b 0 1) 0x25 && Nat.beq (field b 1 1) 8 then (field b 8 8, 0) else (k, 2)

/-- Insert by place, after equal ones. -/
def insertItem (x : AnsItem) : List AnsItem → List AnsItem
  | [] => [x]
  | y :: l =>
    if Nat.blt x.place.1 y.place.1 || (Nat.beq x.place.1 y.place.1 && Nat.blt x.place.2 y.place.2) then x :: y :: l
    else y :: insertItem x l

/-- Words of a word hank inside a window. -/
def hankItems (t1 t2 : Nat) (h : Hank) : List AnsItem :=
  (h.words.zipIdx.map (fun x => AnsItem.word (h.first + x.2 * h.interval) h.interval x.1 (Nat.beq h.kind 2))).filter
    (fun i => Nat.ble t1 i.place.1 && Nat.blt i.place.1 t2)

/-- Records of a hank inside a window; a damaged hank holds those before the failed word (R283). -/
def recItems (t1 t2 : Nat) (h : Hank) : List AnsItem :=
  (h.recs.filter (fun r => Nat.ble t1 r.key && Nat.blt r.key t2)).map (fun r => .record r.key r.serial r.bytes)

/-- Remove a covered range from the ranges still open. -/
def uncover (c : Nat × Nat) (l : List (Nat × Nat)) : List (Nat × Nat) :=
  l.flatMap (fun r =>
    if Nat.ble c.2 r.1 || Nat.ble r.2 c.1 then [r]
    else (if Nat.blt r.1 c.1 then [(r.1, c.1)] else []) ++ (if Nat.blt c.2 r.2 then [(c.2, r.2)] else []))

/-- The parts of a window for which nothing is held and no stored gap record accounts (R262). -/
def notHeld (b : Bobbin) (words recs : Bool) (t1 t2 : Nat) : List (Nat × Nat) :=
  let scope := 2 * b2n recs + b2n words
  let spans := b.hanks.flatMap (fun h =>
    if Nat.beq h.kind 3 then
      (if recs && !h.recs.isEmpty && !h.damaged then [(h.first, h.last + 1)] else []) ++
        h.recs.filterMap (fun r => (gapOf r).bind (fun g => if Nat.beq (g.scope &&& scope) 0 then none else some (g.start, g.stop)))
    else if words && !h.words.isEmpty then [(h.first, h.last + h.interval)] else [])
  spans.foldl (fun l c => uncover c l) [(t1, t2)]

/-- The items that answer a request, in the order of R263; `now` is when the answer is formed. -/
def answerItems (b : Bobbin) (ch : Nat) (words recs : Bool) (t1 t2 now : Nat) : List AnsItem :=
  let w := if words then (b.hanks.filter (fun h => !Nat.beq h.kind 3)).flatMap (hankItems t1 t2) else []
  let r := if recs then (b.hanks.filter (fun h => Nat.beq h.kind 3)).flatMap (recItems t1 t2) else []
  let n := (notHeld b words recs t1 t2).map (fun g => AnsItem.record now 0 (gapBytes ch ⟨8, 2 * b2n recs + b2n words, g.1, g.2, none⟩ now))
  (r ++ n).foldl (fun l x => insertItem x l) w

/-- The run of words at the head of a list of items: words at one interval, each an interval after the last. -/
def wordRun : Nat → Bool → Nat → List AnsItem → List Nat × List AnsItem
  | next, raw, interval, .word t i w r :: l =>
    if Nat.beq t next && Nat.beq i interval && (r == raw) then
      let rest := wordRun (next + interval) raw interval l
      (w :: rest.1, rest.2)
    else ([], .word t i w r :: l)
  | _, _, _, l => ([], l)

/-- Bytes of words, padded to a 4-byte boundary. -/
def wordsBytes (raw : Bool) (ws : List Nat) : Bytes :=
  let b := ws.flatMap (be (if raw then 2 else 4))
  b ++ zeros ((4 - b.length % 4) % 4)

/-- WINDOW_DATA: blocks of words and records as stored, ended by a byte 0 (R263). -/
def answerBytes (ch : Nat) : Nat → List AnsItem → Bytes
  | 0, _ => [0#8]
  | _, [] => [0#8]
  | fuel + 1, .record _ _ b :: l => b ++ answerBytes ch fuel l
  | fuel + 1, .word t i w r :: l =>
    let run := wordRun (t + i) r i l
    be 1 0x11 ++ be 1 (b2n r) ++ be 2 ch ++ be 4 (run.1.length + 1) ++ be 8 t ++ be 8 i ++ wordsBytes r (w :: run.1) ++ answerBytes ch fuel run.2

/-- Fields of WINDOW_REQ: words, records, channel, T1, T2 (Table 13.8). -/
def windowFields (b : Bytes) : Bool × Bool × Nat × Nat × Nat :=
  (bitOf (field b 1 1) 0, bitOf (field b 1 1) 1, field b 2 2, field b 8 8, field b 16 8)

/-- The layout check of WINDOW_REQ (R265). -/
def windowFormat (b : Bytes) : Nat :=
  let f := windowFields b
  if !Nat.beq b.length 24 || !Nat.beq (field b 0 1) 1 || (!f.1 && !f.2.1) || Nat.blt 511 f.2.2.1 || Nat.ble f.2.2.2.2 f.2.2.2.1 then 0x02000001 else 0

/-- Bytes of every record a bobbin holds. -/
def recordBytes (b : Bobbin) : Nat := (b.hanks.map Hank.used).sum

/-- The interval of a channel's words under its mode. -/
def wordInterval (s : State) (ch : Nat) : Nat :=
  match Map.find? s.draft.plans ch with
  | some p => if Nat.beq (s.nat O.bobbinMode ch) 2 then p.delta else p.delta * p.profile.m
  | none => match ((s.bobbin ch).hanks.filter (fun h => !Nat.beq h.kind 3)).getLast? with | some h => h.interval | none => 0

/-- The answer could exceed 64 MiB (R265). -/
def answerTooLarge (s : State) (ch t1 t2 : Nat) (words : Bool) : Bool :=
  let i := wordInterval s ch
  let n := if words && Nat.blt 0 i then (t2 - t1) / i else 0
  Nat.blt 67108864 (n * (if Nat.beq (s.nat O.bobbinMode ch) 2 then 2 else 4) + recordBytes (s.bobbin ch))

/-- Checks of a WINDOW_REQ write behind its format: state, then admission (R265). -/
def windowState (s : State) : Nat :=
  match s.bob.window with
  | some w => (match w.data with | some d => if Nat.ble d.length w.reached then 0 else 0x03000051 | none => 0x03000051)
  | none => 0
def windowAdmit (s : State) (b : Bytes) : Nat :=
  let f := windowFields b
  if answerTooLarge s f.2.2.1 f.2.2.2.1 f.2.2.2.2 f.1 then 0x04000053 else 0

/-- An accepted request starts forming its answer (R262). -/
def windowBegin (s : State) (b : Bytes) : State := { s with bob := { s.bob with window := some { request := b } } }

/-- WINDOW_ANSWER_READY: the answer is formed (R262 to R264). -/
def execWindowAnswerReady (s : State) : Out :=
  match s.bob.window with
  | some w =>
    if w.data.isSome then .next s else
    let f := windowFields w.request
    let items := answerItems (s.bobbin f.2.2.1) f.2.2.1 f.1 f.2.1 f.2.2.2.1 f.2.2.2.2 s.now
    .next { s with bob := { s.bob with window := some { w with data := some (answerBytes f.2.2.1 items.length items) } } }
  | none => .next s

/-- WINDOW_STATE (Table 13.9). -/
def windowStateObj (s : State) : Nat :=
  match s.bob.window with
  | some w => if w.data.isSome then 2 else 1
  | none => 0

end Sys2Proof.Machine
end

