-- ==== Sys2Proof/Machine/Time.lean ====
section
/-! DEFINITION. The three strands, the ply voter, the grid DPLL's slews, re-epoch requests, PPS and ToD
(09_time_core.md, R160 to R184). -/

namespace Sys2Proof.Machine

/-- Strand `x`. -/
def State.strand (s : State) (x : Nat) : Strand := Map.getD s.time.strands x {}
/-- Replace strand `x`. -/
def State.setStrand (s : State) (x : Nat) (v : Strand) : State := { s with time := { s.time with strands := Map.set s.time.strands x v } }

/-- SRC_MAP of a strand; its default is the strand's own number (Table 9.11). -/
def srcOf (st : Store) (x : Nat) : Nat := (st.val (O.srcMap.at x) (.int x)).toInt.toNat

/-- A time difference in 1/65536 tick as ps, saturated to 32 bits (Tables 9.10, 9.11). 1 tick is 1,562.5 ps. -/
def finePs (f : Int) : Int := clampInt (-2147483648) 2147483647 (roundDiv (f * 3125) 131072)

/-- At most `ns` nanoseconds, for a difference in 1/65536 tick (16 ticks are 25 ns). -/
def withinNs (f : Int) (ns : Nat) : Bool := decide (f.natAbs * 25 ≤ ns * 16 * 65536)

/-- The strand runs on its oscillator: every state but OFF (Table 9.4). -/
def strandRuns (s : State) (x : Nat) : Bool := decide (s.nat O.strandState x ≠ 6)

/-- A strand's state changes (Table 9.4); entries into HOLDOVER are timed (Table 9.11). -/
def enterStrand (s : State) (x st : Nat) : State :=
  if s.nat O.strandState x = st then s
  else
    let s := (s.put O.strandState x st).ev Ev.strandState x (be 1 st)
    let s := if st = 3 then s.put O.holdoverStart x s.gridTime else s
    let v := s.strand x
    let s := s.setStrand x { v with window := [], clearSince := none }
    if st = 2 && s.time.firstTracking.isNone then { s with time := { s.time with firstTracking := some s.now, firstStrand := x } } else s

/-- Bring a strand's time up to date by what its oscillator counted, with its rate correction (R162). -/
def advanceStrand (n : Nat) (s : State) (x : Nat) : State :=
  if strandRuns s x then
    let v := s.strand x
    s.setStrand x { v with time := v.time + n + roundDiv ((n : Int) * s.int O.rateCorr x) 1000000000 }
  else s

/-- All three strands. -/
def advanceStrands (s : State) (a : StrandAdv) : State :=
  advanceStrand a.c (advanceStrand a.b (advanceStrand a.a s 0) 1) 2

/-- The rate at which the DPLL runs the grid against its reference oscillator, in 0.001 ppm, with an offset to the tracked rate; the
grid stays within ±200 ppm (R171). -/
def dpllRate (s : State) (off : Int) : Int := clampInt (-200000) 200000 (s.time.rate + off)

/-- What an oscillator counts, in 1/65536 tick, while a grid synthesised from it at `rate` counts `n` ticks. -/
def oscCount (rate : Int) (n : Nat) : Nat := (roundDiv (((n * 65536 : Nat) : Int) * 1000000000) (1000000000 + rate).toNat).toNat

/-- The count of the DPLL's reference oscillator from the strands' last update to `t`: the planned slew, then the tracked rate (R171). -/
def refCount (s : State) (t : Nat) : Nat :=
  let from_ := s.time.strandsAt
  let mid := max from_ (min t s.time.slewUntil)
  oscCount (dpllRate s s.time.slewOff) (mid - from_) + oscCount (dpllRate s 0) (t - mid)

/-- The strands' advance up to `t`: while the grid runs, the oscillator that it is synthesised from has counted what the DPLL's rate
says, and the operand gives the other two. -/
def gridAdv (s : State) (t : Nat) (a : StrandAdv) : StrandAdv :=
  if !s.gridOn then a
  else if s.time.refOsc = 0 then { a with a := refCount s t }
  else if s.time.refOsc = 1 then { a with b := refCount s t }
  else { a with c := refCount s t }

/-- Time passes up to `t` for the hub and its strands (R162, R171). -/
def State.elapse (s : State) (t : Nat) (a : StrandAdv) : State :=
  let u := advanceStrands (s.advance t) (gridAdv s (max s.now t) a)
  { u with time := { u.time with strandsAt := u.now } }

/-- Set a strand's rate: its servo's rate, with 150 ppm against the error while SLEWING, within ±200 ppm (R162, R165). -/
def setRate (s : State) (x : Nat) : State :=
  let v := s.strand x
  let slew : Int := if s.nat O.strandState x = 4 then (if v.err > 0 then -150000 else 150000) else 0
  s.putI O.rateCorr x (clampInt (-200000) 200000 (v.servo + slew))

/-- One step of an average with a time constant of 256 measurements. -/
def average256 (avg err : Int) : Int := avg + roundDiv (err - avg) 256

/-- The servo's update at a valid measurement with offset `err` (R163): with SYNTONISE and a recovered clock the rate estimate is that
clock's ratio to the oscillator, otherwise the servo's own, which is a free value; the phase trim, whose law is not
stated, is a free value of the averaged offset. -/
def servoUpdate (s : State) (x : Nat) (err : Int) (ratio : Option Int) : State :=
  let f := s.freshInt
  let s := f.2
  let v := s.strand x
  let freq := match ratio with
    | some r => if s.bool O.syntonise x then r else f.1
    | none => f.1
  let freq := clampInt (-200000) 200000 freq
  let avg := average256 v.avg err
  s.setStrand x { v with freq := freq, avg := avg, servo := clampInt (-200000) 200000 (freq + Config.servoTrim s.free avg) }

/-- The strand steps to its source's time (R162). -/
def stepStrand (s : State) (x : Nat) (err : Int) : State :=
  let v := s.strand x
  let s := s.setStrand x { v with time := v.time - err, err := 0, avg := 0, locked := true }
  (s.put O.firstLock x ((s.strand x).time / 65536).toNat)

/-- The span of a window of offsets. -/
def spanOf : List Int → Int
  | [] => 0
  | a :: l => (l.foldl max a) - (l.foldl min a)

/-- A source has become present (R172). -/
def notePresent (s : State) : State := { s with time := { s.time with firstPresent := s.time.firstPresent.orElse (fun _ => some s.now) } }

/-- A valid measurement of strand `x`'s source: `err` is strand time minus source time, `ratio` the source's recovered clock against the
strand's oscillator when it has one (Tables 9.1 and 9.4, R162 to R165). -/
def measureStrand (s : State) (x : Nat) (err : Int) (ratio : Option Int) : State :=
  let st := s.nat O.strandState x
  if st = 5 ∨ st = 6 then s
  else
    let s := notePresent s
    let v := s.strand x
    let s := (s.setStrand x { v with err := err, present := true }).putI O.sourceError x (finePs err)
    let s := if st = 0 then enterStrand s x 1 else s
    let v := s.strand x
    let w := (err :: v.window).take 16
    let s := s.setStrand x { v with window := w }
    let full := Nat.beq w.length 16
    let s := if st = 3 then s else servoUpdate s x err ratio
    let s :=
      if st = 0 ∨ st = 1 then
        if full && withinNs (spanOf w) 50 then enterStrand (stepStrand s x err) x 2 else s
      else if st = 3 then
        if full then
          if !v.locked then enterStrand (stepStrand s x err) x 2
          else if withinNs err 10 then enterStrand s x 2 else enterStrand s x 4
        else s
      else if st = 4 then (if withinNs err 10 then enterStrand s x 2 else s)
      else s
    if s.nat O.strandState x = 3 then s else setRate s x

/-- A strand's source becomes absent (Tables 9.1, 9.4). -/
def strandAbsent (s : State) (x : Nat) : State :=
  let v := s.strand x
  let s := s.setStrand x { v with present := false, window := [] }
  let st := s.nat O.strandState x
  if st = 1 then enterStrand s x 0 else if st = 2 ∨ st = 4 then setRate (enterStrand s x 3) x else s

/-- A change of SRC_MAP at a boundary (R165). -/
def srcMapChanged (s : State) (x : Nat) : State :=
  let v := s.strand x
  let s := s.setStrand x { v with present := false, window := [] }
  let st := s.nat O.strandState x
  if st = 2 ∨ st = 4 then setRate (enterStrand s x 3) x else if st = 0 ∨ st = 1 then enterStrand s x 1 else s

/-! ### The oscillator monitor (R166) -/

/-- Two oscillators' rates agree within a number of 0.001 ppm. -/
def oscAgree (d : Nat) (a b : Option Int) : Bool :=
  match a, b with
  | some a, some b => decide ((a - b).natAbs ≤ d)
  | _, _ => false

/-- The monitor's judgement of strand `x` at a vote at `t`. -/
def oscMonitor (osc : List (Option Int)) (t : Nat) (s : State) (x : Nat) : State :=
  let o := fun i => osc.getD i none
  let y := (x + 1) % 3
  let z := (x + 2) % 3
  let st := s.nat O.strandState x
  if st = 6 then s
  else if st = 5 then
    if oscAgree 50000 (o x) (o y) && oscAgree 50000 (o x) (o z) then
      let v := s.strand x
      match v.clearSince with
      | none => s.setStrand x { v with clearSince := some t }
      | some t0 => if Nat.ble (t0 + secondTicks) t then setRate (enterStrand s x 3) x else s
    else let v := s.strand x; s.setStrand x { v with clearSince := none }
  else if oscAgree 100000 (o y) (o z) && !oscAgree 100000 (o x) (o y) && !oscAgree 100000 (o x) (o z) then
    (setRate (enterStrand s x 5) x).evAt Ev.oscFault x t 0
  else s

/-- Measurement of the oscillators at a full reset (R163): the nearest nominal frequency within 0.5 %, else 0. -/
def nominalHz (hz : Nat) : Nat :=
  ([10000000, 12800000, 19200000, 20000000, 25000000, 26000000, 38400000, 40000000, 50000000].find?
    (fun (f : Nat) => Nat.ble ((hz : Int) - (f : Int)).natAbs (f / 200))).getD 0

/-- Report the measured frequencies; an oscillator that fits none puts its strand in OSC_FAULT (R163). -/
def oscMeasure (s : State) (hz : List Nat) : State :=
  s.each [0, 1, 2] (fun s x =>
    let f := nominalHz (hz.getD x 0)
    let s := s.put O.oscFreq x f
    if f = 0 then (enterStrand s x 5).ev Ev.oscFault x else s)

/-! ### The ply voter (R167, R168) -/

/-- What a classification yields (Table 9.5): outcome code of VOTE_OUTCOME, the steering set in order, twice the target. -/
structure Vote where
  outcome : Nat
  set : List Nat
  target2 : Int
  deriving DecidableEq, Repr

/-- Two strands agree (R167). -/
def agree (thr : Nat) (a b : Nat × Int) : Bool := withinNs (a.2 - b.2) thr

/-- The pair's vote: mean of the two. -/
def votePair (outcome : Nat) (a b : Nat × Int) : Vote := ⟨outcome, if Nat.ble a.1 b.1 then [a.1, b.1] else [b.1, a.1], a.2 + b.2⟩

/-- No majority. -/
def noVote : Vote := ⟨3, [], 0⟩

/-- The median of three. -/
def median3 (a b c : Int) : Int := max (min a b) (min (max a b) c)

/-- Of the pair `a`, `b` that disagrees, the one nearer to `c` steers with it; on a tie the first (Table 9.5). -/
def nearer (a b c : Nat × Int) : Vote := if (b.2 - c.2).natAbs < (a.2 - c.2).natAbs then votePair 2 b c else votePair 2 a c

/-- Classification of strands (Table 9.5), each as its number and time, in the order A, B, C. -/
def classify (thr : Nat) : List (Nat × Int) → Vote
  | [a, b] => if agree thr a b then votePair 1 a b else noVote
  | [a, b, c] =>
    match agree thr a b, agree thr a c, agree thr b c with
    | true, true, true => ⟨1, [a.1, b.1, c.1], 2 * median3 a.2 b.2 c.2⟩
    | false, true, true => nearer a b c
    | true, false, true => nearer a c b
    | true, true, false => nearer b c a
    | true, false, false => votePair 2 a b
    | false, true, false => votePair 2 a c
    | false, false, true => votePair 2 b c
    | false, false, false => noVote
  | _ => noVote

/-- Strands whose state is in a list, with their times. -/
def strandsIn (s : State) (states : List Nat) : List (Nat × Int) :=
  ([0, 1, 2].filter (fun x => states.contains (s.nat O.strandState x))).map (fun x => (x, (s.strand x).time))

/-- The vote (R167): the live strands first, then every candidate. -/
def voteOf (s : State) : Vote :=
  let thr := s.nat O.voteThreshold
  let live := classify thr (strandsIn s [2])
  if live.set.isEmpty then classify thr (strandsIn s [2, 3, 4]) else live

/-- SOURCE_MODE (R161): distinct sources among the TRACKING strands that steer. -/
def sourceMode (s : State) (set : List Nat) : Nat :=
  (((set.filter (fun x => Nat.beq (s.nat O.strandState x) 2)).map (srcOf s.objs)).eraseDups).length

/-- VOTE_SET (Table 9.10). -/
def setMask (set : List Nat) : Nat := (set.map (fun x => 2 ^ x)).sum

/-- Exclusions and returns are logged with the strand and the boundary (R168). -/
def logExclusions (s : State) (t : Nat) (v : Vote) : State :=
  s.each [0, 1, 2] (fun s x =>
    let st := s.strand x
    let cand := [2, 3, 4].contains (s.nat O.strandState x)
    let out := cand && !v.set.isEmpty && !v.set.contains x && (Nat.beq v.outcome 2)
    if out && !st.excluded then ((s.setStrand x { st with excluded := true }).bump O.excludedCount x).evAt Ev.strandExcluded x t 0
    else if st.excluded && v.set.contains x then (s.setStrand x { st with excluded := false }).evAt Ev.strandReturned x t 0
    else s)

/-- GRID_STATE (Table 9.10). -/
def gridStateOf (timeq slewing free notTracking running : Bool) : Nat :=
  16 * b2n timeq + 8 * b2n slewing + 4 * b2n free + 2 * b2n notTracking + b2n running

/-- Time that removes an error of `e2` / (2 * 65536) ticks at 150 ppm, in whole ticks (R171). -/
def slewTicks (e2 : Int) : Nat := (roundDiv ((e2.natAbs : Int) * 20000) (6 * 65536)).toNat

/-- Minus 150 ppm times the sign of the error, in 0.001 ppm (R171). -/
def slewOffset (e : Int) : Int := if 0 < e then -150000 else if e < 0 then 150000 else 0

/-- The DPLL's tracked rate after a vote: with a steering set what its loop holds of the target's rate, which is a free value because
the loop is given by its bandwidth alone; with no majority the last one (R171). -/
def trackRate (s : State) (none : Bool) : State :=
  if none then s
  else
    let f := s.freshInt
    { f.2 with time := { f.2.time with rate := clampInt (-200000) 200000 f.1 } }

/-- What the vote `v` at boundary `t` does while the grid runs, and what the DPLL does with it (R168 to R171). -/
def applyVote (s : State) (v : Vote) (t : Nat) : State :=
  let s := logExclusions s t v
  let first := decide (s.nat O.voteOutcome ≠ 3)
  let s := ((s.put O.voteOutcome 0 v.outcome).put O.voteSet 0 (setMask v.set)).put O.sourceMode 0 (sourceMode s v.set)
  let none := Nat.beq v.outcome 3
  let s := if none && first then (s.bump O.nomajCount).evAt Ev.noMajority 0xFF t 0 else s
  let notTracking := v.set.any (fun x => !Nat.beq (s.nat O.strandState x) 2)
  let running := match s.time.slewEnd with | some e => Nat.blt t e | Option.none => false
  let e2 : Int := 2 * 65536 * (t : Int) - v.target2
  let far := decide (e2.natAbs * 25 > 2 * 10 * 16 * 65536)
  let slew : Option Nat :=
    if none then Option.none
    else if running || far then some (t + slewTicks e2) else Option.none
  let s := s.each [0, 1, 2] (fun s x => s.putI O.strandOffset x (finePs ((s.strand x).time - 65536 * (t : Int))))
  let s := if none then s else s.putI O.gridError 0 (finePs (e2 / 2))
  let s := trackRate s none
  let timeq := none || notTracking || slew.isSome
  let s := if timeq then s.bump O.timeqFrames else s
  let s := { s with time := { s.time with
    slewEnd := slew, slewOff := slewOffset e2, slewUntil := slew.getD t, target2 := if none then s.time.target2 else v.target2, timeq := timeq,
    refOsc := match v.set with | x :: _ => x | [] => s.time.refOsc } }
  (s.put O.gridState 0 (gridStateOf timeq slew.isSome none notTracking true))

/-- The vote at boundary `t` while the grid runs (R167). -/
def voteAt (s : State) (t : Nat) : State := applyVote s (voteOf s) t

/-- SLEW_REMAINING in µs (Table 9.10). -/
def slewRemaining (s : State) : Nat := match s.time.slewEnd with | some e => ceilDiv (e - s.now) usTicks | none => 0

/-- GRID_SLEW_END: the planned slew time elapses (R171). -/
def execGridSlewEnd (s : State) : Out :=
  match s.time.slewEnd with
  | some e =>
    if s.gridOn then
      let s := s.advance e
      let g := s.nat O.gridState
      .next ({ s with time := { s.time with slewEnd := none } }.put O.gridState 0 (if bitOf g 3 then g - 8 else g))
    else .next s
  | none => .next s

/-! ### Re-epoch requests (R176) -/

/-- Why a request is refused: abort code, 0 when accepted. -/
def reepochState (s : State) (timed : Option Nat) : Nat :=
  if s.nat O.voteOutcome = 3 then 0x03000020
  else if s.time.reepochAt.isSome || s.time.pause.isSome then 0x03000021
  else match timed with
    | some t => if t % frameTicks = 0 then 0 else 0x05000010
    | none => 0

/-- The request is accepted (R176). -/
def reepochAccept (s : State) (timed : Option Nat) : State :=
  { s with time := { s.time with reepochAt := some (timed.getD (nextFrame s.now)) } }

/-- D of R177: the target at T_e minus T_e, in whole ticks. -/
def reepochD (s : State) (te : Nat) : Int := roundDiv s.time.target2 131072 - te

/-- T_e′ of R177. -/
def reepochStart (te : Nat) (d : Int) : Nat := frameAtOrAfter (max ((te : Int) + d).toNat te)

/-- Each strand's time at a re-epoch (Table 9.6). -/
def reepochStrands (s : State) : State :=
  s.each [0, 1, 2] (fun s x =>
    let v := s.strand x
    let st := s.nat O.strandState x
    if st = 2 ∨ st = 4 then s.setStrand x { v with time := v.time - v.err, err := 0, avg := 0 }
    else if st = 3 then s.setStrand x { v with time := s.time.target2 / 2 }
    else s)

/-! ### PPS and ToD (R179, R180) -/

/-- PPS_IN_EDGE: the edge is stamped in grid time and by the strands, corrected by PPS_IN_DELAY (R179). -/
def execPpsInEdge (edge : Nat) (adv : StrandAdv) (s : State) : Out :=
  let d := s.tdc 39 edge
  let s := d.2.elapse (edge / 65536) adv
  let delay : Int := roundDiv (s.int O.ppsInDelay * 131072) 3125
  .next { s with time := { s.time with ppsEdge := some (d.1.1 / 65536, [0, 1, 2].map (fun x => (s.strand x).time - delay)) } }

/-- TOD_RX_SENTENCE: a ZDA sentence with a valid checksum, 10 ms to 900 ms after an edge, labels it (R179). -/
def execTodRxSentence (m : TodRx) (t : Nat) (s : State) : Out :=
  let s := s.advance t
  match s.time.ppsEdge with
  | none => .next { s with time := { s.time with labelOk := false } }
  | some (at_, stamps) =>
    if m.zda && m.checksum && Nat.ble (at_ + 10 * msTicks) t && Nat.ble t (at_ + 900 * msTicks) then
      let src : Int := ((m.utc : Int) + s.int O.taiUtcOffset) * (secondTicks : Int) * 65536
      let s := { s with time := { s.time with ppsEdge := none, labelOk := true, ppsLast := some at_ } }
      .next (s.each [0, 1, 2] (fun s x => if Nat.beq (srcOf s.objs x) 3 then measureStrand s x (stamps.getD x 0 - src) none else s))
    else .next { s with time := { s.time with labelOk := false } }

/-- PPS_OUT may be driven (R180). -/
def ppsDriven (s : State) : Bool := s.bool O.ppsOutEnable && s.gridOn

/-- The next TAI second at or after an instant that has had no PPS_OUT edge. -/
def nextPps (s : State) : Nat :=
  let t := ceilDiv s.now secondTicks * secondTicks
  if s.time.ppsOut = some t then t + secondTicks else t

/-- The level of PPS_OUT: high for 64,000,000 ticks from its edge, low while it is not driven (R180). -/
def ppsLevel (s : State) : Bool :=
  ppsDriven s && (match s.time.ppsFall with | some t => Nat.blt s.now t | none => false)

/-- PPS_OUT_EDGE: PPS_OUT rises at a TAI second and stays high for 100 ms (R180). -/
def execPpsOutEdge (s : State) : Out :=
  if ppsDriven s then
    let t := nextPps s
    let s := s.advance t
    .next { s with time := { s.time with ppsOut := some t, ppsFall := some (t + 64000000) } }
  else .next s

/-- TOD_TX_SENTENCE: 100 ms after the edge PPS_OUT falls, and the sentence that labels the edge starts (R180). -/
def execTodTxSentence (s : State) : Out :=
  match s.time.ppsOut, s.time.ppsFall with
  | some t, some f =>
    if ppsDriven s then
      let s := s.advance f
      .next { s with time := { s.time with ppsFall := none, tod := some ⟨(t / secondTicks : Nat) - s.int O.taiUtcOffset, !s.time.timeq⟩ } }
    else .next s
  | _, _ => .next s

/-- PPS_STATE (Table 9.10). -/
def ppsState (s : State) : Nat :=
  4 * b2n (ppsDriven s) + 2 * b2n s.time.labelOk +
    b2n (match s.time.ppsLast with | some t => Nat.ble s.now (t + 960000000) | none => false)

end Sys2Proof.Machine
end

