-- ==== Sys2Proof/Machine/Links.lean ====
section
/-! DEFINITION. Lanes as their users see them, egress ports with their queues, windows and launch classes, and the frame
of Twine (10_network_time.md R201 to R205; 15_lanes.md R287, R288, R301; 16_twine.md R309 to R314, R451). -/

namespace Sys2Proof.Machine

/-! ### Lanes and ports (Table 15.1) -/

/-- Lane `l` beyond its objects. -/
def State.lane (s : State) (l : Nat) : Lane := Map.getD s.lanes.lanes l {}
/-- Replace lane `l`. -/
def State.setLane (s : State) (l : Nat) (v : Lane) : State := { s with lanes := { s.lanes with lanes := Map.set s.lanes.lanes l v } }

/-- The lanes of a port, lower first. -/
def lanesOf (p : Nat) : List Nat :=
  if p = 1 then [0, 1] else if p = 2 then [2, 3] else if p = 19 then [20, 21] else if p = 20 then [22, 23]
  else if Nat.ble 3 p && Nat.ble p 18 then [p + 1] else []

/-- The port of a lane. -/
def portOf (l : Nat) : Nat :=
  if Nat.ble l 1 then 1 else if Nat.ble l 3 then 2 else if Nat.ble l 19 then l - 1 else if Nat.ble l 21 then 19 else 20

/-- A doubled port (R287). -/
def doubled (p : Nat) : Bool := Nat.beq (lanesOf p).length 2

/-- L22 and L23 serve as a tap (R306). -/
def tapRole (st : Store) : Bool := Nat.beq (st.nat O.laneRole 22) 1

/-- The lane is in lock for its port (R291, R307). -/
def laneLocked (s : State) (l : Nat) : Bool :=
  (s.lane l).lock && Nat.beq (s.nat O.laneAdmin l) 1 && !(tapRole s.objs && Nat.ble 22 l)

/-- The lane carries frames of its port. -/
def laneServes (s : State) (l : Nat) : Bool := laneLocked s l && (s.lane l).service

/-- The port has a lane in service (R451). -/
def portUp (s : State) (p : Nat) : Bool := (lanesOf p).any (laneServes s)

/-- Peer delay of a lane. -/
def State.pdelay (s : State) (l : Nat) : PeerDelay := Map.getD s.ptp.lanes l {}
/-- Replace it. -/
def State.setPdelay (s : State) (l : Nat) (v : PeerDelay) : State := { s with ptp := { s.ptp with lanes := Map.set s.ptp.lanes l v } }

/-- A lane is qualified (R186). -/
def laneQualified (s : State) (l : Nat) : Bool := laneLocked s l && (s.pdelay l).valid

/-- The timing lane of a port (R186). -/
def timingLane (s : State) (p : Nat) : Option Nat := (lanesOf p).find? (laneQualified s)

/-! ### Stamps (R190, R191) -/

/-- Alignment positions of a coding: 20 comma positions of 8b/10b, 32 gearbox offsets of 64b/66b (Table 10.3). -/
def alignSteps (code : Nat) : Nat := if Nat.ble code 1 then 20 else 32

/-- TX latency of a rate code in 1/65536 tick (Table 10.3). -/
def txLatency (code : Nat) : Int := roundDiv ((([9600, 5120, 4072, 2618].getD code 0 : Nat) : Int) * 131072) 3125

/-- RX base latency and alignment term of a rate code at an alignment position, in 1/65536 tick (Table 10.3). -/
def rxLatency (code align : Nat) : Int :=
  roundDiv ((([2080000, 960000, 737000, 494500].getD code 0 + [80000, 32000, 19394, 9697].getD code 0 * align : Nat) : Int) * 131072) 312500

/-- A stamp as it is stored: FTIME with a resolution of 1/128 tick (R174, R191). -/
def stampOf (fine : Int) : Int := fine / 512 * 512

/-- The ball-referred stamp of what lane `l`'s deserialiser latched at `fine`. -/
def rxStamp (s : State) (l : Nat) (fine : Int) : Int := stampOf (fine - rxLatency (s.lane l).code (s.lane l).align)

/-- The ball-referred stamp of what lane `l`'s serialiser latched at `fine`. -/
def txStamp (s : State) (l : Nat) (fine : Int) : Int := stampOf (fine + txLatency (s.lane l).code)

/-- Pdelay messages. -/
def isPdelay (m : PtpMsg) : Bool := Nat.beq m.mtype 2 || Nat.beq m.mtype 3

/-- Tenths of Gbit/s of a rate code (Table 15.2). -/
def rateTenths (code : Nat) : Nat := if code = 0 then 10 else if code = 1 then 25 else if code = 2 then 50 else 100

/-- Ticks that a number of bytes takes on a lane, rounded up: 640 bits pass in 1,000 ticks per 0.1 Gbit/s * 10. -/
def byteTicks (code n : Nat) : Nat := ceilDiv (n * 8 * 6400) (1000 * rateTenths code)

/-- An egress port. -/
def State.egress (s : State) (p : Nat) : Egress := Map.getD s.ptp.egress p {}
/-- Replace an egress port. -/
def State.setEgress (s : State) (p : Nat) (e : Egress) : State := { s with ptp := { s.ptp with egress := Map.set s.ptp.egress p e } }

/-- Bytes of a frame from destination address to FCS (R309; message lengths of IEEE 1588-2019 for PTP). -/
def TxBody.frameBytes : TxBody → Nat
  | .twine b => max 64 (18 + b.length)
  | .ptp m _ => max 64 (18 + (if m.mtype = 0 then 44 else if m.mtype = 11 then 64 else 54) + m.tlvs.length)

/-- The same with preamble and inter-frame gap (R290). -/
def TxBody.wireBytes (b : TxBody) : Nat := b.frameBytes + 20

/-! ### The Twine frame (R309, R310) -/

/-- Header fields of Table 16.1 that a sender chooses. -/
structure TwineHead where
  kind : Nat
  bcast : Bool := false
  dest : Nat := 0
  cls : Nat := 1
  storeFwd : Bool := false
  mac : Option Nat := none
  hops : Nat := 1
  deriving DecidableEq, Repr

/-- Bytes `off` to `off + n - 1` taken as zero. -/
def zeroAt (b : Bytes) (off n : Nat) : Bytes := b.take off ++ zeros (min n (b.length - off)) ++ b.drop (off + n)

/-- The end-to-end CRC over a header and body: STRIPE and HOPS count as 0 (R310). -/
def twineCrc (b : Bytes) : Nat := crc32c (zeroAt (zeroAt b 2 2) 8 2)

/-- A Twine frame from its header to its CRC (Table 16.1). `src` is `none` for an unassigned hub. -/
def twineBytes (src : Option Nat) (h : TwineHead) (body : Bytes) : Bytes :=
  let ext := match h.mac with | some m => be 8 m | none => []
  let len := 16 + ext.length + body.length + 4
  let flags := 128 * b2n h.storeFwd + 64 * b2n h.mac.isSome + 16 * h.cls
  let head := be 1 1 ++ be 1 h.kind ++ be 2 0 ++ be 2 (32768 * b2n h.bcast + h.dest % 16384)
    ++ be 2 (match src with | some i => i % 16384 | none => 32768) ++ be 2 h.hops ++ be 1 flags ++ be 1 0 ++ be 2 len ++ be 2 0
  let b := head ++ ext ++ body
  b ++ be 4 (twineCrc b)

/-- The hub's ID, when assigned (R311). -/
def ownId (s : State) : Option Nat := let i := s.nat O.hubId; if Nat.ble i 16383 then some i else none

/-- Fields of a received frame's header. -/
def hVersion (f : Bytes) : Nat := field f 0 1
def hKind (f : Bytes) : Nat := field f 1 1
def hStripe (f : Bytes) : Nat := field f 2 2
def hBcast (f : Bytes) : Bool := bitOf (field f 4 2) 15
def hDest (f : Bytes) : Nat := field f 4 2 % 16384
def hSrcUnset (f : Bytes) : Bool := bitOf (field f 6 2) 15
def hSrc (f : Bytes) : Nat := field f 6 2 % 16384
def hHops (f : Bytes) : Nat := field f 8 2
def hMac (f : Bytes) : Bool := bitOf (field f 10 1) 6
def hClass (f : Bytes) : Nat := field f 10 1 / 16 % 4
def hLength (f : Bytes) : Nat := field f 12 2
/-- Where the body starts: 8 later behind a MAC address field. -/
def hBody (f : Bytes) : Nat := if hMac f then 24 else 16

/-- Put a number into a frame. -/
def patch (b : Bytes) (off n v : Nat) : Bytes := b.take off ++ be n v ++ b.drop (off + n)

/-! ### Egress queues (R314, R451) -/

/-- Bytes waiting in a port's queue in a set of classes. -/
def queuedBytes (e : Egress) (p : Nat → Bool) : Nat := ((e.queue.filter (fun f => p f.cls)).map (fun f => f.body.frameBytes)).sum

/-- The queue that a frame of a class joins has room (R314). -/
def hasRoom (p : Nat) (e : Egress) (f : TxFrame) : Bool :=
  let n := f.body.frameBytes
  if f.cls = 2 || f.cls = 0 then true
  else if Nat.ble 3 p && Nat.ble p 18 then Nat.ble (queuedBytes e (fun c => !Nat.beq c 2) + n) 65536
  else if p = 19 then Nat.ble (queuedBytes e (fun c => !Nat.beq c 2) + n) 262144
  else Nat.ble (queuedBytes e (Nat.beq f.cls) + n)
    (if f.cls = 1 then 1048576 else if f.cls = 3 then 262144 else if f.cls = 4 then 196608 else 65536)

/-- Queue a frame on a port: discarded and counted while no lane is in service (R451) or its queue is full (R314). -/
def enqueue (s : State) (p : Nat) (f : TxFrame) : State :=
  let e := s.egress p
  if !portUp s p then s.bump O.fwdDropCount
  else if hasRoom p e f then s.setEgress p { e with queue := e.queue ++ [f] }
  else if f.cls = 1 then s.bump O.fwdTtDropCount else s.bump O.fwdDropCount

/-- Egress ports of a frame (R312 rule 6): towards the root, the learnt port, or every port but 19, as for a frame that names its
destination by MAC address, whose DEST is ignored (R309). -/
def routePorts (s : State) (bcast : Bool) (dest : Nat) (except : Nat) : List Nat :=
  let all := (List.range 19).drop 1 ++ [20]
  let l := if bcast then all
    else if Nat.beq dest (s.nat O.rootId) then [s.nat O.rootPort]
    else match Map.find? s.twine.learned dest with
      | some (p, _) => [p]
      | none => all
  l.filter (fun p => !Nat.beq p except && !Nat.beq p 19)

/-- Launch class of a BE class number of the header (Table 16.1). -/
def beClass (c : Nat) : Nat := if c = 0 then 1 else c + 2

/-- Every frame that leaves on the port is sent store-and-forward: before status READY, or by STORE_FWD_FORCE (R320). -/
def storeFwdPort (s : State) (p : Nat) : Bool :=
  Nat.beq (s.nat O.hubStatus) 0
    || (Nat.beq p 1 && bitOf (s.nat O.storeFwdForce) 0) || (Nat.beq p 2 && bitOf (s.nat O.storeFwdForce) 1)
    || (Nat.beq p 20 && bitOf (s.nat O.storeFwdForce) 2)

/-- Send a Twine frame of this hub on one port. -/
def sendTwineOn (s : State) (p : Nat) (h : TwineHead) (body : Bytes) : State :=
  let h : TwineHead := { h with hops := s.nat O.hopsInit, storeFwd := storeFwdPort s p }
  enqueue s p { cls := beClass h.cls, body := .twine (twineBytes (ownId s) h body) }

/-- Send a Twine frame of this hub on the ports that lead to its destination. -/
def sendTwine (s : State) (h : TwineHead) (body : Bytes) : State :=
  (routePorts s h.bcast h.dest 0).foldl (fun s p => sendTwineOn s p h body) s

/-! ### Windows (R202, R203, Table 10.8) -/

/-- A window: start, length, FORWARD. -/
structure Window where
  start : Nat
  len : Nat
  fwd : Bool
  deriving DecidableEq, Repr

/-- Windows of a SCHEDULE object. -/
def decodeSchedule (b : Bytes) : List Window :=
  (List.range (field b 1 1)).map (fun i => ⟨field b (4 + 12 * i) 4, field b (8 + 12 * i) 4, Nat.beq (field b (12 + 12 * i) 1) 1⟩)

/-- A port's windows. -/
def windowsOf (st : Store) (p : Nat) : List Window :=
  if p = 1 then decodeSchedule (st.bytes O.scheduleWest) else if p = 2 then decodeSchedule (st.bytes O.scheduleEast)
  else if p = 20 then decodeSchedule (st.bytes O.scheduleUplink) else []

/-- Windows ascend by START without overlap and end within the cycle (R205). -/
def windowsOk : Nat → List Window → Bool
  | _, [] => true
  | lo, w :: l => Nat.ble lo w.start && Nat.ble (w.start + w.len) 80000 && windowsOk (w.start + w.len) l

/-- The checks of R205: abort code, 0 when they pass. -/
def scheduleFormat (b : Bytes) : Nat :=
  let w := field b 1 1
  if b.length ≠ 4 + 12 * w then 0x02000050
  else if !((List.range w).all (fun i => Nat.ble (field b (12 + 12 * i) 1) 1)) then 0x02000050
  else if !windowsOk 0 (decodeSchedule b) then 0x02000050
  else if field b 0 1 ≠ 1 || Nat.blt 16 w || (decodeSchedule b).any (fun x => Nat.beq x.len 0) then 0x02000001
  else 0

/-- The trunk cycle runs (R202). -/
def cycleRuns (s : State) : Bool := s.bool O.trunkCycleEnable && s.gridOn

/-- A window of the type is open at tick `t` for `dur` ticks (R203). -/
def windowFits (ws : List Window) (fwd : Bool) (t dur : Nat) : Bool :=
  let pos := t % 80000
  ws.any (fun w => (w.fwd == fwd) && Nat.ble w.start pos && Nat.ble (pos + dur) (w.start + w.len))

/-- Ticks from `t` to the start of the next window. -/
def toNextWindow (ws : List Window) (t : Nat) : Option Nat :=
  let pos := t % 80000
  (ws.map (fun w => if Nat.blt pos w.start then w.start - pos else w.start + 80000 - pos)).min?

/-- A frame may start at tick `t` on port `p` at a rate (Table 10.7). -/
def eligible (s : State) (p code t : Nat) (f : TxFrame) : Bool :=
  let dur := byteTicks code f.body.wireBytes
  let windowed := Nat.beq p 1 || Nat.beq p 2 || Nat.beq p 20
  let ws := windowsOf s.objs p
  if f.cls = 0 then cycleRuns s && windowFits ws false t dur
  else if f.cls = 1 then !windowed || (cycleRuns s && windowFits ws true t dur)
  else if windowed && cycleRuns s then
    match toNextWindow ws t with
    | some d => Nat.ble (dur + s.nat O.guard) d
    | none => true
  else true

/-- Remove the first element that satisfies a test. -/
def takeFirst {α : Type} (p : α → Bool) : List α → Option (α × List α)
  | [] => none
  | a :: l => if p a then some (a, l) else (takeFirst p l).map (fun r => (r.1, a :: r.2))

/-- A waiting frame may leave on lane `l`: a PTP message other than Pdelay leaves on the port's timing lane, whichever that is now
(R186), any other frame on its own lane if it has one. -/
def laneMayCarry (s : State) (p l : Nat) (f : TxFrame) : Bool :=
  match f.body with
  | .ptp m _ => if isPdelay m then f.lane = some l else timingLane s p = some l
  | .twine _ => match f.lane with | some x => Nat.beq x l | none => true

/-- The first eligible frame in class order (R201). -/
def nextFrameOn (s : State) (p l t : Nat) : Option (TxFrame × List TxFrame) :=
  let code := (s.lane l).code
  [0, 1, 2, 3, 4, 5].findSome? (fun c => takeFirst (fun f => Nat.beq f.cls c && eligible s p code t f && laneMayCarry s p l f) (s.egress p).queue)

/-- Put the stripe number into a Twine frame of a doubled port (R301). -/
def striped (p : Nat) (e : Egress) (b : TxBody) : TxBody × Egress :=
  match b with
  | .twine x =>
    if doubled p && !Nat.beq (hKind x) 10 then (.twine (patch x 2 2 e.stripe), { e with stripe := (e.stripe + 1) % 65536 })
    else (.twine (patch x 2 2 0), e)
  | .ptp m f => (.ptp m f, e)

end Sys2Proof.Machine
end

