-- ==== Sys2Proof/Machine/Ptp.lean ====
section
/-! DEFINITION. Network time: peer delay, Sync and Announce, grandmaster selection, the transparent clock, launching of
frames and the trunk cycle (10_network_time.md, R185 to R206). -/

namespace Sys2Proof.Machine

/-! ### Clocks, ports and lanes -/

/-- CLOCK_IDENTITY: the EUI-64 of the base MAC address (R185). -/
def clockId (st : Store) : Nat := let m := st.nat O.baseMac; m / 16777216 * 1099511627776 + 0xFFFE * 16777216 + m % 16777216

/-- Units of an exact delay: 2 * 10^9 per 2^-20 ns. -/
def dUnit : Int := 2000000000

/-- The lane's link delay: mean of the accepted values (R192). -/
def meanDelay (p : PeerDelay) : Int := if p.held.isEmpty then 0 else roundDiv p.held.sum p.held.length

/-- Picoseconds as an exact delay: 1 ps is 2^20 / 1000 of 2^-20 ns. -/
def psDelay (ps : Int) : Int := ps * 1048576 * 2000000

/-- An exact delay in whole ps. -/
def delayPs (d : Int) : Int := roundDiv (d * 1000) 2097152000000000

/-- The position of a lane in its port: 0 lower, 1 upper. -/
def laneSide (l : Nat) : Nat := match (lanesOf (portOf l)) with | a :: _ => if Nat.beq a l then 0 else 1 | [] => 0

/-- A of a lane (R193). -/
def asymOf (st : Store) (l : Nat) : Int := if laneSide l = 0 then st.int O.asym0 (portOf l) else st.int O.asym1 (portOf l)

/-- d + A of a lane, exact. -/
def dPlusA (s : State) (l : Nat) : Int := meanDelay (s.pdelay l) + psDelay (asymOf s.objs l)

/-- A port is DISABLED (Table 10.5). -/
def portDisabled (s : State) (p : Nat) : Bool :=
  !s.bool O.portEnable p || !(lanesOf p).any (laneLocked s) || (Nat.beq p 20 && tapRole s.objs)

/-- Ports that receive Sync and Announce (Table 10.1). -/
def trunkPort (p : Nat) : Bool := Nat.beq p 1 || Nat.beq p 2 || Nat.beq p 20

/-! ### Transport settings (R187, R188) -/

/-- A received frame that the hub discards (R187, R188). -/
def ptpBreaks (s : State) (p : Nat) (m : PtpMsg) : Bool :=
  m.vlan || !Nat.beq m.dst (if isPdelay m then 0x0180C200000E else 0x011B19000000)
    || !Nat.beq m.version 2 || !Nat.beq m.minorVersion 1 || !Nat.beq m.majorSdo 0 || !Nat.beq m.minorSdo 0
    || !Nat.beq m.domain (if Nat.beq p 19 && Nat.beq m.mtype 0 then s.nat O.twinDomain else s.nat O.ptpDomain)
    || (!trunkPort p && !isPdelay m && !(Nat.beq p 19 && Nat.beq m.mtype 0))
    || Nat.beq m.clock (clockId s.objs)
    || !List.contains [0, 2, 3, 11] m.mtype
    || ((Nat.beq m.mtype 0 || Nat.beq m.mtype 3) && m.twoStep)
    || (Nat.beq m.mtype 11 && m.announce.isNone)

/-- Discard and count (R188). -/
def ptpDrop (s : State) (p : Nat) : State := s.bump O.ptpDiscardCount p

/-- PTP_FRAME_DISCARDED: a frame that breaks the settings or carries an unsupported message (R188). -/
def execPtpFrameDiscarded (port : Fin 21) (m : PtpMsg) (s : State) : Out :=
  if ptpBreaks s port m then .next (ptpDrop s port) else .next s

/-! ### Grandmaster selection (R195, R200) -/

/-- clockClass the hub announces as grandmaster (Table 10.6). -/
def ownClass (s : State) : Nat :=
  let set := [0, 1, 2].filter (fun x => bitOf (s.nat O.voteSet) x)
  if s.gridOn && !s.time.timeq && !set.isEmpty && set.all (fun x => Nat.beq (srcOf s.objs x) 3) then 6
  else if s.time.timeq && s.ptp.class6 then 7 else 248

/-- The Announce fields of Table 10.6. -/
def ownAnnounce (s : State) : Announce :=
  let c := ownClass s
  { priority1 := s.nat O.priority1, clockClass := c, accuracy := if c = 6 then 0x21 else 0xFE, variance := 0xFFFF,
    priority2 := s.nat O.priority2, identity := clockId s.objs, stepsRemoved := 0,
    timeSource := if [0, 1, 2].all (fun x => Nat.beq (srcOf s.objs x) 3) then 0x20 else 0xA0,
    utcOffset := s.int O.taiUtcOffset, flags := if c = 6 then 0x3C else 0x0C }

/-- The data set comparison by grandmaster: the first field that differs decides, lower is better (R195). -/
def betterGm (a b : Announce) : Bool :=
  let k := fun x : Announce => [x.priority1, x.clockClass, x.accuracy, x.variance, x.priority2, x.identity]
  decide (k a < k b)

/-- The best of a list. -/
def bestGm : List Announce → Option Announce
  | [] => none
  | a :: l => some (l.foldl (fun b x => if betterGm x b then x else b) a)

/-- Choose the grandmaster (R195): the qualified senders, and the hub itself when GM_ENABLE is TRUE and a qualified sender
exists or ANNOUNCE_TIMEOUT intervals have passed without one (R172). -/
def chooseGm (s : State) : State :=
  let qs := (s.ptp.senders.filter (·.qualified)).map (·.data)
  let own := if s.bool O.gmEnable && (!qs.isEmpty || s.ptp.quiet) then [ownAnnounce s] else []
  match bestGm (qs ++ own) with
  | none => ((s.put O.gmIdentity 0 0).put O.gmClass 0 255).put O.isGm 0 0
  | some a => ((s.put O.gmIdentity 0 a.identity).put O.gmClass 0 a.clockClass).put O.isGm 0 (b2n (Nat.beq a.identity (clockId s.objs)))

/-- Selection of the grandmaster; no Sync of a newly selected one has arrived yet (R195, Table 10.5). -/
def selectGm (s : State) : State :=
  let was := s.nat O.gmIdentity
  let s := chooseGm s
  if Nat.beq (s.nat O.gmIdentity) was then s else { s with ptp := { s.ptp with syncOk := [] } }

/-- PORT_STATE (Table 10.5). -/
def portState (s : State) (p : Nat) : Nat :=
  if portDisabled s p then 3
  else if !trunkPort p then 6
  else if s.bool O.isGm then 6
  else
    let q := s.ptp.senders.filter (fun x => x.qualified && Nat.beq x.port p)
    if q.isEmpty then 4
    else if !q.any (fun x => Nat.beq x.data.identity (s.nat O.gmIdentity)) then 7
    else match Map.find? s.ptp.syncOk p with
      | some (t, iv) => if Nat.blt s.now (t + 4 * iv) then 9 else 8
      | none => 8

/-- The PTP port whose Sync feeds a source code (Table 9.1). -/
def sourcePort (src : Nat) : Option Nat := if src = 0 then some 1 else if src = 1 then some 2 else if src = 4 then some 20 else none

/-- The time by which a SLAVE port has had no valid Sync for 4 of its intervals. -/
def syncLapses (s : State) (p : Nat) : Nat := match Map.find? s.ptp.syncOk p with | some (t, iv) => t + 4 * iv | none => 0

/-- SOURCE_ABSENT: the strand's source has delivered no valid measurement for its timeout, or its port is SLAVE no more (Tables 9.1,
9.4). -/
def execSourceAbsent (x : Fin 3) (s : State) : Out :=
  let s := match sourcePort (srcOf s.objs x) with
    | some p => if Nat.beq (portState s p) 9 then s.advance (syncLapses s p) else s
    | none => s
  .next (strandAbsent s x)

/-! ### Forwarding (R197) -/

/-- Ports a message received on a port goes out on. -/
def forwardPorts (s : State) (p : Nat) : List Nat :=
  (List.range 21).filter (fun q => !Nat.beq q 0 && !Nat.beq q p && !Nat.beq q 19 && !portDisabled s q)

/-- The MAC address of a port: BASE_MAC + n (R188, R351). -/
def portMac (s : State) (p : Nat) : Nat := s.nat O.baseMac + p

/-- Queue a PTP message for a port's timing lane, from the port's own address (R186, R188). -/
def sendPtp (s : State) (p : Nat) (m : PtpMsg) (fix : PtpFix) : State :=
  if (timingLane s p).isSome then
    let e := s.egress p
    s.setEgress p { e with queue := e.queue ++ [{ cls := 2, body := .ptp { m with src := portMac s p } fix }] }
  else s

/-- Forward unless the pair is already held; keep the last 32 pairs (R197). -/
def forwardPtp (s : State) (p : Nat) (m : PtpMsg) (fix : PtpFix) : State :=
  let key := (m.clock, m.portNumber, m.seq)
  let sync := Nat.beq m.mtype 0
  let seen := if sync then s.ptp.seenSync else s.ptp.seenAnnounce
  if seen.contains key then s.bump O.dupDropCount
  else
    let seen := (key :: seen).take 32
    let s : State := { s with ptp := if sync then { s.ptp with seenSync := seen } else { s.ptp with seenAnnounce := seen } }
    (forwardPorts s p).foldl (fun s q => sendPtp s q m fix) s

/-- When a frame was latched, in whole ticks. -/
def rxTick (rx : PtpRx) : Nat := rx.grid / 65536

/-- An arrival's ball-referred stamps: in the transmit timebase, and in whole ticks of grid time (R190). -/
def rxBase (s : State) (rx : PtpRx) : Nat := (rxStamp s rx.lane rx.base).toNat
def rxArrival (s : State) (rx : PtpRx) : Nat := (rxStamp s rx.lane rx.grid).toNat / 65536

/-- The message waits no longer in the PTP ports. -/
def tookPtp (s : State) (rx : PtpRx) (m : PtpMsg) : State :=
  { s with lanes := { s.lanes with ptp := s.lanes.ptp.erase (rx, m) } }

/-- Source time at arrival in 1/65536 tick: originTimestamp + correctionField + d + A, rounded down (R175, R196). -/
def sourceTime (s : State) (l : Nat) (m : PtpMsg) : Int :=
  (((m.sec : Int) * 1000000000 + m.ns) * 1048576 * dUnit + m.corr * 16 * dUnit + dPlusA s l) / (25 * dUnit)

/-- The ratio of a recovered clock to a strand's oscillator. -/
def clockRatio (r : StrandRatio) (x : Nat) : Int := if x = 0 then r.a else if x = 1 then r.b else r.c

/-- Measure a source for the strands that map to it, each by its own stamp of the arrival (R163, R191, R196). -/
def measureSource (s : State) (src : Nat) (rx : PtpRx) (time : Int) : State :=
  s.each [0, 1, 2] (fun s x => if Nat.beq (srcOf s.objs x) src then
    measureStrand s x (rxStamp s rx.lane (s.strand x).time - time) (some (clockRatio rx.clock x)) else s)

/-- A message interval in ticks from its base-2 logarithm in s. -/
def logTicks (l : Int) : Nat := if l < 0 then secondTicks / 2 ^ l.natAbs else secondTicks * 2 ^ l.natAbs

/-- SYNC_RECEIVED (R195 to R197). -/
def execSyncReceived (rx : PtpRx) (m : PtpMsg) (s : State) : Out :=
  let s := tookPtp s rx m
  let p := rx.port.val
  if ptpBreaks s p m || !Nat.beq m.mtype 0 then .next (ptpDrop s p)
  else if !trunkPort p || portDisabled s p then .next s
  else
    let s := s.elapse (rxTick rx) rx.adv
    let valid := !Nat.beq (s.nat O.gmIdentity) 0 && Nat.beq m.clock (s.nat O.gmIdentity) && laneQualified s rx.lane
    let s := if !valid then s else
      let s := ((s.put O.lastSync p (if s.gridOn then rxArrival s rx else 0)).bump O.syncRxCount p)
      let s : State := { s with ptp := { s.ptp with syncOk := Map.set s.ptp.syncOk p (rxTick rx, logTicks m.logInterval) } }
      measureSource s (if p = 1 then 0 else if p = 2 then 1 else 4) rx (sourceTime s rx.lane m)
    .next (forwardPtp s p m (.residence (dPlusA s rx.lane) (rxBase s rx)))

/-- Enter an Announce of a sender (R195). -/
def enterSender (p t : Nat) (m : PtpMsg) (a : Announce) (l : List Sender) : List Sender :=
  let same := fun x : Sender => Nat.beq x.port p && Nat.beq x.clock m.clock && Nat.beq x.portNumber m.portNumber
  let iv := logTicks m.logInterval
  let old := l.find? same
  let times := t :: ((old.map (·.times)).getD []).filter (fun u => Nat.ble t (u + 4 * iv))
  let was := (old.map (·.qualified)).getD false
  l.filter (fun x => !same x) ++ [⟨p, m.clock, m.portNumber, times, iv, a, was || Nat.ble 2 times.length⟩]

/-- ANNOUNCE_RECEIVED (R195, R197). -/
def execAnnounceReceived (rx : PtpRx) (m : PtpMsg) (s : State) : Out :=
  let s := tookPtp s rx m
  let p := rx.port.val
  match m.announce with
  | none => .next (ptpDrop s p)
  | some a =>
    if ptpBreaks s p m || !Nat.beq m.mtype 11 then .next (ptpDrop s p)
    else if !trunkPort p || portDisabled s p then .next s
    else
      let s := s.advance (rxTick rx)
      let l := enterSender p (rxTick rx) m a s.ptp.senders
      let q := l.any (·.qualified)
      let s : State := { s with ptp := { s.ptp with senders := l, quiet := s.ptp.quiet && !q, lastQualified := if q then (rxTick rx) else s.ptp.lastQualified } }
      .next (forwardPtp (selectGm s) p m .asIs)

/-- ANNOUNCE_TIMEOUT: senders silent for ANNOUNCE_TIMEOUT intervals lose qualification (R195); with none left for that
long the hub counts the trunk as quiet (R172). -/
def execAnnounceTimeout (t : Nat) (s : State) : Out :=
  let s := s.advance t
  let n := s.nat O.announceTimeout
  let l := s.ptp.senders.map (fun x => if Nat.ble ((x.times.headD 0) + n * x.interval) t then { x with qualified := false } else x)
  let q := l.any (·.qualified)
  let quiet := !q && Nat.ble (s.ptp.lastQualified + n * logTicks (s.int O.announceLog)) t
  .next (selectGm { s with ptp := { s.ptp with senders := l, quiet := quiet } })

/-! ### Peer delay (R192, R194) -/

/-- Messages the hub originates on a port. -/
def ownMsg (s : State) (p mtype : Nat) (seq : Nat) : PtpMsg :=
  { mtype := mtype, dst := if mtype = 2 ∨ mtype = 3 then 0x0180C200000E else 0x011B19000000, src := portMac s p,
    domain := s.nat O.ptpDomain, clock := clockId s.objs, portNumber := p, seq := seq }

/-- Queue a Pdelay message on its lane. -/
def sendOnLane (s : State) (l : Nat) (m : PtpMsg) (fix : PtpFix) : State :=
  let p := portOf l
  let e := s.egress p
  s.setEgress p { e with queue := e.queue ++ [{ cls := 2, body := .ptp m fix, lane := some l }] }

/-- A lane's Pdelay interval: 128 per second until its link delay is valid, then by PDELAY_LOG (R192). -/
def pdelayInterval (s : State) (l : Nat) : Nat := if (s.pdelay l).valid then logTicks (s.int O.pdelayLog (portOf l)) else secondTicks / 128

/-- PDELAY_REQ_SEND: a lane in lock sends the Pdelay_Req that is due (R192), but for a lane within a step or an attempt, which sends no
traffic (R293). -/
def execPdelayReqSend (l : Fin 24) (s : State) : Out :=
  if laneServes s l && s.bool O.portEnable (portOf l) then
    let s := s.advance (s.pdelay l).nextReq
    let d := s.pdelay l
    let due := s.now + pdelayInterval s l
    .next (sendOnLane (s.setPdelay l { d with seq := (d.seq + 1) % 65536, nextReq := due }) l (ownMsg s (portOf l) 2 d.seq) .departure)
  else .next s

/-- PDELAY_REQ_RECEIVED: answered on its lane, at most 160 per second (R194). -/
def execPdelayReqReceived (rx : PtpRx) (m : PtpMsg) (s : State) : Out :=
  let s := tookPtp s rx m
  let p := rx.port.val
  if ptpBreaks s p m || !Nat.beq m.mtype 2 then .next (ptpDrop s p)
  else if portDisabled s p then .next s
  else
    let s := s.advance (rxTick rx)
    let d := s.pdelay rx.lane
    let recent := d.answered.filter (fun u => Nat.blt (rxTick rx) (u + secondTicks))
    if Nat.ble 160 recent.length then .next (ptpDrop (s.setPdelay rx.lane { d with answered := recent }) p)
    else .next (sendOnLane (s.setPdelay rx.lane { d with answered := (rxTick rx) :: recent }) rx.lane (ownMsg s p 3 m.seq) (.turnaround (rxBase s rx)))

/-- d of one exchange, exact (R192): ((t4 - t1) * r - c) / 2. -/
def pdelayValue (t1 t4 : Nat) (rate c : Int) : Int :=
  ((t4 : Int) - t1) * 25 * (1000000000 + rate) - c * 16 * 1000000000

/-- Put a lane's link delay and rate ratio into its objects (Table 10.10). -/
def reportDelay (s : State) (l : Nat) (rate : Int) : State :=
  let d := s.pdelay l
  let v : Int := if d.valid then delayPs (meanDelay d) else 0
  let p := portOf l
  if laneSide l = 0 then (s.putI O.linkDelay0 p v).putI O.neighborRate0 p rate
  else (s.putI O.linkDelay1 p v).putI O.neighborRate1 p rate

/-- PDELAY_RESP_RECEIVED: a value for the lane's mean (R192). -/
def execPdelayRespReceived (rx : PtpRx) (m : PtpMsg) (rate : Int) (s : State) : Out :=
  let s := tookPtp s rx m
  let p := rx.port.val
  if ptpBreaks s p m || !Nat.beq m.mtype 3 then .next (ptpDrop s p)
  else if portDisabled s p then .next s
  else
    let s := s.advance (rxTick rx)
    let d := s.pdelay rx.lane
    match d.asked with
    | none => .next s
    | some (t1, q) =>
      if !Nat.beq q m.seq || Nat.blt (t1 + 10 * msTicks * 65536) (rxBase s rx) then .next s
      else
        let v := pdelayValue t1 (rxBase s rx) rate m.corr
        let d := { d with asked := none }
        if Nat.ble 16 d.held.length && decide ((v - meanDelay d).natAbs > 10 * 1048576 * 2000000000) then
          .next (reportDelay ((s.setPdelay rx.lane d).bump O.pdelayOutlierCount p) rx.lane rate)
        else
          let held := (v :: d.held).take 16
          .next (reportDelay (s.setPdelay rx.lane { d with held := held, valid := d.valid || Nat.ble 8 held.length }) rx.lane rate)

/-- PDELAY_EXCHANGE_LOST: no response within 10 ms (R192). -/
def execPdelayExchangeLost (l : Fin 24) (s : State) : Out :=
  .next (s.setPdelay l { s.pdelay l with asked := none })

/-- A change of speed or a loss of lock clears the held values (R192). -/
def clearDelay (s : State) (l : Nat) : State :=
  let d := s.pdelay l
  let p := portOf l
  let s := s.setPdelay l { d with held := [], valid := false, asked := none, nextReq := 0 }
  if laneSide l = 0 then s.putI O.linkDelay0 p 0 else s.putI O.linkDelay1 p 0

/-! ### The grandmaster and the twin time message (R198 to R200) -/

/-- MASTER ports but port 19. -/
def masterPorts (s : State) : List Nat := (List.range 21).filter (fun p => !Nat.beq p 0 && !Nat.beq p 19 && Nat.beq (portState s p) 6)

/-- GM_SYNC_SEND (R200). -/
def execGmSyncSend (s : State) : Out :=
  if s.bool O.isGm && s.gridOn then
    let q := s.ptp.syncSeq
    let s := (masterPorts s).foldl (fun s p => sendPtp s p { ownMsg s p 0 q with logInterval := s.int O.syncLog } .gridTime) s
    .next { s with ptp := { s.ptp with syncSeq := (q + 1) % 65536 } }
  else .next s

/-- GM_ANNOUNCE_SEND (R200). -/
def execGmAnnounceSend (s : State) : Out :=
  if s.bool O.isGm then
    let q := s.ptp.announceSeq
    let s := (masterPorts s).foldl (fun s p =>
      sendPtp s p { ownMsg s p 11 q with logInterval := s.int O.announceLog, announce := some (ownAnnounce s) } .asIs) s
    .next { s with ptp := { s.ptp with announceSeq := (q + 1) % 65536 } }
  else .next s

/-- TWIN_TIME_MESSAGE_SEND (R198). -/
def execTwinTimeMessageSend (s : State) : Out :=
  if portDisabled s 19 then .next s else
  let q := s.ptp.twinSeq
  let s := sendPtp s 19 { ownMsg s 19 0 q with domain := s.nat O.twinDomain, logInterval := -6 } .strandA
  .next { s with ptp := { s.ptp with twinSeq := (q + 1) % 65536 } }

/-- TWIN_TIME_MESSAGE: measured for the strands that map to TWIN (R198). -/
def execTwinTimeMessage (rx : PtpRx) (m : PtpMsg) (s : State) : Out :=
  let s := tookPtp s rx m
  let p := rx.port.val
  if ptpBreaks s p m || !Nat.beq m.mtype 0 then .next (ptpDrop s p)
  else if !Nat.beq p 19 || portDisabled s p || !laneQualified s rx.lane then .next s
  else
    let s := s.elapse (rxTick rx) rx.adv
    .next (measureSource s 2 rx (sourceTime s rx.lane m))

/-- TX_TIMEBASE_STEP: towards the reference strand's rate estimate of its source by at most 0.01 ppm, no more than 64 times per second;
kept in HOLDOVER (R199). -/
def execTxTimebaseStep (s : State) : Out :=
  let x := s.time.refOsc
  if Nat.beq (s.nat O.strandState x) 3 then .next s
  else
    let s := s.advance (s.time.txStepAt + secondTicks / 64)
    .next { s with time := { s.time with
      txRate := s.time.txRate + clampInt (-10) 10 ((s.strand x).freq - s.time.txRate), txStepAt := s.now } }

/-! ### Launching (R201 to R204) -/

/-- Seconds, nanoseconds and 2^-16 ns of a fine time (R175). -/
structure PtpTime where
  sec : Nat
  ns : Nat
  sub : Nat
  deriving DecidableEq, Repr

/-- A fine time as an IEEE 1588 Timestamp with the fraction that its nanoseconds leave, each rounded down (R175). -/
def ptpFields (fine : Int) : PtpTime :=
  let f := fine.toNat
  let t := f / 65536
  let q := (t % secondTicks * 65536 + f % 65536) * 25
  ⟨t / secondTicks, q / 1048576, q % 1048576 / 16⟩

/-- What is written on the fly as a frame departs whose time-stamp point passes the serialiser at the latched times (R190, R192, R194,
R197, R198, R200). -/
def depart (s : State) (l grid base : Nat) (b : TxBody) : TxBody × State :=
  let base := (txStamp s l base).toNat
  match b with
  | .twine x => (.twine x, s)
  | .ptp m fix =>
    match fix with
    | .asIs => (.ptp m .asIs, s)
    | .residence dA ingress =>
      (.ptp { m with corr := m.corr + roundDiv (dA + ((base : Int) - ingress) * 25 * dUnit) 32000000000 } .asIs, s)
    | .turnaround t2 => (.ptp { m with corr := roundDiv (((base : Int) - t2) * 25) 16 } .asIs, s)
    | .gridTime => let f := ptpFields (txStamp s l grid); (.ptp { m with sec := f.sec, ns := f.ns, corr := 0 } .asIs, s)
    | .strandA => let f := ptpFields (txStamp s l (s.strand 0).time); (.ptp { m with sec := f.sec, ns := f.ns, corr := f.sub } .asIs, s)
    | .departure => (.ptp m .asIs, s.setPdelay l { s.pdelay l with asked := some (base, m.seq) })

/-- The Ethernet header of a Twine frame that leaves on lane `l`: the link partner's address, or every station's while it is not known;
the port's own address; the EtherType in force (R309). -/
def twineEth (s : State) (l : Nat) : Bytes :=
  let dst := s.nat O.partnerMac l
  be 6 (if dst = 0 then 0xFFFFFFFFFFFF else dst) ++ be 6 (portMac s (portOf l)) ++ be 2 (s.nat O.ethertype)

/-- Put a frame on a lane's line. -/
def startFrame (s : State) (p l grid base : Nat) (f : TxFrame) : State :=
  let e := s.egress p
  let st := striped p e f.body
  let d := depart s l grid base st.1
  let eth := match d.1 with
    | .twine _ => twineEth s l
    | .ptp .. => []
  let e := { st.2 with line := Map.set st.2.line l { f with body := d.1, eth := eth } }
  d.2.setEgress p e

/-- A STEP GO_ACK has left the lane: the follower's offsets of Table 15.3 count from here (R293). -/
def goAckSent (s : State) (l t : Nat) (sent : Option TxFrame) : State :=
  match sent with
  | some f =>
    match f.body with
    | .twine b =>
      let ln := s.lane l
      if Nat.beq (hKind b) 10 && Nat.beq (field b 16 1) 3 then
        s.setLane l { ln with step := ln.step.map (fun x => { x with ack := some t }) }
      else s
    | .ptp .. => s
  | none => s

/-- A tap lane sends the first copy that may still start: within 10 µs of its original's end (R306). -/
def tapSend (s : State) (l t : Nat) : State :=
  match (Map.getD s.lanes.taps l []).dropWhile (fun c => Nat.blt (c.1 + 6400) t) with
  | [] => { s with lanes := { s.lanes with tapLine := Map.erase s.lanes.tapLine l } }
  | c :: rest =>
    let late := (Map.getD s.lanes.taps l []).length - (rest.length + 1)
    { s with lanes := { s.lanes with taps := Map.set s.lanes.taps l rest, tapLine := Map.set s.lanes.tapLine l c.2 } }.add O.tapDropCount l late

/-- The STEP frame that a lane may start at tick `t`: class BE0, with GUARD before the next window (R201, R329, Table 16.2). -/
def nextStep (s : State) (p l t : Nat) : Option (TxFrame × List Bytes) :=
  match (s.lane l).out with
  | x :: xs =>
    let f : TxFrame := { cls := 3, body := .twine x, lane := some l }
    if eligible s p (s.lane l).code t f then some (f, xs) else none
  | [] => none

/-- FRAME_TRANSMIT_END: the lane's line is free at the latched stamps, and the first eligible frame starts (R201, R301). A lane's STEP
frames (R329) come before the other frames of the BE classes and need no service; a tap lane sends its copies (R306). -/
def execFrameTransmitEnd (l : Fin 24) (grid base : Nat) (adv : StrandAdv) (s : State) : Out :=
  let p := portOf l
  let t := grid / 65536
  let s := s.elapse t adv
  let e := s.egress p
  let s := goAckSent (s.setEgress p { e with line := Map.erase e.line l }) l t (Map.find? e.line l)
  if tapRole s.objs && Nat.ble 22 l then
    .next (if Nat.beq (s.nat O.laneAdmin l) 1 then tapSend s l t else s)
  else
  let ln := s.lane l
  match (if laneServes s l then nextFrameOn s p l t else none), nextStep s p l t with
  | some (f, rest), some (g, xs) =>
    if Nat.blt 2 f.cls then .next (startFrame (s.setLane l { ln with out := xs }) p l grid base g)
    else let e := s.egress p; .next (startFrame (s.setEgress p { e with queue := rest }) p l grid base f)
  | some (f, rest), none => let e := s.egress p; .next (startFrame (s.setEgress p { e with queue := rest }) p l grid base f)
  | none, some (g, xs) => .next (startFrame (s.setLane l { ln with out := xs }) p l grid base g)
  | none, none => .next s

/-- Lanes of a port in service with their rate codes. -/
def serviceLanes (s : State) (p : Nat) : List (Nat × Nat) := ((lanesOf p).filter (laneServes s)).map (fun l => (l, (s.lane l).code))

/-- The lane on which a frame would end first, the lower on a tie (R301): lanes with rate code and free time. -/
def bestLane (n : Nat) (ls : List (Nat × Nat × Nat)) : Option (Nat × Nat × Nat) :=
  ls.foldl (fun b x => match b with
    | none => some x
    | some y => if Nat.blt (x.2.2 + byteTicks x.2.1 n) (y.2.2 + byteTicks y.2.1 n) then some x else b) none

/-- Assign waiting skeins to one OWN window: each starts as the line of its lane is free and ends by the window's end
(R203, R301). -/
def fillWindow (stop : Nat) : List (Nat × Nat × Nat) → List TxFrame → List (Nat × TxFrame) × List TxFrame
  | _, [] => ([], [])
  | ls, f :: fs =>
    match bestLane f.body.wireBytes ls with
    | none => ([], f :: fs)
    | some (l, code, free) =>
      let done := free + byteTicks code f.body.wireBytes
      if Nat.ble done stop then
        let r := fillWindow stop (ls.map (fun x => if Nat.beq x.1 l then (l, code, done) else x)) fs
        ((free, { f with lane := some l }) :: r.1, r.2)
      else ([], f :: fs)

/-- Assign waiting skeins to the OWN windows of a cycle. -/
def fillCycle (t : Nat) (ls : List (Nat × Nat)) : List Window → List TxFrame → List (Nat × TxFrame) × List TxFrame
  | [], fs => ([], fs)
  | w :: ws, fs =>
    if w.fwd then fillCycle t ls ws fs
    else
      let a := fillWindow (t + w.start + w.len) (ls.map (fun x => (x.1, x.2, t + w.start))) fs
      let b := fillCycle t ls ws a.2
      (a.1 ++ b.1, b.2)

/-- TRUNK_CYCLE_START: a cycle begins, and the waiting live skeins get launch times in its OWN windows (R202 to R204);
those left over have waited beyond their window (R34). -/
def execTrunkCycleStart (s : State) : Out :=
  if !cycleRuns s then .next s else
  let t := ceilDiv s.now 80000 * 80000
  let s := s.advance t
  let p := s.nat O.rootPort
  let e := s.egress p
  let r := fillCycle t (serviceLanes s p) (windowsOf s.objs p) e.waiting
  let room := 64 - e.launch.length
  let take := r.1.take room
  let rest := (r.1.drop room).map (·.2) ++ r.2
  let counted := e.overrun - take.length
  let s := s.setEgress p { e with launch := e.launch ++ take, waiting := rest, overrun := rest.length }
  .next (s.add O.windowOverrunCount 0 (rest.length - min counted rest.length))

/-- Ticks of a lane's word, within which the first word boundary at or after L lies (R204): 8 payload bits at 1 and 2.5 Gbit/s, 64 at 5
and 10 Gbit/s. -/
def wordTicks (code : Nat) : Nat := [6, 3, 9, 5].getD code 9

/-- LAUNCH_TIME_REACHED: the first launch entry of the port leaves with its time-stamp point at the first word boundary at or after L,
and its owner learns the actual stamp; an entry whose L has passed when it becomes eligible is returned to its owner as
late (R204). While the line is not free the entry waits (R201). -/
def execLaunchTimeReached (p : Fin 21) (grid base : Nat) (s : State) : Out :=
  let t := grid / 65536
  let s := s.advance t
  let e := s.egress p
  match e.launch with
  | [] => .next s
  | (at_, f) :: rest =>
    let l := f.lane.getD ((lanesOf p).headD 0)
    let stamp := (txStamp s l grid).toNat
    let late := Nat.blt ((at_ + wordTicks (s.lane l).code) * 65536) stamp
    if Nat.blt stamp (at_ * 65536) || (!late && (Map.find? e.line l).isSome) then .next s
    else
      let s := s.setEgress p { e with launch := rest }
      if !late && laneServes s l then
        let s := startFrame s p l grid base f
        .next (s.setEgress p { s.egress p with stamp := some stamp })
      else
        let e := s.egress p
        .next ((s.setEgress p { e with waiting := { f with lane := none } :: e.waiting, overrun := e.overrun + 1 }).bump O.launchLateCount)

end Sys2Proof.Machine
end

