-- ==== Sys2Proof/Machine/Skeins.lean ====
section
/-! DEFINITION. Live streams and skeins: forming, closing and launching them, and the answers to RETX and RETRO
(16_twine.md, R316 to R326). -/

namespace Sys2Proof.Machine

/-- A live stream by its number: word stream of channel c at 2c, record stream at 2c + 1, reel r at 1024 + r (R317). -/
def State.stream (s : State) (id : Nat) : Stream := Map.getD s.twine.streams id {}
/-- Replace it. -/
def State.setStream (s : State) (id : Nat) (v : Stream) : State := { s with twine := { s.twine with streams := Map.set s.twine.streams id v } }

/-- The fields of a skein (Table 16.3) beyond channel and payload. -/
structure SkeinHead where
  chan : Nat
  content : Nat
  retransmit : Bool := false
  window : Bool := false
  last : Bool := false
  resume : Bool := false
  seq : Nat
  reqId : Nat := 0
  count : Nat
  first : Nat := 0
  interval : Nat := 0
  complete : Nat := 0
  deriving DecidableEq, Repr

/-- A skein's body: header of Table 16.3 and payload padded to 4 bytes (R316). -/
def skeinBody (h : SkeinHead) (payload : Bytes) : Bytes :=
  be 2 h.chan ++ be 1 h.content ++ be 1 (128 * b2n h.retransmit + 64 * b2n h.window + 32 * b2n h.last + 16 * b2n h.resume)
    ++ be 4 h.seq ++ be 4 h.reqId ++ be 2 h.count ++ be 2 0 ++ be 8 h.first ++ be 8 h.interval ++ be 8 h.complete
    ++ payload ++ zeros ((4 - payload.length % 4) % 4)

/-- Live skeins may be launched: the unit is active (R364), it has a hub ID and a root (R311, R317), and ROOT_PORT has a
lane in service (R451). -/
def liveAllowed (s : State) : Bool :=
  s.twin.active && (ownId s).isSome && !Nat.beq (s.nat O.rootId) 0xFFFF && portUp s (s.nat O.rootPort)

/-- Put a skein for launch on ROOT_PORT: TT while the trunk cycle is enabled for contents 1 to 3, else BE1 (R319); cut-through
unless R320 asks for store-and-forward. -/
def launchSkein (s : State) (live : Bool) (h : SkeinHead) (payload : Bytes) : State :=
  let p := s.nat O.rootPort
  let tt := live && Nat.ble h.content 3 && s.bool O.trunkCycleEnable
  let sf := !live || Nat.beq h.content 4 || storeFwdPort s p
  let b := twineBytes (ownId s) { kind := 1, dest := s.nat O.rootId, cls := if tt then 0 else 2, storeFwd := sf, hops := s.nat O.hopsInit } (skeinBody h payload)
  let f : TxFrame := { cls := if tt then 0 else 4, body := .twine b, cut := !sf }
  if tt then
    let e := s.egress p
    s.setEgress p { e with waiting := e.waiting ++ [f] }
  else enqueue s p f

/-! ### Items of a stream at its position -/

/-- Words of a bobbin from a position on, as instant, interval, word, raw. -/
def wordsFrom (b : Bobbin) (pos : Nat) : List (Nat × Nat × Nat × Bool) :=
  (b.hanks.filter (fun h => !Nat.beq h.kind 3)).flatMap (fun h =>
    (h.words.zipIdx.map (fun x => (h.first + x.2 * h.interval, h.interval, x.1, Nat.beq h.kind 2))).filter (fun x => Nat.ble pos x.1))

/-- Records from a serial number on, in the order written. -/
def recordsFrom (b : Bobbin) (pos : Nat) : List HeldRecord :=
  let l := b.hanks.flatMap (fun h => h.recs.filter (fun r => Nat.ble pos r.serial))
  l.foldl (fun acc r => insertSerial r acc) []
where
  insertSerial (r : HeldRecord) : List HeldRecord → List HeldRecord
    | [] => [r]
    | x :: l => if Nat.blt r.serial x.serial then r :: x :: l else x :: insertSerial r l

/-- The longest head of words that one skein may hold (R316): one kind, one interval, consecutive, at most `cap`; and
whether items follow that close it (R319). -/
def takeWords (cap : Nat) : List (Nat × Nat × Nat × Bool) → List (Nat × Nat × Nat × Bool) × Bool
  | [] => ([], false)
  | x :: l => if cap = 0 then ([], true) else go (cap - 1) x [x] l
where
  go : Nat → Nat × Nat × Nat × Bool → List (Nat × Nat × Nat × Bool) → List (Nat × Nat × Nat × Bool) → List (Nat × Nat × Nat × Bool) × Bool
    | _, _, acc, [] => (acc.reverse, false)
    | 0, _, acc, _ :: _ => (acc.reverse, true)
    | n + 1, x, acc, y :: l =>
      if Nat.beq y.1 (x.1 + x.2.1) && Nat.beq y.2.1 x.2.1 && (y.2.2.2 == x.2.2.2) then go n y (y :: acc) l
      else (acc.reverse, true)

/-- The head of records whose bytes fit a payload, never splitting one (R316). -/
def takeRecords (room : Nat) : List HeldRecord → List HeldRecord × Bool
  | [] => ([], false)
  | r :: l =>
    if Nat.ble r.bytes.length room then
      let t := takeRecords (room - r.bytes.length) l
      (r :: t.1, t.2)
    else ([], true)

/-- Instants from which a channel's words are not yet evaluated by its spindle: of its feed queue, of words that the queue still has to
make up for, of intervals and of a missed span that wait for recomputation (R241 to R243). -/
def notEvaluated (s : State) (ch : Nat) : List Nat :=
  let f := Map.getD s.spin.feeds (ch / 32) {}
  let c := Map.getD s.spin.red ch {}
  let late := s.spin.late.filterMap (fun x => match x.slub with
    | some (_, c, t, _) => if Nat.beq c ch then some t else none
    | none => none)
  ((f.entries ++ f.missing.map (·.1)).filter (fun e => Nat.beq e.ch ch)).map (·.t) ++ (c.redo.map (·.start)).toList
    ++ (c.unev.map (·.1)).toList ++ late

/-- COMPLETE_TO of a record stream (R318): grid time now, the channel's earliest word not yet evaluated by its spindle, the
START of an injected sequence still running on the channel. -/
def recordComplete (s : State) (ch : Nat) : Nat :=
  let w := notEvaluated s ch
  let inj := ((Map.getD s.samp.injRecords (ch / 16) []).filter (fun r => Nat.beq r.channel ch)).map (·.start.start)
  (w ++ inj).foldl min s.now

/-- Send one live skein of words from the stream's position. -/
def sendWordSkein (s : State) (ch : Nat) (ws : List (Nat × Nat × Nat × Bool)) : State :=
  match ws with
  | [] => s
  | x :: _ =>
    let m := s.stream (2 * ch)
    let next := x.1 + ws.length * x.2.1
    let raw := x.2.2.2
    let h : SkeinHead := { chan := ch, content := if raw then 2 else 1, resume := m.resume, seq := m.seq, count := ws.length,
                           first := x.1, interval := x.2.1, complete := next }
    let s := launchSkein s true h (ws.flatMap (fun w => be (if raw then 2 else 4) w.2.2.1))
    let more := !(wordsFrom (s.bobbin ch) next).isEmpty
    let s := s.setStream (2 * ch) { pos := next, seq := (m.seq + 1) % 2 ^ 32, resume := false, since := if more then some s.now else none }
    (s.put O.liveSentTo ch next).put O.liveSeq ch m.seq

/-- Send one live skein of records. -/
def sendRecordSkein (s : State) (ch : Nat) (rs : List HeldRecord) : State :=
  match rs with
  | [] => s
  | x :: _ =>
    let m := s.stream (2 * ch + 1)
    let next := (rs.getLastD x).serial + 1
    let bytes := rs.flatMap (·.bytes)
    let h : SkeinHead := { chan := ch, content := 3, resume := m.resume, seq := m.seq, count := bytes.length, first := x.key,
                           complete := recordComplete s ch }
    let s := launchSkein s true h bytes
    let more := !(recordsFrom (s.bobbin ch) next).isEmpty
    s.setStream (2 * ch + 1) { pos := next, seq := (m.seq + 1) % 2 ^ 32, resume := false, since := if more then some s.now else none }

/-- Words that one live skein may hold: payload at most 4 * SKEIN_WORDS bytes and 2,048 words (R316, R319). -/
def skeinCap (st : Store) (raw : Bool) : Nat := min 2048 (4 * st.nat O.skeinWords / (if raw then 2 else 4))

/-- The next closed or, with `all`, open skein of a channel's word stream (R319). -/
def nextWords (s : State) (ch : Nat) (all : Bool) : List (Nat × Nat × Nat × Bool) :=
  let ws := wordsFrom (s.bobbin ch) (s.stream (2 * ch)).pos
  let r := takeWords (skeinCap s.objs (match ws with | x :: _ => x.2.2.2 | [] => false)) ws
  if all || r.2 then r.1 else []

/-- The same of a record stream. -/
def nextRecords (s : State) (ch : Nat) (all : Bool) : List HeldRecord :=
  let r := takeRecords (4 * s.nat O.skeinWords) (recordsFrom (s.bobbin ch) (s.stream (2 * ch + 1)).pos)
  if all || r.2 then r.1 else []

/-- Close and launch the full skeins of a channel; with `allW` the open word skein too, with `allR` the open record skein (R319). -/
def closeSkeins (ch : Nat) (allW allR : Bool) : Nat → State → State
  | 0, s => s
  | fuel + 1, s =>
    if !liveAllowed s then s else
    let w := nextWords s ch allW
    let r := nextRecords s ch allR
    if w.isEmpty && r.isEmpty then s
    else closeSkeins ch allW allR fuel (sendRecordSkein (sendWordSkein s ch w) ch r)

/-- Fuel for a channel's backlog. -/
def skeinFuel (s : State) (ch : Nat) : Nat :=
  let b := s.bobbin ch
  (b.hanks.map (fun h => h.words.length + h.recs.length)).sum + 1

/-- Close what a write has filled. -/
def closeFull (s : State) (ch : Nat) : State := closeSkeins ch false false (skeinFuel s ch) s

/-- Close all skeins of a channel: its bobbin is disabled, or it ends at a re-epoch (R319). -/
def closeAll (s : State) (ch : Nat) : State := closeSkeins ch true true (skeinFuel s ch) s

/-- The stream's oldest item has waited SKEIN_AGE (R319). -/
def aged (s : State) (id : Nat) : Bool := match (s.stream id).since with
  | some t => Nat.ble (t + s.nat O.skeinAge * msTicks) s.now
  | none => false

/-- What a channel's bobbin holds unsent is launched as far as R319 closes it. -/
def launchBacklog (s : State) (ch : Nat) : State := closeSkeins ch (aged s (2 * ch)) (aged s (2 * ch + 1)) (skeinFuel s ch) s

/-- The first output instant after a wake writes the channel's SLEEP gap record, from T_s to that instant (R432). -/
def sleepGap (s : State) (ch t : Nat) : State :=
  if !s.pwr.sleepGaps.contains ch then s else
  let t0 := s.nat O.sleepEntry
  let b := s.bobbin ch
  let s : State := { s with pwr := { s.pwr with sleepGaps := s.pwr.sleepGaps.erase ch } }
  let s := settleBobbin s ch b (b.writeGap (writerCtx s ch) ⟨7, 1, t0, t, some t⟩) 1
  ((s.bump O.gapTotal).bump O.gapCount ch).ev Ev.gapWritten 7 (be 2 ch ++ be 8 t0)

/-- A word is committed, and full skeins close. -/
def commitWord (s : State) (ch kind t interval word : Nat) : State := closeFull (bobWord (sleepGap s ch t) ch kind t interval word) ch

/-- A record is committed. -/
def commitRecord (s : State) (ch key : Nat) (bytes : Bytes) : State := closeFull (bobRecord s ch key bytes) ch

/-! ### Capture streams (R317, R319, R321) -/

/-- Capture skeins of a reel: up to 8,192 bytes each, in offset order (R319). -/
def captureChunks (r : Nat) (id : Nat) (b : Bytes) : Nat → Nat → State → State
  | 0, _, s => s
  | fuel + 1, off, s =>
    if Nat.ble b.length off then s else
    let piece := slice b off 8192
    let m := s.stream (1024 + r)
    let h : SkeinHead := { chan := r, content := 4, resume := m.resume, seq := m.seq, count := piece.length,
                           last := Nat.ble b.length (off + 8192), first := id * 4294967296, interval := off }
    let s := launchSkein s true h piece
    captureChunks r id b fuel (off + 8192) (s.setStream (1024 + r) { m with seq := (m.seq + 1) % 2 ^ 32, resume := false })

/-- Reel `r`. -/
def State.reel (s : State) (r : Nat) : Reel := Map.getD s.trig.reels r {}
/-- Replace it. -/
def State.setReel (s : State) (r : Nat) (v : Reel) : State := { s with trig := { s.trig with reels := Map.set s.trig.reels r v } }

/-- Send what a reel's held captures have not sent yet, when REEL_SEND is TRUE (R222, R317). -/
def sendCaptures (s : State) (r : Nat) : State :=
  if !s.bool O.reelSend r || !liveAllowed s then s else
  let todo := (s.reel r).held.filter (fun c => Nat.blt c.sent c.bytes.length)
  let s := s.each todo (fun s c => captureChunks r c.id c.bytes (c.bytes.length / 8192 + 1) c.sent s)
  s.setReel r { s.reel r with held := (s.reel r).held.map (fun c => { c with sent := c.bytes.length }) }

/-! ### The stream of a capture-assembly job (R382, R383) -/

/-- Change the root's state. -/
def State.setRoot (s : State) (f : RootState → RootState) : State := { s with root := f s.root }

/-- Send what the stream holds: skeins of 8,192 bytes, a shorter one only at its end, never more than 32 MiB
unacknowledged (R383), and nothing while port 20 has no lane in service (R451). -/
def pumpStream : Nat → State → State
  | 0, s => s
  | fuel + 1, s =>
    match s.root.retro with
    | none => s
    | some j =>
      let rest := j.acked + j.stream.length - j.sent
      let n := min 8192 rest
      if Nat.beq n 0 || (!j.ended && Nat.blt n 8192) || Nat.blt 33554432 (j.sent + n - j.acked) || !portUp s 20 then s else
      let final := j.ended && Nat.beq n rest
      let h : SkeinHead := { chan := 0, content := 4, window := true, last := final, seq := j.seq, reqId := j.id, count := n, interval := j.sent }
      let body := skeinBody h (slice j.stream (j.sent - j.acked) n)
      let body := patch body 16 8 (j.id * 2 ^ 32)
      let b := twineBytes (ownId s) { kind := 1, dest := s.nat O.retroDest, cls := 2, storeFwd := true, hops := s.nat O.hopsInit } body
      let s := enqueue s 20 { cls := 4, body := .twine b }
      let s := s.put O.retroSent 0 (j.sent + n)
      pumpStream fuel (s.setRoot (fun r => { r with retro := some { j with sent := j.sent + n, seq := j.seq + 1 } }))

/-- Run the stream as far as it goes. -/
def pump (s : State) : State :=
  match s.root.retro with
  | some j => pumpStream (j.stream.length / 8192 + 2) s
  | none => s

/-- The trunk reader may send again, by a root, a port or a lane that it had to wait for: what waits in the bobbins and reels goes
out (R317, R319, R451). -/
def trunkReader (s : State) : State :=
  let s := pump s
  if !liveAllowed s then s else (s.each (s.bob.bobbins.map (·.1)) launchBacklog).each (List.range 16) sendCaptures

/-! ### SKEIN_AGE_EXPIRY and TRANSMIT_UNDERRUN -/

/-- SKEIN_AGE_EXPIRY: the stream's oldest item was committed SKEIN_AGE ago, and the skein closes (R319). Streams 0 to 1023
are channels' word and record streams. -/
def execSkeinAgeExpiry (id : Fin 1024) (s : State) : Out :=
  match (s.stream id).since with
  | none => .next s
  | some t0 =>
    let s := s.advance (t0 + s.nat O.skeinAge * msTicks)
    let ch := id.val / 2
    if !liveAllowed s then .next s
    else if Nat.beq (id.val % 2) 0 then .next (sendWordSkein s ch (nextWords s ch true))
    else .next (sendRecordSkein s ch (nextRecords s ch true))

/-- TRANSMIT_UNDERRUN: the frame on the lane ends with an inverted FCS; the same range goes out again with the same SEQ,
store-and-forward, in the next possible window (R320). A skein of at most CT_THRESHOLD bytes is all in the buffer when it starts. -/
def execTransmitUnderrun (l : Fin 24) (s : State) : Out :=
  let p := portOf l
  let e := s.egress p
  match Map.find? e.line l with
  | some f =>
    match f.body with
    | .twine b =>
      if f.cut && Nat.beq (hKind b) 1 && Nat.blt (s.nat O.ctThreshold) f.body.frameBytes then
        let b := patch b 10 1 (128 + field b 10 1 % 128)
        let b := b.take (b.length - 4)
        let g : TxFrame := { f with cut := false, lane := none, body := .twine (b ++ be 4 (twineCrc b)) }
        let s := s.setEgress p { e with line := Map.erase e.line l }
        let e := s.egress p
        let s := if f.cls = 0 then s.setEgress p { e with waiting := g :: e.waiting } else s.setEgress p { e with queue := g :: e.queue }
        .next (s.bump O.underrunCount)
      else .next s
    | .ptp .. => .next s
  | none => .next s

/-! ### Answers to RETX and RETRO (R322, R323) -/

/-- One skein of an answer: header fields and payload. -/
structure AnswerSkein where
  head : SkeinHead
  payload : Bytes
  deriving DecidableEq, Repr

/-- Word skeins of an answer: COMPLETE_TO is the last instant plus INTERVAL, and the window's end on the last. -/
def wordAnswers (ch req t2 : Nat) (retro : Bool) : Nat → List (Nat × Nat × Nat × Bool) → List AnswerSkein
  | 0, _ => []
  | _, [] => []
  | fuel + 1, x :: l =>
    let r := takeWords 2048 (x :: l)
    let rest := (x :: l).drop r.1.length
    let raw := x.2.2.2
    let next := x.1 + r.1.length * x.2.1
    { head := { chan := ch, content := if raw then 2 else 1, retransmit := !retro, window := retro, seq := 0, reqId := req,
                count := r.1.length, first := x.1, interval := x.2.1, complete := if rest.isEmpty then t2 else next },
      payload := r.1.flatMap (fun w => be (if raw then 2 else 4) w.2.2.1) } :: wordAnswers ch req t2 retro fuel rest

/-- Records of an answer that fit one skein. -/
def takeItems (room : Nat) : List AnsItem → List AnsItem × List AnsItem
  | .record k n b :: l =>
    if Nat.ble b.length room then let t := takeItems (room - b.length) l; (.record k n b :: t.1, t.2) else ([], .record k n b :: l)
  | l => ([], l)

/-- Bytes of a record item. -/
def AnsItem.bytes : AnsItem → Bytes
  | .record _ _ b => b
  | .word .. => []

/-- Key of the first record of a skein, Table 16.3. -/
def AnsItem.key : AnsItem → Nat
  | .record k _ _ => k
  | .word t .. => t

/-- Record skeins of an answer: COMPLETE_TO is the place of the next skein's first record, and the window's end on the last. -/
def recordAnswers (ch req t2 : Nat) (retro : Bool) : Nat → List AnsItem → List AnswerSkein
  | 0, _ => []
  | _, [] => []
  | fuel + 1, x :: l =>
    let r := takeItems 8192 (x :: l)
    let bytes := r.1.flatMap (·.bytes)
    { head := { chan := ch, content := 3, retransmit := !retro, window := retro, seq := 0, reqId := req, count := bytes.length,
                first := x.key, complete := match r.2 with | y :: _ => y.place.1 | [] => t2 },
      payload := bytes } :: recordAnswers ch req t2 retro fuel (if r.1.isEmpty then l else r.2)

/-- Number the skeins of an answer and mark the last one; an empty answer is one skein with COUNT 0. -/
def numberAnswers (ch req t2 : Nat) (retro : Bool) (l : List AnswerSkein) : List AnswerSkein :=
  let l := if l.isEmpty then [{ head := { chan := ch, content := 1, retransmit := !retro, window := retro, seq := 0, reqId := req, count := 0, complete := t2 }, payload := [] }] else l
  l.zipIdx.map (fun x => { x.1 with head := { x.1.head with seq := x.2, last := Nat.beq (x.2 + 1) l.length } })

/-- A channel's answer over a window (R322). -/
def channelAnswer (s : State) (ch req : Nat) (words recs : Bool) (t1 t2 : Nat) (retro : Bool) : List AnswerSkein :=
  let items := answerItems (s.bobbin ch) ch words recs t1 t2 s.now
  let ws := items.filterMap (fun i => match i with | .word t iv w r => some (t, iv, w, r) | .record .. => none)
  let rs := items.filter (fun i => match i with | .word .. => false | .record .. => true)
  numberAnswers ch req t2 retro (wordAnswers ch req t2 retro ws.length ws ++ recordAnswers ch req t2 retro rs.length rs)

/-- Send an answer: BE1, store-and-forward (R322); an unassigned hub and a standby send no SKEIN (R311, R364). -/
def sendAnswer (s : State) (l : List AnswerSkein) : State := if (ownId s).isNone || !s.twin.active then s else s.each l (fun s a => launchSkein s false a.head a.payload)

/-! ### Live admission (R325) -/

/-- Largest live skein on the line. -/
def skeinMax (st : Store) : Nat := 98 + 4 * st.nat O.skeinWords

/-- Tenths of Gbit/s of a port's lanes at MAX_SPEED. -/
def portRate (st : Store) (p : Nat) : Nat := ((lanesOf p).map (fun l => rateTenths (st.nat O.maxSpeed l))).sum

/-- C of R325, times 160,000: sum over the OWN windows of LENGTH * 1.5625 ns * V / 8 - S_max, in bytes. -/
def liveCapacity (st : Store) : Int :=
  let p := st.nat O.rootPort
  (((windowsOf st p).filter (fun w => !w.fwd)).map (fun w =>
    (w.len : Int) * 3125 * portRate st p - skeinMax st * 160000)).sum

/-- An OWN window is shorter than S_max on the line. -/
def windowTooShort (st : Store) : Bool :=
  let p := st.nat O.rootPort
  ((windowsOf st p).filter (fun w => !w.fwd)).any (fun w =>
    Nat.blt (w.len * 3125 * portRate st p) (skeinMax st * 160000))

end Sys2Proof.Machine
end

