-- ==== Sys2Proof/Machine/Trigger.lean ====
section
/-! DEFINITION. Watch comparators, trigger units, reels and mask sets (11_triggers_reels.md, R207 to R227). -/

namespace Sys2Proof.Machine

namespace State

/-- Trigger unit `u`, mask set `m`. -/
def unit (s : State) (u : Nat) : TrigUnit := Map.getD s.trig.units u {}
def setUnit (s : State) (u : Nat) (v : TrigUnit) : State := { s with trig := { s.trig with units := Map.set s.trig.units u v } }
def mask (s : State) (m : Nat) : MaskSet := Map.getD s.trig.masks m {}
def setMask (s : State) (m : Nat) (v : MaskSet) : State := { s with trig := { s.trig with masks := Map.set s.trig.masks m v } }

end State

/-! ### Settings by instant (R12, R21) -/

/-- Settings that a word or an event is judged by after its instant: of comparators, trigger units, reels and mask sets, INJ_SOURCE and
OPEN_HOLD. -/
def instantKey (key : Nat) : Bool :=
  let idx := key / 256
  let area := fun (r : Ref) (n : Nat) => Nat.beq (key % 256) (r.key % 256) && Nat.ble (r.key / 256) idx && Nat.blt idx (r.key / 256 + n)
  (Nat.ble 0x4200 idx && Nat.blt idx 0x4220) || (Nat.ble 0x5000 idx && Nat.blt idx 0x5040) || (Nat.ble 0x5100 idx && Nat.blt idx 0x5110) ||
    (Nat.ble 0x5400 idx && Nat.blt idx 0x5410) || area O.injSource 32 || area O.openHold 512

/-- Undo one change. -/
def PastSetting.undo (p : PastSetting) (st : Store) : Store :=
  match p.old with
  | some v => st.put p.key v
  | none => Map.erase st p.key

/-- The settings in force at the instant `t`. -/
def State.objsAt (s : State) (t : Nat) : Store := (s.trig.past.filter (fun p => Nat.blt t p.t0)).foldr PastSetting.undo s.objs

/-- Settings written at `t0` are remembered as they were. -/
def notePast (before : Store) (t0 : Nat) (keys : List Nat) (s : State) : State :=
  let l := (keys.filter instantKey).map (fun k => ⟨k, t0, Map.find? before k⟩)
  { s with trig := { s.trig with past := s.trig.past ++ l } }

/-- The least instant that anything still on its way to the consumers can have: words before it are judged, and edges are stamped
within 256 ticks (R207). -/
def oldestPending (s : State) : Nat :=
  let holds := s.samp.holds.map (fun g => match g with | .hold h => h.t | .change .. => s.now)
  let queue := s.draft.queue.map (fun g => match g with | .sample t .. => t | .change .. => s.now)
  let feeds := s.spin.feeds.flatMap (fun f => f.2.entries.map (·.t) ++ f.2.missing.map (·.1.t))
  let red := s.spin.red.filterMap (fun c => c.2.unev.map (·.1))
  (holds ++ queue ++ s.draft.delay.flatMap (fun d => d.2.map (·.t)) ++ feeds ++ red ++ (if s.spin.restarting then [s.spin.downSince] else [])).foldl
    min (s.now - 2 * 256)

/-! ### Reels (R216 to R222) -/

/-- Selected channels of a reel, ascending. -/
def reelChannelsOf (st : Store) (r : Nat) : List Nat :=
  ((List.range 32).filter (fun i => bitOf (st.nat O.reelChannels r) i)).map (fun i => 32 * r + i)

/-- Bytes of a word in the reel's format. -/
def reelWidth (st : Store) (r : Nat) : Nat := if Nat.beq (st.nat O.reelFormat r) 0 then 2 else 4

/-- Words a ring holds per channel (R216); half the SRAM in segmented mode (R220). -/
def reelDepth (st : Store) (r : Nat) : Nat :=
  (if Nat.beq (st.nat O.reelMode r) 3 then 524288 else 1048576) / max ((reelChannelsOf st r).length * reelWidth st r) 1

/-- Capture size of R218. -/
def captureSize (st : Store) (r : Nat) : Nat :=
  let n := (reelChannelsOf st r).length
  st.nat O.segments r * (32 + 32 * n + (st.nat O.preCount r + st.nat O.postCount r) * n * reelWidth st r)

/-- REARM_EFF (R220). -/
def rearmEffOf (st : Store) (r : Nat) : Nat :=
  max (st.nat O.rearm r) (ceilDiv (16 * (st.nat O.preCount r * (reelChannelsOf st r).length * reelWidth st r)) 100)

/-- The allocation has room for a whole capture or segment set (R220). -/
def reelRoom (s : State) (r : Nat) : Bool :=
  Nat.ble (((s.reel r).held.map (·.bytes.length)).sum + captureSize s.objs r) (s.nat O.reelAlloc r * 1048576)

/-- Arm at an instant, or wait for room (R220). -/
def armReel (s : State) (r at_ : Nat) (newSet : Bool) : State :=
  let x := s.reel r
  let keep := x.words.map (fun p => (p.1, p.2.filter (fun w => Nat.ble at_ w.1)))
  if newSet && !reelRoom s r then s.setReel r { x with arm := none, rearmAt := none, restartDue := false, noSpace := true, words := [] }
  else s.setReel r { x with arm := some at_, rearmAt := none, restartDue := false, noSpace := false, words := keep,
                            seg := if newSet then 0 else x.seg, segTrig := if newSet then [] else x.segTrig }

/-- Interval of a channel's words in a capture (Table 11.6). -/
def captureInterval (s : State) (r ch : Nat) : Nat :=
  match Map.find? s.draft.plans ch with
  | some p => if Nat.beq (s.nat O.reelFormat r) 0 then p.delta else p.delta * p.profile.m
  | none => 0

/-- Post-trigger words of one channel after which a slub at `v` ends the capture: those before `v`, and the first `tail` words of the
channel at or after `v` (R225). -/
def slubLimit (before after : List (Nat × Nat)) (x : Nat × Nat) : Nat :=
  (after.filter (fun w => Nat.blt w.1 x.1)).length + (x.2 - (before.filter (fun w => Nat.ble x.1 w.1)).length)

/-- The words of one channel that a capture keeps: pre-trigger and post-trigger (R217, R225). -/
def captureWords (pre : Nat) (c : Capture) (ws : List (Nat × Nat)) : List (Nat × Nat) × List (Nat × Nat) :=
  let before := ws.filter (fun w => Nat.blt (w.1 * 65536) c.ev.fine && Nat.ble c.arm w.1)
  let after := ws.filter (fun w => Nat.ble c.ev.fine (w.1 * 65536))
  (before.drop (before.length - pre), after.take ((c.stops.map (slubLimit before after)).foldl min c.post))

/-- One channel has all the post-trigger words of a capture (R217, R225). -/
def channelDone (c : Capture) (ws : List (Nat × Nat)) : Bool :=
  Nat.ble c.post (ws.filter (fun w => Nat.ble c.ev.fine (w.1 * 65536))).length ||
    c.stops.any (fun x => Nat.ble x.2 (ws.filter (fun w => Nat.ble x.1 w.1 && Nat.ble c.arm w.1)).length)

/-- A capture's record: header, descriptors, words (Tables 11.5, 11.6). -/
def captureBytes (s : State) (r id : Nat) (c : Capture) (aborted : Bool) : Bytes × Bool :=
  let chs := reelChannelsOf s.objs r
  let w := reelWidth s.objs r
  let pre := s.nat O.preCount r
  let parts := chs.map (fun ch => (ch, captureWords pre c (Map.getD (s.reel r).words ch [])))
  let short := parts.any (fun p => Nat.blt p.2.1.length pre)
  let flags := 128 * b2n short + 64 * b2n c.ev.late + 32 * b2n c.maskStop + 16 * b2n c.segmented
    + 8 * s.nat O.reelFormat r + 4 * b2n aborted + 2 * b2n c.ev.coarse
  let head := be 1 0x22 ++ be 1 r ++ be 1 flags ++ be 1 chs.length ++ be 1 c.seg ++ be 1 0 ++ be 2 c.unit
    ++ be 8 (c.ev.fine / 65536) ++ be 2 (c.ev.fine % 65536) ++ be 2 0 ++ be 4 id ++ be 8 c.arm
  let desc := parts.flatMap (fun p =>
    be 2 p.1 ++ be 2 0 ++ be 4 p.2.1.length ++ be 4 p.2.2.length ++ be 4 0
      ++ be 8 (((p.2.1 ++ p.2.2).map (·.1)).headD 0) ++ be 8 (Map.getD c.intervals p.1 0))
  (head ++ desc ++ parts.flatMap (fun p => (p.2.1 ++ p.2.2).flatMap (fun x => be w x.2)), short)

/-- Instant of a capture's last post-trigger word. -/
def lastPost (s : State) (r : Nat) (c : Capture) : Nat :=
  (reelChannelsOf s.objs r).foldl (fun m ch =>
    max m (((captureWords 0 c (Map.getD (s.reel r).words ch [])).2.map (·.1)).getLastD 0)) (c.ev.fine / 65536)

/-- When a reel whose capture ends at `last` arms again, and the miss reason until then (R220). -/
def nextArm (s : State) (r : Nat) (c : Capture) (last : Nat) : Option (Nat × Nat) :=
  let eff := s.nat O.rearmEff r
  let mode := s.nat O.reelMode r
  if mode = 3 ∧ c.seg + 1 < s.nat O.segments r then
    some (match (s.reel r).segTrig.head? with | some t => max last (t + eff) | none => last, 4)
  else if mode = 2 ∨ mode = 3 then some (last + eff, 2)
  else none

/-- After a capture: what the mode does next (R220). -/
def afterCapture (s : State) (r last : Nat) (c : Capture) : State :=
  let x := s.reel r
  let more := Nat.beq (s.nat O.reelMode r) 3 && Nat.blt (c.seg + 1) (s.nat O.segments r)
  let cut := x.words.map (fun p => (p.1, p.2.filter (fun w => Nat.blt last w.1)))
  match nextArm s r c last with
  | none => s.setReel r { x with capture := none, arm := none, words := [], prior := some (c.ev.fine, last, 2) }
  | some (a, w) =>
    let x := { x with capture := none, arm := none, words := cut, prior := some (c.ev.fine, last, w), rearmAt := some (a, w),
                      seg := if more then c.seg + 1 else 0, segTrig := if more then ((c.ev.fine / 65536) :: x.segTrig).take 2 else [] }
    if Nat.ble a last then armReel (s.setReel r x) r last false else s.setReel r x

/-- Capture ids count captures since the last full reset; the number of the first is not stated (assumption log, entry 14). -/
def captureId (count : Nat) : Nat := (Config.captureIdBase + count) % 2 ^ 32

/-- Store a capture, complete or ended early (R217, R221, R222). -/
def finishCapture (s : State) (r : Nat) (aborted : Bool) : State :=
  match (s.reel r).capture with
  | none => s
  | some c =>
    let x := s.reel r
    let id := captureId x.count
    let b := (captureBytes s r id c aborted).1
    let last := lastPost s r c
    let s := s.setReel r { x with count := x.count + 1, held := x.held ++ [{ id := id, bytes := b }] }
    sendCaptures (afterCapture (s.bump O.captureCount r) r last c) r

/-- Every selected channel holds its post-trigger words (R217). -/
def captureDone (s : State) (r : Nat) (c : Capture) : Bool :=
  (reelChannelsOf s.objs r).all (fun ch => channelDone c (Map.getD (s.reel r).words ch []))

/-- The first instant at or after `lo` of a channel's words in a reel's format: raw words at each sample, output words at each
output instant. -/
def firstInstant (p : Plan) (raw : Bool) (lo : Nat) : Nat :=
  let step := max (if raw then p.delta else p.delta * p.profile.m) 1
  let off := if raw then p.d % step else p.anchor % step + (if p.align then 0 else p.d)
  if Nat.ble lo off then off else off + ceilDiv (lo - off) step * step

/-- The instant of a channel's last post-trigger word, when the channel has a plan (R217, R225). -/
def channelEnd (s : State) (r : Nat) (c : Capture) (ch : Nat) : Option Nat :=
  (Map.find? s.draft.plans ch).map (fun p =>
    let raw := Nat.beq (s.nat O.reelFormat r) 0
    let step := if raw then p.delta else p.delta * p.profile.m
    (c.stops.map (fun x => firstInstant p raw (max x.1 c.arm) + (x.2 - 1) * step)).foldl min
      (firstInstant p raw (ceilDiv c.ev.fine 65536) + (c.post - 1) * step))

/-- The instant of the capture's last post-trigger word, known from the plans before it arrives (R216, R220). -/
def plannedEnd (s : State) (r : Nat) (c : Capture) : Option Nat :=
  (reelChannelsOf s.objs r).foldl (fun m ch => match m, channelEnd s r c ch with
    | some a, some b => some (max a b)
    | _, _ => none) (some 0)

/-- The reason of a miss that falls into the last capture or between it and the next arm (Table 11.4). -/
def priorReason (x : Reel) (fine : Nat) : Option Nat :=
  match x.prior with
  | some (trig, last, w) => if Nat.blt fine trig then none else some (if Nat.ble fine (last * 65536) then 1 else w)
  | none => none

/-- An event that the reel does not capture (R219); a reason the table does not give is a free value. -/
def missEvent (s : State) (r unit : Nat) (ev : TrigEvent) : State :=
  if Nat.beq (s.nat O.reelMode r) 0 then s else
  let x := s.reel r
  let f := s.freshNat
  let due := match x.rearmAt with | some (a, _) => (s.spin.restarting || x.restartDue) && Nat.ble (a * 65536) ev.fine | none => false
  let why :=
    if x.capture.isSome then (1, s)
    else if due then (5, s)
    else match priorReason x ev.fine, x.rearmAt with
      | some 1, _ => (1, s)
      | _, some (_, w) => (w, s)
      | some w, none => if x.noSpace then (3, s) else if x.arm.isSome then (w, s) else (f.1 % 256, f.2)
      | none, none => if x.noSpace then (3, s) else (f.1 % 256, f.2)
  let l := x.misses ++ [⟨ev, unit, why.1⟩]
  (why.2.setReel r { x with misses := l.drop (l.length - 64) }).bump O.missCount r

/-- Whether the event lies after the running capture's last word, or after the instant at which the reel is due to arm: it is judged
when the capture is complete or the reel has armed (R216). -/
def judgedLater (s : State) (r : Nat) (fine : Nat) : Bool :=
  let x := s.reel r
  match x.capture, x.arm, x.rearmAt with
  | some c, _, _ => match plannedEnd s r c with | some e => Nat.blt (e * 65536) fine | none => false
  | none, none, some (a, _) => Nat.ble (a * 65536) fine && !s.spin.restarting && !x.restartDue
  | _, _, _ => false

/-- Trigger a reel: an event at or after the arm instant starts a capture; another event is missed, a slub does nothing (R217, R219,
R225). -/
def triggerReel (s : State) (r unit : Nat) (ev : TrigEvent) (post : Nat) (maskStop : Bool) : State :=
  let x := s.reel r
  if judgedLater s r ev.fine then s.setReel r { x with later := x.later ++ [⟨unit, ev, post, maskStop⟩] }
  else match x.capture, x.arm with
    | none, some a =>
      if Nat.blt ev.fine (a * 65536) then (if maskStop then s else missEvent s r unit ev) else
      let c : Capture :=
        { unit := unit, ev := ev, arm := a, seg := x.seg, post := post, maskStop := maskStop,
          intervals := (reelChannelsOf s.objs r).map (fun ch => (ch, captureInterval s r ch)), segmented := Nat.beq (s.nat O.reelMode r) 3 }
      let s := s.setReel r { x with capture := some c, arm := none }
      if captureDone s r c then finishCapture s r false else s
    | _, _ => if maskStop then s else missEvent s r unit ev

/-- Judge the events that waited for the reel (R216). -/
def reelLater (r : Nat) : Nat → State → State
  | 0, s => s
  | fuel + 1, s =>
    match (s.reel r).later with
    | [] => s
    | e :: l =>
      if judgedLater s r e.ev.fine then s
      else reelLater r fuel (triggerReel (s.setReel r { s.reel r with later := l }) r e.unit e.ev e.post e.maskStop)

/-- A reel's state has changed: events that waited for it are judged. -/
def reelSettled (s : State) (r : Nat) : State := reelLater r (s.reel r).later.length s

/-- A word of a selected channel reaches its reel: it belongs to the capture, or to the arm, that holds its instant (R216, R217). -/
def reelWord (s : State) (r ch t word : Nat) : State :=
  let x := s.reel r
  if !(reelChannelsOf s.objs r).contains ch || Nat.blt t (Map.getD x.since ch 0) then s else
  let l := Map.getD x.words ch [] ++ [(t, word)]
  match x.capture with
  | some c =>
    let s := s.setReel r { x with words := Map.set x.words ch l }
    if captureDone s r c then reelSettled (finishCapture s r false) r else s
  | none =>
    match x.arm.orElse (fun _ => x.rearmAt.map (·.1)) with
    | some a => if Nat.blt t a then s else s.setReel r { x with words := Map.set x.words ch (l.drop (l.length - reelDepth s.objs r)) }
    | none => s

/-- REEL_REARM: the re-arm time elapses (R220); a reel that fell due in a core restart waits for the boundary after it. -/
def execReelRearm (r : Fin 16) (s : State) : Out :=
  match (s.reel r).rearmAt with
  | some (a, w) => if s.spin.restarting || (s.reel r).restartDue then .next s else .next (reelSettled (armReel (s.advance a) r a (Nat.beq w 2)) r)
  | none => .next s

/-- A core restart ends at `t`: reels whose re-arm fell due in it wait for the next frame boundary (R220). -/
def rearmMissed (s : State) (t : Nat) : State :=
  s.each (List.range 16) (fun s r => match (s.reel r).rearmAt with
    | some (a, _) => if Nat.ble a t then s.setReel r { s.reel r with restartDue := true } else s
    | none => s)

/-- Those reels re-arm at the first frame boundary after the restart (R220). -/
def rearmDue (s : State) (t : Nat) : State :=
  s.each (List.range 16) (fun s r => match (s.reel r).rearmAt with
    | some (_, w) => if (s.reel r).restartDue then reelSettled (armReel s r t (Nat.beq w 2)) r else s
    | none => s)

/-- REEL_MODE takes effect at `t0` (R220, R221). -/
def reelModeChanged (s : State) (r t0 : Nat) : State :=
  let mode := s.nat O.reelMode r
  if mode = 0 then
    let s := finishCapture s r true
    s.setReel r { s.reel r with arm := none, words := [], rearmAt := none, restartDue := false, noSpace := false, seg := 0, segTrig := [], prior := none, later := [], since := [] }
  else if mode = 1 then s
  else if (s.reel r).arm.isNone && (s.reel r).capture.isNone then armReel s r t0 true else s

/-- REEL_ARM takes effect at `t0` (R220). -/
def reelArmed (s : State) (r t0 : Nat) : State :=
  if Nat.beq (s.nat O.reelMode r) 1 && (s.reel r).arm.isNone && (s.reel r).capture.isNone then armReel s r t0 true else s

/-- A held capture is freed; a reel that waited for room arms (R220, R222). -/
def freeCapture (s : State) (r id : Nat) : State :=
  let x := s.reel r
  let s := s.setReel r { x with held := x.held.filter (fun c => !Nat.beq c.id id) }
  if x.noSpace && reelRoom s r then armReel s r s.now true else s

/-- REEL_RELEASE frees the oldest held capture when REEL_SEND is FALSE (R222). -/
def releaseReel (s : State) (r : Nat) : State :=
  if s.bool O.reelSend r then s else match (s.reel r).held with
  | c :: _ => freeCapture s r c.id
  | [] => s

/-- A capture entry of a DOFF (R321). -/
def ackCapture (s : State) (r id bytes : Nat) : State :=
  let x := s.reel r
  match x.held.find? (fun c => Nat.beq c.id id) with
  | none => s
  | some c =>
    if Nat.ble bytes c.acked then s
    else if Nat.ble c.bytes.length bytes then freeCapture s r id
    else s.setReel r { x with held := x.held.map (fun d => if Nat.beq d.id id then { d with acked := bytes } else d) }

/-- A change at `t0` that ends the captures of reels that select a channel (R221), `outOnly` for changes that matter to output format
alone; a ring begins anew with the words from `t0` on, so that every word of a capture keeps its INTERVAL (R222). -/
def endCaptures (s : State) (ch t0 : Nat) (outOnly : Bool) : State :=
  let r := ch / 32
  if (reelChannelsOf s.objs r).contains ch && (!outOnly || Nat.beq (s.nat O.reelFormat r) 1) then
    let s := if (s.reel r).capture.isSome then finishCapture s r true else s
    let x := s.reel r
    reelSettled (s.setReel r { x with since := Map.set x.since ch t0, words := Map.set x.words ch ((Map.getD x.words ch []).filter (fun w => Nat.ble t0 w.1)) }) r
  else s

/-- Every capture in progress ends, at a re-epoch or at sleep (R221), and the rings of armed reels begin anew. -/
def endAllCaptures (s : State) : State :=
  s.each (List.range 16) (fun s r =>
    let s := reelSettled (finishCapture s r true) r
    s.setReel r { s.reel r with words := [], since := [], prior := none, later := [] })

/-- REEL_STATE (Table 11.13). -/
def reelStateOf (s : State) (r : Nat) : Nat :=
  let x := s.reel r
  16 * b2n (!x.held.isEmpty) + 8 * b2n x.noSpace + 4 * b2n x.rearmAt.isSome + 2 * b2n x.capture.isSome + b2n x.arm.isSome

/-- MISS_LOG, newest first (Table 11.4). -/
def missLogOf (s : State) (r : Nat) : Bytes :=
  (s.reel r).misses.reverse.flatMap (fun m =>
    be 8 (m.ev.fine / 65536) ++ be 2 (m.ev.fine % 65536) ++ be 2 m.unit ++ be 1 m.reason
      ++ be 1 (128 * b2n m.ev.late + 64 * b2n m.ev.coarse) ++ be 2 0)

/-! ### Trigger units (R210 to R215) -/

/-- Source and selection of a unit. -/
def trigSrc (st : Store) (u : Nat) : Nat := st.nat O.trigSource u
def trigSel (st : Store) (u : Nat) : Nat := st.nat O.trigSelect u

/-- TRIG_EDGE selects an edge (R211). -/
def edgeSelected (st : Store) (u : Nat) (rising : Bool) : Bool :=
  let e := st.nat O.trigEdge u
  Nat.beq e 3 || Nat.beq e (if rising then 1 else 2)

/-- A unit is evaluated by its spindle (R210, Table 11.2); operands are lower units (R211). -/
def spindleUnit (st : Store) : Nat → Nat → Bool
  | 0, _ => false
  | fuel + 1, u =>
    let src := st.nat O.trigSource u
    let sel := st.nat O.trigSelect u
    if src = 4 ∨ src = 6 ∨ src = 7 then true
    else if src = 8 ∨ src = 9 then spindleUnit st fuel (sel / 256) || spindleUnit st fuel (sel % 256)
    else false

/-- A sender's TRIGGER frame (Table 16.8, R214, R328). -/
def sendTrigger (s : State) (u : Nat) (ev : TrigEvent) : State :=
  if (ownId s).isNone then s else
  let body := be 1 u ++ be 1 (128 * b2n ev.late + 64 * b2n ev.coarse) ++ be 2 0 ++ be 4 s.trig.seq ++ be 8 (ev.fine / 65536)
    ++ be 2 (ev.fine % 65536) ++ be 2 0
  let s := { s with trig := { s.trig with seq := (s.trig.seq + 1) % 2 ^ 32 } }
  sendTwine s { kind := 6, bcast := true, cls := 3 } body

/-- Converters whose INJ_SOURCE names this source (Table 5.11). -/
def injSources (st : Store) (code : Nat) : List Nat := (List.range 32).filter (fun c => Nat.beq (st.nat O.injSource c) code)

/-- Breakpoints of an envelope: offset in ticks and bound. -/
def decodeEnvelope (b : Bytes) : List (Int × Int) := (List.range (field b 1 1)).map (fun i => (fieldI b (4 + 16 * i) 8, fieldI b (12 + 16 * i) 4))

/-- First and last offsets of a set's envelopes, in ticks; none without a breakpoint (R223). -/
def maskReach (st : Store) (m : Nat) : Option (Int × Int) :=
  let xs := (decodeEnvelope (st.bytes O.maskUpper m) ++ decodeEnvelope (st.bytes O.maskLower m)).map (·.1)
  match xs with
  | [] => none
  | x :: l => some (l.foldl min x, l.foldl max x)

/-- A span with reference `ref` holds the fine time `f`, up to its last offset (R223). -/
def spanOpen (reach : Option (Int × Int)) (f ref : Nat) : Bool :=
  match reach with
  | some r => Nat.ble ref f && decide ((f : Int) ≤ ref + r.2 * 65536)
  | none => false

/-- An event of MASK_TRIGGER: a span begins, or the event is ignored and counted while one is open (R223). -/
def maskEvent (st : Store) (s : State) (m f : Nat) : State :=
  let y := s.mask m
  let on := fun (ref : Nat) => !y.clears.any (fun c => Nat.blt ref (c * 65536) && Nat.ble (c * 65536) f)
  if y.spans.any (fun ref => on ref && spanOpen (maskReach st m) f ref) then s.bump O.maskRetrig m
  else s.setMask m { y with spans := y.spans ++ [f], todo := y.todo ++ [f] }

/-- What a firing starts: reels, injected sequences, mask spans (R89, R217, R223). -/
def consumers (st : Store) (s : State) (u : Nat) (ev : TrigEvent) : State :=
  let s := s.each (List.range 16) (fun s r =>
    if Nat.beq (st.nat O.reelTrigger r) u && !Nat.beq (st.nat O.reelMode r) 0 then triggerReel s r u ev (st.nat O.postCount r) false else s)
  let late := spindleUnit st 64 u
  let s := s.each (injSources st (256 + u)) (fun s c =>
    let start := if late then injBoundaryNow s.now else injBoundaryFine ev.fine
    injRequest s c ev.fine { cause := 0, source := u, late := late, start := start, queued := false })
  s.each (List.range 16) (fun s m =>
    if Nat.beq (st.nat O.maskMode m) 1 && Nat.beq (st.nat O.maskTrigger m) u then maskEvent st s m ev.fine else s)

/-- An event at `fine` falls into the holdoff after a unit's last firing (R214). -/
def heldOff (st : Store) (x : TrigUnit) (u fine : Nat) : Bool :=
  match x.last with
  | some t => Nat.ble t fine && Nat.blt fine (t + st.nat O.holdoff u * 65536)
  | none => false

/-- An event of a unit's source reaches the unit: held off, or a firing (R214, R215). -/
def unitEvent (st : Store) (s : State) (u : Nat) (ev : TrigEvent) : Bool × State :=
  let x := s.unit u
  if heldOff st x u ev.fine then (false, s.bump O.holdoffCount u)
  else
    let s := s.setUnit u { x with last := some ev.fine }
    let s := ((s.put O.lastTime u ev.fine).bump O.fireCount u).evAt Ev.triggerEvent u (ev.fine / 65536) (ev.fine % 65536)
      (be 1 (128 * b2n ev.late + 64 * b2n ev.coarse))
    let s := if st.bool O.sendRemote u then sendTrigger s u ev else s
    (true, consumers st s u ev)

/-- Pair the earliest unused operand events of an AND unit (R213). -/
def pairEvents (w : Nat) : Nat → List TrigEvent → List TrigEvent → List TrigEvent → List TrigEvent × List TrigEvent × List TrigEvent
  | 0, a, b, f => (a, b, f)
  | n + 1, x :: a, y :: b, f =>
    if Nat.ble (max x.fine y.fine - min x.fine y.fine) (w * 65536) then
      let z := if Nat.ble x.fine y.fine then y else x
      pairEvents w n a b (f ++ [⟨z.fine, x.coarse || y.coarse, x.late || y.late⟩])
    else if Nat.blt x.fine y.fine then pairEvents w n a (y :: b) f else pairEvents w n (x :: a) b f
  | _ + 1, a, b, f => (a, b, f)

/-- What a change of its settings leaves a unit when the instant `t` is taken: nothing gathered before the change counts on (R21). -/
def TrigUnit.settled (x : TrigUnit) (t : Nat) : TrigUnit :=
  let due := x.clears.filter (fun c => Nat.ble c t)
  if due.isEmpty then x
  else
    let c := due.foldl max 0
    let young := fun (e : TrigEvent) => Nat.ble (c * 65536) e.fine
    { x with prev := none, low := false, high := false, evA := x.evA.filter young, evB := x.evB.filter young, recent := [],
             clears := x.clears.filter (fun d => Nat.blt t d) }

/-- Two operand events at one fine time are one event of an OR unit, with COARSE and LATE of both (R213, Table 11.2). -/
def mergeEvents (a b : List TrigEvent) : List TrigEvent :=
  let both := fun (e : TrigEvent) => b.find? (fun d => Nat.beq d.fine e.fine)
  a.map (fun e => match both e with | some d => ⟨e.fine, e.coarse || d.coarse, e.late || d.late⟩ | none => e) ++
    b.filter (fun e => !a.any (fun d => Nat.beq d.fine e.fine))

/-- Events that a combination takes from the units that fired before it in this pass (R213). -/
def combine (st : Store) (s : State) (u t : Nat) (fired : List (Nat × TrigEvent)) : List TrigEvent × State :=
  let sel := trigSel st u
  let evs := fun i => (fired.filter (fun f => Nat.beq f.1 i)).map (·.2)
  let a := evs (sel / 256)
  let b := evs (sel % 256)
  if a.isEmpty && b.isEmpty then ([], s) else
  let x := (s.unit u).settled t
  if Nat.beq (trigSrc st u) 9 then
    let l := (mergeEvents a b).filter (fun e => !x.recent.contains e.fine)
    (l, s.setUnit u { x with recent := (l.map (·.fine) ++ x.recent).take 64 })
  else
    let la := x.evA ++ a
    let lb := x.evB ++ b
    let r := pairEvents (st.nat O.combineWindow u) (la.length + lb.length) la lb []
    (r.2.2, s.setUnit u { x with evA := r.1, evB := r.2.1 })

/-- One unit's turn in a pass: the event it takes from its source, or from its operands. -/
def unitTurn (st : Store) (direct : Nat → Bool) (ev : TrigEvent) (acc : State × List (Nat × TrigEvent)) (u : Nat) :
    State × List (Nat × TrigEvent) :=
  let s := acc.1
  let src := trigSrc st u
  if s.spin.restarting && spindleUnit st 64 u then acc
  else if src = 8 ∨ src = 9 then
    let c := combine st s u (ev.fine / 65536) acc.2
    c.1.foldl (fun a e => let r := unitEvent st a.1 u e; (r.2, if r.1 then a.2 ++ [(u, e)] else a.2)) (c.2, acc.2)
  else if direct u then
    let r := unitEvent st s u ev
    (r.2, if r.1 then acc.2 ++ [(u, ev)] else acc.2)
  else acc

/-- An event goes to every unit that selects it under the settings in force at its instant, in ascending unit number, combinations
after their operands (R21, R215). -/
def firePass (s : State) (direct : Store → Nat → Bool) (ev : TrigEvent) : State :=
  let st := s.objsAt (ev.fine / 65536)
  ((List.range 64).foldl (unitTurn st (direct st) ev) (s, [])).1

/-! ### Mask tests (R223, R224) -/

/-- The bound at an offset in 1/65536 tick, within the first and last breakpoints (R223). -/
def envelopeAt (x : Int) : List (Int × Int) → Option Int
  | [] => none
  | [a] => if x = a.1 * 65536 then some a.2 else none
  | a :: b :: l =>
    if decide (a.1 * 65536 ≤ x) && decide (x ≤ b.1 * 65536) then
      let w := (b.1 - a.1) * 65536
      some (roundDivInt (a.2 * w + (b.2 - a.2) * (x - a.1 * 65536)) w)
    else envelopeAt x (b :: l)

/-- Selected channels of a mask set. -/
def maskSelects (st : Store) (m ch : Nat) : Bool :=
  Nat.beq (ch / 32) (st.nat O.maskSpindle m) && bitOf (st.nat O.maskChannels m) (ch % 32)

/-- The bounds of both envelopes at an offset, where they reach it (R223). -/
def maskBounds (st : Store) (m : Nat) (x : Int) : Option Int × Option Int :=
  (envelopeAt x (decodeEnvelope (st.bytes O.maskUpper m)), envelopeAt x (decodeEnvelope (st.bytes O.maskLower m)))

/-- Whether a value violates, with the bound, the upper envelope first (R224). -/
def maskTest (b : Option Int × Option Int) (v : Int) : Option (Bool × Int) :=
  match b with
  | (some u, lo) =>
    if v > u then some (true, u)
    else match lo with
      | some l => if v < l then some (false, l) else none
      | none => none
  | (none, some l) => if v < l then some (false, l) else none
  | (none, none) => none

/-- A change of MASK_MODE lies between two fine times: a span does not reach over it (R21). -/
def MaskSet.cut (y : MaskSet) (f g : Nat) : Bool := y.clears.any (fun c => Nat.blt (min f g) (c * 65536) && Nat.ble (c * 65536) (max f g))

/-- References of the spans whose envelopes may reach the instant `t`: the spans that events began, or those that begin at the multiples of
MASK_INTERVAL (R223). -/
def maskRefs (st : Store) (y : MaskSet) (m t : Nat) : List Nat :=
  match maskReach st m with
  | none => []
  | some (lo, hi) =>
    if Nat.beq (st.nat O.maskMode m) 1 then
      y.spans.filter (fun ref => !y.cut ref (t * 65536) && decide (ref + lo * 65536 ≤ t * 65536) && decide ((t * 65536 : Int) ≤ ref + hi * 65536))
    else if Nat.beq (st.nat O.maskMode m) 2 then
      let p := max (st.nat O.maskInterval m) 1 * frameTicks
      let first := ceilDiv ((t : Int) - hi).toNat p
      if decide ((t : Int) < lo) then [] else
      (List.range (((t : Int) - lo).toNat / p + 1 - first)).map (fun i => (first + i) * p * 65536)
    else []

/-- A slub record (Table 11.10). -/
def slubBytes (m : Nat) (upper interval reelStopped driven : Bool) (ch t : Nat) (v bound : Int) (ref : Nat) : Bytes :=
  be 1 0x23 ++ be 1 m ++ be 1 (128 * b2n upper + 64 * b2n interval + 32 * b2n reelStopped + 16 * b2n driven) ++ be 1 0 ++ be 2 ch ++ be 2 0
    ++ be 8 t ++ beI 4 v ++ beI 4 bound ++ be 8 (ref / 65536)

/-- What a slub at `t` does to the reel that MASK_REEL names, and whether it did: an armed reel is triggered, a capture ends early (R225).
A reel that captures or re-arms is judged as it will stand at `t`. -/
def slubReel (st : Store) (s : State) (m t : Nat) : Bool × State :=
  let r := st.nat O.maskReel m
  let tail := st.nat O.maskTail m
  if Nat.blt 15 r then (false, s) else
  let x := s.reel r
  let go := fun (_ : Unit) => (true, triggerReel s r (st.nat O.maskTrigger m) ⟨t * 65536, false, false⟩ tail true)
  match x.capture, x.arm with
  | some c, _ =>
    if judgedLater s r (t * 65536) then
      (match (plannedEnd s r c).bind (nextArm s r c) with
       | some (a, _) => if Nat.ble a t then go () else (false, s)
       | none => (false, s))
    else if Nat.blt t c.arm then (false, s)
    else
      let c := { c with stops := c.stops ++ [(t, tail)], maskStop := true }
      let s := s.setReel r { x with capture := some c }
      (true, if captureDone s r c then reelSettled (finishCapture s r false) r else s)
  | none, some a => if Nat.ble a t then go () else (false, s)
  | none, none => if judgedLater s r (t * 65536) then go () else (false, s)

/-- Drive the field output of a slub, while the stages are enabled, the field die has not tripped and no interrupting part loads; a running pulse is only
ever extended (R226, R354, R408, R433). -/
def slubOutput (st : Store) (s : State) (m : Nat) : Bool × State :=
  let o := st.nat O.maskOutput m
  if o = 0 || !s.twin.stages || s.pwr.fieldTrip || s.upd.gapFrom.isSome then (false, s)
  else (true, { s with trig := { s.trig with fio := Map.set s.trig.fio o (max (Map.getD s.trig.fio o 0) (s.now + st.nat O.maskPulse m * usTicks)) } })

/-- A slub record is stored in the channel's bobbin and becomes LAST_SLUB (R224). -/
def storeSlub (s : State) (m ch t : Nat) (b : Bytes) : State := commitRecord (s.putB O.lastSlub m b) ch t b

/-- A word's first violation in a span: its slub record, formed at once, or kept while the spindle has older records to recompute or the
word itself is one that it missed (`live` false), which acts on nothing (R224 to R226, R241). -/
def formSlub (live : Bool) (st : Store) (m ch t : Nat) (v : Int) (s : State) (x : Nat × Bool × Int) : State :=
  let y := s.mask m
  let s := s.setMask m { y with hit := y.hit ++ [(ch, x.1)] }
  let o := if live then slubOutput st s m else (false, s)
  let rl := if live then slubReel st o.2 m t else (false, o.2)
  let s := rl.2
  let b := slubBytes m x.2.1 (Nat.beq (st.nat O.maskMode m) 2) rl.1 o.1 ch t v x.2.2 x.1
  if live && !s.spin.recompute.any (fun k => Nat.beq k.1 (ch / 32)) then storeSlub s m ch t b
  else { s with spin := { s.spin with late := s.spin.late ++ [⟨ch / 32, some (m, ch, t, b), []⟩] } }

/-- A word of one of its channels reaches a mask set and is tested in the spans `refs`; the answer says whether the set's units fire
(R224). -/
def maskWord (live : Bool) (st : Store) (m ch t : Nat) (v : Int) (bad : Bool) (refs : List Nat) (s : State) : Bool × State :=
  let xs := refs.map (fun (ref : Nat) => (ref, maskBounds st m ((t : Int) * 65536 - ref)))
  if bad then (false, if xs.any (fun x => x.2.1.isSome || x.2.2.isSome) then s.bump O.maskSkipped m else s) else
  let viols := xs.filterMap (fun x => (maskTest x.2 v).map (fun r => (x.1, r)))
  if viols.isEmpty then (false, s) else
  let s := s.bump O.maskViolCount m
  let new := viols.filter (fun x => !(s.mask m).hit.contains (ch, x.1))
  (!new.isEmpty, new.foldl (formSlub live st m ch t v) s)

/-- Longest OPEN_HOLD delay of some channels (R56), in ticks. -/
def openDelay (st : Store) (chs : List Nat) : Nat :=
  ((chs.filter (fun ch => st.bool O.openHold ch)).map (fun ch => st.nat O.wbInterval (ch / 16) * frameTicks + (seqOf st (ch / 16)).p * slotTicks)).foldl max 0

/-- How long after its instant an event may reach a mask set in time for the words that it covers (as Table 11.3 has it for reels), and how
far the envelopes reach back. -/
def maskHistory (st : Store) (m : Nat) : Nat :=
  let sp := st.nat O.maskSpindle m
  let back := match maskReach st m with | some r => (-r.1).toNat | none => 0
  back + 1280000 + st.nat O.feedTimeout sp * usTicks + openDelay st (((List.range 32).map (32 * sp + ·)).filter (maskSelects st m))

/-- A trigger-mode set remembers a word for spans whose event has not come yet (R223). -/
def rememberWord (st : Store) (s : State) (m ch t : Nat) (v : Int) (bad : Bool) : State :=
  if Nat.beq (st.nat O.maskMode m) 1 then
    let y := s.mask m
    let keep := (Map.getD y.hist ch []).filter (fun w => Nat.ble t (w.1 + maskHistory st m))
    s.setMask m { y with hist := Map.set y.hist ch (keep ++ [(t, v, bad)]) }
  else s

/-- Mask sets of a channel's spindle take a word, under the settings in force at its instant; the sets whose units fire (R21, R224). -/
def maskWords (live : Bool) (s : State) (ch t : Nat) (v : Int) (bad : Bool) : List Nat × State :=
  let st := s.objsAt t
  (List.range 16).foldl (fun a m =>
    if maskSelects st m ch then
      let r := maskWord live st m ch t v bad (maskRefs st (a.2.mask m) m t) a.2
      (if r.1 then a.1 ++ [m] else a.1, rememberWord st r.2 m ch t v bad)
    else a) ([], s)

/-- The units that a mask set of spindle `sp` fires (R210, R224). -/
def maskUnit (st : Store) (sp : Nat) (ms : List Nat) (u : Nat) : Bool := Nat.beq (trigSrc st u) 7 && ms.contains (trigSel st u) && Nat.beq (u / 4) sp

/-- The words that a set remembers are tested in a span that has just begun: the instants of those that fire, ascending (R223). -/
def maskSpanWords (live : Bool) (s : State) (m ref : Nat) : List Nat × State :=
  let ws := (s.mask m).hist.flatMap (fun h => h.2.map (fun w => (w.1, h.1, w.2.1, w.2.2)))
  (sortBy (fun w => w.1) ws).foldl (fun a w =>
    let st := a.2.objsAt w.1
    let refs := (maskRefs st (a.2.mask m) m w.1).filter (Nat.beq ref)
    let r := maskWord live st m w.2.1 w.1 w.2.2.1 w.2.2.2 refs a.2
    (if r.1 && !a.1.contains w.1 then a.1 ++ [w.1] else a.1, r.2)) ([], s)

/-- Spans that have just begun take the words that came before their event; what those fire may begin further spans. -/
def maskBacklog : Nat → State → State
  | 0, s => s
  | fuel + 1, s =>
    match (List.range 16).find? (fun m => !(s.mask m).todo.isEmpty) with
    | none => s
    | some m =>
      let y := s.mask m
      let s := s.setMask m { y with todo := y.todo.drop 1 }
      let r := maskSpanWords true s m (y.todo.headD 0)
      let sp := s.nat O.maskSpindle m
      maskBacklog fuel (r.1.foldl (fun s t => firePass s (fun st u => maskUnit st sp [m] u) ⟨t * 65536, false, false⟩) r.2)

/-- An event, what it fires, and what the mask spans that it begins find among the words already here; while the spindles restart the spans
wait (R215, R223). -/
def fireAll (s : State) (direct : Store → Nat → Bool) (ev : TrigEvent) : State :=
  let s := firePass s direct ev
  if s.spin.restarting then s else maskBacklog 4096 s

/-! ### Comparators and pins (R207 to R209) -/

/-- Threshold and hysteresis of a comparator in nV (R208). -/
def compThreshold (st : Store) (k : Nat) : Int := -10000000000 + (st.nat O.compThresh k : Int) * 19531250
def compHysteresis (st : Store) (k : Nat) : Int := (st.nat O.compHyst k : Int) * 19531250

/-- The input on the watch tap is under a wire-break check at a stamp (R209): tap n is the input 8 + n (R59). -/
def underCheck (st : Store) (s : State) (k fine : Nat) : Bool :=
  let c := s.creel k
  let tap := st.nat O.watchTap k
  let hit := fun (j lo hi : Nat) => Nat.beq j (8 + tap) && Nat.ble (lo * 65536) fine && Nat.ble fine ((hi + 128) * 65536)
  (match c.wbLast with | some (j, lo, hi) => hit j lo hi | none => false) ||
  (match c.wb.pending, (seqOf s.objs k).window (s.nat O.wbSoak k) with
    | j :: _, some w => let ws := c.wb.nextPeriod + 128 * w; hit j (ws + 128) (ws + 128 * s.nat O.wbSoak k)
    | _, _ => false)

/-- A blanking interval of the creel covers a stamp, up to release plus BLANK_TAIL (R209). -/
def stampBlanked (st : Store) (s : State) (k fine : Nat) : Bool :=
  (List.range 4).any (fun i => bitOf (st.nat O.blankSel k) i && (Map.getD s.samp.blank i []).any (fun iv =>
    Nat.ble iv.1 fine && (match iv.2 with | none => true | some r => Nat.ble fine (r + st.nat O.blankTail k * usTicks * 65536))))

/-- R209 discards the edge: the settings are those in force at its stamp. -/
def edgeMasked (s : State) (k fine : Nat) : Bool :=
  let st := s.objsAt (fine / 65536)
  (Nat.ble (((s.creel k).watchMask - 6400) * 65536) fine && Nat.blt fine ((s.creel k).watchMask * 65536)) || underCheck st s k fine ||
    (st.bool O.compBlank k && stampBlanked st s k fine)

/-- What comparator `k` has seen when an edge comes at a tick: the tap has reached down to `low` and up to `high` since the last edge, or
since the last write of its objects, which makes it begin anew (R208). -/
def Watch.seen (w : Watch) (v h : Int) (tick : Nat) (low high : Int) : Watch :=
  let w := match w.wrote with | some t => if Nat.ble t tick then Watch.mk false false none else w | none => w
  { w with rise := w.rise || decide (low < v - h), fall := w.fall || decide (high > v + h) }

/-- WATCH_COMPARATOR_EDGE: the tap crosses the threshold of creel `k` at `edge` (1/65536 tick) and stands at `tap` nV after it;
`reach` says how far it has been since the last such edge (R208). -/
def execWatchComparatorEdge (k : Fin 32) (rising : Bool) (edge : Nat) (tap : Int) (reach : TapReach) (s : State) : Out :=
  let st := s.objsAt (edge / 65536)
  let v := compThreshold st k
  let w := (Map.getD s.trig.watch k {}).seen v (compHysteresis st k) (edge / 65536) reach.low reach.high
  let reported := if rising then decide (tap > v) && w.rise else decide (tap < v) && w.fall
  let w := if !reported then w else if rising then { w with rise := false } else { w with fall := false }
  let s : State := { s with trig := { s.trig with watch := Map.set s.trig.watch k w } }
  if !reported then .next s
  else
    let d := s.tdc k edge
    let s := d.2.advance (edge / 65536)
    if edgeMasked s k d.1.1 then .next (s.bump O.compMasked k)
    else .next (fireAll s (fun st u => Nat.beq (trigSrc st u) 1 && Nat.beq (trigSel st u) k && edgeSelected st u rising) ⟨d.1.1, d.1.2, false⟩)

/-- TRIG_PIN_EDGE (R89, R210). -/
def execTrigPinEdge (i : Fin 4) (rising : Bool) (edge : Nat) (s : State) : Out :=
  let d := s.tdc (32 + i) edge
  let s := d.2.advance (edge / 65536)
  let s := fireAll s (fun st u => Nat.beq (trigSrc st u) 2 && Nat.beq (trigSel st u) i && edgeSelected st u rising) ⟨d.1.1, d.1.2, false⟩
  if rising then
    .next (s.each (injSources (s.objsAt (d.1.1 / 65536)) (512 + i)) (fun s c =>
      injRequest s c d.1.1 { cause := 1, source := i, late := false, start := injBoundaryFine d.1.1, queued := false }))
  else .next s

/-- FIELD_INPUT_EDGE: FIO2 and SYNC, FIO3 and PPS_IN share TDC channels (R207, R210). -/
def execFieldInputEdge (i : Fin 4) (rising : Bool) (edge : Nat) (s : State) : Out :=
  let d := s.tdc (36 + i) edge
  let s := d.2.advance (edge / 65536)
  .next (fireAll s (fun st u => Nat.beq (trigSrc st u) 3 && Nat.beq (trigSel st u) i && edgeSelected st u rising) ⟨d.1.1, d.1.2, false⟩)

/-- The next instant of a grid-time unit (source 5): TIME_START + i * TIME_PERIOD, not yet come due. -/
def nextDue (s : State) (u : Nat) : Option Nat :=
  let t0 := s.nat O.timeStart u
  let p := s.nat O.timePeriod u
  let from_ := match (s.unit u).lastDue with | some t => max s.now (t + 1) | none => s.now
  if Nat.ble from_ t0 then some t0 else if p = 0 then none else some (t0 + ceilDiv (from_ - t0) p * p)

/-- GRID_TIME_TRIGGER (R210). -/
def execGridTimeTrigger (u : Fin 64) (s : State) : Out :=
  if !s.gridOn || !Nat.beq (trigSrc s.objs u) 5 then .next s else
  match nextDue s u with
  | none => .next s
  | some t =>
    let s := s.advance t
    let s := s.setUnit u { s.unit u with lastDue := some t }
    .next (fireAll s (fun _ v => Nat.beq v u) ⟨t * 65536, false, false⟩)

/-- A remote event (R214). -/
def fireRemote (s : State) (src unit : Nat) (ev : TrigEvent) : State :=
  fireAll s (fun st u => Nat.beq (trigSrc st u) 6 && Nat.beq (st.nat O.remoteId u / 65536 % 16384) src && Nat.beq (st.nat O.remoteId u % 64) unit)
    { ev with late := true }

/-! ### Crossings (R212) -/

/-- A crossing unit takes a word: its state after it, and the crossing it sees (rising, fine time) (R212). -/
def crossStep (x : TrigUnit) (l h : Int) (t : Nat) (v : Int) (bad : Bool) : TrigUnit × Option (Bool × Nat) :=
  if bad then ({ x with prev := none }, none) else
  let hit := match x.prev with
    | none => none
    | some (t0, v0) =>
      let rise := decide (v0 < l) && decide (l ≤ v) && x.low
      let fall := decide (v0 > l) && decide (l ≥ v) && x.high
      if rise || fall then
        some (rise, ((t0 : Int) * 65536 + roundDivInt ((l - v0) * ((t : Int) - t0) * 65536) (v - v0)).toNat)
      else none
  let x := match hit with
    | some (true, _) => { x with low := false }
    | some (false, _) => { x with high := false }
    | none => x
  ({ x with prev := some (t, v), low := x.low || decide (v ≤ l - h), high := x.high || decide (v ≥ l + h) }, hit)

/-- The crossing units that watch a channel. -/
def crossUnits (st : Store) (ch : Nat) : List Nat :=
  ((List.range 4).map (fun i => 4 * (ch / 32) + i)).filter (fun u => Nat.beq (st.nat O.trigSource u) 4 && Nat.beq (st.nat O.trigSelect u) ch)

/-- Crossing units of a channel take a word, under the settings in force at its instant: unit and fine time of the crossings that TRIG_EDGE
selects (R21, R211, R212). -/
def crossHits (s : State) (ch t : Nat) (v : Int) (bad : Bool) : List (Nat × Nat) × State :=
  let st := s.objsAt t
  (crossUnits st ch).foldl (fun a u =>
    let r := crossStep ((a.2.unit u).settled t) (st.int O.crossLevel u) (st.int O.crossHyst u) t v bad
    let s := a.2.setUnit u r.1
    match r.2 with
    | some (rising, f) => (if edgeSelected st u rising then a.1 ++ [(u, f)] else a.1, s)
    | none => (a.1, s)) ([], s)

/-- Fine times of a word's crossings and, for its slubs, of the word, ascending and each once. -/
def wordTimes (hits : List (Nat × Nat)) (t : Nat) (ms : List Nat) : List Nat :=
  sortBy (fun f => f) (hits.map (·.2) ++ if ms.isEmpty then [] else [t * 65536]).eraseDups

/-- Crossing units and mask sets take a word: events at one fine time fire together (R212, R215, R224). -/
def watchWord (s : State) (ch t : Nat) (v : Int) (bad : Bool) : State :=
  let c := crossHits s ch t v bad
  let m := maskWords true c.2 ch t v bad
  (wordTimes c.1 t m.1).foldl (fun s f =>
    fireAll s (fun st u => c.1.contains (u, f) || (Nat.beq f (t * 65536) && maskUnit st (ch / 32) m.1 u)) ⟨f, false, false⟩) m.2

/-! ### What a core restart missed (R241) -/

/-- Log an event that recomputation found: nothing acts on it. -/
def logEvent (s : State) (u : Nat) (ev : TrigEvent) : State :=
  s.evAt Ev.triggerEvent u (ev.fine / 65536) (ev.fine % 65536) (be 1 (128 * b2n ev.late + 64 * b2n ev.coarse))

/-- A unit's event among the missed words, at a fine time: held off, or to be logged, with the mask spans that it begins. -/
def missedEvent (sp : Nat) (s : State) (x : Nat × Nat) : State :=
  let st := s.objsAt (x.2 / 65536)
  if heldOff st (s.unit x.1) x.1 x.2 then s else
  let s := s.setUnit x.1 { s.unit x.1 with last := some x.2 }
  let s : State := { s with spin := { s.spin with late := s.spin.late ++ [⟨sp, none, [x]⟩] } }
  s.each (List.range 16) (fun s m =>
    if Nat.beq (st.nat O.maskMode m) 1 && Nat.beq (st.nat O.maskTrigger m) x.1 then maskEvent st s m x.2 else s)

/-- The units of spindle `sp` that mask sets fire at missed words. -/
def missedMaskEvents (sp : Nat) (s : State) (x : Nat × List Nat) : State :=
  ((List.range 64).filter (maskUnit (s.objsAt x.1) sp x.2)).foldl (fun s u => missedEvent sp s (u, x.1 * 65536)) s

/-- Spans begun among the missed words take the words before their event. -/
def missedBacklog : Nat → State → State
  | 0, s => s
  | fuel + 1, s =>
    match (List.range 16).find? (fun m => !(s.mask m).todo.isEmpty) with
    | none => s
    | some m =>
      let y := s.mask m
      let r := maskSpanWords false (s.setMask m { y with todo := y.todo.drop 1 }) m (y.todo.headD 0)
      missedBacklog fuel (r.1.foldl (fun s t => missedMaskEvents (s.nat O.maskSpindle m) s (t, [m])) r.2)

/-- A missed word goes through crossing units and mask sets; what it finds waits for the recomputation (R241). -/
def missedWord (s : State) (ch t : Nat) (v : Int) (bad : Bool) : State :=
  let c := crossHits s ch t v bad
  let s := c.1.foldl (missedEvent (ch / 32)) c.2
  let m := maskWords false s ch t v bad
  missedBacklog 4096 (if m.1.isEmpty then m.2 else missedMaskEvents (ch / 32) m.2 (t, m.1))

/-! ### Commands of mask sets -/

/-- MASK_SPAN_START: a span of an interval-mode set begins at a multiple of MASK_INTERVAL frames (R223). -/
def execMaskSpanStart (m : Fin 16) (s : State) : Out :=
  if s.gridOn && Nat.beq (s.nat O.maskMode m) 2 then
    let p := s.nat O.maskInterval m * frameTicks
    let t := ceilDiv s.now p * p
    let s := s.advance t
    .next (s.setMask m { s.mask m with spans := [t * 65536] })
  else .next s

/-- MASK_PULSE_END: the pulse on FIO4 to FIO7 ends and the output goes low (R226). -/
def execMaskPulseEnd (o : Fin 4) (s : State) : Out :=
  match Map.find? s.trig.fio (4 + o.val) with
  | some e => let s := s.advance e; .next { s with trig := { s.trig with fio := Map.erase s.trig.fio (4 + o.val) } }
  | none => .next s

/-! ### What nothing waits for any more -/

/-- Spans, first violations and changes of settings that no word on its way can need are forgotten. -/
def MaskSet.pruned (y : MaskSet) (keep : Nat) : MaskSet :=
  { y with spans := y.spans.filter (fun f => Nat.ble keep (f / 65536)), hit := y.hit.filter (fun x => Nat.ble keep (x.2 / 65536)),
           clears := y.clears.filter (Nat.ble keep) }

/-- At a frame boundary the trigger logic forgets what lies behind every word on its way. -/
def trigPrune (s : State) : State :=
  let old := oldestPending s
  let s : State := { s with trig := { s.trig with past := s.trig.past.filter (fun p => Nat.blt old p.t0) } }
  s.each (s.trig.masks.map (·.1)) (fun s m =>
    let reach := match maskReach s.objs m with | some r => r.2.toNat + maskHistory s.objs m | none => 0
    s.setMask m ((s.mask m).pruned (old - reach)))

/-! ### Checks of writes (R211, R218, R227) -/

/-- Operand and ownership checks of a unit's source (R211). -/
def unitFormat (u src sel : Nat) : Nat :=
  if (src = 8 ∨ src = 9) ∧ (u ≤ sel / 256 ∨ u ≤ sel % 256) then 0x02000060
  else if src = 4 ∧ ¬ sel / 32 = u / 4 then 0x02000061
  else 0

/-- A source 7 whose mask set belongs to another spindle (R211). -/
def unitMask (st : Store) (u : Nat) : Nat :=
  if Nat.beq (st.nat O.trigSource u) 7 && !Nat.beq (st.nat O.maskSpindle (st.nat O.trigSelect u % 16)) (u / 4) then 0x02000061 else 0

/-- A mask's words: breakpoints ascend and the length fits (R227). -/
def envelopeFormat (b : Bytes) : Nat :=
  let n := field b 1 1
  let xs := (decodeEnvelope b).map (·.1)
  if !Nat.beq b.length (4 + 16 * n) || !Nat.beq (field b 0 1) 1 || Nat.blt 64 n || !(xs.zip (xs.drop 1)).all (fun p => decide (p.1 < p.2))
      || !(decodeEnvelope b).all (fun p => decide (-8388608 ≤ p.2) && decide (p.2 ≤ 8388607)) then 0x02000001 else 0

/-- Number of set bits. -/
def popCount (n : Nat) : Nat := ((List.range 32).filter (bitOf n)).length

/-- Longest idle timeout and OPEN_HOLD delay in a spindle-evaluated unit's lag allowance, in ticks (Table 11.3). -/
def lagTicks (st : Store) (r : Nat) : Nat :=
  let u := st.nat O.reelTrigger r
  if Nat.beq (st.nat O.trigSource u) 6 then 0
  else if spindleUnit st 64 u then
    1280000 + st.nat O.feedTimeout r * usTicks + openDelay st (reelChannelsOf st r)
  else 1024

/-- Words a channel produces in a number of ticks, a started word counted whole (Table 11.7). -/
def lagWords (st : Store) (r lag : Nat) : Nat :=
  ((reelChannelsOf st r).map (fun ch => match placeOf st ch with
    | some (delta, _, _) => ceilDiv lag (max (if Nat.beq (st.nat O.reelFormat r) 0 then delta else delta * (profileOf st (st.nat O.profileSel ch)).m) 1)
    | none => 0)).foldl max 0

/-- The reel checks of R218: abort code, 0 when they pass. -/
def reelAdmit (st : Store) (r : Nat) : Nat :=
  let chs := reelChannelsOf st r
  let n := chs.length
  let w := reelWidth st r
  let sram := if Nat.beq (st.nat O.reelMode r) 3 then 524288 else 1048576
  if Nat.blt sram ((st.nat O.preCount r + lagWords st r (lagTicks st r)) * n * w) then 0x04000031
  else if Nat.blt (st.nat O.reelAlloc r * 1048576) (captureSize st r) then 0x04000003
  else if Nat.blt 8192 (((List.range 16).map (fun i => st.nat O.reelAlloc i)).sum) then 0x04000030
  else 0

end Sys2Proof.Machine
end

