-- ==== Sys2Proof/Machine/Spindle.lean ====
section
/-! DEFINITION. Spindles: reduction profiles, interval arithmetic and records, feed queues with their faults, spindle load,
and recomputation after a core restart (12_spindles.md, R228 to R246). -/

namespace Sys2Proof.Machine

/-! ### Reduction profiles (Table 12.3) -/

/-- Content of RED_PROFILE; empty is the default, D = 0 and n = 1,000. -/
def decodeRed (b : Bytes) : RedProfile :=
  if b.isEmpty then ⟨1000, []⟩
  else ⟨field b 2 4, (List.range (field b 1 1)).map (fun i => ⟨field b (8 + 12 * i) 1, field b (9 + 12 * i) 1, fieldI b (12 + 12 * i) 4, field b (16 + 12 * i) 4⟩)⟩

/-- Profile `p`'s content. -/
def redOf (st : Store) (p : Nat) : RedProfile := decodeRed (st.bytes O.redProfile p)

/-- RED_PROFILE as read. -/
def redBytes (st : Store) (p : Nat) : Bytes :=
  let b := st.bytes O.redProfile p
  if b.isEmpty then [1#8, 0#8] ++ be 4 1000 ++ zeros 2 else b

/-- Slots that a descriptor fills (R232). -/
def RedSlot.width (d : RedSlot) : Nat := if Nat.beq d.kind 11 then 4 else 1

/-- Slots that a profile fills. -/
def RedProfile.width (p : RedProfile) : Nat := (p.slots.map RedSlot.width).sum

/-- A descriptor's fields are legal (Table 12.3). -/
def redSlotOk (b : Bytes) (i : Nat) : Bool :=
  let k := field b (8 + 12 * i) 1
  let sh := field b (9 + 12 * i) 1
  let p1 := fieldI b (12 + 12 * i) 4
  let p2 := field b (16 + 12 * i) 4
  Nat.ble 1 k && Nat.ble k 11 && Nat.ble sh 20 && (Nat.beq k 11 || Nat.beq sh 0) && Nat.beq (field b (10 + 12 * i) 2) 0
    && decide (-8388608 ≤ p1) && decide (p1 ≤ 8388607) && (Nat.beq k 10 || Nat.beq k 11 || decide (p1 = 0))
    && (if Nat.beq k 10 then Nat.ble p2 16777215 else Nat.beq p2 0)

/-- The checks of R232: field checks before the slot count. -/
def redFormat (b : Bytes) : Nat :=
  let d := field b 1 1
  let n := field b 2 4
  if Nat.blt b.length 8 || !Nat.beq b.length (8 + 12 * d) || !Nat.beq (field b 0 1) 1 || Nat.blt 8 d || Nat.beq n 0 || Nat.blt 3600000 n
      || !Nat.beq (field b 6 2) 0 || !(List.range d).all (redSlotOk b) then 0x02000001
  else if Nat.blt 8 (decodeRed b).width then 0x02000070
  else 0

/-- Cycles per word of a descriptor (Table 12.1). -/
def RedSlot.cost (d : RedSlot) : Nat :=
  match d.kind with
  | 1 | 2 | 7 | 8 => 2
  | 3 | 9 => 3
  | 5 | 10 => 4
  | 11 => 5
  | 4 => 6
  | _ => 8

/-- RED_WORD_COST. -/
def RedProfile.wordCost (p : RedProfile) : Nat := (p.slots.map RedSlot.cost).sum

/-- RED_RECORD_COST. -/
def RedProfile.recordCost (p : RedProfile) : Nat :=
  400 + (p.slots.map (fun d => if Nat.beq d.kind 4 || Nat.beq d.kind 6 then 1500 else if Nat.beq d.kind 11 then 200 else 0)).sum

/-- RED_USERS. -/
def redUsersOf (st : Store) (p : Nat) : Nat := ((List.range 512).filter (fun ch => Nat.beq (st.nat O.redSelect ch) p)).length

/-! ### Arithmetic (R235, R236) -/

/-- The square root of a / b to the nearest integer, an exact half to even (R236). -/
def isqrtConv (a b : Nat) : Nat :=
  let r := isqrt (a / b)
  let t : Int := 4 * (a : Int) - (4 * r * r + 4 * r + 1 : Nat) * (b : Int)
  if t > 0 ∨ (t = 0 ∧ r % 2 = 1) then r + 1 else r

/-- State changes of a ZCROSS slot after its first word (Table 12.4). -/
def zcrossCount (l h : Int) : Bool → List (Int × Nat) → Nat
  | _, [] => 0
  | up, (x, _) :: v =>
    let up' := if x ≥ l + h then true else if x ≤ l - h ∧ x < l then false else up
    b2n (up' != up) + zcrossCount l h up' v

/-- HIST16's bin of a value. -/
def histBin (d : RedSlot) (x : Int) : Nat := (clampInt 0 15 ((x - d.p1) / (2 ^ d.shift : Int))).toNat

/-- Share of a HIST16 bin. -/
def histShare (d : RedSlot) (v : List (Int × Nat)) (b : Nat) : Nat :=
  (roundDiv (((v.filter (fun x => Nat.beq (histBin d x.1) b)).length : Int) * 65535) v.length).toNat

/-- The slot values of a descriptor over the valid words, as 64-bit numbers (Table 12.4, R237). -/
def RedSlot.values (d : RedSlot) (v : List (Int × Nat)) : List Nat :=
  match v with
  | [] => List.replicate d.width (2 ^ 63)
  | (x0, i0) :: rest =>
    let xs := v.map (·.1)
    let n := v.length
    let s := xs.sum
    let q := (xs.map (fun x => x.natAbs * x.natAbs)).sum
    let lo := xs.foldl min x0
    let hi := xs.foldl max x0
    let at_ := fun (x : Int) (i : Nat) => toTwos 24 x * 2 ^ 40 + i % 2 ^ 40
    match d.kind with
    | 1 => [toTwos 64 lo]
    | 2 => [toTwos 64 hi]
    | 3 => [toTwos 64 (roundDiv s n)]
    | 4 => [isqrtConv q n]
    | 5 => [toTwos 64 (hi - lo)]
    | 6 => [isqrtConv (n * q - s.natAbs * s.natAbs) (n * n)]
    | 7 => [at_ x0 i0]
    | 8 => let l := v.getLastD (x0, i0); [at_ l.1 l.2]
    | 9 => [toTwos 64 s]
    | 10 => [zcrossCount d.p1 d.p2 (decide (x0 ≥ d.p1)) rest]
    | _ => (List.range 4).map (fun k => (List.range 4).foldl (fun a j => a * 65536 + histShare d v (4 * k + j)) 0)

/-- A reduction record (R238, Table 12.5): 80 bytes. -/
def redRecord (ch : Nat) (a : RedAcc) (cut : Bool) : Bytes :=
  let flags := 128 * b2n (a.first || !Nat.beq (a.start % (a.prof.n * frameTicks)) 0) + 64 * b2n cut + 32 * b2n a.fPoison + 16 * b2n a.fFill
    + 8 * b2n a.fTimeq + 4 * b2n a.fSettle + 2 * b2n a.fOver
  let vs := a.prof.slots.flatMap (fun d => d.values a.vals)
  be 1 0x24 ++ be 1 flags ++ be 2 (a.profIdx * 1024 + ch) ++ be 5 a.vals.length ++ be 1 0 ++ be 6 (a.start / frameTicks)
    ++ fit 64 (vs.flatMap (be 8))

/-- A word enters its interval (R234). -/
def RedAcc.take (a : RedAcc) (t interval word : Nat) : RedAcc :=
  let bad := bitOf word 7 || bitOf word 6 || bitOf word 5
  { a with
    seen := a.seen + 1, next := t + interval
    vals := if bad then a.vals else a.vals ++ [(wordValue word, a.seen)]
    fPoison := a.fPoison || bitOf word 7
    fFill := a.fFill || bitOf word 5 || bitOf word 6
    fTimeq := a.fTimeq || (!bad && bitOf word 0)
    fSettle := a.fSettle || (!bad && bitOf word 3)
    fOver := a.fOver || (!bad && (bitOf word 1 || bitOf word 2 || bitOf word 4)) }

/-- The interval that begins at an instant (R233, R239). -/
def openAcc (idx : Nat) (prof : RedProfile) (start : Nat) : RedAcc :=
  let l := max prof.n 1 * frameTicks
  { profIdx := idx, prof := prof, start := start, stop := (start / l + 1) * l, next := start }

/-! ### Intervals on the state -/

/-- Reduction state of a channel. -/
def State.red (s : State) (ch : Nat) : RedChan := Map.getD s.spin.red ch {}
/-- Replace it. -/
def State.setRed (s : State) (ch : Nat) (c : RedChan) : State := { s with spin := { s.spin with red := Map.set s.spin.red ch c } }

/-- A record is stored and becomes RED_LAST (R238). -/
def emitRecord (s : State) (ch key : Nat) (b : Bytes) : State :=
  let s : State := { s with twine := { s.twine with notes := Map.set s.twine.notes ch { Map.getD s.twine.notes ch {} with redEnd := some key } } }
  (commitRecord s ch key b).putB O.redLast ch b

/-- A closed interval's record, or the gap record that stands for it (R238, R241). -/
def emitAcc (s : State) (ch : Nat) (a : RedAcc) (key : Nat) (cut : Bool) : State :=
  if a.lost then (bobGap s ch 3 2 a.start a.stop).bump O.redLostCount (ch / 32) else emitRecord s ch key (redRecord ch a cut)

/-- Output words that a bobbin holds in a range, in order of their instants. -/
def heldWords (s : State) (ch lo hi : Nat) : List (Nat × Nat × Nat) :=
  ((wordsFrom (s.bobbin ch) lo).filter (fun w => Nat.blt w.1 hi && !w.2.2.2)).map (fun w => (w.1, w.2.1, w.2.2.1))

/-- Words of a range are gone from the bobbin: their hank was reused, or a gap record names them (R241). -/
def wordsGone (s : State) (ch lo hi : Nat) : Bool :=
  let b := s.bobbin ch
  let i := wordInterval s ch
  let gaps := b.staged ++ b.hanks.flatMap (fun h => h.recs.filterMap gapOf)
  Nat.ble (lo + i) b.reusedTo || gaps.any (fun g => bitOf g.scope 0 && Nat.blt g.start hi && Nat.blt lo g.stop) ||
    (match b.lostWords with | some t => Nat.blt t hi | none => false)

/-- Slub records that the recomputation found for a channel before an instant are stored, oldest first (R20, R241). -/
def storeLate (s : State) (ch upto : Nat) : State :=
  let due := fun (x : LateItem) => match x.slub with | some (_, c, t, _) => Nat.beq c ch && Nat.blt t upto | none => false
  let items := sortBy (fun x => x.2.2.1) ((s.spin.late.filter due).filterMap (·.slub))
  let s : State := { s with spin := { s.spin with late := s.spin.late.filter (fun x => !due x) } }
  items.foldl (fun s x => storeSlub s x.1 x.2.1 x.2.2.1 x.2.2.2) s

/-- Accepted selections of a channel without a running interval take effect at their own t0, the first of them that names a profile; the
rest wait for its end (R239). -/
def startPending (s : State) (ch : Nat) : List RedPend → State
  | [] => s.setRed ch { s.red ch with acc := none, pend := [] }
  | d :: l =>
    if Nat.beq d.sel 255 then startPending s ch l
    else (s.setRed ch { s.red ch with acc := some (openAcc d.sel d.prof d.t0), pend := l }).put O.redEffective ch d.t0

/-- What follows an interval's end: the same profile, or the last write accepted by then (R239). -/
def afterEnd (s : State) (ch idx : Nat) (prof : RedProfile) (stop : Nat) : State :=
  let c := s.red ch
  let rest := c.pend.filter (fun d => !Nat.ble d.t0 stop)
  match (c.pend.filter (fun d => Nat.ble d.t0 stop)).getLast? with
  | none => s.setRed ch { c with acc := some (openAcc idx prof stop) }
  | some d =>
    if Nat.beq d.sel 255 then startPending (s.put O.redEffective ch 0) ch rest
    else (s.setRed ch { c with acc := some (openAcc d.sel d.prof stop), pend := rest }).put O.redEffective ch stop

/-- Instants before `upto` that a full feed queue lost count as seen, with POISON (R245). -/
def RedAcc.takeGone (a : RedAcc) (gone : List Nat) (upto : Nat) : RedAcc :=
  let n := (gone.filter (fun g => Nat.ble a.start g && Nat.blt g upto)).length
  { a with seen := a.seen + n, fPoison := a.fPoison || Nat.blt 0 n }

/-- Store the record of an interval whose words have all come (R233, R238), unless it is stored. In recomputation `re` is the instant up to which
words come from the bobbin: an interval whose words are gone from it is lost (R241). -/
def storeAcc (re : Option Nat) (s : State) (ch : Nat) (a : RedAcc) : State :=
  if a.stored then s else
  let c := s.red ch
  let a := a.takeGone c.gone a.stop
  let a := match re with | some tf => { a with lost := a.lost || wordsGone s ch a.start (min a.stop tf) } | none => a
  let whole := match re with | some tf => Nat.ble a.stop tf && !a.lost | none => false
  let s := emitAcc (storeLate s ch a.stop) ch a a.stop false
  if whole then s.bump O.redRecomputedCount ch else s

/-- Close the running interval at its aligned end (R233, R238). -/
def closeAcc (re : Option Nat) (s : State) (ch : Nat) : State :=
  match (s.red ch).acc with
  | none => s
  | some a =>
    let s := storeAcc re s ch a
    let c := s.red ch
    afterEnd (s.setRed ch { c with gone := c.gone.filter (fun g => Nat.ble a.stop g) }) ch a.profIdx a.prof a.stop

/-- Close the intervals that end at or before an instant. -/
def closePast (re : Option Nat) (ch t : Nat) : Nat → State → State
  | 0, s => s
  | fuel + 1, s =>
    match (s.red ch).acc with
    | some a => if Nat.ble a.stop t then closePast re ch t fuel (closeAcc re s ch) else s
    | none => s

/-- The word at `t` is the last of its interval: no other instant lies before the end, and no frame boundary at which a change could add one
(R233, log entry 155). -/
def RedAcc.lastWord (a : RedAcc) (t interval : Nat) : Bool := Nat.ble a.stop (t + interval) && Nat.ble a.stop (t + frameTicks)

/-- A word enters the interval that holds its instant, after the intervals before it have closed; with the interval's last word its record
is stored (R233). -/
def takeWord (re : Option Nat) (ch : Nat) (s : State) (w : Nat × Nat × Nat) : State :=
  let s := closePast re ch w.1 (w.1 / frameTicks + 2) s
  let c := s.red ch
  match c.acc with
  | some a =>
    if Nat.blt w.1 a.start then s
    else
      let a := (a.takeGone c.gone w.1).take w.1 w.2.1 w.2.2
      let c := { c with acc := some a, gone := c.gone.filter (fun g => Nat.ble w.1 g) }
      let s := s.setRed ch c
      if a.lastWord w.1 w.2.1 then
        let s := storeAcc re s ch a
        s.setRed ch { s.red ch with acc := some { a with stored := true } }
      else s
  | none => s

/-- A word reaches a channel's reductions; while intervals wait for recomputation it waits with them (R233, R241). -/
def redWord (s : State) (ch t interval word : Nat) : State :=
  let c := s.red ch
  if c.redo.isSome then s.setRed ch { c with live := c.live ++ [(t, interval, word)] } else takeWord none ch s (t, interval, word)

/-- A word was lost before the spindle: the record whose interval holds its instant will tell (R245). -/
def redLost (s : State) (ch t : Nat) : State :=
  let c := s.red ch
  if c.acc.isSome || c.redo.isSome then s.setRed ch { c with gone := c.gone ++ [t] } else s

/-- Something of channel `ch` with an instant before `t` is still on its way to the consumers. -/
def channelPending (s : State) (ch t : Nat) : Bool :=
  s.samp.holds.any (fun g => match g with | .hold h => Nat.beq h.ch ch && Nat.blt h.t t && h.inj.isNone | .change .. => false) ||
  s.draft.queue.any (fun g => match g with | .sample t' c .. => Nat.beq c ch && Nat.blt t' t | .change .. => false) ||
  (Map.getD s.draft.delay ch []).any (fun w => Nat.blt w.t t) ||
  (Map.getD s.spin.feeds (ch / 32) {}).entries.any (fun e => Nat.beq e.ch ch && Nat.blt e.t t)

/-- Output instants of a plan in a range: aligned instants, or the sample's own where ALIGN is off (R130, R144). -/
def hasInstant (p : Plan) (lo hi : Nat) : Bool :=
  let step := p.delta * p.profile.m
  let off := p.anchor % max step 1 + (if p.align then 0 else p.d)
  let first := if Nat.ble lo off then off else off + ceilDiv (lo - off) (max step 1) * step
  Nat.blt first hi

/-- REDUCTION_INTERVAL_END: the channel's interval ends with no word still to come (R233); a pending selection takes effect
(R239). -/
def execReductionIntervalEnd (ch : Fin 512) (s : State) : Out :=
  match (s.red ch).acc with
  | none => .next s
  | some a =>
    let awaited := match Map.find? s.draft.plans ch with
      | some p => hasInstant p (max a.start a.next) a.stop
      | none => false
    if awaited || channelPending s ch a.stop then .next s
    else .next (closeAcc none (s.advance a.stop) ch)

/-- RED_SELECT takes effect at `t0` (R239); an interval that begins during a core restart is recomputed after it (R241). -/
def redSelectWritten (s : State) (ch t0 : Nat) : State :=
  let c := s.red ch
  let p := s.nat O.redSelect ch
  if c.acc.isNone && c.redo.isNone then
    if Nat.beq p 255 then s else
    let a := openAcc p (redOf s.objs p) t0
    (s.setRed ch (if s.spin.restarting then { c with redo := some a } else { c with acc := some a })).put O.redEffective ch t0
  else s.setRed ch { c with pend := c.pend ++ [⟨t0, p, redOf s.objs p⟩] }

/-- The content of profile `p` changes at `t0` (R239). -/
def redProfileWritten (s : State) (p t0 : Nat) : State :=
  s.each (List.range 512) (fun s ch =>
    if !Nat.beq (s.nat O.redSelect ch) p then s else
    s.setRed ch { s.red ch with pend := (s.red ch).pend ++ [⟨t0, p, redOf s.objs p⟩] })

/-- A channel recomputes the intervals that a core restart interrupted: its words come from the bobbin up to the first live one, then the
live ones follow, and selections accepted meanwhile take effect where they would have (R20, R239, R241). -/
def recomputeChannel (s : State) (ch : Nat) : State :=
  let c := s.red ch
  match c.redo with
  | none => s
  | some a0 =>
    let tf := match c.live.head? with | some w => w.1 | none => 2 ^ 64
    let s := s.setRed ch { c with redo := none, live := [], acc := some a0 }
    let s := (heldWords s ch a0.start tf).foldl (takeWord (some tf) ch) s
    let s := c.live.foldl (takeWord (some tf) ch) s
    let c := s.red ch
    match c.acc with
    | some a => s.setRed ch { c with acc := some { a with lost := a.lost || wordsGone s ch a.start (min a.stop (min tf (s.now + 1))) } }
    | none => s

/-- Every running interval ends at `t` with CUT, and a pending selection takes effect (R239, R240). -/
def cutReductions (s : State) (t : Nat) : State :=
  s.each (List.range 512) (fun s ch =>
    let s := closePast none ch t (t / frameTicks + 2) (recomputeChannel s ch)
    let c := s.red ch
    let s := match c.acc with
      | some a => if Nat.blt a.start t && !a.stored then emitAcc (storeLate s ch t) ch (a.takeGone c.gone t) t true else s
      | none => s
    let s := match c.pend.getLast? with | some d => s.put O.redEffective ch (if Nat.beq d.sel 255 then 0 else t) | none => s
    if c = {} then s else s.setRed ch {})

/-- Intervals start again at `t`, after a re-epoch or a wake with PARTIAL (`first`) (R240). -/
def restartReductions (s : State) (t : Nat) (first : Bool) : State :=
  s.each (List.range 512) (fun s ch =>
    let p := s.nat O.redSelect ch
    if Nat.beq p 255 then s else
    let a := { openAcc p (redOf s.objs p) t with first := first }
    s.setRed ch (if s.spin.restarting then { redo := some a } else { acc := some a }))

/-! ### Feed queues (R242 to R245) -/

/-- The state as entries are written and read, and the faults still to come: an entry's place among those read, and whether its tag or its
word fails parity; whether the queue does not forward. -/
structure FeedRead where
  s : State
  faults : FeedFaults

/-- Feed queue `q`. -/
def State.feed (s : State) (q : Nat) : Feed := Map.getD s.spin.feeds q {}
/-- Replace it. -/
def State.setFeed (s : State) (q : Nat) (f : Feed) : State := { s with spin := { s.spin with feeds := Map.set s.spin.feeds q f } }

/-- The spindle takes a word: reductions, crossings, mask sets (R228, R233). -/
def spindleWord (s : State) (ch t interval word : Nat) : State :=
  if s.spin.restarting then
    let c := s.red ch
    s.setRed ch { c with unev := some ((c.unev.map (·.1)).getD t, t) }
  else
    watchWord (redWord s ch t interval word) ch t (wordValue word) (bitOf word 7 || bitOf word 6 || bitOf word 5)

/-- An output word's flags as the next summary entry tells them (Table 19.2). -/
def noteWord (s : State) (ch w : Nat) : State :=
  let n : SummaryNote := Map.getD s.twine.notes ch {}
  let n := { n with bad := n.bad || bitOf w 1 || bitOf w 4, timeq := n.timeq || bitOf w 0, fill := bitOf w 5,
                    flagged := n.flagged + b2n (bitOf w 6 || bitOf w 5 || bitOf w 4 || bitOf w 2 || bitOf w 1) }
  { s with twine := { s.twine with notes := Map.set s.twine.notes ch n } }

/-- A word is handed to both consumers and to its reel (R216, R242). -/
def deliverWord (s : State) (e : FeedEntry) (poison : Bool) : State :=
  let w := if poison then setPoison e.word else e.word
  let s := noteWord s e.ch w
  let s := if Nat.beq (wordMode s e.ch e.t) 1 then commitWord s e.ch 1 e.t e.interval w else s
  let s := if Nat.beq (s.nat O.reelFormat (e.ch / 32)) 1 then reelWord s (e.ch / 32) e.ch e.t w else s
  spindleWord s e.ch e.t e.interval w

/-- A POISON word whose value nothing gives (R243). -/
def poisonWord (s : State) : Nat × State := let f := s.freshNat; (setPoison (f.1 % 2 ^ 32), f.2)

/-- The words that a channel is short of and whose boundary is `upto` or earlier come as POISON words (R243). -/
def fillShort (s : State) (q ch upto : Nat) : State :=
  let f := s.feed q
  let due := fun (m : FeedEntry × Nat) => Nat.beq m.1.ch ch && Nat.ble m.2 upto
  let s := s.setFeed q { f with missing := f.missing.filter (fun m => !due m) }
  (f.missing.filter due).foldl (fun s m =>
    let w := poisonWord s
    deliverWord w.2 { m.1 with word := w.1 } true) s

/-- The instants that a channel is still short of when its word at `t` is taken for the first of them (R243): each consumer counts the
channel's words, so that words behind a lost one are taken early until the boundary. -/
def shiftMissing (ch t : Nat) (l : List (FeedEntry × Nat)) : List (FeedEntry × Nat) :=
  let ts := ((l.filter (fun m => Nat.beq m.1.ch ch)).map (·.1.t)).drop 1 ++ [t]
  (l.foldl (fun (a : List (FeedEntry × Nat) × List Nat) m =>
    if Nat.beq m.1.ch ch then (a.1 ++ [({ m.1 with t := a.2.headD 0 }, m.2)], a.2.drop 1) else (a.1 ++ [m], a.2)) ([], ts)).1

/-- Read one entry: parity failures, and the POISON that follows a tag failure up to the next frame boundary (R243). -/
def readEntry (s : State) (q : Nat) (e : FeedEntry) (fault : Option Bool) : State :=
  match fault with
  | some true =>
    let f := s.feed q
    let b := nextFrame s.now
    ((s.setFeed q { f with resync := some b, missing := f.missing ++ [(e, b)] }).bump O.feedResyncCount q).ev Ev.feedResync q
  | _ =>
    let s := if fault.isSome then (s.bump O.feedParityCount q).ev Ev.feedParity q else s
    let s := fillShort s q e.ch e.t
    let f := s.feed q
    let poison := fault.isSome || (match f.resync with | some b => Nat.blt e.t b | none => false)
    match f.missing.find? (fun m => Nat.beq m.1.ch e.ch) with
    | none => deliverWord s e poison
    | some m => deliverWord (s.setFeed q { f with missing := shiftMissing e.ch e.t f.missing }) { e with t := m.1.t } poison

/-- Forward `n` entries of a queue in order (R242, R244). -/
def forwardEntries (q : Nat) : Nat → Nat → List (Nat × Bool) → State → State
  | 0, _, _, s => s
  | n + 1, i, faults, s =>
    match (s.feed q).entries with
    | [] => s
    | e :: rest =>
      let s := s.setFeed q { s.feed q with entries := rest }
      forwardEntries q n (i + 1) faults (readEntry s q e ((faults.find? (fun f => Nat.beq f.1 i)).map (·.2)))

/-- Drafting writes a word; 32 waiting entries leave as a burst, and a queue that a fault has filled loses the word (R244, R245). -/
def pushFeed (r : FeedRead) (e : FeedEntry) : FeedRead :=
  let q := e.ch / 32
  let s := r.s
  let f := s.feed q
  if Nat.ble 8192 f.entries.length then
    let s := if Nat.beq (wordMode s e.ch e.t) 0 then s else bobGap s e.ch 4 1 e.t (e.t + e.interval)
    { r with s := (redLost s e.ch e.t).ev Ev.feedOverflow q }
  else
    let f := { f with entries := f.entries ++ [e], lastWrite := s.now }
    let s := (s.setFeed q f).put O.feedHighWater q (max (s.nat O.feedHighWater q) f.entries.length)
    if Nat.ble 32 f.entries.length && !r.faults.stalled then
      let later := (r.faults.reads.filter (fun x => Nat.ble 32 x.1)).map (fun x => (x.1 - 32, x.2))
      { s := forwardEntries q 32 0 r.faults.reads s, faults := { r.faults with reads := later } }
    else { r with s := s }

/-- Write words in order. -/
def pushWords (s : State) (faults : FeedFaults) (l : List FeedEntry) : State := (l.foldl pushFeed { s := s, faults := faults }).s

/-- FEED_TIMEOUT: queue `q` holds fewer than 32 entries and none has been written for FEED_TIMEOUT (R244). -/
def execFeedTimeout (q : Fin 16) (faults : FeedFaults) (s : State) : Out :=
  let f := s.feed q
  if f.entries.isEmpty || faults.stalled then .next s
  else
    let s := s.advance (f.lastWrite + s.nat O.feedTimeout q * usTicks)
    .next (overflowed faults.writer (forwardEntries q f.entries.length 0 faults.reads) s)

/-- A frame boundary at `t`: once no word from before the boundary is on its way, channels get the words that they are short of, and a
resynchronisation that is over ends (R243). -/
def feedBoundary (s : State) (q t : Nat) : State :=
  let f := s.feed q
  if f.resync.isNone && f.missing.isEmpty then s else
  let passed := fun (b : Nat) => Nat.ble b t && !(List.range 32).any (fun i => channelPending s (32 * q + i) b)
  let s := s.each (f.missing.filter (fun m => passed m.2)) (fun s m => fillShort s q m.1.ch m.2)
  match f.resync with
  | some b => if passed b then s.setFeed q { s.feed q with resync := none } else s
  | none => s

/-- Everything that waits in the queues is handed on, at a re-epoch or at sleep. -/
def flushFeeds (s : State) : State :=
  s.each (List.range 16) (fun s q =>
    let s := forwardEntries q (s.feed q).entries.length 0 [] s
    let s := s.each (s.feed q).missing (fun s m => fillShort s q m.1.ch m.2)
    s.setFeed q { s.feed q with resync := none })

/-! ### Load and admission (R229, R230) -/

/-- Sum of two fractions in lowest terms. -/
def addQ (a b : Nat × Nat) : Nat × Nat :=
  let n := a.1 * b.2 + b.1 * a.2
  let d := a.2 * b.2
  let g := Nat.gcd n d
  (n / max g 1, d / max g 1)

/-- A rate R of words per second, as a fraction (Table 12.1). -/
def wordRate (st : Store) (ch : Nat) : Nat × Nat :=
  match placeOf st ch with
  | some (delta, _, _) => (640000000, max (delta * (profileOf st (st.nat O.profileSel ch)).m) 1)
  | none => (0, 1)

/-- A fraction times a number. -/
def mulQ (k : Nat) (a : Nat × Nat) : Nat × Nat := (k * a.1, a.2)

/-- Mask sets of a spindle that are on. -/
def masksOn (st : Store) (sp : Nat) : List Nat :=
  (List.range 16).filter (fun m => Nat.beq (st.nat O.maskSpindle m) sp && !Nat.beq (st.nat O.maskMode m) 0)

/-- The channel has spindle work (R228). -/
def hasWork (st : Store) (ch : Nat) : Bool :=
  !Nat.beq (st.nat O.redSelect ch) 255 || !(crossUnits st ch).isEmpty || (masksOn st (ch / 32)).any (fun m => maskSelects st m ch)

/-- Costs of a channel's intake and reductions. -/
def channelLoad (st : Store) (ch : Nat) : Nat × Nat :=
  if !hasWork st ch then (0, 1) else
  let r := wordRate st ch
  let p := st.nat O.redSelect ch
  if Nat.beq p 255 then mulQ 8 r
  else
    let prof := redOf st p
    addQ (mulQ (8 + prof.wordCost) r) (1000 * prof.recordCost, max prof.n 1)

/-- Costs of a trigger unit. -/
def unitCost (st : Store) (u : Nat) : Nat × Nat :=
  let src := st.nat O.trigSource u
  let sel := st.nat O.trigSelect u
  if src = 4 then mulQ 10 (wordRate st sel)
  else if src = 6 then (50000, 1)
  else if (src = 8 ∨ src = 9) ∧ spindleUnit st 64 u then
    let op := fun v => (640000000 * 40, max (st.nat O.holdoff v) 1280)
    addQ (op (sel / 256)) (op (sel % 256))
  else (0, 1)

/-- Costs of a mask set. -/
def maskLoad (st : Store) (m : Nat) : Nat × Nat :=
  let chs := ((List.range 32).map (fun i => 32 * st.nat O.maskSpindle m + i)).filter (maskSelects st m)
  let words := chs.foldl (fun a ch => addQ a (mulQ 12 (wordRate st ch))) (0, 1)
  let spans := if Nat.beq (st.nat O.maskMode m) 1 then (640000000, max (st.nat O.holdoff (st.nat O.maskTrigger m)) 1280)
    else (1000, max (st.nat O.maskInterval m) 1)
  addQ words (mulQ (300 * chs.length) spans)

/-- The exact load of spindle `sp` (R230). -/
def spindleLoad (st : Store) (sp : Nat) : Nat × Nat :=
  let a := (List.range 32).foldl (fun a i => addQ a (channelLoad st (32 * sp + i))) (0, 1)
  let a := (List.range 4).foldl (fun a i => addQ a (unitCost st (4 * sp + i))) a
  let a := (masksOn st sp).foldl (fun a m => addQ a (maskLoad st m)) a
  if Nat.beq (st.nat O.reelMode sp) 0 then a else addQ a (20000000, 1)

/-- SPINDLE_LOAD: rounded up. -/
def spindleLoadObj (st : Store) (sp : Nat) : Nat := let l := spindleLoad st sp; ceilDiv l.1 (max l.2 1)

/-- Every spindle's load fits (R230). -/
def spindleAdmit (st : Store) : Nat :=
  if (List.range 16).all (fun sp => let l := spindleLoad st sp; Nat.ble l.1 (900000000 * l.2)) then 0 else 0x04000040

/-- A reduction, a trigger unit that it evaluates, a mask set or a reel is configured on the spindle (R14), whatever it costs. -/
def spindleBusy (st : Store) (sp : Nat) : Bool :=
  (List.range 32).any (fun i => !Nat.beq (st.nat O.redSelect (32 * sp + i)) 255) || (List.range 4).any (fun i => spindleUnit st 64 (4 * sp + i)) ||
  !(masksOn st sp).isEmpty || !Nat.beq (st.nat O.reelMode sp) 0

/-! ### Core restart (R19, R241) -/

/-- A core restart begins: accumulators are wiped; every interval that runs is to be recomputed from its start (R241). -/
def spindlesDown (s : State) : State :=
  let s := s.each (List.range 512) (fun s ch =>
    let c := s.red ch
    match c.redo, c.acc with
    | some _, _ => s.setRed ch { c with live := [] }
    | none, some a => s.setRed ch { c with acc := none, redo := some { openAcc a.profIdx a.prof a.start with stop := a.stop, first := a.first, stored := a.stored } }
    | none, none => s)
  { s with spin := { s.spin with restarting := true, downSince := s.now } }

/-- A channel missed these words: where the bobbin does not hold them all, the crossing units have no previous word (R212). -/
def missedBreak (s : State) (ch : Nat) : State :=
  match (s.red ch).unev with
  | some (lo, hi) =>
    if wordsGone s ch lo (hi + 1) || (heldWords s ch lo (hi + 1)).isEmpty then
      s.each (crossUnits s.objs ch) (fun s u => s.setUnit u { s.unit u with prev := none })
    else s
  | none => s

/-- A spindle takes the words that it missed from the bobbins, in the order of their instants: what crossing units and mask sets find there
is stored and logged when it has recomputed, and their states stand as if they had run (R22, R241). -/
def spindleMissed (s : State) (k : Nat) : State :=
  let chs := ((List.range 32).map (32 * k + ·)).filter (fun ch => (s.red ch).unev.isSome)
  let ws := chs.flatMap (fun ch => match (s.red ch).unev with
    | some (lo, hi) => (heldWords s ch lo (hi + 1)).map (fun w => (w.1, ch, w.2.2))
    | none => [])
  let s := missedBacklog 4096 (s.each chs missedBreak)
  let s := (sortBy (fun w => w.1) ws).foldl (fun s w =>
    missedWord s w.2.1 w.1 (wordValue w.2.2) (bitOf w.2.2 7 || bitOf w.2.2 6 || bitOf w.2.2 5)) s
  s.each chs (fun s ch => s.setRed ch { s.red ch with unev := none })

/-- The restart ends: every spindle has its missed span to recompute (R241), and the unevaluated interval is logged (R19). -/
def spindlesUp (s : State) : State :=
  if !s.spin.restarting then s else
  let t0 := s.spin.downSince
  let s := s.ev Ev.spindleUnevaluated 0xFF (be 8 t0)
  let s := s.each (List.range 16) (fun s k => s.put O.recomputeBacklog k (ceilDiv (s.now - t0) frameTicks))
  let s := s.each (List.range 16) spindleMissed
  { s with spin := { s.spin with restarting := false, recompute := (List.range 16).map (fun k => (k, t0, s.now)) } }

/-- The slub records and events that wait for a spindle are stored and logged (R241). -/
def storeMissed (s : State) (k : Nat) : State :=
  let items := s.spin.late.filter (fun x => Nat.beq x.spindle k)
  let s : State := { s with spin := { s.spin with late := s.spin.late.filter (fun x => !Nat.beq x.spindle k) } }
  items.foldl (fun s x =>
    let s := match x.slub with | some (m, ch, t, b) => storeSlub s m ch t b | none => s
    x.events.foldl (fun s e => logEvent s e.1 ⟨e.2, false, false⟩) s) s

/-- A spindle finishes its recomputation (R241). -/
def recomputeSpindle (s : State) (k : Nat) : State :=
  if !s.spin.recompute.any (fun r => Nat.beq r.1 k) then s else
  let s := storeMissed (s.each ((List.range 32).map (32 * k + ·)) recomputeChannel) k
  ({ s with spin := { s.spin with recompute := s.spin.recompute.filter (fun r => !Nat.beq r.1 k) } } : State).put O.recomputeBacklog k 0

/-- At the end of every stream what still waits for a recomputation is done first, also that of a restart under way (R240, R241). -/
def finishRecompute (s : State) : State :=
  let s := if s.spin.restarting then s.each (List.range 16) spindleMissed else s
  let s := s.each (List.range 16) (fun s k => storeMissed (s.each ((List.range 32).map (32 * k + ·)) recomputeChannel) k)
  s.each (s.spin.recompute.map (·.1)) recomputeSpindle

/-- SPINDLE_STATE (Table 12.8); `gated` says that the spindle's group is off. -/
def spindleStateObj (s : State) (k : Nat) (gated : Bool) : Nat :=
  8 * b2n (s.spin.recompute.any (fun r => Nat.beq r.1 k)) + 4 * b2n s.spin.restarting + 2 * b2n gated + b2n (!s.spin.restarting && !gated)

end Sys2Proof.Machine
end

