-- ==== Sys2Proof/Machine/Pipeline.lean ====
section
/-! DEFINITION. From the hold to the consumers: raw words and injection records (R58, R80, R94, R125), drafting with its
parity faults and the OPEN_HOLD delay line (R56, R143), wire-break checks (R51), and the end of excitation settling (R75,
R367). -/

namespace Sys2Proof.Machine

/-! ### The OPEN_HOLD delay line (R56) -/

/-- The verdict of the first check of a kind that ends after a word's instant, 80 ticks behind its test hold: whether the
word is open by it; `none` while it is not known. -/
def holdVerdict (o : OpenTrack) (t : Nat) : Option Bool :=
  let after := fun v : Verdict => Nat.blt t (v.testHold + 80)
  match o.last with
  | none => none
  | some v =>
    if !after v then none
    else
      let first := match o.prev with
        | some p => if after p then p else v
        | none => v
      if !first.failed then some false
      else if first = v then some (match o.lastGood with | some g => Nat.blt g t | none => true)
      else some true

/-- Verdicts that a channel's word waits for: its own input check and its creel's sense-lead check, where enabled. -/
def waitingKinds (s : State) (ch : Nat) : List OpenTrack :=
  (if s.bool O.wbEnable ch then [s.inputTrack ch] else []) ++
    (if isB ch && s.bool O.excCheck (creelOf ch) then [(s.creel (creelOf ch)).sense] else [])

/-- Words at the head of a delay line that may leave, with OPEN set as their verdicts say, and the words that stay; a word whose instant
OPEN_HOLD does not cover waits for no verdict of its own (R21). -/
def releasable (ks : List OpenTrack) : List FeedEntry → List FeedEntry × List FeedEntry
  | [] => ([], [])
  | e :: l =>
    let vs := if e.hold then ks.map (fun o => holdVerdict o e.t) else []
    if vs.all (·.isSome) then
      let r := releasable ks l
      ((if vs.any (· = some true) then { e with word := setOpen e.word } else e) :: r.1, r.2)
    else ([], e :: l)

/-- Set a channel's delay line. -/
def setDelay (s : State) (ch : Nat) (l : List FeedEntry) : State :=
  { s with draft := { s.draft with delay := if l.isEmpty then Map.erase s.draft.delay ch else Map.set s.draft.delay ch l } }

/-- Pass on what a channel's delay line may release. -/
def releaseDelay (faults : FeedFaults) (s : State) (ch : Nat) : State :=
  match Map.find? s.draft.delay ch with
  | none => s
  | some l =>
    let r := releasable (waitingKinds s ch) l
    pushWords (setDelay s ch r.2) faults r.1

/-- Output words leave drafting: through the delay line where OPEN_HOLD is set at their instant (R21, R56, R140). -/
def emitWords (s : State) (faults : FeedFaults) (ch interval : Nat) (ws : List OutWord) : State :=
  let es := ws.map (fun w => { ch := w.ch, t := w.t, interval := interval, word := w.word, hold := (s.objsAt w.t).bool O.openHold ch : FeedEntry })
  let s := s.addK O.clipCount (O.clipCount.at ch) (ws.filter (fun w => bitOf w.word 2)).length
  let held := Map.getD s.draft.delay ch []
  if es.isEmpty then s
  else if es.any (·.hold) || !held.isEmpty then releaseDelay faults (setDelay s ch (held ++ es)) ch
  else pushWords s faults es

/-! ### Injection records (R94, Table 5.5) -/

/-- An injection record's bytes. -/
def injBytes (c : Nat) (r : InjRecord) : Bytes :=
  be 1 0x21 ++ be 1 c ++ be 1 r.samples.length ++ be 1 (128 * b2n r.start.late + r.start.cause) ++ be 2 r.start.source ++ be 1 r.mode
    ++ be 1 (2 * b2n r.aborted + b2n r.start.queued) ++ be 8 r.start.start
    ++ r.samples.flatMap (fun x => be 2 x.1 ++ be 1 x.2.1 ++ be 1 0 ++ be 4 x.2.2)

/-- Store the records of converter `c` that have all their samples; one without samples is dropped. -/
def finishInj (c : Nat) : Nat → State → State
  | 0, s => s
  | fuel + 1, s =>
    match Map.getD s.samp.injRecords c [] with
    | r :: l =>
      if r.expected = some r.samples.length then
        let s : State := { s with samp := { s.samp with injRecords := Map.set s.samp.injRecords c l } }
        let b := injBytes c r
        let s := if r.samples.isEmpty then s else (commitRecord s r.channel r.start.start b).putB O.injLast c b
        finishInj c fuel s
      else s
    | [] => s

/-- A formed injected sample joins its record. -/
def injSample (s : State) (c idx start raw t : Nat) : State :=
  let rec_ := fun r : InjRecord => Nat.beq r.start.start start && decide (r.expected ≠ some r.samples.length)
  let l := Map.getD s.samp.injRecords c []
  match l.find? rec_ with
  | some r0 =>
    let l := l.map (fun r => if r = r0 then { r with samples := r.samples ++ [(raw, idx, t - start)] } else r)
    finishInj c l.length { s with samp := { s.samp with injRecords := Map.set s.samp.injRecords c l } }
  | none => s

/-! ### RAW_WORD_FORMED -/

/-- Move the changes at the head of the grid island's queue on to drafting. -/
def passChanges : List GridItem → List GridItem × List DraftItem
  | .change t0 ch p a b :: l => let r := passChanges l; (r.1, .change t0 ch p a b :: r.2)
  | l => (l, [])

/-- Hand on the changes that no hold precedes. -/
def releaseChanges (s : State) : State :=
  let r := passChanges s.samp.holds
  { s with samp := { s.samp with holds := r.1 }, draft := { s.draft with queue := s.draft.queue ++ r.2 } }

/-- Form the raw word of a hold and pass it on (R80, R94, R125, R216, R254). -/
def formWord (s : State) (h : Hold) : State :=
  let f := finalFlags s h
  let raw := rawWord f.mark f.ovr h.code
  match h.inj with
  | some (c, idx, start) => injSample s c idx start raw h.t
  | none =>
    let s := if Nat.beq (s.nat O.reelFormat (h.ch / 32)) 0 then reelWord s (h.ch / 32) h.ch h.t raw else s
    let s := if Nat.beq (wordMode s h.ch h.t) 2 then commitWord s h.ch 2 h.t h.interval raw else s
    let fe := max h.fillEnd (blankEnd s.samp.blank h.blankSel h.blankTail h.t)
    let s : State := { s with cal := { s.cal with dev := max s.cal.dev (holdDev s h) } }
    { s with draft := { s.draft with queue := s.draft.queue ++ [.sample h.t h.ch h.path h.code f fe h.coef] } }

/-- Take the first hold from the grid island; `advance` moves time to 512 ticks after it. -/
def formNext (advance : Bool) (s : State) : State :=
  let s := releaseChanges s
  match s.samp.holds with
  | .hold h :: l =>
    let s : State := { s with samp := { s.samp with holds := l } }
    let s := if advance && s.time.pause.isNone then s.advance (h.t + 512) else s
    releaseChanges (formWord s h)
  | _ => s

/-- RAW_WORD_FORMED: the oldest hold's 512 ticks are over (R58, R80); the bobbin writer's staging may overflow (R27). -/
def execRawWordFormed (s : State) : Out := .next (overflowed s.samp.writerFault (formNext true) s)

/-! ### DRAFTING_INPUT -/

/-- Chain of a channel. -/
def State.chain (s : State) (ch : Nat) : Chain := Map.getD s.draft.chains ch {}
/-- Replace it. -/
def State.setChain (s : State) (ch : Nat) (c : Chain) : State := { s with draft := { s.draft with chains := Map.set s.draft.chains ch c } }

/-- Interval between a plan's output words. -/
def Plan.outInterval (p : Plan) : Nat := p.delta * p.profile.m

/-- Interval of a chain's words. -/
def Chain.interval (c : Chain) : Nat := match c.plan with | some p => p.outInterval | none => 0

/-- Clear a channel after a parity failure at `t`: SETTLE follows (R143). -/
def parityClear (s : State) (ch t : Nat) : State :=
  let c := s.chain ch
  (s.setChain ch { (c.clear t) with settleFrom := some (max (t + 1) (c.settleFrom.getD 0)) }).evAt Ev.draftParity ch t 0

/-- Channels that a parity failure marks: the channel itself, or every channel that uses its profile (R143). -/
def parityChannels (s : State) (ch : Nat) (profile : Bool) : List Nat :=
  if !profile then [ch] else
  let sel := match (s.chain ch).plan with | some p => p.profSel | none => s.nat O.profileSel ch
  (List.range 512).filter (fun c => Nat.beq c ch || (match (s.chain c).plan with | some p => Nat.beq p.profSel sel | none => false))

/-- One item of drafting's queue. -/
def draftItem (parity : Option Bool) (faults : FeedFaults) (s : State) : DraftItem → State
  | .change t0 ch plan act settle =>
    let c := s.chain ch
    let r := c.change ch t0 plan act settle
    emitWords (s.setChain ch r.1) faults ch c.interval r.2
  | .sample t ch _ code f fe co =>
    let bad := match parity with | some p => parityChannels s ch p | none => []
    let s := s.each bad (fun s c => s.setChain c { s.chain c with poison := true })
    let c := s.chain ch
    let r := if Nat.ble t c.clearedAt && Nat.blt 0 c.clearedAt then (c, []) else c.sample ch t code f fe co
    let s := emitWords (s.setChain ch r.1) faults ch r.1.interval r.2
    s.each bad (fun s c => parityClear s c t)

/-- Process changes up to and with the next sample. -/
def draftNext (parity : Option Bool) (faults : FeedFaults) : Nat → State → State
  | 0, s => s
  | fuel + 1, s =>
    match s.draft.queue with
    | [] => s
    | i :: l =>
      let s := draftItem parity faults { s with draft := { s.draft with queue := l } } i
      match i with
      | .sample .. => s
      | .change .. => draftNext parity faults fuel s

/-- DRAFTING_INPUT: the next code enters drafting and its words leave (R124). `parity` says that a read of the channel's
state, or of its profile's coefficients, fails parity (R143); `faults` are the feed queue's faults meanwhile (R243, R245). -/
def execDraftingInput (parity : Option Bool) (faults : FeedFaults) (s : State) : Out :=
  .next (overflowed faults.writer (draftNext parity faults s.draft.queue.length) s)

/-- Form and draft everything that is under way: at a re-epoch, at sleep, and where the sampling path stops (R177, R429). -/
def drainPipeline (s : State) : State :=
  let s := (List.range s.samp.holds.length).foldl (fun s _ => formNext false s) s
  let s := (List.range s.draft.queue.length).foldl (fun s _ => draftNext none {} s.draft.queue.length s) s
  let s := s.draft.delay.foldl (fun s x => pushWords (setDelay s x.1 []) {} x.2) s
  flushFeeds s

/-! ### WB_CHECK -/

/-- WB_CHECK: the pending run's next window of creel `k` (R49, R51 to R53, R56, R70). -/
def execWbCheck (k : Fin 32) (e : WbEnv) (faults : FeedFaults) (s : State) : Out :=
  let r := (s.creel k).wb
  match r.pending, (seqOf s.objs k).window (s.nat O.wbSoak k) with
  | j :: rest, some w =>
    let s := wbCheckAt s k j r.nextPeriod (r.nextPeriod + 128 * w) rest e
    .next (overflowed faults.writer (fun s => s.each ((List.range 16).map (16 * k.val + ·)) (releaseDelay faults)) s)
  | _, _ => .next s

/-! ### EXC_SETTLE_ELAPSED -/

/-- EXC_SETTLE_ELAPSED: EXC_SETTLE after the driver's last switching event; `sense` is the sense differential in nV (R75,
R367). -/
def execExcSettleElapsed (k : Fin 32) (sense : Int) (s : State) : Out :=
  let d := s.driver k
  if !d.settling then .next s
  else
    let s := s.advance d.settleAt
    let late := d.drill && excEnabled s k && outOfRegulation sense (s.nat O.excVoltage k)
    let s := s.setDriver k { d with settling := false, drill := false }
    .next (if late then s.ev Ev.twinDrillFault k else s)

end Sys2Proof.Machine
end

