-- ==== Sys2Proof/Machine/Dram.lean ====
section
/-! DEFINITION. The DRAM controllers (14_dram.md): geometry, address map and hashed windows, real-time allocations and their
admission, page policy, refresh, temperature, training, speed changes, errors, scrub and wipe. -/

namespace Sys2Proof.Machine

/-! ### Geometry and rates (R267, R268, Table 14.3) -/

/-- A geometry word's checks: fields, then the channel size (R268). -/
def geometryFormat (g : Nat) : Nat :=
  if !List.contains [4, 8, 16] (g / 65536 % 256) || !List.contains [1, 2] (g / 256 % 256) || !List.contains [8, 16] (g % 256) then 0x02000001
  else if Nat.ble 4096 (geometryMiB g / 2) && Nat.ble (geometryMiB g / 2) 16384 then 0 else 0x02000081

/-- Data rates of Table 14.3. -/
def dramRates : List Nat := [1600, 1866, 2133, 2400, 2666, 2933, 3200]

/-- Real-time budget in MB/s by data rate (Table 14.3). -/
def rtBudgetOf (rate : Nat) : Nat :=
  match rate with
  | 1600 => 15360 | 1866 => 17920 | 2133 => 20480 | 2400 => 23040 | 2666 => 25600 | 2933 => 28160 | 3200 => 30720
  | _ => 0

/-- The next lower data rate (R280). -/
def lowerRate (rate : Nat) : Option Nat := (dramRates.filter (fun r => Nat.blt r rate)).getLast?

/-! ### Address map (R272, R273, Tables 14.6, 14.7) -/

/-- A hashed window's content. -/
structure HashWindow where
  on : Bool
  base : Nat
  size : Nat
  lists : List (List Nat)
  deriving DecidableEq, Repr

/-- The bit positions of list `i`, 0xFF unused. -/
def hashList (b : Bytes) (i : Nat) : List Nat := ((List.range 8).map (fun j => field b (12 + 8 * i + j) 1)).filter (fun x => !Nat.beq x 255)

/-- Content of a HASH_WINDOW value. -/
def decodeHash (b : Bytes) : HashWindow := ⟨bitOf (field b 1 1) 0, field b 4 4, field b 8 4, (List.range 4).map (hashList b)⟩

/-- Linear bits of bank group 0, bank group 1, bank 0, bank 1 (Table 14.6). -/
def linearBits (width : Nat) : List (Option Nat) := if width = 16 then [some 6, none, some 14, some 15] else [some 6, some 7, some 15, some 16]

/-- First row bit, and the number of bits of the channel address below the rank bit. -/
def rowLow (width : Nat) : Nat := if width = 16 then 16 else 17
def rankBit (g : Nat) : Nat := 20 + Nat.log2 (geometryMiB g / 2 / max (g / 256 % 256) 1)

/-- The default window: bank bits from rows 0 to 7, bank-group bits from rows 8 to 11, from 512 MiB to the top (R273). -/
def defaultHash (g : Nat) (i : Nat) : Bytes :=
  let r := rowLow (g % 256)
  let pad := fun (l : List Nat) => (l ++ List.replicate 8 255).take 8
  let own := linearBits (g % 256)
  let rows := [[8, 10], [9, 11], [0, 2, 4, 6], [1, 3, 5, 7]]
  let lists := (own.zip rows).map (fun x => match x.1 with | some o => pad (o :: x.2.map (r + ·)) | none => List.replicate 8 255)
  if i = 0 then [1#8, 1#8, 0#8, 0#8] ++ be 4 512 ++ be 4 (geometryMiB g - 512) ++ lists.flatten.map (BitVec.ofNat 8)
  else [1#8] ++ zeros 11 ++ List.replicate 32 0xFF#8

/-- Window `i` as stored for the next reset. -/
def hashNext (st : Store) (i : Nat) : Bytes :=
  let b := st.bytesK O.hashWindowNext (O.hashWindowNext.key + i)
  if b.isEmpty then defaultHash (st.nat O.geometryNext) i else b

/-- The window checks of R273: layout first. -/
def hashFormat (st : Store) (i : Nat) (b : Bytes) : Nat :=
  let g := st.nat O.geometryNext
  let w := decodeHash b
  if !Nat.beq b.length 44 || !Nat.beq (field b 0 1) 1 || !Nat.beq (w.base % 64) 0 || !Nat.beq (w.size % 64) 0
    then 0x02000001
  else if !w.on then 0
  else
    let others := ((List.range 4).filter (fun j => !Nat.beq j i)).map (fun j => decodeHash (hashNext st j))
    let overlap := others.any (fun v => v.on && Nat.blt v.base (w.base + w.size) && Nat.blt w.base (v.base + v.size))
    let bad := (w.lists.zip (linearBits (g % 256))).any (fun x => match x.2 with
      | some o => !x.1.contains o || x.1.any (fun p => !Nat.beq p o && (Nat.blt p (rowLow (g % 256)) || Nat.ble (rankBit g) p))
      | none => !x.1.isEmpty)
    if overlap || Nat.blt w.base 512 || bad then 0x02000080 else 0

/-- Where a system address lies: channel, rank, bank group and bank as one number, row (R272, R273). -/
structure DramPlace where
  chan : Nat
  rank : Nat
  bank : Nat
  row : Nat
  deriving DecidableEq, Repr

/-- The place of a system address under the geometry, grain and windows in force. -/
def dramPlace (st : Store) (addr : Nat) : DramPlace :=
  let geo := st.nat O.geometry
  let g := 2 ^ st.nat O.grain
  let caddr := addr / (2 * g) * g + addr % g
  let win := ((List.range 4).map (fun i => decodeHash (st.bytesK O.hashWindow (O.hashWindow.key + i)))).find?
    (fun w => w.on && Nat.ble (w.base * 1048576) addr && Nat.blt addr ((w.base + w.size) * 1048576))
  let lin := linearBits (geo % 256)
  let bit := fun (i : Nat) => match win with
    | some w => (w.lists.getD i []).foldl (fun a p => a != bitOf caddr p) false
    | none => match lin.getD i none with | some p => bitOf caddr p | none => false
  let rb := rankBit geo
  { chan := addr / g % 2, rank := if Nat.beq (geo / 256 % 256) 2 then caddr / 2 ^ rb % 2 else 0,
    bank := b2n (bit 2) + 2 * b2n (bit 3) + 4 * b2n (bit 0) + 8 * b2n (bit 1),
    row := caddr % 2 ^ rb / 2 ^ rowLow (geo % 256) }

/-! ### Real-time allocations (R254, R269, R271) -/

/-- Input rate of a channel in words per second. -/
def inputRate (st : Store) (ch : Nat) : Nat × Nat :=
  match placeOf st ch with
  | some (delta, _, _) => (640000000, max delta 1)
  | none => (0, 1)

/-- Rate of slub records of a channel. -/
def slubRate (st : Store) (ch : Nat) : Nat × Nat :=
  ((masksOn st (ch / 32)).filter (fun m => maskSelects st m ch)).foldl (fun a m =>
    addQ a (if Nat.beq (st.nat O.maskMode m) 1 then (640000000, max (st.nat O.holdoff (st.nat O.maskTrigger m)) 1280) else (1000, max (st.nat O.maskInterval m) 1))) (0, 1)

/-- A channel's writer bandwidth in bytes per second: words by mode, and records at their tabulated rates (R254). -/
def channelBandwidth (st : Store) (ch : Nat) : Nat × Nat :=
  let mode := st.nat O.bobbinMode ch
  if Nat.beq mode 0 then (0, 1) else
  let words := if Nat.beq mode 1 then mulQ 4 (wordRate st ch) else mulQ 2 (inputRate st ch)
  let p := st.nat O.redSelect ch
  let red : Nat × Nat := if Nat.beq p 255 then (0, 1) else (80000, max (redOf st p).n 1)
  addQ (addQ words red) (mulQ 32 (slubRate st ch))

/-- Writer bandwidth of R254. -/
def writerBandwidth (st : Store) : Nat × Nat := (List.range 512).foldl (fun a ch => addQ a (channelBandwidth st ch)) (0, 1)

/-- Channels with a delay line that words pass through. -/
def holdChannels (st : Store) : List Nat := (List.range 512).filter (fun ch => st.bool O.openHold ch && (placeOf st ch).isSome)

/-- P0's allocation. -/
def allocP0 (st : Store) : Nat × Nat := (holdChannels st).foldl (fun a ch => addQ a (mulQ 8 (wordRate st ch))) (writerBandwidth st)

/-- P2's allocation. -/
def allocP2 (st : Store) : Nat × Nat :=
  (List.range 16).foldl (fun a r =>
    let mode := st.nat O.reelMode r
    if Nat.beq mode 0 then a else
    let a := (reelChannelsOf st r).foldl (fun a ch =>
      addQ a (if Nat.beq (st.nat O.reelFormat r) 0 then mulQ 2 (inputRate st ch) else mulQ 4 (wordRate st ch))) a
    if Nat.ble 2 mode && Nat.blt 0 (st.nat O.preCount r) then addQ a (4000000000, 1) else a) (0, 1)

/-- Sum of the three allocations in bytes per second. -/
def allocSum (st : Store) : Nat × Nat := addQ (addQ (allocP0 st) (allocP2 st)) (st.nat O.trunkReadAlloc * 1000000, 1)

/-- The rate that admission goes by: the rate in force, or before training DRAM_SPEED. -/
def admittedRate (st : Store) : Nat := let a := st.nat O.dramSpeedActive; if a = 0 then st.nat O.dramSpeed else a

/-- The allocations fit a rate's budget. -/
def fitsRate (st : Store) (rate : Nat) : Bool := let a := allocSum st; Nat.ble a.1 (rtBudgetOf rate * 1000000 * a.2)

/-- RT_ALLOC_i in MB/s, rounded up. -/
def rtAllocObj (st : Store) (i : Nat) : Nat :=
  let a := if i = 0 then allocP0 st else if i = 1 then (st.nat O.trunkReadAlloc * 1000000, 1) else allocP2 st
  ceilDiv a.1 (1000000 * max a.2 1)

/-- The hub holds the ROOT role (R369). -/
def rootHeld (st : Store) : Bool := Nat.beq (st.nat O.rootRole) 1 && !tapRole st

/-- MiB below the directory and the root work region, or the top of memory. -/
def reelTop (st : Store) : Nat := installedMiB st - (if rootHeld st then 640 else 0)

/-- Space left for the store: installed size less the system region, the root's regions and the reel extents (R271). -/
def storeSpace (st : Store) (ext : Map (Nat × Nat)) : Nat := min 24576 (reelTop st - 512 - (ext.map (fun e => e.2.2)).sum)

/-- A store of `n` MiB meets no reel extent. -/
def storeClear (n : Nat) (ext : Map (Nat × Nat)) : Bool := ext.all (fun e => Nat.beq e.2.2 0 || Nat.ble (512 + n) e.2.1)

/-- First fit for a reel extent: the lowest base above the store that meets no other extent (R271). -/
def firstFit (st : Store) (ext : Map (Nat × Nat)) (size : Nat) : Option Nat :=
  let lo := 512 + storeMiB st
  let cands := lo :: (ext.map (fun e => e.2.1 + e.2.2))
  let ok := cands.filter (fun b => Nat.ble lo b && Nat.ble (b + size) (reelTop st) &&
    ext.all (fun e => Nat.beq e.2.2 0 || Nat.ble (b + size) e.2.1 || Nat.ble (e.2.1 + e.2.2) b))
  ok.min?

/-- Bytes of the OPEN_HOLD delay lines (R271). -/
def delayBytes (st : Store) : Nat :=
  ((holdChannels st).map (fun ch =>
    let r := wordRate st ch
    let ticks := st.nat O.wbInterval (ch / 16) * frameTicks + (seqOf st (ch / 16)).p * slotTicks
    ceilDiv (4 * r.1 * ticks * 2) (max r.2 1 * 640000000 * 4096) * 4096)).sum

/-- Extents with reel `r`'s replaced for a new REEL_ALLOC; `none` when no place is free (R271). -/
def placeExtent (st : Store) (ext : Map (Nat × Nat)) (r : Nat) : Option (Map (Nat × Nat)) :=
  let size := st.nat O.reelAlloc r
  let rest := Map.erase ext r
  if size = 0 then some rest else (firstFit st rest size).map (fun b => Map.set rest r (b, size))

/-- Every reel's extent as its REEL_ALLOC asks, keeping those in place. -/
def placeExtents (st : Store) (ext : Map (Nat × Nat)) : Option (Map (Nat × Nat)) :=
  (List.range 16).foldl (fun e r => e.bind (fun e =>
    if Nat.beq ((Map.getD e r (0, 0)).2) (st.nat O.reelAlloc r) then some e else placeExtent st e r)) (some ext)

/-- The store and DRAM limits in the order of R269; 0 when none is broken. -/
def dramAdmit (ext : Map (Nat × Nat)) (old new : Store) : Nat :=
  let n := storeMiB new
  if Nat.blt (storeSpace new ext) n || !storeClear n ext then 0x04000051
  else if Nat.blt (storeHanks new) (allocatedHanks new) then 0x04000050
  else if Nat.blt 134217728 (delayBytes new) then 0x04000061
  else if (placeExtents new ext).isNone then 0x04000063
  else if fitsRate new (admittedRate new) then 0
  else
    let a := writerBandwidth old
    let b := writerBandwidth new
    if Nat.blt (a.1 * b.2) (b.1 * a.2) then 0x04000052 else 0x04000060

/-- RETENTION in seconds (R261). -/
def retentionOf (s : State) (ch : Nat) : Nat :=
  let b := channelBandwidth s.objs ch
  let h := usableHanks s.objs s.bob.usable ch
  let o := ((s.bobbin ch).hanks.filter (fun k => !k.sealed)).length
  if b.1 = 0 then 0 else (h - o) * 16384 * b.2 / b.1

/-! ### Ranks, rows, panic (R274, R276, R277, R279) -/

/-- Rank `k` (2 * channel + rank). -/
def State.rank (s : State) (k : Nat) : Rank := Map.getD s.dram.ranks k {}
/-- Replace it. -/
def State.setRank (s : State) (k : Nat) (r : Rank) : State := { s with dram := { s.dram with ranks := Map.set s.dram.ranks k r } }

/-- Ranks that the geometry has. -/
def rankList (st : Store) : List Nat := if Nat.beq (st.nat O.geometry / 256 % 256) 2 then [0, 1, 2, 3] else [0, 2]

/-- Close every row of a rank. -/
def closeRank (s : State) (k : Nat) : State :=
  { s with dram := { s.dram with rows := s.dram.rows.filter (fun x => !Nat.beq (x.1 / 16) k) } }

/-- PORT_HINT defaults of Table 14.4: 1 KEEP for P0 to P2, 2 CLOSE for P3 and P6, 0 NONE. -/
def portHintOf (st : Store) (p : Nat) : Nat :=
  (st.val (O.portHint.key + p) (.int (if Nat.ble p 2 then 1 else if p = 3 ∨ p = 6 then 2 else 0))).toInt.toNat

/-- PORT_WEIGHT defaults of Table 14.12. -/
def portWeightOf (st : Store) (p : Nat) : Nat :=
  (st.val (O.portWeight.key + p) (.int (if p = 3 ∨ p = 5 then 4 else if p = 4 then 8 else if p = 7 then 2 else 0))).toInt.toNat

/-- A request reaches its bank: its row opens or closes by the hint (R274), and a rank in power-down wakes. -/
def dramAccess (s : State) (r : DramReq) : State :=
  let p := dramPlace s.objs r.addr
  let k := 2 * p.chan + p.rank
  let hint := portHintOf s.objs r.port
  let s := s.setRank k { s.rank k with pd := false }
  let key := 16 * k + p.bank
  let gone := Nat.beq hint 2 || (Nat.beq hint 0 && Nat.beq (s.nat O.pageTimer) 0)
  { s with dram := { s.dram with rows := if gone then Map.erase s.dram.rows key else Map.set s.dram.rows key (p.row, hint) } }

/-- A waiting request counts as a row hit: its row is open, or it is older than 4,096 controller cycles (R275). -/
def requestHits (s : State) (r : DramReq) : Bool :=
  let p := dramPlace s.objs r.addr
  r.old || (match Map.find? s.dram.rows (16 * (2 * p.chan + p.rank) + p.bank) with | some (row, _) => Nat.beq row p.row | none => false)

/-- Of some waiting requests, oldest first, the one that is issued: the oldest hit, or else the oldest. -/
def hitFirst (s : State) (l : List DramReq) : Option DramReq := (l.find? (requestHits s)).orElse (fun _ => l.head?)

/-- The next port of P3, P4, P5 and P7 in the round with a request, and the grants it then has left: a port keeps its turn for PORT_WEIGHT
grants (R275). -/
def robinNext (st : Store) (robin : Nat × Nat) (l : List DramReq) : Nat × Nat :=
  if Nat.blt 0 robin.2 && l.any (fun r => Nat.beq r.port robin.1) then (robin.1, robin.2 - 1)
  else
    let order := ([3, 4, 5, 7].filter (fun p => Nat.blt robin.1 p)) ++ [3, 4, 5, 7].filter (fun p => Nat.ble p robin.1)
    match order.find? (fun p => l.any (fun r => Nat.beq r.port p)) with
    | some p => (p, portWeightOf st p - 1)
    | none => robin

/-- The first request in the order of Table 14.9 among those that wait, and the state of the round robin after it: ports in panic, lowest
first; P0 to P2; P3, P4, P5 and P7 in weighted rounds; scrub. -/
def nextRequest (s : State) (l : List DramReq) : Option (DramReq × (Nat × Nat)) :=
  let panicked := ([0, 1, 2].filter s.dram.panic.contains).map (fun p => l.filter (fun r => Nat.beq r.port p))
  match panicked.find? (fun x => !x.isEmpty) with
  | some x => (hitFirst s x).map (fun r => (r, s.dram.robin))
  | none =>
    match hitFirst s (l.filter (fun r => Nat.ble r.port 2)) with
    | some r => some (r, s.dram.robin)
    | none =>
      let ord := l.filter (fun r => Nat.beq r.port 3 || Nat.beq r.port 4 || Nat.beq r.port 5 || Nat.beq r.port 7)
      let hits := ord.filter (requestHits s)
      let ord := if hits.isEmpty then ord else hits
      let rb := robinNext s.objs s.dram.robin ord
      match ord.find? (fun r => Nat.beq r.port rb.1) with
      | some r => some (r, rb)
      | none => (hitFirst s l).map (fun r => (r, s.dram.robin))

/-- Requests that wait together are issued one after another (R275). -/
def issueRequests : Nat → State → List DramReq → State
  | 0, s, _ => s
  | fuel + 1, s, l =>
    match nextRequest s l with
    | some (r, rb) => issueRequests fuel (dramAccess { s with dram := { s.dram with robin := rb } } r) (l.erase r)
    | none => s

/-- A real-time port's measure in percent: staging full, or for P1 read-ahead empty (R276). -/
def panicStep (s : State) (p fill : Nat) : State :=
  let lvl := s.nat O.panicLevel
  if s.dram.panic.contains p then
    (if Nat.ble fill (lvl - 10) then { s with dram := { s.dram with panic := s.dram.panic.filter (fun q => !Nat.beq q p) } } else s)
  else if Nat.blt lvl fill then
    ({ s with dram := { s.dram with panic := s.dram.panic ++ [p] } } : State).addK O.panicCount (O.panicCount.key + p) 1
  else s

/-- `n` refreshes to a rank: its rows close, a due ZQCS goes with them (R277, R280). -/
def refreshRank (s : State) (k n : Nat) : State :=
  if n = 0 then s else
  let r := s.rank k
  closeRank (s.setRank k { r with debt := r.debt - n, zq := false, pd := false }) k

/-- REFRESH_INTERVAL: tREFI elapses for a rank (R277). `reqs` are the requests that reached the DRAM in the interval, in groups of those that
waited together, oldest first, which are issued in the order of Table 14.9; `fill` the staging measures of P0 to P2 in percent at its end;
`slots` how many refreshes order 5 of Table 14.9 had room for. -/
def execRefreshInterval (k : Fin 4) (reqs : List (List DramReq)) (fill : List Nat) (slots : Nat) (s : State) : Out :=
  if !(rankList s.objs).contains k.val then .next s else
  let s := reqs.foldl (fun s l => issueRequests l.length s l) s
  let s := fill.zipIdx.foldl (fun s x => if Nat.ble x.2 2 then panicStep s x.2 x.1 else s) s
  let r := s.rank k
  if r.sr then .next s else
  let s := s.setRank k { r with debt := min 8 (r.debt + 1) }
  if Nat.ble 8 (s.rank k).debt then .next (refreshRank s k 1)
  else if s.dram.panic.isEmpty then .next (refreshRank s k (min slots (s.rank k).debt))
  else .next s

/-- POWER_DOWN_IDLE: no request has reached the rank for PD_IDLE cycles (R279). -/
def execPowerDownIdle (k : Fin 4) (s : State) : Out :=
  let r := s.rank k
  let closed := !s.dram.rows.any (fun x => Nat.beq (x.1 / 16) k)
  if Nat.blt 0 (s.nat O.pdIdle) && closed && Nat.beq r.debt 0 && !r.sr && (rankList s.objs).contains k.val then .next (s.setRank k { r with pd := true })
  else .next s

/-- BANK_IDLE_TIMER: the bank's PAGE_TIMER expires; a row that KEEP left open stays (R274). -/
def execBankIdleTimer (k : Fin 4) (bank : Fin 16) (s : State) : Out :=
  let key := 16 * k.val + bank.val
  match Map.find? s.dram.rows key with
  | some (_, 0) => .next { s with dram := { s.dram with rows := Map.erase s.dram.rows key } }
  | _ => .next s

/-! ### Temperature (R278) -/

/-- A change to HOT: each rank that owes refreshes bursts them. -/
def goHot (s : State) : State :=
  let s := s.each (rankList s.objs) (fun s k =>
    let d := (s.rank k).debt
    if d = 0 || (s.rank k).sr then s else ((refreshRank s k d).bump O.refBurstCount).ev Ev.refBurst k (be 1 d))
  { s with dram := { s.dram with hot := true, cool := 0 } }

/-- DRAM_TEMP_EVAL: the regime is evaluated from TEMP_SOURCE. `mpr` says whether any component's readout shows above 85 °C,
`pmbus` is READ_TEMPERATURE_1 in 1/64 °C; `none` is a failed reading. -/
def execDramTempEval (mpr : Option Bool) (pmbus : Option Int) (s : State) : Out :=
  let src := s.nat O.tempSource
  let s := if Nat.beq src 1 then (match pmbus with | some t => s.putI O.dramTemp 0 t | none => s) else s.put O.dramTemp 0 0x7FFF
  let d := s.dram
  let above : Option (Bool × Bool) := if Nat.beq src 1 then pmbus.map (fun t => (decide (t > 85 * 64), decide (t < 83 * 64))) else mpr.map (fun h => (h, !h))
  match above with
  | none =>
    let n := d.failed + 1
    let s : State := { s with dram := { d with failed := n } }
    if Nat.beq n 3 then
      let s : State := { s with dram := { s.dram with lost := true } }
      let s := s.ev Ev.dramTempLost 0xFF
      .next (if d.hot then s else goHot s)
    else .next s
  | some (hot, cool) =>
    let s : State := { s with dram := { d with failed := 0, lost := false } }
    if !d.hot then .next (if hot then goHot s else s)
    else
      let n := if cool then d.cool + 1 else 0
      let back := Nat.ble (if Nat.beq src 1 then 1 else 2) n
      .next { s with dram := { s.dram with hot := !back, cool := if back then 0 else n } }

/-! ### Training and speed (R280 to R282) -/

/-- Training begins from ZQCL at a rate: owed refreshes are issued first, every bank is closed (R279, Table 14.11). -/
def trainAt (s : State) (rate : Nat) : State :=
  let s := s.each (rankList s.objs) (fun s k => closeRank (s.setRank k { s.rank k with debt := 0, pd := false, sr := false, zq := false }) k)
  { s with dram := { s.dram with training := some (1, rate), waiting := none, ready := false } }

/-- A frequency change is asked for: at once, or behind the running step; a later request replaces a waiting one and both are
logged (R281). -/
def speedRequest (s : State) (rate : Nat) : State :=
  let s := s.ev Ev.speedChange 0xFF (be 2 rate)
  if s.dram.training.isSome then
    let s := match s.dram.waiting with | some w => s.ev Ev.speedChange 0xFF (be 2 w) | none => s
    { s with dram := { s.dram with waiting := some rate } }
  else trainAt s rate

/-- A DRAM_SPEED value takes effect (R282). -/
def dramSpeedChanged (s : State) (rate : Nat) : State :=
  if Nat.beq rate (s.nat O.dramSpeedActive) && s.dram.training.isNone then s
  else speedRequest { s with dram := { s.dram with changing := true } } rate

/-- A step failed at a rate: the next lower one, or no READY (R280). -/
def trainFailed (s : State) (rate : Nat) : State :=
  match lowerRate rate with
  | some r => speedRequest s r
  | none => ({ s with dram := { s.dram with training := none, waiting := none, ready := false, broken := true } } : State).ev Ev.dramTrainFail 0xFF

/-- Training is complete: the rate is in force and traffic resumes (Table 14.11). -/
def trainDone (s : State) (rate : Nat) : State :=
  let s := (s.put O.dramSpeedActive 0 rate).put O.rtBudget 0 (rtBudgetOf rate)
  { s with dram := { s.dram with training := none, changing := false, ready := true } }

/-- TRAINING_STEP_END: a step of at most 2 ms ends, well or not (R280, R281). -/
def execTrainingStepEnd (ok : Bool) (s : State) : Out :=
  match s.dram.training with
  | none => .next s
  | some (n, rate) =>
    let s := if ok then s else trainFailed s rate
    match s.dram.training, s.dram.waiting with
    | some _, some w => .next (trainAt s w)
    | some _, none => .next (if Nat.ble 8 n then trainDone s rate else { s with dram := { s.dram with training := some (n + 1, rate) } })
    | none, _ => .next s

/-- ZQCS_PERIODIC: due every 128 ms, it goes with each rank's next refresh (R275, R280). -/
def execZqcsPeriodic (ok : Bool) (s : State) : Out :=
  let s := s.each (rankList s.objs) (fun s k => s.setRank k { s.rank k with zq := true })
  .next (if ok || s.dram.training.isSome then s else trainFailed s (s.nat O.dramSpeedActive))

/-- READ_GATE_UPDATE: every second; it holds its rank for at most 1 µs (R280). -/
def execReadGateUpdate (ok : Bool) (s : State) : Out :=
  .next (if ok || s.dram.training.isSome then s else trainFailed s (s.nat O.dramSpeedActive))

/-! ### Errors, scrub, wipe (R283 to R285) -/

/-- The word that a failing 64-bit word covers in a word hank: POISON, or CODE 0 with MARK (R283). -/
def ueWords (h : Hank) (off : Nat) : List Nat :=
  let n := if Nat.beq h.kind 1 then 2 else 4
  let first := off / 8 * n
  h.words.zipIdx.map (fun x => if Nat.ble first x.2 && Nat.blt x.2 (first + n) then
    (if Nat.beq h.kind 1 then setPoison x.1 else rawWord true (bitOf x.1 14) 0) else x.1)

/-- Records that end before a failing word (R283). -/
def recordsBefore (off : Nat) : Nat → List HeldRecord → List HeldRecord
  | _, [] => []
  | at_, r :: l => if Nat.ble (at_ + r.bytes.length) (off / 8 * 8) then r :: recordsBefore off (at_ + r.bytes.length) l else []

/-- A read meets an uncorrectable error in a hank (R283). -/
def ueHank (s : State) (u : UeHit) : State :=
  let b := s.bobbin u.ch
  match b.hanks[u.hank]? with
  | none => s
  | some h =>
    if Nat.beq h.kind 3 then
      if h.damaged then s else
      let h' := { h with damaged := true, recs := recordsBefore u.off 0 h.recs, sealed := true }
      let s := s.setBobbin u.ch { b with hanks := b.hanks.set u.hank h' }
      (bobGap s u.ch 9 2 h.first (h.last + 1)).ev Ev.dramUeRecords 0xFF (be 8 h.first ++ be 4 (h.last % 2 ^ 32))
    else s.setBobbin u.ch { b with hanks := b.hanks.set u.hank { h with words := ueWords h u.off, damaged := true } }

/-- An uncorrectable error at a system address (R283). -/
def dramUe (s : State) (addr : Nat) (hit : Option UeHit) : State :=
  let s := ((s.bump O.ueCount).put O.lastUeAddr 0 addr).ev Ev.dramUe 0xFF (be 8 addr)
  match hit with
  | some u => ueHank s u
  | none => s

/-- Uncorrectable errors that reads of hanks meet, with their system addresses (R283). -/
def dramUes (s : State) (l : List (Nat × UeHit)) : State := l.foldl (fun s x => dramUe s x.1 (some x.2)) s

/-- Corrected errors: counted, at most 10 logged per second (R283). -/
def dramCe (s : State) (addr : Nat) : State :=
  let s := s.bump O.ceCount
  let recent := s.dram.ceLogged.filter (fun t => Nat.blt s.now (t + secondTicks))
  if Nat.ble 10 recent.length then { s with dram := { s.dram with ceLogged := recent } }
  else ({ s with dram := { s.dram with ceLogged := recent ++ [s.now] } } : State).ev Ev.dramCe 0xFF (be 8 addr)

/-- The time between the reads of a scrub pass at the nominal rate, in 1/65536 tick (R284). -/
def scrubStep (st : Store) : Nat := st.nat O.scrubPeriod * secondTicks * 65536 / (installedMiB st * 16384)

/-- PATROL_SCRUB: the next burst is read and corrected when it is due, or, where time was lost, at up to four times the nominal rate; it waits
while a port is in panic and while throttled (R276, R284, R433). -/
def execPatrolScrub (found : ScrubRead) (s : State) : Out :=
  if !s.dram.panic.isEmpty || s.pwr.throttled || !s.dram.ready then .next s else
  let step := scrubStep s.objs
  let due := s.dram.scrubDue.getD (s.now * 65536)
  let t := max due (s.dram.scrubLast + step / 4)
  let s := s.advance (t / 65536)
  let s : State := { s with dram := { s.dram with scrubDue := some (due + step), scrubLast := t } }
  let a := s.dram.scrub
  let s := dramAccess s ⟨6, a, false⟩
  let s := match found with
    | .clean => s
    | .corrected n => (List.range n).foldl (fun s _ => dramCe s a) s
    | .uncorrectable hit => dramUe s a hit
  let next := a + 64
  let done := Nat.ble (installedMiB s.objs * 1048576) next
  let s : State := { s with dram := { s.dram with scrub := if done then 0 else next } }
  .next (if done then s.put O.scrubPassEnd 0 s.gridTime else s)

/-- DRAM_WIPE_ADVANCE: a further region of `mib` MiB is wiped, in ascending order; its hanks become usable (R253, R285). -/
def execDramWipeAdvance (mib : Nat) (s : State) : Out :=
  if !s.dram.wiping || !s.dram.ready then .next s else
  let n := min (s.nat O.wipeDone + mib) (installedMiB s.objs)
  let s := s.put O.wipeDone 0 n
  let u := min (storeHanks s.objs) ((n - 512) * 64)
  let s := s.put O.storeUsable 0 u
  .next { s with bob := { s.bob with usable := u }, dram := { s.dram with wiping := Nat.blt n (installedMiB s.objs) } }

/-- DRAM_STATE (Table 14.12). -/
def dramStateObj (s : State) : Nat :=
  let d := s.dram
  32 * b2n d.wiping + 16 * b2n (d.changing || d.waiting.isSome) + 8 * b2n d.hot + 4 * b2n d.lost + 2 * b2n d.training.isSome + b2n d.ready

end Sys2Proof.Machine
end

