-- ==== Sys2Proof/Machine/Crypto.lean ====
section
/-! DEFINITION. The algorithms that the spec names by standard: SHA-256 (FIPS 180-4), HMAC-SHA-256 (RFC 2104; R346, R347)
and ECDSA P-256 verification (FIPS 186-5; R403). -/

namespace Sys2Proof.Machine

/-! ### SHA-256 -/

/-- Round constants of SHA-256. -/
def shaK : List (BitVec 32) :=
    [0x428A2F98, 0x71374491, 0xB5C0FBCF, 0xE9B5DBA5, 0x3956C25B, 0x59F111F1, 0x923F82A4, 0xAB1C5ED5] ++
    [0xD807AA98, 0x12835B01, 0x243185BE, 0x550C7DC3, 0x72BE5D74, 0x80DEB1FE, 0x9BDC06A7, 0xC19BF174] ++
    [0xE49B69C1, 0xEFBE4786, 0x0FC19DC6, 0x240CA1CC, 0x2DE92C6F, 0x4A7484AA, 0x5CB0A9DC, 0x76F988DA] ++
    [0x983E5152, 0xA831C66D, 0xB00327C8, 0xBF597FC7, 0xC6E00BF3, 0xD5A79147, 0x06CA6351, 0x14292967] ++
    [0x27B70A85, 0x2E1B2138, 0x4D2C6DFC, 0x53380D13, 0x650A7354, 0x766A0ABB, 0x81C2C92E, 0x92722C85] ++
    [0xA2BFE8A1, 0xA81A664B, 0xC24B8B70, 0xC76C51A3, 0xD192E819, 0xD6990624, 0xF40E3585, 0x106AA070] ++
    [0x19A4C116, 0x1E376C08, 0x2748774C, 0x34B0BCB5, 0x391C0CB3, 0x4ED8AA4A, 0x5B9CCA4F, 0x682E6FF3] ++
    [0x748F82EE, 0x78A5636F, 0x84C87814, 0x8CC70208, 0x90BEFFFA, 0xA4506CEB, 0xBEF9A3F7, 0xC67178F2]

/-- Initial hash value of SHA-256. -/
def shaInit : List (BitVec 32) :=
    [0x6A09E667, 0xBB67AE85, 0x3C6EF372, 0xA54FF53A, 0x510E527F, 0x9B05688C, 0x1F83D9AB, 0x5BE0CD19]

/-- Rotate right. -/
def rotr (x : BitVec 32) (n : Nat) : BitVec 32 := x.rotateRight n

/-- The message schedule, newest word first: `n` further words. -/
def shaSchedule : Nat → List (BitVec 32) → List (BitVec 32)
  | 0, w => w
  | n + 1, w =>
    let a := w.getD 1 0
    let b := w.getD 14 0
    let s1 := rotr a 17 ^^^ rotr a 19 ^^^ (a >>> 10)
    let s0 := rotr b 7 ^^^ rotr b 18 ^^^ (b >>> 3)
    shaSchedule n ((s1 + w.getD 6 0 + s0 + w.getD 15 0) :: w)

/-- One round on the eight working variables. -/
def shaRound (v : List (BitVec 32)) (kw : BitVec 32 × BitVec 32) : List (BitVec 32) :=
  match v with
  | [a, b, c, d, e, f, g, h] =>
    let t1 := h + (rotr e 6 ^^^ rotr e 11 ^^^ rotr e 25) + ((e &&& f) ^^^ (~~~ e &&& g)) + kw.1 + kw.2
    let t2 := (rotr a 2 ^^^ rotr a 13 ^^^ rotr a 22) + ((a &&& b) ^^^ (a &&& c) ^^^ (b &&& c))
    [t1 + t2, a, b, c, d + t1, e, f, g]
  | _ => v

/-- The compression function on one block of 64 bytes. -/
def shaBlock (h : List (BitVec 32)) (block : Bytes) : List (BitVec 32) :=
  let w0 := ((List.range 16).map (fun i => BitVec.ofNat 32 (field block (4 * i) 4))).reverse
  let w := (shaSchedule 48 w0).reverse
  List.zipWith (· + ·) h ((shaK.zip w).foldl shaRound h)

/-- The padded message. -/
def shaPad (b : Bytes) : Bytes :=
  b ++ [0x80#8] ++ zeros ((119 - b.length % 64) % 64) ++ be 8 (8 * b.length)

/-- Hash the blocks of a padded message. -/
def shaBlocks : Nat → Bytes → List (BitVec 32) → List (BitVec 32)
  | 0, _, h => h
  | n + 1, b, h => shaBlocks n (b.drop 64) (shaBlock h (b.take 64))

/-- SHA-256. -/
def sha256 (b : Bytes) : Bytes :=
  let p := shaPad b
  (shaBlocks (p.length / 64) p shaInit).flatMap (fun x => be 4 x.toNat)

/-! ### HMAC -/

/-- HMAC-SHA-256 (RFC 2104). -/
def hmac (key msg : Bytes) : Bytes :=
  let k := fit 64 (if Nat.blt 64 key.length then sha256 key else key)
  sha256 (k.map (· ^^^ 0x5C#8) ++ sha256 (k.map (· ^^^ 0x36#8) ++ msg))

/-! ### ECDSA P-256 -/

/-- Field prime, group order, curve coefficient b and base point of P-256. -/
def p256P : Nat := 0xFFFFFFFF00000001000000000000000000000000FFFFFFFFFFFFFFFFFFFFFFFF
def p256N : Nat := 0xFFFFFFFF00000000FFFFFFFFFFFFFFFFBCE6FAADA7179E84F3B9CAC2FC632551
def p256B : Nat := 0x5AC635D8AA3A93E7B3EBBD55769886BC651D06B0CC53B0F63BCE3C3E27D2604B
def p256G : Nat × Nat :=
  (0x6B17D1F2E12C4247F8BCE6E563A440F277037D812DEB33A0F4A13945D898C296,
   0x4FE342E2FE1A7F9B8EE7EB4A7C0F9E162BCE33576B315ECECBB6406837BF51F5)

/-- `a^e mod m`, for an exponent of at most `fuel` bits. -/
def powMod (m : Nat) : Nat → Nat → Nat → Nat
  | 0, _, _ => 1 % m
  | fuel + 1, a, e =>
    let r := powMod m fuel (a * a % m) (e / 2)
    if e % 2 = 1 then a * r % m else r

/-- The inverse modulo a prime. -/
def invMod (m a : Nat) : Nat := powMod m 256 (a % m) (m - 2)

/-- A point: affine coordinates, or none for the point at infinity. -/
abbrev Point := Option (Nat × Nat)

/-- Point addition on P-256. -/
def pointAdd (a b : Point) : Point :=
  match a, b with
  | none, _ => b
  | _, none => a
  | some (x1, y1), some (x2, y2) =>
    let p := p256P
    if x1 = x2 && (y1 + y2) % p = 0 then none
    else
      let l := if x1 = x2 then (3 * x1 * x1 + (p - 3)) * invMod p (2 * y1) % p
        else (y2 + (p - y1)) * invMod p (x2 + (p - x1)) % p
      let x3 := (l * l + (p - x1) + (p - x2)) % p
      some (x3, (l * (x1 + (p - x3)) + (p - y1)) % p)

/-- Scalar multiplication, for a scalar of at most `fuel` bits. -/
def pointMul : Nat → Nat → Point → Point
  | 0, _, _ => none
  | fuel + 1, k, q =>
    let r := pointMul fuel (k / 2) (pointAdd q q)
    if k % 2 = 1 then pointAdd q r else r

/-- The point lies on P-256. -/
def onCurve (x y : Nat) : Bool :=
  let p := p256P
  Nat.blt x p && Nat.blt y p && Nat.beq (y * y % p) ((x * x * x + (p - 3) * x + p256B) % p)

/-- ECDSA verification of a 64-byte signature r ‖ s over a message, with a 65-byte uncompressed SEC1 key (R403). -/
def ecdsaVerify (key msg sig : Bytes) : Bool :=
  let x := field key 1 32
  let y := field key 33 32
  let r := field sig 0 32
  let s := field sig 32 32
  let n := p256N
  let e := beNat (sha256 msg)
  let w := invMod n s
  Nat.beq key.length 65 && Nat.beq (field key 0 1) 4 && Nat.beq sig.length 64 && onCurve x y
    && Nat.blt 0 r && Nat.blt r n && Nat.blt 0 s && Nat.blt s n
    && (match pointAdd (pointMul 256 (e * w % n) (some p256G)) (pointMul 256 (r * w % n) (some (x, y))) with
      | some (px, _) => Nat.beq (px % n) r
      | none => false)

end Sys2Proof.Machine
end

