-- ==== Sys2Proof/Machine/Mailbox.lean ====
section
/-! DEFINITION. The host port's registers and mailboxes as state that other chapters act on: interrupt bits (R391), HUB_STATUS
with its interrupt (Table 20.4), posting and destroying messages, and the fate of messages under resets (R398, R399). -/

namespace Sys2Proof.Machine

namespace State

/-- Change the host port. -/
def setHost (s : State) (f : HostState → HostState) : State := { s with host := f s.host }

/-- Mailbox `n`: 0 NS0, 1 NS1, 2 S0, 3 S1. -/
def mailbox (s : State) (n : Nat) : Mailbox := Map.getD s.host.mb n {}

def setMailbox (s : State) (n : Nat) (m : Mailbox) : State := s.setHost (fun h => { h with mb := Map.set h.mb n m })

/-- Set a bit of IRQ_STATUS on the page of mailbox `n` (R391). -/
def setIrq (s : State) (sec : Bool) (bit : Nat) : State :=
  s.setHost (fun h => if sec then { h with sec := { h.sec with irqStatus := h.sec.irqStatus ||| 2 ^ bit } }
    else { h with ns := { h.ns with irqStatus := h.ns.irqStatus ||| 2 ^ bit } })

/-- Set mailbox `n`'s bit in IRQ_STATUS: 0 IN_FULL set, 1 OUT_FULL cleared, 2 error (Table 20.4). -/
def mbIrq (s : State) (n bit : Nat) : State := s.setIrq (Nat.ble 2 n) (4 * (n % 2) + bit)

/-- HUB_STATUS changes: bit 8 of both pages is set (Table 20.4, Table 17.9). -/
def setStatus (s : State) (v : Nat) : State :=
  if Nat.beq (s.nat O.hubStatus) v then s else ((s.put O.hubStatus 0 v).setIrq false 8).setIrq true 8

/-- The hub's mailbox epoch (Table 20.7). -/
def hubEpoch (s : State) : Nat := s.nat O.restartCount % 256

/-- The distaff serves the mailboxes (Table 22.4, HP_STATUS[2], MB_STATUS[1]). -/
def mbServed (s : State) : Bool := s.pwr.booted && s.pwr.restart.isNone && s.pwr.sleep.isNone && !Nat.beq (s.nat O.hubStatus) 4

/-- MB_STATUS of mailbox `n` (Table 20.7). -/
def mbStatus (s : State) (n : Nat) : Nat :=
  let m := s.mailbox n
  128 * b2n m.outFull + 64 * b2n m.inFull + 32 * b2n m.collision + 16 * b2n m.discarded + 8 * b2n m.crossed + 4 * b2n m.oldEpoch
    + 2 * b2n s.mbServed

end State

/-- Entry into READY: HUB_STATUS, READY_TIME and the READY event (Tables 17.9 and 17.11); CAL_ON_START's request is due again
(R113). -/
def enterReady (s : State) (t : Nat) : State :=
  let s : State := { s with cal := { s.cal with onStartDone := false } }
  ((s.setStatus 1).put O.readyTime 0 t).evAt Ev.ready 0xFF t 0

/-- A host message that a hub reset destroys unread: DISCARDED_BY_RESET, its count, event and interrupt (R398). -/
def destroyOut (s : State) (n : Nat) : State :=
  let m := s.mailbox n
  let lost := b2n m.outFull + b2n m.reserve.isSome
  let s := s.setMailbox n { m with outFull := false, reserve := none, fullSince := none, discarded := m.discarded || Nat.blt 0 lost }
  let s := if m.outFull then s.mbIrq n 1 else s
  if Nat.beq lost 0 then s else (((s.add O.discardCount n lost).mbIrq n 2).ev Ev.mbDiscarded 0xFF)

/-- A core restart at one mailbox (Table 20.9): the unread host message is destroyed, the inbound one kept, partial bodies and
unsent fragments are lost. -/
def mbRestart (s : State) (n : Nat) : State :=
  let s := destroyOut s n
  s.setMailbox n { s.mailbox n with part := none, responses := [], posted := 0, seq := 0 }

/-- Sessions bound to mailbox `n` close (Table 20.9). -/
def closeMailboxSessions (s : State) (n : Nat) : State :=
  { s with dict := { s.dict with sessions := s.dict.sessions.filter (fun x => match x.path with
      | .mailbox k => !Nat.beq k.val n
      | .twine _ _ => true) } }

/-- A port reset of mailbox `n` (Table 20.9, R391): messages, FULL bits, MB_STATUS[5:2], the partial body and what is queued
go, the session bound to it closes, and its interrupt bits clear. -/
def mbPortReset (s : State) (n : Nat) : State :=
  let m := s.mailbox n
  let lost := b2n m.outFull + b2n m.reserve.isSome + b2n m.inFull
  let s := s.setMailbox n { hostEpoch := m.hostEpoch, out := m.out, inn := m.inn }
  let keep := fun (v : Nat) => v &&& (0xFFFFFFFF - 7 * 2 ^ (4 * (n % 2)))
  let s := s.setHost (fun h => if Nat.ble 2 n then { h with sec := { h.sec with irqStatus := keep h.sec.irqStatus } }
    else { h with ns := { h.ns with irqStatus := keep h.ns.irqStatus } })
  let s := s.add O.discardCount n lost
  (closeMailboxSessions s n).ev Ev.mbPortReset 0xFF

/-- FLUSH_IN of mailbox `n`: the inbound message and the rest of its response body go (Table 20.9). -/
def mbFlushIn (s : State) (n : Nat) : State :=
  let m := s.mailbox n
  if !m.inFull then s else
  let s := s.setMailbox n { m with inFull := false, fullSince := none, posted := 0, seq := 0,
                                   responses := if Nat.beq m.posted 0 then m.responses else m.responses.drop 1 }
  s.add O.discardCount n 1

/-- The internal pairs when the distaff, the secure core and every spindle restart (R399): messages unread by a restarted
side are destroyed, and their senders' status shows it. -/
def internalRestart (s : State) : State :=
  s.setHost (fun h => { h with internal := h.internal.map (fun x => (x.1,
    { toDistaff := none, fromDistaff := none, peerDiscarded := x.2.peerDiscarded || x.2.toDistaff.isSome,
      distaffDiscarded := x.2.distaffDiscarded || x.2.fromDistaff.isSome,
      discards := x.2.discards + b2n x.2.toDistaff.isSome + b2n x.2.fromDistaff.isSome })) })

end Sys2Proof.Machine
end

