-- ==== Sys2Proof/Machine/Boot.lean ====
section
/-! DEFINITION. The boot flash and secure boot (21_update_lifecycle.md): slot pointer copies (R402), signed manifests (R403),
key slots (R412), and the boot ROM's choice of a slot (R411). -/

namespace Sys2Proof.Machine

/-! ### CBOR (R403, RFC 8949) -/

/-- A CBOR item with definite lengths and without floating-point values. -/
inductive Cbor where
  | uint (n : Nat)
  | nint (n : Nat)
  | bstr (b : Bytes)
  | tstr (b : Bytes)
  | arr (l : List Cbor)
  | map (l : List Cbor)
  | tag (n : Nat) (l : List Cbor)
  | simple (n : Nat)
  deriving Repr

/-- The head of an item: major type, additional information, argument, rest.  Indefinite lengths and reserved forms have none. -/
def cborHead : Bytes → Option (Nat × Nat × Nat × Bytes)
  | [] => none
  | b :: l =>
    let mt := b.toNat / 32
    let info := b.toNat % 32
    let n := if Nat.blt info 24 then 0 else if Nat.ble info 27 then 2 ^ (info - 24) else 9
    if Nat.ble 28 info then none
    else if Nat.blt l.length n then none
    else some (mt, info, if Nat.blt info 24 then info else beNat (l.take n), l.drop n)

/-- `n` items in sequence and what follows them. -/
def cborItems : Nat → Nat → Bytes → Option (List Cbor × Bytes)
  | 0, _, _ => none
  | _, 0, b => some ([], b)
  | fuel + 1, n + 1, b =>
    match cborHead b with
    | none => none
    | some (mt, info, v, rest) =>
      let item : Option (Cbor × Bytes) :=
        match mt with
        | 0 => some (.uint v, rest)
        | 1 => some (.nint v, rest)
        | 2 => if Nat.ble v rest.length then some (.bstr (rest.take v), rest.drop v) else none
        | 3 => if Nat.ble v rest.length then some (.tstr (rest.take v), rest.drop v) else none
        | 4 => if Nat.ble v rest.length then (cborItems fuel v rest).map (fun x => (.arr x.1, x.2)) else none
        | 5 => if Nat.ble (2 * v) rest.length then (cborItems fuel (2 * v) rest).map (fun x => (.map x.1, x.2)) else none
        | 6 => (cborItems fuel 1 rest).map (fun x => (.tag v x.1, x.2))
        | _ => if Nat.blt info 24 || Nat.beq info 24 && Nat.ble 32 v then some (.simple v, rest) else none
      match item with
      | none => none
      | some (c, rest) => (cborItems fuel n rest).map (fun x => (c :: x.1, x.2))

/-- One item that takes all of the bytes. -/
def cborWhole (b : Bytes) : Option Cbor :=
  match cborItems (2 * b.length + 2) 1 b with
  | some ([c], []) => some c
  | _ => none

/-- The integer key of a map entry. -/
def Cbor.key? : Cbor → Option Int
  | .uint n => some n
  | .nint n => some (-1 - (n : Int))
  | _ => none

/-- A map's entries by integer keys; `none` on another key type or a key named twice. -/
def cborEntries : List Cbor → Option (List (Int × Cbor))
  | [] => some []
  | [_] => none
  | k :: v :: l =>
    match k.key?, cborEntries l with
    | some i, some es => if es.any (fun e => decide (e.1 = i)) then none else some ((i, v) :: es)
    | _, _ => none

/-- The entries of a map item. -/
def Cbor.entries? : Cbor → Option (List (Int × Cbor))
  | .map l => cborEntries l
  | _ => none

/-- The entry under a key. -/
def entryAt (es : List (Int × Cbor)) (k : Int) : Option Cbor := (es.find? (fun e => decide (e.1 = k))).map (·.2)

def Cbor.uint? : Cbor → Option Nat
  | .uint n => some n
  | _ => none

def Cbor.bstr? : Cbor → Option Bytes
  | .bstr b => some b
  | _ => none

/-- A byte string of a length. -/
def Cbor.bstrN? (n : Nat) : Cbor → Option Bytes
  | .bstr b => if Nat.beq b.length n then some b else none
  | _ => none

def Cbor.bool? : Cbor → Option Bool
  | .simple 20 => some false
  | .simple 21 => some true
  | _ => none

/-- Every key is one of a list. -/
def onlyKeys (es : List (Int × Cbor)) (ks : List Int) : Bool := es.all (fun e => ks.contains e.1)

/-! ### The manifest (R403, Table 21.3) -/

/-- A signed manifest: its fields, its key slot and key, what is signed, and the signature. -/
structure Signed where
  manifest : Manifest
  keySlot : Nat
  key : Bytes
  toBeSigned : Bytes
  sig : Bytes

/-- A part map (R403). -/
def partMapOf (c : Cbor) : Option PartMap := do
  let es ← c.entries?
  if !onlyKeys es [1, 2, 3, 4, 5, 6] then none
  let part ← (← entryAt es 1).uint?
  let size ← (← entryAt es 2).uint?
  let digest ← (← entryAt es 3).bstrN? 32
  let base ← match entryAt es 4 with
    | some b => (b.bstrN? 32).map some
    | none => some none
  let offset ← (← entryAt es 5).uint?
  let length ← (← entryAt es 6).uint?
  if Nat.ble 1 part && Nat.ble part 7 then some ⟨part, size, digest, base, offset, length⟩ else none

/-- The payload map: keys of Table 21.3, each once, and no other. -/
def payloadOf (keySlot : Nat) (b : Bytes) : Option Manifest := do
  let es ← (← cborWhole b).entries?
  if !onlyKeys es [1, 2, 3, 4, 5, 6, 7, 8] then none
  let format ← (← entryAt es 1).uint?
  let device ← match ← entryAt es 2 with
    | .tstr d => some d
    | _ => none
  let seq ← (← entryAt es 3).uint?
  let minSilicon ← (← entryAt es 4).uint?
  let parts ← match ← entryAt es 5 with
    | .arr l => l.mapM partMapOf
    | _ => none
  let ack ← (← entryAt es 6).bool?
  let size ← (← entryAt es 7).uint?
  let digest ← (← entryAt es 8).bstrN? 32
  let names := parts.map (·.part)
  if Nat.beq format 1 && device == [0x5A#8, 0x48#8, 0x35#8, 0x31#8, 0x32#8] && Nat.blt seq (2 ^ 32) && Nat.blt minSilicon (2 ^ 16)
      && Nat.ble 1 parts.length && Nat.ble parts.length 7 && decide names.Nodup then
    some ⟨seq, minSilicon, parts, ack, size, digest, keySlot⟩
  else none

/-- The length head of a CBOR item, shortest form, of a major type. -/
def cborLen (mt n : Nat) : Bytes :=
  if Nat.blt n 24 then be 1 (mt * 32 + n) else if Nat.blt n 256 then be 1 (mt * 32 + 24) ++ be 1 n
  else if Nat.blt n 65536 then be 1 (mt * 32 + 25) ++ be 2 n else be 1 (mt * 32 + 26) ++ be 4 n

/-- RFC 9052's Sig_structure of a COSE_Sign1: the array ["Signature1", protected, external AAD (empty), payload]. -/
def sigStructure (prot payload : Bytes) : Bytes :=
  cborLen 4 4 ++ cborLen 3 10 ++ [0x53#8, 0x69#8, 0x67#8, 0x6E#8, 0x61#8, 0x74#8, 0x75#8, 0x72#8, 0x65#8, 0x31#8]
    ++ cborLen 2 prot.length ++ prot ++ cborLen 2 0 ++ cborLen 2 payload.length ++ payload

/-- A tagged COSE_Sign1 (R403): `none` when any of the rule's forms is broken. -/
def signedOf (b : Bytes) : Option Signed := do
  let l ← match ← cborWhole b with
    | .tag 18 [.arr l] => some l
    | _ => none
  match l with
  | [.bstr prot, unprot, .bstr payload, .bstr sig] =>
    let us ← unprot.entries?
    let es ← (← cborWhole prot).entries?
    if !us.isEmpty || !onlyKeys es [1, 4, -65537] then none
    let alg ← (← entryAt es 1).key?
    let kid ← (← entryAt es 4).bstrN? 1
    let key ← (← entryAt es (-65537)).bstrN? 65
    if alg ≠ -7 || !Nat.ble (beNat kid) 1 || !Nat.beq sig.length 64 then none
    let m ← payloadOf (beNat kid) payload
    some ⟨m, beNat kid, key, sigStructure prot payload, sig⟩
  | _ => none

/-! ### Slots, pointer and keys -/

/-- The pointer copy that the boot ROM uses: the valid one with the larger GENERATION (R402). -/
def NvmState.pointer (n : NvmState) : SlotPointer :=
  match n.ptr0, n.ptr1 with
  | some a, some b => if Nat.ble b.gen a.gen then a else b
  | some a, none => a
  | none, some b => b
  | none, none => { gen := 0, active := 0 }

/-- Every change of the pointer writes the other copy, GENERATION raised by 1 (R402). -/
def NvmState.writePointer (n : NvmState) (f : SlotPointer → SlotPointer) : NvmState :=
  let p := n.pointer
  let q := { f p with gen := p.gen + 1 }
  if n.ptr0 = some p then { n with ptr1 := some q } else { n with ptr0 := some q }

/-- The 16 bytes of a pointer copy (Table 21.2). -/
def pointerBytes (p : SlotPointer) : Bytes :=
  let b := be 4 p.gen ++ be 1 p.active ++ be 1 (4 * b2n p.failedB + 2 * b2n p.failedA + b2n p.trial) ++ be 1 p.boots ++ zeros 5
  b ++ be 4 (crc32c b)

/-- Slot 0 is A, slot 1 is B. -/
def NvmState.slot (n : NvmState) (i : Nat) : Slot := if Nat.beq i 0 then n.slotA else n.slotB
def NvmState.setSlot (n : NvmState) (i : Nat) (x : Slot) : NvmState := if Nat.beq i 0 then { n with slotA := x } else { n with slotB := x }

/-- Mark a slot failed, in the pointer's flag and in the slot's state (Table 21.2, Table 21.13). -/
def SlotPointer.fail (p : SlotPointer) (i : Nat) : SlotPointer := if Nat.beq i 0 then { p with failedA := true } else { p with failedB := true }
def SlotPointer.pass (p : SlotPointer) (i : Nat) : SlotPointer := if Nat.beq i 0 then { p with failedA := false } else { p with failedB := false }
def NvmState.failSlot (n : NvmState) (i : Nat) : NvmState := n.setSlot i { n.slot i with state := 2 }

/-- The bytes of part `i`, 1 to 7, in a slot. -/
def Slot.part (x : Slot) (i : Nat) : Bytes := (x.parts.getD (i - 1) none).getD (Config.factoryPart i)

/-- Hash and revocation of key slot `k` (R412). -/
def NvmState.keyHash (n : NvmState) (k : Nat) : Option Bytes := if Nat.beq k 0 then n.keyHash0 else n.keyHash1
def NvmState.revoked (n : NvmState) (k : Nat) : Bool := if Nat.beq k 0 then n.revoked0 else n.revoked1
def NvmState.keyUsable (n : NvmState) (k : Nat) : Bool := (n.keyHash k).isSome && !n.revoked k

/-- The provisioned, unrevoked key slot under which an image verifies: the one its manifest names, or for the factory image
the one that holds the release key's hash (R411, Table 21.10). -/
def NvmState.verifiedBy (n : NvmState) (x : Slot) : Option Nat :=
  if x.factory then [0, 1].find? (fun k => n.keyUsable k && n.keyHash k == some Config.factoryKeyHash)
  else if n.keyUsable x.keySlot then some x.keySlot else none

/-- The boot ROM accepts the image in slot `i` (R411, Table 21.10); `bad` names slots whose flash content fails a check. -/
def NvmState.bootable (n : NvmState) (bad : List (Fin 2)) (i : Nat) : Bool :=
  let x := n.slot i
  !Nat.beq x.state 0 && !Nat.beq n.lc 4 && !(bad.any (fun b => Nat.beq b.val i))
    && ((n.verifiedBy x).isSome || (x.factory && Nat.beq n.lc 0))

/-- Change the flash and OTP. -/
def State.setNvm (s : State) (f : NvmState → NvmState) : State := { s with nvm := f s.nvm }
def State.setUpd (s : State) (f : UpdState → UpdState) : State := { s with upd := f s.upd }

/-- Secure boot (R411): the state, and whether a slot boots.  A slot that fails its checks is marked failed and the other one
is tried; when both fail, HUB_STATUS is FAULT. -/
def secureBoot (s : State) (bad : List (Fin 2)) : State × Bool :=
  let a := s.nvm.pointer.active
  if s.nvm.bootable bad a then (s, true) else
  let o := 1 - a
  let s := s.setNvm (fun n => (n.failSlot a).writePointer (fun p => { (p.fail a) with active := o, trial := false, boots := 0 }))
  let s := (s.ev Ev.updBootFallback 0xFF).put O.trialEnd 0 0
  let s := if Nat.ble 4 (s.nat O.updState) && Nat.ble (s.nat O.updState) 5 then s.put O.updState 0 6 else s
  if s.nvm.bootable bad o then (s, true)
  else ((s.setNvm (fun n => (n.failSlot o).writePointer (fun p => p.fail o))).setStatus 4, false)

/-- SLOT_INFO (Table 21.13). -/
def slotInfoBytes (x : Slot) : Bytes :=
  be 4 (if x.factory then Config.factorySequence % 2 ^ 32 else x.seq) ++ be 1 x.state
    ++ be 1 (if x.factory then Config.factoryKeySlot % 2 else x.keySlot) ++ zeros 2

/-- KEY_STATE (Table 21.12). -/
def keyStateObj (n : NvmState) : Nat :=
  8 * b2n n.revoked1 + 4 * b2n n.revoked0 + 2 * b2n n.keyHash1.isSome + b2n n.keyHash0.isSome

end Sys2Proof.Machine
end

