-- ==== Sys2Proof/Machine/Violations.lean ====
section
/-! DEFINITION. What Twine checks of a frame that the hub consumes, NAKs, the violation log, and arrival: own frames,
learning, consumption and forwarding (16_twine.md, R311 to R315, R330, R331). -/

namespace Sys2Proof.Machine

/-! ### NAKs and the violation log -/

/-- NAKs to one SRC are limited to 100 in any 1 s (R330): whether one more may go. -/
def nakAllowed (s : State) (src : Nat) : Bool :=
  Nat.blt ((Map.getD s.twine.naks src []).filter (fun u => Nat.blt s.now (u + secondTicks))).length 100

/-- Send a NAK (R330) on the ports that lead to SRC, or on port 19 when the frame came from there. -/
def sendNak (s : State) (port src ref kind reason retry : Nat) : State :=
  let old := (Map.getD s.twine.naks src []).filter (fun u => Nat.blt s.now (u + secondTicks))
  let s : State := { s with twine := { s.twine with naks := Map.set s.twine.naks src (s.now :: old) } }
  let h : TwineHead := { kind := 11, dest := src, cls := 1 }
  let body := be 4 ref ++ be 1 kind ++ be 1 reason ++ be 2 retry ++ be 4 0
  if Nat.beq port 19 then sendTwineOn s 19 h body else sendTwine s h body

/-- The REQ_ID of the refused frame, or its SEQ, or 0 (R330). -/
def nakRef (f : Bytes) : Nat :=
  let k := hKind f
  let b := hBody f
  if k = 3 ∨ k = 4 ∨ k = 7 then field f b 4
  else if k = 1 then (if Nat.beq (field f (b + 8) 4) 0 then field f (b + 4) 4 else field f (b + 8) 4)
  else if k = 5 ∨ k = 6 then field f (b + 4) 4
  else 0

/-- Entry of the violation log (Table 16.11). -/
def violationEntry (s : State) (port : Nat) (f : Bytes) (reason : Nat) : Violation :=
  ⟨s.gridTime, port, hKind f, reason, slice f 6 2, fit 4 (slice f 16 4)⟩

/-- A violation (R330): counted, logged (128 entries), and answered with a NAK unless the frame is a NAK or STEP or has
SRC_UNSET; beyond 100 NAKs in 1 s it is counted in NAK_SUPPRESSED_COUNT. -/
def violation (s : State) (port : Nat) (f : Bytes) (reason : Nat) : State :=
  let l := s.twine.violations ++ [violationEntry s port f reason]
  let s : State := { s with twine := { s.twine with violations := l.drop (l.length - 128) } }
  let s := s.bump O.violationCount
  if hKind f = 10 ∨ hKind f = 11 ∨ hSrcUnset f then s
  else if nakAllowed s (hSrc f) then sendNak s port (hSrc f) (nakRef f) (hKind f) reason 0
  else s.bump O.nakSuppressedCount

/-- BUSY (R330, R331): counted, not logged, with RETRY_MS = 100 + 4 × (SRC mod 256). -/
def answerBusy (s : State) (port : Nat) (f : Bytes) : State :=
  let s := s.bump O.busyCount
  if hSrcUnset f || !nakAllowed s (hSrc f) then s
  else sendNak s port (hSrc f) (nakRef f) (hKind f) 10 (100 + 4 * (hSrc f % 256))

/-! ### Checks in the order of R330 -/

/-- Smallest body of a kind (Tables 16.3 to 16.9). -/
def minBody (k : Nat) : Nat :=
  if k = 1 then 40 else if k = 2 then 20 else if k = 3 then 24 else if k = 4 then 28 else if k = 5 then 8 else if k = 6 then 20
  else if k = 7 then 88 else if k = 8 then 16 else if k = 9 then 20 else if k = 10 then 24 else 12

/-- Bytes of the body. -/
def bodyLength (f : Bytes) : Nat := hLength f - 4 - hBody f

/-- LENGTH agrees with the frame: an Ethernet frame pads its content to 46 bytes (R309). -/
def lengthAgrees (f : Bytes) : Bool :=
  Nat.ble (hBody f + 4) (hLength f) && Nat.beq f.length (max 46 (hLength f))

/-- A field of the body lies outside its range (Tables 16.3 to 16.9). -/
def bodyMalformed (f : Bytes) : Bool :=
  let b := hBody f
  let n := bodyLength f
  let k := hKind f
  if Nat.blt n (minBody k) then true
  else if hMac f && !Nat.beq (field f 16 2) 0 then true
  else if k = 1 then
    let content := field f (b + 2) 1
    let count := field f (b + 12) 2
    let last := bitOf (field f (b + 3) 1) 5
    let bytes := if content = 1 then 4 * count else if content = 2 then 2 * count else count
    content = 0 || Nat.blt 4 content || (count = 0 && !last) || (Nat.ble content 2 && Nat.blt 2048 count) || Nat.blt 8192 bytes
      || !Nat.beq n (40 + ceilDiv bytes 4 * 4)
  else if k = 2 then
    let c := field f b 2
    c = 0 || Nat.blt 256 c || !Nat.beq n (4 + 16 * c) || (List.range c).any (fun i => Nat.blt 1 (field f (b + 4 + 16 * i) 2 / 16384))
  else if k = 3 then Nat.beq (field f b 4) 0 || Nat.beq (field f (b + 6) 1 % 4) 0
  else if k = 7 then Nat.beq (field f b 4) 0 || Nat.beq (field f (b + 4) 1 % 4) 0
  else if k = 4 then Nat.blt 1 (field f (b + 4) 1) || Nat.blt 3 (field f (b + 5) 1) || Nat.beq (field f (b + 5) 1) 0
  else if k = 5 then Nat.blt (8 + 8192) n || !Nat.beq n (8 + 32 * field f b 2)
  else if k = 8 then let c := field f b 2; c = 0 || Nat.blt 128 c || !Nat.beq n (16 + 64 * c)
  else if k = 9 then let y := field f b 1; y = 0 || Nat.blt 3 y || Nat.blt 1 (field f (b + 1) 1)
  else if k = 10 then let y := field f b 1; y = 0 || Nat.blt 10 y || Nat.blt 23 (field f (b + 1) 1)
  else false

/-- The checks that hold for every kind, in their order (R330): NAK reason, 0 when they pass. -/
def frameCheck (f : Bytes) : Nat :=
  if f.length < 16 then 1
  else if !Nat.beq (hVersion f) 1 then 4
  else if !lengthAgrees f then 1
  else if hKind f = 0 || Nat.blt 11 (hKind f) then 3
  else if !Nat.beq (twineCrc (f.take (hLength f - 4))) (field f (hLength f - 4) 4) then 2
  else if bodyMalformed f then 1
  else 0

/-- The body of a frame. -/
def bodyOf (f : Bytes) : Bytes := slice f (hBody f) (bodyLength f)

/-! ### Arrival and forwarding (R312) -/

/-- The frame is addressed to this hub alone (rule 5). -/
def addressedHere (s : State) (f : Bytes) : Bool :=
  !hBcast f && (if hMac f then Nat.beq (field f 16 8) (s.nat O.baseMac) else match ownId s with | some i => Nat.beq i (hDest f) | none => false)

/-- A TT frame that arrives while no FORWARD window of its port is open waits for the next one and is counted (R203). -/
def countQueued (s : State) (p : Nat) (f : Bytes) : State :=
  let windowed := Nat.beq p 1 || Nat.beq p 2 || Nat.beq p 20
  if windowed && portUp s p && Nat.beq (hClass f) 0 && !(cycleRuns s && windowFits (windowsOf s.objs p) true s.now 0) then s.bump O.forwardQueuedCount
  else s

/-- Rule 6: forward with HOPS - 1 on the ports that R312 names; TT frames keep their class (R314). -/
def forwardTwine (s : State) (port : Nat) (f : Bytes) : State :=
  if Nat.ble (hHops f) 1 then s.bump O.hopDropCount
  else
    let b := patch f 8 2 (hHops f - 1)
    (routePorts s (hBcast f || hMac f) (hDest f) port).foldl (fun s p => enqueue (countQueued s p f) p { cls := beClass (hClass f), body := .twine b, cut := true }) s

/-- Rule 4: learn the port of SRC. -/
def learnSrc (s : State) (port : Nat) (f : Bytes) : State :=
  if hSrcUnset f then s else { s with twine := { s.twine with learned := Map.set s.twine.learned (hSrc f) (port, s.now) } }

/-- The frame came from this hub (rule 3). -/
def ownFrame (s : State) (f : Bytes) : Bool :=
  !hSrcUnset f && (match ownId s with | some i => Nat.beq i (hSrc f) | none => false)

/-- The frame waits no longer in Twine. -/
def tookFrame (s : State) (port : Nat) (f : Bytes) : State :=
  { s with lanes := { s.lanes with delivered := s.lanes.delivered.erase (port, f) } }

/-- Arrival of a Twine frame on a port at `t` by the rules of R312: `consume` is what its kind does when the hub consumes it,
and answers whether a broadcast goes on to rule 6. -/
def arrive (s : State) (port t : Nat) (f : Bytes) (consume : State → State × Bool) : State :=
  let s := tookFrame (s.advance t) port f
  if hKind f = 10 then s
  else if hKind f = 9 && Nat.beq port 19 then (consume s).1
  else if Nat.beq port 19 then (if hKind f = 4 && addressedHere s f then (consume s).1 else s)
  else if ownFrame s f then s.bump O.loopRxCount
  else
    let s := learnSrc s port f
    if addressedHere s f then (consume s).1
    else if hBcast f then
      let r := consume s
      if r.2 then forwardTwine r.1 port f else r.1
    else forwardTwine s port f

/-- Consumption with the checks of R330: the common ones first, then UNEXPECTED for a MAC_ADDR outside MGMT, then what the
kind's own rules say. -/
def checked (port : Nat) (f : Bytes) (own : State → State × Bool) (s : State) : State × Bool :=
  let r := frameCheck f
  if r ≠ 0 then (violation s port f r, hBcast f)
  else if hMac f && !Nat.beq (hKind f) 4 then (violation s port f 5, hBcast f)
  else own s

/-- A frame that a command of its kind takes: one that the hub consumes, of a kind of Table 16.2. -/
def takenByKind (s : State) (port : Nat) (f : Bytes) : Bool :=
  let k := hKind f
  if Nat.beq port 19 then Nat.beq k 9 || (Nat.beq k 4 && addressedHere s f)
  else (addressedHere s f || hBcast f) && !ownFrame s f && (Nat.ble 1 k && Nat.ble k 8 || Nat.beq k 11)

/-- TWINE_FORWARD: a Twine frame that the hub does not consume is learnt and forwarded, or dropped (R312). A frame of an
unknown kind, or TWIN off port 19, draws its NAK here when the hub would consume it. -/
def execTwineForward (port : Fin 21) (t : Nat) (f : Bytes) (s : State) : Out :=
  if takenByKind s port f then .next s
  else .next (arrive s port t f (checked port f (fun s => (violation s port f 5, true))))

/-- LEARNING_ENTRY_EXPIRY: 60 s without a frame from the SRC (R312). -/
def execLearningEntryExpiry (src : Fin 16384) (s : State) : Out :=
  match Map.find? s.twine.learned src with
  | some (_, t0) => .next ({ s with twine := { s.twine with learned := Map.erase s.twine.learned src } }.advance (t0 + 60 * secondTicks))
  | none => .next s

end Sys2Proof.Machine
end

