-- ==== Sys2Proof/Machine/Lanes.lean ====
section
/-! DEFINITION. Serial lanes: start, lock, step negotiation, adaptation, loss of lock and retry, reorder buffers, MAC
reception, tap role and test modes (15_lanes.md, R287 to R308; STEP frames, R329). -/

namespace Sys2Proof.Machine

/-! ### Lane states -/

/-- Ticks of the offsets of Table 15.3 and of R304. -/
def lockDeadline : Nat := 11 * msTicks
def stepDeadline : Nat := 51 * msTicks

/-- SPEED: the code in force, 0xFF while not in lock (Table 15.7). -/
def laneSpeed (s : State) (l : Nat) : Nat := if (s.lane l).lock then (s.lane l).code else 0xFF

/-- LANE_STATE (Table 15.7). -/
def laneStateObj (s : State) (l : Nat) : Nat :=
  let v := s.lane l
  32 * b2n v.loopRefused + 16 * b2n v.leader + 8 * b2n v.retrying + 4 * b2n v.adapt.isSome + 2 * b2n v.step.isSome + b2n v.lock

/-- The common maximum (R292); MAX_SPEED alone before an OFFER. -/
def commonMax (s : State) (l : Nat) : Nat :=
  match (s.lane l).partnerMax with
  | some m => min m (s.nat O.maxSpeed l)
  | none => s.nat O.maxSpeed l

/-- The tap word keeps R296. -/
def tapsOk (w : Nat) : Bool :=
  let pre := w / 4096 % 64
  let main := w / 64 % 64
  let post := w % 64
  Nat.blt w 262144 && Nat.beq (pre + main + post) 63 && Nat.ble pre 15 && Nat.ble post 31 && Nat.ble (pre + post) 27

/-- Abort code of a TAP_FIXED value (R296). -/
def tapsFormat (w : Nat) : Nat := if tapsOk w then 0 else 0x02000090

/-- Tap word of PRE and POST, MAIN taking the rest (R300). -/
def tapWord (pre post : Nat) : Nat := pre * 4096 + (63 - pre - post) * 64 + post

/-- FoM (R298). -/
def fomOf (h v : Nat) : Nat := min 255 (h * v / 32)

/-- Report a measurement in FOM and EYE (R298). -/
def reportFom (s : State) (l h v : Nat) : State :=
  (s.put O.fom l (fomOf h v)).put O.eye l (v % 256 * 256 + h % 256)

/-! ### STEP frames (Table 16.9) -/

/-- The fields of a STEP frame that vary by type. -/
structure StepFields where
  new : Nat := 0
  fom : Nat := 0
  refused : Bool := false
  taps : Nat := 0
  deriving DecidableEq, Repr

/-- A STEP frame of lane `l` waits to be sent (R329). -/
def sendStep (s : State) (l stype : Nat) (x : StepFields := {}) : State :=
  let v := s.lane l
  let body := be 1 stype ++ be 1 l ++ be 2 0 ++ be 8 (s.nat O.baseMac) ++ be 1 (s.nat O.maxSpeed l) ++ be 1 (s.nat O.tapMode l)
    ++ be 1 v.code ++ be 1 x.new ++ be 1 x.fom ++ be 1 (b2n x.refused) ++ be 2 0 ++ be 4 x.taps
  s.setLane l { v with out := v.out ++ [twineBytes (ownId s) { kind := 10, cls := 1, hops := 1 } body] }

/-- A received STEP frame is taken from the lane and checked (R329, R330): its body when it is a STEP frame of the type. -/
def takeStep (s : State) (l t : Nat) (f : Bytes) (stype : Nat) : State × Option Bytes :=
  let s := s.advance t
  let s : State := { s with lanes := { s.lanes with steps := s.lanes.steps.erase (l, f) } }
  if !Nat.beq (hKind f) 10 then (s, none)
  else
    let r := frameCheck f
    if r ≠ 0 then (violation s (portOf l) f r, none)
    else if hMac f then (violation s (portOf l) f 5, none)
    else if Nat.beq (field f 16 1) stype && Nat.beq (s.nat O.laneAdmin l) 1 then (s, some (bodyOf f)) else (s, none)

/-! ### Service and loss -/

/-- Release a doubled port's reorder buffer and skip what is missing below the highest number received (R302). -/
def flushReorder (s : State) (p : Nat) : State :=
  let r := Map.getD s.lanes.reorder p {}
  match r.next with
  | none => s
  | some n =>
    let dist := fun x : Nat × Nat × Bytes => (x.1 + 65536 - n) % 65536
    let top := (r.held.map dist).foldl max 0
    let s : State := { s with lanes := { s.lanes with
      reorder := Map.set s.lanes.reorder p { r with next := some ((n + (if r.held.isEmpty then 0 else top + 1)) % 65536), held := [] },
      delivered := s.lanes.delivered ++ r.held.map (fun x => (p, x.2.2)) } }
    if r.held.isEmpty then s else s.add O.reorderSkipCount ((lanesOf p).headD 0) (top + 1 - r.held.length)

/-- What every loss of service on a lane does: its frame is lost, its peer delay cleared, its port's reorder buffer released;
a port left without a lane discards its queues (R192, R302, R303, R451), and its learning entries end when no lane is in
lock (R312). -/
def laneDown (s : State) (l : Nat) : State :=
  let p := portOf l
  let e := s.egress p
  let s := s.setEgress p { e with line := Map.erase e.line l }
  let s := clearDelay s l
  let s := if doubled p then flushReorder s p else s
  let s := if portUp s p then s else
    let e := s.egress p
    (s.setEgress p { e with queue := [] }).add O.fwdDropCount 0 e.queue.length
  if (lanesOf p).any (laneLocked s) then s
  else { s with
    twine := { s.twine with learned := s.twine.learned.filter (fun x => !Nat.beq x.2.1 p) },
    lanes := { s.lanes with reorder := Map.erase s.lanes.reorder p } }

/-- The lane enters service (R293, R303): LAST_LOCK is the grid time, a lane that stepped down while retrying waits STEP_RETRY from
its return (R304), and the trunk reader takes up what it held back (R451). -/
def enterService (s : State) (l : Nat) : State :=
  let v := s.lane l
  let until_ := if v.dropped then s.now + s.nat O.stepRetry l * secondTicks else v.noStepUntil
  trunkReader ((s.setLane l { v with service := true, step := none, adapt := none, retrying := false, fails := 0, dropped := false,
                                     noStepUntil := until_ }).put O.lastLock l s.gridTime)

/-- Start lane `l` (R291): at 1.25 GBd with TAP_FIXED; a tap lane at TAP_SPEED (R306). -/
def startLane (s : State) (l : Nat) : State :=
  let tap := tapRole s.objs && Nat.ble 22 l
  (s.setLane l { started := true, code := if tap then s.nat O.tapSpeed l else 0 }).put O.txTaps l (s.nat O.tapFixed l)

/-- P6 is on: some lane is not powered down (R422), and the rail groups are up. -/
def p6On (s : State) : Bool := (List.range 24).any (fun l => !Nat.beq (s.nat O.laneAdmin l) 0)

/-- Lanes of a start group (R291): 0 starts at once, the others 20, 40 and 60 ms later. -/
def laneGroup (g : Nat) : List Nat :=
  if g = 0 then List.range 8 ++ [20, 21, 22, 23] else (List.range 4).map (fun i => 4 + 4 * g + i)

/-- The lanes of a start group start (R291). -/
def startGroup (s : State) (g : Nat) : State :=
  s.each (laneGroup g) (fun s l => if Nat.beq (s.nat O.laneAdmin l) 1 && !(s.lane l).started then startLane s l else s)

/-- P6 is switched on: the first group starts (R291). -/
def lanesOn (s : State) : State := startGroup { s with lanes := { s.lanes with startAt := s.now } } 0

/-- LANE_GROUP_START: a group starts 20 ms behind the one before it (R291). -/
def execLaneGroupStart (g : Fin 4) (s : State) : Out :=
  if !s.pwr.booted || s.pwr.sleep.isSome then .next s else .next (startGroup (s.advance (s.lanes.startAt + 20 * g.val * msTicks)) g)

/-! ### Steps (R292 to R295) -/

/-- The step ends as failed: back to the old rate, counted and logged, and the leader waits STEP_RETRY before its next
step-up (R294). A rate that had been switched has to lock again. -/
def stepFail (s : State) (l : Nat) : State :=
  let v := s.lane l
  match v.step with
  | none => s
  | some x =>
    let s := (s.bump O.fallbackCount l).ev Ev.laneFallback l (be 1 x.new ++ be 1 x.old)
    let wait := if v.leader then s.now + s.nat O.stepRetry l * secondTicks else v.noStepUntil
    if x.switched then
      clearDelay (s.setLane l { v with step := none, adapt := none, code := x.old, lock := false, service := false, dfe := false, noStepUntil := wait }) l
    else
      s.setLane l { v with step := none, adapt := none, service := v.lock, noStepUntil := wait }

/-- An attempt under R304 fails: after three in a row the lane steps down one code. -/
def attemptFail (s : State) (l : Nat) : State :=
  let v := s.lane l
  let v := { v with step := none, adapt := none, service := false }
  if Nat.ble 2 v.fails && Nat.blt 0 v.code then
    ((s.setLane l { v with fails := 0, code := v.code - 1, dropped := true }).bump O.stepDownCount l).ev Ev.laneStepDown l (be 1 (v.code - 1))
  else s.setLane l { v with fails := v.fails + 1 }

/-- The step or attempt under way fails. -/
def anyFail (s : State) (l : Nat) : State :=
  match (s.lane l).step with
  | some x => if x.retry then attemptFail s l else stepFail s l
  | none => s

/-- Begin a handshake for a new code: GO is sent and traffic stops (R293). -/
def beginStep (s : State) (l new : Nat) : State :=
  let v := s.lane l
  sendStep (s.setLane l { v with step := some { old := v.code, new := new }, service := false, held := none }) l 2 { new := new }

/-- A lane may take up a new handshake: in lock for traffic and not within a step or attempt. -/
def mayStep (s : State) (l : Nat) : Bool :=
  laneServes s l && (s.lane l).step.isNone

/-- The other lane of a doubled port. -/
def otherLane (l : Nat) : Option Nat := (lanesOf (portOf l)).find? (fun k => !Nat.beq k l)

/-- The leader's conditions for a step up, but for the other lane's (R292). -/
def wantsUp (s : State) (l : Nat) : Bool :=
  let v := s.lane l
  v.leader && v.partnerMax.isSome && Nat.blt v.code (commonMax s l) && Nat.ble (v.lockAt + 50 * msTicks) s.now && Nat.ble v.noStepUntil s.now

/-- On a doubled port the other lane is in lock and not stepping, and the lower lane steps first (R292). -/
def otherAllows (s : State) (l : Nat) : Bool :=
  match otherLane l with
  | none => true
  | some k => laneLocked s k && (s.lane k).step.isNone && (Nat.blt l k || !wantsUp s k)

/-- What the lane asks for now (R292, R295): a held request, a step down to the common maximum, or a step up. -/
def wantedStep (s : State) (l : Nat) : Option Nat :=
  let v := s.lane l
  if !mayStep s l then none
  else match v.held with
    | some c => if Nat.beq c v.code then none else some c
    | none =>
      if v.leader && Nat.blt (commonMax s l) v.code then some (commonMax s l)
      else if wantsUp s l && otherAllows s l then some (v.code + 1)
      else none

/-- Take up what the lane asks for. -/
def pursueStep (s : State) (l : Nat) : State :=
  match wantedStep s l with
  | some c => beginStep s l c
  | none => s

/-- A request to change the rate (R295): at once when the lane is free; held until the end of an adaptation trial; a step
that runs otherwise ends as failed. -/
def requestStep (s : State) (l new : Nat) : State :=
  let v := s.lane l
  let s := s.setLane l { v with held := some new }
  match v.step with
  | none => pursueStep s l
  | some x =>
    if (v.adapt.bind (·.asked)).isSome || x.retry then s
    else pursueStep (stepFail (if x.switched then (sendStep s l 5).advance (s.now + msTicks) else s) l) l

/-- Effect of an accepted LANE_STEP (R292, R294, R295): 1 steps up whatever STEP_RETRY says, 2 steps down. -/
def laneStepWritten (s : State) (l : Nat) (val : Nat) : State :=
  let c := (s.lane l).code
  if val = 1 then requestStep s l (min (c + 1) (commonMax s l))
  else if c = 0 then s else requestStep s l (c - 1)

/-- State check of LANE_STEP (R308). -/
def laneStepState (s : State) (l : Nat) (val : Nat) : Nat :=
  if val = 1 && Nat.ble (commonMax s l) (s.lane l).code then 0x03000091 else 0

/-- Effect of an accepted MAX_SPEED: lowered below the code in force it asks for a step down (R292, R295). -/
def maxSpeedWritten (s : State) (l : Nat) : State :=
  if Nat.blt (s.nat O.maxSpeed l) (s.lane l).code then requestStep s l (s.nat O.maxSpeed l) else s

/-- STEP_OFFER_SEND: every 1 ms a lane in lock sends OFFER, and the leader decides on a step (R292). -/
def execStepOfferSend (l : Fin 24) (t : Nat) (s : State) : Out :=
  if laneLocked s l && (s.lane l).step.isNone then
    let s := s.advance (max t (s.lane l).offerAt)
    .next (pursueStep (sendStep (s.setLane l { s.lane l with offerAt := s.now + msTicks }) l 1) l)
  else .next s

/-- STEP_OFFER: the partner's MAC address, MAX_SPEED and TAP_MODE; the numerically lower address leads (R292). -/
def execStepOffer (l : Fin 24) (t : Nat) (f : Bytes) (s : State) : Out :=
  match takeStep s l t f 1 with
  | (s, none) => .next s
  | (s, some b) =>
    let mac := field b 4 8
    let v := s.lane l
    .next ((s.setLane l { v with partnerMax := some (field b 12 1), partnerTapMode := field b 13 1, leader := Nat.blt (s.nat O.baseMac) mac }).put
      O.partnerMac l mac)

/-- STEP_GO: the follower answers GO_ACK and stops its traffic (R293). -/
def execStepGo (l : Fin 24) (t : Nat) (f : Bytes) (s : State) : Out :=
  match takeStep s l t f 2 with
  | (s, none) => .next s
  | (s, some b) =>
    let new := field b 15 1
    if mayStep s l && Nat.ble new (s.nat O.maxSpeed l) then
      let v := s.lane l
      .next (sendStep (s.setLane l { v with step := some { old := v.code, new := new }, service := false }) l 3 { new := new })
    else .next s

/-- STEP_GO_ACK: the leader's offsets count from the end of its reception (R293). -/
def execStepGoAck (l : Fin 24) (t : Nat) (f : Bytes) (s : State) : Out :=
  match takeStep s l t f 3 with
  | (s, none) => .next s
  | (s, some b) =>
    let v := s.lane l
    match v.step with
    | some x => if Nat.beq (field b 15 1) x.new && x.ack.isNone then .next (s.setLane l { v with step := some { x with ack := some t } }) else .next s
    | none => .next s

/-- STEP_RATE_SWITCH: 1 ms after GO_ACK the lane runs at the new rate with TAP_FIXED (R293); its peer delay is cleared (R192). -/
def execStepRateSwitch (l : Fin 24) (s : State) : Out :=
  let v := s.lane l
  match v.step with
  | some x =>
    match x.ack with
    | some a =>
      if x.switched then .next s
      else
        let s := s.advance (a + msTicks)
        let s := s.setLane l { v with step := some { x with switched := true }, code := x.new, lock := false, dfe := false, adapt := none }
        .next (laneDown (s.put O.txTaps l (s.nat O.tapFixed l)) l)
    | none => .next s
  | none => .next s

/-- The CTLE code that maximises the FoM, the first of equal values (R297). -/
def bestCtle (foms : List Nat) : Nat :=
  ((foms.zipIdx.foldl (fun b x => match b with
    | some y => if Nat.blt y.1 x.1 then some x else b
    | none => some x) (none : Option (Nat × Nat))).map (·.2)).getD 0 % 16

/-- LANE_LOCK: clock recovery and PCS lock at `t`, at the comma position or gearbox offset found (R190); the receiver has tried its CTLE
settings (R291, R297). Outside a step the lane enters service; within one the exchange goes on. A lane in test only locks. -/
def execLaneLock (l : Fin 24) (t : Nat) (found : LockFound) (s : State) : Out :=
  let s := s.advance t
  let v := { s.lane l with align := found.align % alignSteps (s.lane l).code }
  if !v.started || v.lock || (tapRole s.objs && Nat.ble 22 l.val) then .next s
  else
    let s := s.put O.ctleCode l (bestCtle found.foms)
    match v.step with
    | some x =>
      match x.ack with
      | some a => if x.switched && !x.dead && Nat.ble t (a + lockDeadline) then
          .next (s.setLane l { v with lock := true, lockAt := t, step := some { x with locked := some t } }) else .next s
      | none => .next s
    | none =>
      let s := s.setLane l { v with lock := true, lockAt := t, offerAt := t }
      if v.retrying || !Nat.beq (s.nat O.laneAdmin l) 1 then .next s
      else .next (enterService s l)

/-- STEP_LOCK_TIMEOUT: not in lock 11 ms after GO_ACK, the end sends nothing further (R293). -/
def execStepLockTimeout (l : Fin 24) (s : State) : Out :=
  let v := s.lane l
  match v.step with
  | some x =>
    match x.ack with
    | some a =>
      if x.switched && !v.lock && !x.dead then .next ((s.setLane l { v with step := some { x with dead := true }, out := [] }).advance (a + lockDeadline))
      else .next s
    | none => .next s
  | none => .next s

/-- STEP_EXCHANGE_TIMEOUT: at 51 ms without both CONFIRMs the end returns to the old rate (R293, R294), or the attempt has
failed (R304). A GO without its GO_ACK ends the same way, 51 ms after it. -/
def execStepExchangeTimeout (l : Fin 24) (t : Nat) (s : State) : Out :=
  match (s.lane l).step with
  | some x => .next (anyFail (s.advance (match x.ack with | some a => a + stepDeadline | none => t)) l)
  | none => .next s

/-- Both CONFIRMs are known: service when both figures reach this end's FOM_THRESHOLD, else FALLBACK (R293). -/
def confirmed (s : State) (l : Nat) : State :=
  let v := s.lane l
  match v.step with
  | some x =>
    match x.own, x.peer with
    | some a, some b =>
      let thr := s.nat O.fomThreshold l
      if Nat.ble thr a && Nat.ble thr b then
        let s := enterService s l
        if x.retry then s else s.setLane l { s.lane l with entered := some (s.now, x.old) }
      else if x.retry then attemptFail s l
      else stepFail ((sendStep s l 5).advance (s.now + msTicks)) l
    | _, _ => s
  | none => s

/-- This end's CONFIRM with its FoM. -/
def sendConfirm (s : State) (l f : Nat) : State :=
  let v := s.lane l
  match v.step with
  | some x => confirmed (sendStep (s.setLane l { v with step := some { x with own := some f }, adapt := none }) l 4 { fom := f }) l
  | none => s

/-- STEP_CONFIRM (R293). -/
def execStepConfirm (l : Fin 24) (t : Nat) (f : Bytes) (s : State) : Out :=
  match takeStep s l t f 4 with
  | (s, none) => .next s
  | (s, some b) =>
    let v := s.lane l
    match v.step with
    | some x => if x.dead then .next s else .next (confirmed (s.setLane l { v with step := some { x with peer := some (field b 16 1) } }) l)
    | none => .next s

/-- STEP_FALLBACK: both ends return to the old rate 1 ms after it (R293). A lane that had entered service on a lost CONFIRM
returns too (R294). -/
def execStepFallback (l : Fin 24) (t : Nat) (f : Bytes) (s : State) : Out :=
  match takeStep s l t f 5 with
  | (s, none) => .next s
  | (s, some _) => .next (match (s.lane l).step with
    | some _ => anyFail (s.advance (t + msTicks)) l
    | none => s)

/-! ### Adaptation (R299, R300) -/

/-- The tap word of move `m` from the taps known. -/
def moveTaps (w m : Nat) : Option Nat :=
  let pre := w / 4096 % 64
  let post := w % 64
  let r := if m = 0 then some (pre, post + 1)
    else if m = 1 then (if post = 0 then none else some (pre, post - 1))
    else if m = 2 then some (pre + 1, post)
    else if pre = 0 then none else some (pre - 1, post)
  match r with
  | some (a, b) => if Nat.ble (a + b) 63 && tapsOk (tapWord a b) then some (tapWord a b) else none
  | none => none

/-- The next trial of an adaptation: the next move that keeps R296, a new round after an improving one, or its end (`none`). -/
def nextMove : Nat → Adapt → Option (Nat × Adapt)
  | 0, _ => none
  | fuel + 1, a =>
    if Nat.ble 16 a.trials then none
    else if Nat.ble 4 a.move then
      if a.improved then nextMove fuel { a with move := 0, improved := false } else none
    else match moveTaps a.taps a.move with
      | some w => some (w, { a with move := a.move + 1, asked := some (w, false), acked := false })
      | none => nextMove fuel { a with move := a.move + 1 }

/-- Go on with the next trial, or end with CONFIRM. -/
def nextTrial (s : State) (l : Nat) (a : Adapt) : State :=
  match nextMove 12 a with
  | some (w, b) => sendStep (s.setLane l { s.lane l with adapt := some b }) l 6 { taps := w }
  | none => sendConfirm s l (a.best.getD 0)

/-- DFE_CONVERGED: 1 ms after lock at the 64b/66b rates; within a step or an attempt adaptation begins (R293, R299, R300). -/
def execDfeConverged (l : Fin 24) (s : State) : Out :=
  let v := s.lane l
  if v.lock && Nat.ble 2 v.code && !v.dfe then
    let s := s.advance (v.lockAt + msTicks)
    match v.step with
    | some x => .next (s.setLane l { v with dfe := true, adapt := if x.dead then none else some { taps := s.nat O.tapFixed l } })
    | none => .next (s.setLane l { v with dfe := true })
  else .next s

/-- A held request ends the step as failed once the trial is over (R295). -/
def heldEnds (s : State) (l : Nat) : Option State :=
  match (s.lane l).held, (s.lane l).step with
  | some _, some x => if x.retry then none else some (stepFail ((sendStep s l 5).advance (s.now + msTicks)) l)
  | _, _ => none

/-- FOM_MEASUREMENT_END: an eye measurement of H and V within a step or an attempt; none before the DFE has converged (R298 to R300). -/
def execFomMeasurementEnd (l : Fin 24) (t h w : Nat) (s : State) : Out :=
  if Nat.ble 2 (s.lane l).code && !(s.lane l).dfe then .next s else
  let s := reportFom (s.advance t) l h w
  let v := s.lane l
  let f := fomOf h w
  match v.step with
  | none => .next s
  | some x =>
    if x.dead || !v.lock || x.own.isSome then .next s
    else match v.adapt with
      | none => if Nat.blt v.code 2 then .next (sendConfirm s l f) else .next s
      | some a =>
        match a.best, a.asked with
        | none, _ =>
          if v.partnerTapMode = 1 then .next (sendConfirm s l f) else .next (nextTrial s l { a with best := some f })
        | some best, some (word, false) =>
          if !a.acked then .next s
          else
            let a := { a with trials := a.trials + 1 }
            match heldEnds s l with
            | some s => .next s
            | none =>
              if Nat.ble (best + 2) f then .next (nextTrial s l { a with best := some f, improved := true, asked := none, taps := word })
              else
                .next (sendStep (s.setLane l { v with adapt := some { a with asked := some (a.taps, true), acked := false } }) l 6 { taps := a.taps })
        | some _, _ => .next s

/-- STEP_TAP: the partner's request for this end's taps is applied, or refused under TAP_MODE 1 or R296, and answered (R300). -/
def execStepTap (l : Fin 24) (t : Nat) (f : Bytes) (s : State) : Out :=
  match takeStep s l t f 6 with
  | (s, none) => .next s
  | (s, some b) =>
    let w := field b 20 4
    if s.nat O.tapMode l = 1 || !tapsOk w then .next (sendStep s l 7 { refused := true, taps := s.nat O.txTaps l })
    else .next (sendStep (s.put O.txTaps l w) l 7 { taps := w })

/-- STEP_TAP_ACK: the trial's measurement may begin, an undone trial is over, or the partner refuses and the receiver adapts
alone (R300). -/
def execStepTapAck (l : Fin 24) (t : Nat) (f : Bytes) (s : State) : Out :=
  match takeStep s l t f 7 with
  | (s, none) => .next s
  | (s, some b) =>
    let v := s.lane l
    match v.adapt with
    | none => .next s
    | some a =>
      match a.asked with
      | none => .next s
      | some (_, undo) =>
        if bitOf (field b 17 1) 0 then .next (sendConfirm s l (a.best.getD 0))
        else if undo then
          match heldEnds s l with
          | some s => .next s
          | none => .next (nextTrial s l { a with asked := none })
        else .next (s.setLane l { v with adapt := some { a with acked := true } })

/-- FOM_PERIODIC: once a second a lane in service measures its FoM, for report only (R299). -/
def execFomPeriodic (l : Fin 24) (h w : Nat) (s : State) : Out :=
  if laneServes s l && ((s.lane l).dfe || Nat.blt (s.lane l).code 2) then .next (reportFom s l h w) else .next s

/-- STEP_RETRY_EXPIRY: step-ups are permitted again (R294). -/
def execStepRetryExpiry (l : Fin 24) (s : State) : Out :=
  let v := s.lane l
  if Nat.blt 0 v.noStepUntil then .next ((s.setLane l { v with noStepUntil := 0 }).advance v.noStepUntil) else .next s

/-! ### Loss of lock (R303, R304) -/

/-- LANE_LOCK_LOST: detected at `t` (R303). Within 100 ms of entering service at a new rate the lane returns to the old one
and the step has failed (R294); otherwise it tries again every 100 ms (R304). -/
def execLaneLockLost (l : Fin 24) (t : Nat) (s : State) : Out :=
  let s := s.advance t
  let v := s.lane l
  if !v.started || (tapRole s.objs && Nat.ble 22 l.val) || !Nat.beq (s.nat O.laneAdmin l) 1 then .next (s.setLane l { v with lock := false })
  else if !v.lock then .next s
  else
    let s := (s.bump O.lockLossCount l).ev Ev.laneLockLost l
    match v.step with
    | some x =>
      .next (laneDown (s.setLane l { v with lock := false, service := false, dfe := false, adapt := none, step := some { x with locked := none } }) l)
    | none =>
      match v.entered with
      | some (t0, old) =>
        if Nat.blt t (t0 + 100 * msTicks) then
          let s := s.setLane l { v with lock := false, entered := none, step := some { old := old, new := v.code, switched := true } }
          .next (laneDown (stepFail s l) l)
        else .next (laneDown (s.setLane l { v with lock := false, service := false, dfe := false, retrying := true, fails := 0, retryAt := t + 100 * msTicks, entered := none }) l)
      | none => .next (laneDown (s.setLane l { v with lock := false, service := false, dfe := false, retrying := true, fails := 0, retryAt := t + 100 * msTicks }) l)

/-- LANE_RETRY_ATTEMPT: every 100 ms from detection; it runs as Table 15.3 from 1 ms on, without GO (R304). -/
def execLaneRetryAttempt (l : Fin 24) (t : Nat) (s : State) : Out :=
  if !(s.lane l).retrying then .next s
  else
    let t := max t (s.lane l).retryAt
    let due := (s.lane l).retryAt + 100 * msTicks
    let s := anyFail (s.advance t) l
    let v := { s.lane l with retryAt := due }
    .next ((s.setLane l { v with step := some { old := v.code, new := v.code, ack := some (t - msTicks), retry := true, switched := true },
                                 lock := false, service := false, dfe := false, adapt := none }).put O.txTaps l (s.nat O.tapFixed l))

/-! ### LANE_ADMIN, port reset, test (R307, R308, R423) -/

/-- The lane's checker runs: a test with a pattern that has one (Table 15.6). -/
def checkerRuns (s : State) (l : Nat) : Bool :=
  Nat.beq (s.nat O.laneAdmin l) 2 && [1, 2, 4, 5, 6].contains (s.nat O.laneTest l)

/-- What the checker has counted: nothing in the spec says how many bits pass or fail, so both counts are free values. -/
def sampleChecker (s : State) (l : Nat) : State :=
  let a := s.freshNat
  let b := a.2.freshNat
  (b.2.put O.testErrCount l (a.1 % 2 ^ 32)).put O.testBits l (b.1 % 2 ^ 64)

/-- A port of ports 1, 2 and 20 has lost its last lane in service to a write (R308). -/
def loggedPort (p : Nat) : Bool := Nat.beq p 1 || Nat.beq p 2 || Nat.beq p 20

/-- Effect of an accepted LANE_ADMIN: 0 powers down, 1 starts the lane, 2 tests it at TEST_SPEED (R291, R307, R308). -/
def laneAdminWritten (s : State) (l : Nat) (old new : Nat) : State :=
  if Nat.beq old new then s
  else
    let p := portOf l
    let s := if Nat.beq old 2 then (let s' := s.putI O.laneAdmin l 2; if checkerRuns s' l then (sampleChecker s' l).putI O.laneAdmin l new else s) else s
    let loop := Nat.beq (s.nat O.laneTest l) 6
    let was := s.lane l
    let up := (lanesOf p).any (fun k => if Nat.beq k l then Nat.beq old 1 && was.lock && was.service else laneServes s k)
    let s := s.setLane l { out := if Nat.beq old 2 && loop then was.out else [] }
    let s := if Nat.beq old 2 && loop then sendStep s l 10 else s
    let s := laneDown s l
    let s := if up && !portUp s p && loggedPort p && !Nat.beq new 1 then s.ev Ev.lanePortDown l (be 1 p) else s
    if Nat.beq new 1 then startLane s l
    else if Nat.beq new 2 then
      let s := s.setLane l { s.lane l with started := true, code := s.nat O.testSpeed l }
      if loop then sendStep s l 8 else s
    else s

/-- Effect of an accepted LANE_TEST: the test counters clear (R307). -/
def laneTestWritten (s : State) (l : Nat) : State := (s.put O.testErrCount l 0).put O.testBits l 0

/-- A STEP loopback frame concerns a lane in traffic or, for the answer, in test. -/
def takeLoop (s : State) (l t : Nat) (f : Bytes) (stype : Nat) : State × Option Bytes :=
  if Nat.beq (s.nat O.laneAdmin l) 2 then
    let s : State := { s.advance t with lanes := { s.lanes with steps := s.lanes.steps.erase (l, f) } }
    (s, if Nat.beq (hKind f) 10 && Nat.beq (frameCheck f) 0 && Nat.beq (field f 16 1) stype then some (bodyOf f) else none)
  else takeStep s l t f stype

/-- STEP_LOOP_REQ: honoured only when LOOP_PERMIT is TRUE (R307). -/
def execStepLoopReq (l : Fin 24) (t : Nat) (f : Bytes) (s : State) : Out :=
  match takeStep s l t f 8 with
  | (s, none) => .next s
  | (s, some _) =>
    if s.bool O.loopPermit l then .next (sendStep (s.setLane l { s.lane l with looping := true }) l 9)
    else .next (sendStep s l 9 { refused := true })

/-- STEP_LOOP_ACK: a refused request sets LANE_STATE[5] (R307). -/
def execStepLoopAck (l : Fin 24) (t : Nat) (f : Bytes) (s : State) : Out :=
  match takeLoop s l t f 9 with
  | (s, none) => .next s
  | (s, some b) => .next (s.setLane l { s.lane l with loopRefused := bitOf (field b 17 1) 0 })

/-- STEP_LOOP_END: the partner ends its remote loopback (R307). -/
def execStepLoopEnd (l : Fin 24) (t : Nat) (f : Bytes) (s : State) : Out :=
  match takeStep s l t f 10 with
  | (s, none) => .next s
  | (s, some _) => .next (s.setLane l { s.lane l with looping := false })

/-- A port reset of a lane: it restarts from 1.25 GBd, and R303 applies to its loss of lock (R423). -/
def laneReset (s : State) (l : Nat) : State :=
  if !Nat.beq (s.nat O.laneAdmin l) 1 then s
  else
    let was := s.lane l
    let s := if was.lock then (s.bump O.lockLossCount l).ev Ev.laneLockLost l else s
    startLane (laneDown (s.setLane l {}) l) l

/-! ### Reception (R290, R302, R306) -/

/-- Twine frames of a reorder buffer that follow one another from `n` (R302): released frames, next number, what stays. -/
def releaseRun : Nat → Nat → List (Nat × Nat × Bytes) → List Bytes × Nat × List (Nat × Nat × Bytes)
  | 0, n, held => ([], n, held)
  | fuel + 1, n, held =>
    match takeFirst (fun x => Nat.beq x.1 n) held with
    | some (x, rest) =>
      let r := releaseRun fuel ((n + 1) % 65536) rest
      (x.2.2 :: r.1, r.2)
    | none => ([], n, held)

/-- Hold a frame in stripe order, nearest to the awaited number first. -/
def insertHeld (n : Nat) (x : Nat × Nat × Bytes) : List (Nat × Nat × Bytes) → List (Nat × Nat × Bytes)
  | [] => [x]
  | y :: l => if Nat.blt ((x.1 + 65536 - n) % 65536) ((y.1 + 65536 - n) % 65536) then x :: y :: l else y :: insertHeld n x l

/-- Release what follows from `n` on. -/
def releaseFrom (s : State) (p n : Nat) (held : List (Nat × Nat × Bytes)) : State :=
  let r := releaseRun held.length n held
  { s with lanes := { s.lanes with
    reorder := Map.set s.lanes.reorder p { next := some r.2.1, held := r.2.2 },
    delivered := s.lanes.delivered ++ r.1.map (fun b => (p, b)) } }

/-- A Twine frame of a doubled port enters its reorder buffer of 128 KiB (R302); a buffer without room releases what it
holds. -/
def stripeIn (s : State) (p : Nat) (b : Bytes) : State :=
  let r := Map.getD s.lanes.reorder p {}
  let q := hStripe b
  let n := r.next.getD q
  let d := (q + 65536 - n) % 65536
  if Nat.ble 32768 d then s.bump O.reorderSkipCount ((lanesOf p).headD 0)
  else if d = 0 then
    releaseFrom { s with lanes := { s.lanes with delivered := s.lanes.delivered ++ [(p, b)] } } p ((n + 1) % 65536) r.held
  else
    let held := insertHeld n (q, s.now, b) r.held
    let s : State := { s with lanes := { s.lanes with reorder := Map.set s.lanes.reorder p { next := some n, held := held } } }
    if Nat.blt 131072 ((held.map (·.2.2.length)).sum) then flushReorder s p else s

/-- REORDER_WAIT_EXPIRY: the missing numbers before the first held frame have been awaited for 32 µs, since the first frame behind them
arrived; they are skipped and counted (R302). -/
def execReorderWaitExpiry (p : Fin 21) (s : State) : Out :=
  let r := Map.getD s.lanes.reorder p {}
  match r.next, r.held with
  | some n, x :: _ =>
    let s := s.advance ((r.held.map (·.2.1)).foldl min x.2.1 + 20480)
    .next (releaseFrom (s.add O.reorderSkipCount ((lanesOf p).headD 0) ((x.1 + 65536 - n) % 65536)) p x.1 r.held)
  | _, _ => .next s

/-- The copies that tap lanes make of a frame that lane `l` received (R306). -/
def tapCopies (s : State) (l t : Nat) (f : EthFrame) : State :=
  if tapRole s.objs then
    s.each [22, 23] (fun s k =>
      let src := (s.objs.val (O.tapSource.at k) (.int (if k = 23 then 2 else 0))).toInt.toNat
      if Nat.beq (s.nat O.laneAdmin k) 1 && Nat.beq src l then
        { s with lanes := { s.lanes with taps := Map.set s.lanes.taps k (Map.getD s.lanes.taps k [] ++ [(t, f)]) } }
      else s)
  else s

/-- ETHERNET_FRAME_RECEIVED (R290): checked by the MAC, copied to tap lanes, then passed to PTP or Twine, or discarded. -/
def execEthernetFrameReceived (l : Fin 24) (t : Nat) (f : EthFrame) (s : State) : Out :=
  let s := s.advance t
  let p := portOf l
  if !laneLocked s l then .next s
  else
    let s := tapCopies s l t f
    if !f.good || Nat.blt f.length 64 || Nat.blt 9216 f.length then .next ((s.bump O.rxFrameErrCount l).add O.fwdAbortCount 0 f.started)
    else match f.body with
      | .ptp rx m => .next { s with lanes := { s.lanes with ptp := s.lanes.ptp ++ [(rx, m)] } }
      | .twine b =>
        if !Nat.beq f.etherType (s.nat O.ethertype) then .next (s.bump O.rxOtherCount l)
        else if Nat.beq (hKind b) 10 then .next { s with lanes := { s.lanes with steps := s.lanes.steps ++ [(l.val, b)] } }
        else if doubled p then .next (stripeIn s p b)
        else .next { s with lanes := { s.lanes with delivered := s.lanes.delivered ++ [(p, b)] } }
      | .other => .next (s.bump O.rxOtherCount l)

/-- TAP_COPY_DROP: the first waiting copy could not start within 10 µs of its original's end (R306). -/
def execTapCopyDrop (l : Fin 24) (s : State) : Out :=
  match Map.getD s.lanes.taps l [] with
  | c :: rest =>
    let s := s.advance (c.1 + 6400)
    .next ({ s with lanes := { s.lanes with taps := Map.set s.lanes.taps l rest } }.bump O.tapDropCount l)
  | [] => .next s

end Sys2Proof.Machine
end

