-- ==== Sys2Proof/Machine/Twine.lean ====
section
/-! DEFINITION. Twine frames that a hub consumes and sends: DOFF, RETX and RETRO, TRIGGER, EVENT and SUMMARY contents, and
the admission of live traffic (16_twine.md, R321 to R328, R331, R325; directory entries of Table 19.2). -/

namespace Sys2Proof.Machine

/-- HUB_STATUS codes (Table 17.9). -/
def isBooting (s : State) : Bool := Nat.beq (s.nat O.hubStatus) 0
def isReady (s : State) : Bool := Nat.beq (s.nat O.hubStatus) 1
def inRestart (s : State) : Bool := s.pwr.restart.isSome

/-! ### DOFF (R321) -/

/-- One DOFF entry at an offset of the body: whether it was out of window, and the state after it (R255, R321). -/
def doffEntry (b : Bytes) (x : State × Bool) (i : Nat) : State × Bool :=
  let s := x.1
  let o := 4 + 16 * i
  let target := field b o 2
  let t := field b (o + 8) 8
  if Nat.beq (target / 16384) 1 then (ackCapture s (target % 16) (field b (o + 4) 4) t, x.2)
  else if Nat.blt s.gridTime t then (s, true)
  else (ackChannel s (target % 512) t, x.2)

/-- A DOFF's entries in order; one NAK OUT_OF_WINDOW when an entry was skipped (R321). -/
def applyDoff (s : State) (port : Nat) (f : Bytes) : State :=
  let b := bodyOf f
  let r := (List.range (field b 0 2)).foldl (doffEntry b) (s, false)
  if r.2 then violation r.1 port f 7 else r.1

/-- The frame's SRC is the root (NOT_ROOT otherwise, Table 16.10). -/
def fromRoot (s : State) (f : Bytes) : Bool := !hSrcUnset f && Nat.beq (hSrc f) (s.nat O.rootId)

/-- DOFF frames held during a core restart are applied when it ends (R19). -/
def applyHeldDoffs (s : State) : State :=
  let l := s.twine.heldDoffs
  ({ s with twine := { s.twine with heldDoffs := [] } }).each l (fun s x => applyDoff s x.1 x.2)

/-! ### RETX and RETRO (R322 to R324) -/

/-- Channels of a bitmap of 64 bytes (Table 16.5). -/
def bitmapChannels (b : Bytes) (off : Nat) : List Nat :=
  (List.range 512).filter (fun ch => bitOf (field b (off + ch / 8) 1) (ch % 8))

/-- Channels, words, records and window that a held request asks for. -/
def requestWindow (r : HeldRequest) : List Nat × Bool × Bool × Nat × Nat :=
  let b := r.body
  if r.retro then (bitmapChannels b 24, bitOf (field b 4 1) 0, bitOf (field b 4 1) 1, field b 8 8, field b 16 8)
  else ([field b 4 2 % 512], bitOf (field b 6 1) 0, bitOf (field b 6 1) 1, field b 8 8, field b 16 8)

/-- Answer the request at the front, channel by channel in ascending order (R322, R323). -/
def answerFront (s : State) : State :=
  match s.twine.requests with
  | [] => s
  | r :: _ =>
    let w := requestWindow r
    s.each w.1 (fun s ch => sendAnswer s (channelAnswer s ch (field r.body 0 4) w.2.1 w.2.2.1 w.2.2.2.1 w.2.2.2.2 r.retro))

/-- A checked RETX or RETRO: NOT_ROOT, OUT_OF_WINDOW, TOO_LARGE, BUSY in that order, else it is held and answered in turn
(R322 to R324, R330, Table 16.12). -/
def takeRequest (port : Nat) (f : Bytes) (retro : Bool) (ue : List (Nat × UeHit)) (s : State) : State :=
  let r : HeldRequest := { src := hSrc f, retro := retro, body := bodyOf f }
  let w := requestWindow r
  let t1 := w.2.2.2.1
  let t2 := w.2.2.2.2
  if !fromRoot s f then violation s port f 6
  else if !retro && (Nat.ble t2 t1 || Nat.blt s.gridTime t2) then violation s port f 7
  else if w.1.any (fun ch => answerTooLarge s ch t1 t2 w.2.1) then violation s port f 9
  else if !isReady s || inRestart s || Nat.ble 64 s.twine.requests.length then answerBusy s port f
  else
    let first := s.twine.requests.isEmpty
    let s : State := { s with twine := { s.twine with requests := s.twine.requests ++ [r] } }
    if first then answerFront (dramUes s ue) else s

/-- RETX_RECEIVED, with the uncorrectable errors that the read finds (R283, R322). -/
def execRetxReceived (port : Fin 21) (t : Nat) (f : Bytes) (ue : List (Nat × UeHit)) (s : State) : Out :=
  if !Nat.beq (hKind f) 3 then .next s
  else .next (arrive s port t f (checked port f (fun s => (takeRequest port f false ue s, true))))

/-- RETRO_RECEIVED (R323). -/
def execRetroReceived (port : Fin 21) (t : Nat) (f : Bytes) (ue : List (Nat × UeHit)) (s : State) : Out :=
  if !Nat.beq (hKind f) 7 then .next s
  else .next (arrive s port t f (checked port f (fun s => (takeRequest port f true ue s, true))))

/-- REQUEST_ANSWER_COMPLETE: the answer has been sent and the next held request starts (R324). -/
def execRequestAnswerComplete (ue : List (Nat × UeHit)) (s : State) : Out :=
  match s.twine.requests with
  | [] => .next s
  | _ :: rest => .next (answerFront (dramUes { s with twine := { s.twine with requests := rest } } ue))

/-! ### TRIGGER (R214, R328) -/

/-- A checked TRIGGER: a pair of SRC and SEQ already held is neither consumed nor forwarded; before READY and during a core
restart units do not fire (Table 16.12). -/
def takeTrigger (f : Bytes) (s : State) : State × Bool :=
  let b := bodyOf f
  let key := (hSrc f, field b 4 4)
  if s.trig.seen.contains key then (s, false)
  else
    let s : State := { s with trig := { s.trig with seen := (key :: s.trig.seen).take 64 } }
    let fl := field b 1 1
    let ev : TrigEvent := ⟨field b 8 8 * 65536 + field b 16 2, bitOf fl 6, bitOf fl 7⟩
    if isReady s && !inRestart s then (fireRemote s (hSrc f) (field b 0 1 % 64) ev, true) else (s, true)

/-- TRIGGER_RECEIVED (R328). -/
def execTriggerReceived (port : Fin 21) (t : Nat) (f : Bytes) (s : State) : Out :=
  if !Nat.beq (hKind f) 6 then .next s
  else .next (arrive s port t f (checked port f (takeTrigger f)))

/-! ### EVENT and SUMMARY contents -/

/-- An event-log entry (Table 17.10). -/
def eventBytes (e : Event) : Bytes :=
  be 4 e.seq ++ be 2 e.code ++ be 1 e.unit ++ be 1 (b2n e.notRunning) ++ be 8 e.time ++ be 2 e.frac ++ be 2 0 ++ fit 12 e.param

/-- SEQ of the oldest entry held. -/
def firstSeq (l : EventLog) : Nat := match l.entries with | e :: _ => e.seq | [] => l.nextSeq

/-- The hub sends frames to a root other than itself: it has a hub ID and a root (R311, R317). -/
def hasRoot (s : State) : Bool :=
  match ownId s with
  | some i => Nat.ble (s.nat O.rootId) 16383 && !Nat.beq i (s.nat O.rootId)
  | none => false

/-- Entries held that no EVENT has carried. -/
def unsentEvents (s : State) : List Event :=
  s.log.entries.filter (fun e => Nat.blt ((e.seq + 2 ^ 32 - s.twine.eventSent) % 2 ^ 32) (2 ^ 31))

/-- EVENT_SEND: once per second the entries not yet sent, at most 8,192 bytes of them, go to the root (R328). -/
def execEventSend (t : Nat) (s : State) : Out :=
  let s := s.advance t
  let l := (unsentEvents s).take 256
  match l with
  | [] => .next s
  | e :: _ =>
    if s.bool O.eventSend && hasRoot s then
      let s := sendTwine s { kind := 5, dest := s.nat O.rootId, cls := 3 } (be 2 l.length ++ be 2 0 ++ be 4 e.seq ++ l.flatMap eventBytes)
      .next { s with twine := { s.twine with eventSent := ((l.getLastD e).seq + 1) % 2 ^ 32 } }
    else .next s

/-- A slot of the last reduction record, or the value that stands for none (Table 19.2). -/
def redSlotOf (last : Bytes) (i : Nat) : Bytes := if last.isEmpty then be 8 0x8000000000000000 else slice last (16 + 8 * i) 8

/-- A channel's directory entry (Table 19.2), STALE clear. -/
def dirEntry (s : State) (ch : Nat) : Bytes :=
  let n : SummaryNote := Map.getD s.twine.notes ch {}
  let last := s.bytes O.redLast ch
  let newest := s.nat O.newestWritten ch
  let gaps := s.nat O.gapCount ch
  let status := 128 * b2n (s.twin.active || !s.bool O.twinEnable) + 64 * b2n (openState s ch) + 32 * b2n n.bad + 16 * b2n n.timeq
    + 8 * b2n (!Nat.beq gaps n.gaps) + 4 * b2n (!Nat.beq (bobbinState s ch / 4 % 4) 0) + 2 * b2n n.fill
  let mode := 4 * s.nat O.bobbinMode ch + 2 * s.nat O.bobbinPolicy ch + b2n (isB ch)
  let age := match n.redEnd with
    | some e => if last.isEmpty then 0xFFFFFFFF else min 0xFFFFFFFF ((newest - e) / frameTicks)
    | none => 0xFFFFFFFF
  let span := min 65535 ((newest - oldestHeld (s.bobbin ch)) / secondTicks)
  be 2 (s.nat O.hubId) ++ be 2 ch ++ be 1 status ++ be 1 mode ++ be 1 (s.nat O.redSelect ch) ++ be 1 (field last 1 1) ++ be 8 newest
    ++ redSlotOf last 0 ++ redSlotOf last 1 ++ redSlotOf last 2 ++ redSlotOf last 3 ++ be 4 age ++ be 4 (s.nat O.calSetId)
    ++ be 2 (toTwos 16 (s.objs.intK O.tQ (O.tQ.conv (pathOf s (creelOf ch))))) ++ be 2 gaps ++ be 2 span ++ be 2 (min 65535 n.flagged)

/-- Channels that a summary names: those whose BOBBIN_MODE is not 0 (R328). -/
def summaryChannels (s : State) : List Nat := enabledChannels s.objs

/-- What counts since the previous summary starts anew. -/
def clearNotes (s : State) (chs : List Nat) : State :=
  s.each chs (fun s ch =>
    let n : SummaryNote := Map.getD s.twine.notes ch {}
    { s with twine := { s.twine with notes := Map.set s.twine.notes ch { fill := n.fill, gaps := s.nat O.gapCount ch, redEnd := n.redEnd } } })

/-- SUMMARY frames of entries, at most 128 in each (Table 16.8). -/
def summaryFrames (s : State) (dest t interval : Nat) : Nat → List Bytes → State
  | 0, _ => s
  | _, [] => s
  | fuel + 1, e :: l =>
    let now := (e :: l).take 128
    summaryFrames (sendTwine s { kind := 8, dest := dest, cls := 3 } (be 2 now.length ++ be 2 0 ++ be 8 t ++ be 4 interval ++ now.flatten))
      dest t interval fuel ((e :: l).drop 128)

/-! ### Live admission (R325) -/

/-- A live stream's term of Q: B + F * 98, in bytes per second. -/
def streamDemand (st : Store) (b : Nat × Nat) : Nat × Nat :=
  addQ b (mulQ 98 (addQ (b.1, b.2 * (4 * max (st.nat O.skeinWords) 1)) (1000, max (st.nat O.skeinAge) 1)))

/-- The channel has an injected sequence: an entry of its converter's names its input. -/
def hasInjected (st : Store) (ch : Nat) : Bool :=
  (injOf st (ch / 16)).2.any (fun w => !entryIdle w && Nat.beq (entryInput w) (ch % 16))

/-- A channel's record bandwidth (R254). -/
def recordBandwidth (st : Store) (ch : Nat) : Nat × Nat :=
  let p := st.nat O.redSelect ch
  let red : Nat × Nat := if Nat.beq p 255 then (0, 1) else (80000, max (redOf st p).n 1)
  addQ red (mulQ 32 (slubRate st ch))

/-- The record stream counts (R325). -/
def recordStreamCounts (st : Store) (ch : Nat) : Bool :=
  !Nat.beq (st.nat O.redSelect ch) 255 || hasInjected st ch || (masksOn st (ch / 32)).any (fun m => maskSelects st m ch)

/-- 8,000 Q in bytes per second (R325). -/
def liveDemandQ (st : Store) : Nat × Nat :=
  (enabledChannels st).foldl (fun a ch =>
    let words := if Nat.beq (st.nat O.bobbinMode ch) 1 then mulQ 4 (wordRate st ch) else mulQ 2 (inputRate st ch)
    let a := addQ a (streamDemand st words)
    if recordStreamCounts st ch then addQ a (streamDemand st (recordBandwidth st ch)) else a) (0, 1)

/-- Live admission: abort code, 0 when it passes or the trunk cycle is off (R325). -/
def liveAdmit (st : Store) : Nat :=
  if !st.bool O.trunkCycleEnable then 0
  else
    let q := liveDemandQ st
    if decide (20 * (q.1 : Int) > liveCapacity st * q.2) || windowTooShort st then 0x040000A0 else 0

/-- LIVE_DEMAND and LIVE_CAPACITY (Table 16.13). -/
def liveDemandObj (st : Store) : Nat := let q := liveDemandQ st; ceilDiv q.1 (8000 * max q.2 1)
def liveCapacityObj (st : Store) : Nat := (liveCapacity st / 160000).toNat

end Sys2Proof.Machine
end

