-- ==== Sys2Proof/Machine/Twin.lean ====
section
/-! DEFINITION. Twin operation: the claim and the output stages, roles at start-up, heartbeats, takeover and switch-over
(18_twin.md, R353 to R368). -/

namespace Sys2Proof.Machine

/-- Replace the twin state. -/
def State.setTwin (s : State) (f : TwinState → TwinState) : State := { s with twin := f s.twin }

/-- The claim number (Table 18.1). -/
def ownClaim (s : State) : Nat := 128 * b2n s.twin.active + 2 * s.nat O.twinPriority + b2n s.twin.strap

/-- The partner's claim, valid within the last 60 µs (R357). -/
def partnerClaim (s : State) : Option Nat := if s.twin.claimLost then none else s.twin.partner

/-- What R357 says of the shared output stages. -/
def stagesAllowed (s : State) : Bool :=
  s.twin.active && (match partnerClaim s with
    | some p => Nat.blt p (ownClaim s) && !Nat.beq (p % 2) (ownClaim s % 2)
    | none => true)

/-- Switching events of every creel whose driver is on or booster, at `t0` (R77). -/
def twinSwitchEvents (s : State) (t0 : Nat) (drill : Bool) : State :=
  s.each (List.range 32) (fun s k =>
    if Nat.beq (s.nat O.excMode k) 0 then s
    else
      let s := switchDriver s k t0
      if drill then s.setDriver k { s.driver k with drill := true } else s)

/-- The field die evaluates R357. A gain or a loss of the claim is a switching event of every driver that is on, at the first
slot boundary at or after it (R75, R77, R362). -/
def evalStages (s : State) : State :=
  let on := stagesAllowed s
  let moved := on != s.twin.stages || (on && s.twin.recordOnEnable)
  let s := s.setTwin (fun w => { w with stages := on })
  if moved then
    twinSwitchEvents (s.setTwin (fun w => { w with recordOnEnable := false })) (ceilDiv s.now 128 * 128) false
  else s

/-- The end of a channel's words held. -/
def heldEnd (b : Bobbin) : Nat := ((b.hanks.filter (fun h => !Nat.beq h.kind 3)).map (fun h => h.last + h.interval)).foldl max 0

/-- Each live stream starts at the first item committed from now on, with RESUME (R317, R365). -/
def freshStreams (s : State) : State :=
  let s := s.each (List.range 512) (fun s ch =>
    match Map.find? s.bob.bobbins ch with
    | some b =>
      let w := s.stream (2 * ch)
      let r := s.stream (2 * ch + 1)
      (s.setStream (2 * ch) { w with pos := max w.pos (heldEnd b), resume := true, since := none }).setStream (2 * ch + 1)
        { r with pos := b.serial, resume := true, since := none }
    | none => s)
  s.each (List.range 16) (fun s r =>
    let x := s.reel r
    (s.setReel r { x with held := x.held.map (fun c => { c with sent := c.bytes.length }) }).setStream (1024 + r) { s.stream (1024 + r) with resume := true })

/-- The unit becomes active: fresh live streams, and hanks are doffed by acknowledgement (R256, R364, R365). -/
def becomeActive (s : State) : State :=
  let s := freshStreams (s.setTwin (fun w => { w with active := true, unresolved := false, dualSince := none }))
  s.each (List.range 512) (fun s ch =>
    if (Map.find? s.bob.bobbins ch).isSome then s.setBobbin ch ((s.bobbin ch).doff (doffTime s ch)) else s)

/-- A live skein of this hub: its own SKEIN that answers no request (Table 16.3). -/
def liveSkein (s : State) (b : TxBody) : Bool :=
  match b with
  | .twine f => Nat.beq (hKind f) 1 && ownFrame s f && Nat.beq (field f 24 4) 0
  | .ptp .. => false

/-- The unit becomes standby: its live skeins stop (R365). -/
def becomeStandby (s : State) : State :=
  let p := s.nat O.rootPort
  let e := s.egress p
  let live := e.queue.filter (fun f => liveSkein s f.body)
  let s := s.setTwin (fun w => { w with active := false, dualSince := none, recordOnEnable := false })
  s.setEgress p { e with queue := e.queue.filter (fun f => !live.contains f), waiting := [], overrun := 0, launch := [] }

/-! ### The claim on the wire (R356, R357) -/

/-- The parity bit of a claim: the count of ones in the 9 bits is even (R356). -/
def claimParity (c : Nat) : Bool := Nat.beq (((List.range 8).filter (bitOf c)).length % 2) 1

/-- CLAIM_FRAME_SEND: a frame starts 20 µs after the one before it started (R356). -/
def execClaimFrameSend (s : State) : Out :=
  let s := s.advance s.twin.claimNext
  .next (s.setTwin (fun w => { w with claimSent := ownClaim s, claimParity := claimParity (ownClaim s), claimNext := s.now + 12800 }))

/-- CLAIM_FRAME_RECEIVED: a frame on CLAIM_IN; it is valid when its sync, its coding and its parity are correct (R356, R357, R363). -/
def execClaimFrameReceived (t : Nat) (coded : Bool) (bits : ClaimBits) (s : State) : Out :=
  let s := s.advance t
  if !(coded && bits.parity == claimParity bits.claim.toNat) then .next (s.bump O.claimErrCount)
  else
    let p := bits.claim.toNat
    let dual := s.twin.active && Nat.ble 128 p && Nat.blt (ownClaim s) p
    .next (evalStages (s.setTwin (fun w => { w with
      partner := some p, partnerAt := t, claimLost := false, dualSince := if dual then some (w.dualSince.getD t) else none })))

/-- The claim-loss alarm of R32, which a unit used alone never raises. -/
def claimAlarm (s : State) : State :=
  let was := s.twin.claimLost
  let s := s.setTwin (fun w => { w with claimLost := true, dualSince := none })
  if s.bool O.twinEnable && !was then s.ev Ev.twinClaimLost 0xFF else s

/-- TWIN_CLAIM_LOST: no valid partner claim for 60 µs (R357). -/
def execTwinClaimLost (t : Nat) (s : State) : Out :=
  let s := s.advance t
  if s.twin.claimLost || (s.twin.partner.isSome && Nat.blt t (s.twin.partnerAt + 38400)) then .next s
  else .next (evalStages (claimAlarm s))

/-- TWIN_DUAL_ACTIVE: exceeding active claims have arrived for 1 ms without a break (R363). -/
def execTwinDualActive (s : State) : Out :=
  match s.twin.dualSince with
  | some t0 => if s.twin.active then .next (evalStages ((becomeStandby (s.advance (t0 + msTicks))).ev Ev.twinDualActive 0xFF)) else .next s
  | none => .next s

/-- Takeover (R362). -/
def takeOver (s : State) : State :=
  let s := becomeActive (s.setTwin (fun w => { w with switch := none }))
  let s := ((s.put O.takeoverTime 0 s.now).bump O.takeoverCount).ev Ev.twinTakeover 0xFF
  evalStages (s.setTwin (fun w => { w with recordOnEnable := true }))

/-- A standby that is READY, with its role taken, takes over once both paths have been silent for HB_TIMEOUT (R362). -/
def takeOverIfDue (s : State) : State :=
  if s.bool O.twinEnable && s.twin.hbSilent && s.twin.linkSilent && !s.twin.active && isReady s && !inRestart s && s.twin.listenUntil.isNone then takeOver s
  else s

/-! ### Roles (R360) -/

/-- What reaching READY does (R360). -/
def twinReady (s : State) : State :=
  if s.bool O.twinEnable then s.setTwin (fun w => { w with listenUntil := some (s.now + 100 * msTicks) })
  else evalStages (s.setTwin (fun w => { w with active := true }))

/-- TWIN_ROLE_LISTEN_END (R360). -/
def execTwinRoleListenEnd (s : State) : Out :=
  match s.twin.listenUntil with
  | none => .next s
  | some t =>
    let s := (s.advance t).setTwin (fun w => { w with listenUntil := none })
    match partnerClaim s with
    | none => .next (evalStages (claimAlarm (becomeActive s)))
    | some p =>
      let own := ownClaim s % 128
      if Nat.ble 128 p then .next (takeOverIfDue s)
      else if Nat.blt p own then .next (evalStages (becomeActive s))
      else if Nat.beq p own then .next (takeOverIfDue (s.setTwin (fun w => { w with unresolved := true })))
      else .next (takeOverIfDue s)

/-- TWIN_ENABLE takes effect (Table 18.4): without it ACTIVE is held from READY on; with it the lease runs from now. -/
def twinEnableWritten (s : State) : State :=
  if s.bool O.twinEnable then s.setTwin (fun w => { w with hbOutAt := s.now, hbInAt := s.now, frameAt := s.now, hbSilent := false, linkSilent := false })
  else if isReady s && !s.twin.active then evalStages ((becomeActive s).setTwin (fun w => { w with listenUntil := none, switch := none }))
  else evalStages s

/-! ### Heartbeats (R358, R361) -/

/-- A TWIN frame for port 19 (Table 16.8). -/
def sendTwin (s : State) (ttype gtime : Nat) : State :=
  let n := s.twin.counter
  let body := be 1 ttype ++ be 1 (b2n s.twin.active) ++ be 1 s.twin.claimSent ++ be 1 0 ++ be 4 n ++ be 4 (s.nat O.restartCount) ++ be 8 gtime
  sendTwineOn (s.setTwin (fun w => { w with counter := (n + 1) % 2 ^ 32 })) 19 { kind := 9, cls := 1 } body

/-- TWIN_FRAME_SEND: every 1 ms, by the distaff of a unit with TWIN_ENABLE (R361, Table 18.4). -/
def execTwinFrameSend (t : Nat) (s : State) : Out :=
  let s := s.advance t
  if s.bool O.twinEnable && !inRestart s && s.pwr.sleep.isNone then .next (sendTwin s 1 s.gridTime) else .next s

/-- HB_OUT_TOGGLE: the distaff, or for up to 200 ms the field die to which it was handed, toggles HB_OUT and so renews the
lease (R358, R361). -/
def execHbOutToggle (t : Nat) (s : State) : Out :=
  let s := s.advance t
  let may := if s.pwr.sleep.isSome then false else if inRestart s then (match s.twin.hbHanded with | some e => Nat.ble t e | none => false) else true
  if s.bool O.twinEnable && may then .next (s.setTwin (fun w => { w with hbOut := !w.hbOut, hbOutAt := t })) else .next s

/-- TWIN_LEASE_LAPSED: 1.5 ms without an edge on HB_OUT (R358). -/
def execTwinLeaseLapsed (t : Nat) (s : State) : Out :=
  let s := s.advance t
  if s.bool O.twinEnable && s.twin.active && Nat.ble (s.twin.hbOutAt + 960000) t then
    .next (evalStages ((becomeStandby s).ev Ev.twinLeaseLapsed 0xFF))
  else .next s

/-- HB_IN_EDGE (R361). -/
def execHbInEdge (t : Nat) (s : State) : Out :=
  .next ((s.advance t).setTwin (fun w => { w with hbInAt := t, hbSilent := false }))

/-- A checked TWIN frame: its COUNTER, SRC, EPOCH and grid time (R361, R366, Table 18.4). -/
def twinFrameIn (f : Bytes) (s : State) : State :=
  let b := bodyOf f
  let c := field b 4 4
  let rising := match s.twin.lastCounter with | some q => Nat.blt q c | none => true
  let s := s.setTwin (fun w => { w with
    lastCounter := some c, frameAt := if rising then s.now else w.frameAt, linkSilent := w.linkSilent && !rising,
    partnerReady := if Nat.beq (field b 0 1) 1 then !Nat.beq (field b 12 8) 0 else w.partnerReady })
  (s.put O.partnerHubId 0 (if hSrcUnset f then 0xFFFF else hSrc f)).put O.partnerEpoch 0 (field b 8 4)

/-- A TWIN frame of one type on port 19; a frame of no type is checked with the heartbeats. -/
def takeTwin (t : Nat) (f : Bytes) (mine : Bool) (k : State → State) (s : State) : Out :=
  if !Nat.beq (hKind f) 9 || !mine then .next s
  else .next (arrive s 19 t f (checked 19 f (fun s => (k (twinFrameIn f s), false))))

/-- TWIN_HEARTBEAT (R361). -/
def execTwinHeartbeat (t : Nat) (f : Bytes) (s : State) : Out := takeTwin t f (!List.contains [2, 3] (field f 16 1)) id s

/-- TWIN_PATH_SILENT: HB_IN (`link` false) or the twin link has been silent for HB_TIMEOUT; with both silent a standby that
is READY takes over (R361, R362). -/
def execTwinPathSilent (link : Bool) (t : Nat) (s : State) : Out :=
  let s := s.advance t
  let w := s.twin
  let last := if link then w.frameAt else w.hbInAt
  if !s.bool O.twinEnable || (if link then w.linkSilent else w.hbSilent) || Nat.blt t (last + s.nat O.hbTimeout * msTicks) then .next s
  else
    .next (takeOverIfDue ((s.setTwin (fun w => if link then { w with linkSilent := true } else { w with hbSilent := true })).ev
      Ev.twinPathSilent 0xFF (be 1 (b2n link))))

/-! ### Switch-over (R366, R367) -/

/-- State check of SWITCH_OVER (R366): abort code, 0 when it passes. -/
def switchOverState (s : State) : Nat :=
  if !s.twin.active then 0x03000070
  else if s.twin.hbSilent || s.twin.linkSilent || !s.twin.partnerReady then 0x03000071
  else if s.twin.switch.isSome then 0x03000072
  else 0

/-- SWITCH_OVER takes effect at frame boundary T0 (Table 18.3). A unit that is no longer active has nothing to hand over. -/
def switchOverAt (s : State) (t0 : Nat) : State :=
  if s.twin.active then sendTwin (s.setTwin (fun w => { w with switch := some { t0 := t0, giving := true } })) 2 t0 else s

/-- TWIN_SWITCH_OVER: the standby answers SWITCH_OVER_ACK (Table 18.3). -/
def execTwinSwitchOver (t : Nat) (f : Bytes) (s : State) : Out :=
  takeTwin t f (Nat.beq (field f 16 1) 2) (fun s =>
    if s.twin.active || !s.bool O.twinEnable then s
    else sendTwin (s.setTwin (fun w => { w with switch := some { t0 := field (bodyOf f) 12 8, giving := false } })) 3 s.gridTime) s

/-- TWIN_SWITCH_OVER_ACK. -/
def execTwinSwitchOverAck (t : Nat) (f : Bytes) (s : State) : Out :=
  takeTwin t f (Nat.beq (field f 16 1) 3) (fun s => s.setTwin (fun w => { w with switch := w.switch.map (fun x => if x.giving && Nat.ble s.now (x.t0 + msTicks) then { x with acked := true } else x) })) s

/-- TWIN_SWITCH_FAILED: no ACK by 1 ms; the switch-over is cancelled (Table 18.3). -/
def execTwinSwitchFailed (s : State) : Out :=
  match s.twin.switch with
  | some x =>
    if x.giving && !x.acked then
      .next (((s.advance (x.t0 + msTicks)).setTwin (fun w => { w with switch := none })).ev Ev.twinSwitchFailed 0xFF)
    else .next s
  | none => .next s

/-- SWITCH_OVER_HANDOVER at T0 + 2 ms: the active unit clears ACTIVE, the standby sets it, and both record the switching
events of R77 at this boundary (Table 18.3). -/
def execSwitchOverHandover (s : State) : Out :=
  match s.twin.switch with
  | some x =>
    let t := x.t0 + 1280000
    if x.giving && !x.acked then .next s
    else
      let s := (s.advance t).setTwin (fun w => { w with switch := none })
      let s := (s.bump O.switchCount).ev Ev.twinSwitchOver 0xFF (be 1 (b2n (!x.giving)))
      if x.giving then .next (twinSwitchEvents (evalStages (becomeStandby s)) t false)
      else .next (twinSwitchEvents (evalStages ((becomeActive s).put O.takeoverTime 0 t)) t true)
  | none => .next s

/-- STANDBY_AGE_DOFF: a standby's sealed hanks older than STANDBY_HOLD are doffed (R364). -/
def execStandbyAgeDoff (ch : Fin 512) (s : State) : Out :=
  if s.twin.active || s.spin.restarting || (Map.find? s.bob.bobbins ch).isNone then .next s
  else .next (s.setBobbin ch ((s.bobbin ch).doff (s.now - s.nat O.standbyHold * secondTicks)))

/-- TWIN_STATE (Table 18.4). -/
def twinStateObj (s : State) : Nat :=
  32 * b2n (s.twin.unresolved || s.twin.dualSince.isSome) + 16 * b2n (s.twin.claimLost && s.bool O.twinEnable) + 8 * b2n s.twin.linkSilent
    + 4 * b2n s.twin.hbSilent + 2 * b2n s.twin.stages + b2n s.twin.active

end Sys2Proof.Machine
end

