-- ==== Sys2Proof/Machine/Restart.lean ====
section
/-! DEFINITION. Resets (R19, R423 to R426): the end of every stream at a sleep or re-epoch, full resets and what they keep, and
the start and end of a core restart. -/

namespace Sys2Proof.Machine

/-- Change the supply and reset state. -/
def State.setPwr (s : State) (f : PowerState → PowerState) : State := { s with pwr := f s.pwr }

/-! ### End of streams (Tables 9.6 and 22.5) -/

/-- Injected sequences end, and none stays queued (Tables 9.6, 22.5). -/
def endInjections (s : State) (t : Nat) : State :=
  s.each (List.range 32) (fun s c =>
    let s := match (s.injector c).run with
      | some r => finishInj c (Map.getD s.samp.injRecords c []).length (endRun s c t r true)
      | none => s.setInjector c { s.injector c with waiting := none }
    let i := s.injector c
    logPreSpans (s.setInjector c { i with spans := [] }) c i.spans)

/-- At `t` every channel's output ends as R134 states, and injected sequences, wire-break runs, reel captures and reduction
intervals close; open hanks are sealed (Tables 9.6 and 22.5, R252). -/
def closeStreams (s : State) (t : Nat) : State :=
  let chs := s.draft.plans.map (·.1)
  let s := s.each chs (fun s ch => enterChange s t ch none (.leave, false))
  let s : State := { s with draft := { s.draft with plans := [] } }
  let s := endInjections s t
  let s := s.each (List.range 32) wbAbort
  let s := endAllCaptures (cutReductions (finishRecompute (drainPipeline s)) t)
  let chains := s.draft.chains.map (fun x => (x.1, { x.2 with settleUntil := 0 }))
  let s : State := { s with draft := { s.draft with chains := chains } }
  let s := s.each (List.range 512) (fun s ch => sealBobbin s ch true)
  { s with samp := { s.samp with prevCode := [] } }

/-! ### The dictionary's transient state -/

/-- Sessions close, and transfers and snapshots held in distaff memory are lost (R347, R423). -/
def closeSessions (s : State) : State := { s with dict := { s.dict with sessions := [], segs := [], snaps := [] } }

/-- A pending write is discarded and logged with its T (R338). -/
def dropWrite (s : State) (w : PendWrite) : State :=
  s.ev Ev.writeDropped 0xFF (be 3 w.key ++ be 1 w.principal ++ be 8 w.t)

/-- A pending UPD_ACTIVATE that goes away leaves UPD_STATE VERIFIED (R408). -/
def disarmUpdate (s : State) : State :=
  if Nat.beq (s.nat O.updState) 4 && !s.nvm.pointer.trial && !(s.dict.pend.any (fun w => Nat.beq w.key O.updActivate.key)) then s.put O.updState 0 3 else s

/-- Discard the pending writes that `p` picks (R338, Table 22.5). -/
def dropWrites (s : State) (p : PendWrite → Bool) : State :=
  let gone := s.dict.pend.filter p
  let s : State := { s with dict := { s.dict with pend := s.dict.pend.filter (fun w => !p w) } }
  disarmUpdate (gone.foldl dropWrite s)

/-! ### Full reset (R423, R426) -/

/-- The newer stored copy (R348, R350). -/
def NvmState.newerCopy (n : NvmState) : Option StoredCopy :=
  match n.copy0, n.copy1 with
  | some a, some b => if Nat.ble b.seq a.seq then some a else some b
  | some a, none => some a
  | none, b => b

/-- The objects that take effect at a full reset, by the key of the stored object and of the object in force: HUB_ID,
ETHERTYPE, GEOMETRY, GRAIN, HASH_WINDOW_0 to 3, ROOT_ROLE (R268, R311, R350, R369). -/
def resetPairs : List (Ref × Ref) :=
  [(O.hubIdNext, O.hubId), (O.ethertypeNext, O.ethertype), (O.geometryNext, O.geometry), (O.grainNext, O.grain),
   (O.rootRoleNext, O.rootRole)]

/-- The store right after a full reset: defaults, OTP values, and the objects that take effect at the reset. -/
def resetStore (old : Store) (n : NvmState) (cause upd : Nat) : Store :=
  let c : Store := match n.newerCopy with | some x => x.objs | none => []
  let keep := fun (st : Store) (r : Ref) => match Map.find? old r.key with | some v => st.put r.key v | none => st
  let st := [O.siliconRev, O.serial, O.baseMac].foldl keep []
  let st := (old.filter (fun x => Nat.ble O.factoryCal.key x.1 && Nat.ble x.1 (O.factorySkew.at 32))).foldl (fun (st : Store) x => st.put x.1 x.2) st
  let st := st.put O.lastResetCause.key (.int cause)
  let st := if Nat.beq upd 0 then st else st.put O.updState.key (.int upd)
  let st := resetPairs.foldl (fun (st : Store) (p : Ref × Ref) =>
    match Map.find? c p.1.key with
    | some v => (st.put p.1.key v).put p.2.key v
    | none => st.put p.2.key p.1.dflt) st
  (List.range 4).foldl (fun (st : Store) i =>
    let st := match Map.find? c (O.hashWindowNext.key + i) with | some v => st.put (O.hashWindowNext.key + i) v | none => st
    st.put (O.hashWindow.key + i) (.bytes (hashNext st i))) st

/-- UPD_STATE that a full reset leaves: the staging and its transfer survive (R405), a build starts over from the payload, a
pending activation is gone (R338), a trial is the boot ROM's to judge (R410). -/
def updAfterReset (v : Nat) : Nat := if Nat.beq v 1 || Nat.beq v 2 then 1 else if Nat.beq v 3 || Nat.beq v 4 then 3 else if Nat.beq v 5 then 5 else 0

/-- A full reset: everything but OTP, boot flash and what the field die keeps is wiped (Table 22.3). `pwr` is the supply state
that the cause leaves. -/
def fullReset (s : State) (cause : Nat) (pwr : PowerState) : State :=
  let upd := updAfterReset (s.nat O.updState)
  { pending := s.pending, free := s.free,
    objs := resetStore s.objs s.nvm cause upd,
    nvm := { s.nvm with bootCount := (s.nvm.bootCount + 1) % 2 ^ 32 },
    upd := if Nat.beq upd 0 then {} else { bytes := s.upd.bytes, manifest := s.upd.manifest, blocks := s.upd.blocks },
    twin := { strap := s.twin.strap }, pwr := pwr }

/-- The supply state of a full reset with the rails on (R424, R425). -/
def railsKept (p : PowerState) : PowerState := { vin := p.vin, v5 := p.v5, enabled := p.enabled, good := p.good, held := p.held }

/-! ### Core restart (R19, R425) -/

/-- What the root's bookkeeping in distaff memory loses; the directory lies in DRAM (R372, R423). -/
def rootRestart (s : State) : State :=
  let running := s.root.retro.isSome
  let s : State := { s with root := { dir := s.root.dir, badLogged := s.root.badLogged, nextReq := s.root.nextReq } }
  if running then s.put O.retroState 0 4 else s

/-- A running sweep is abandoned when its path has handed back (R115). -/
def sweepAborts (s : State) : State :=
  match s.cal.sweep with
  | some w => { s with cal := { s.cal with sweep := some { w with aborting := true } } }
  | none => s

/-- The hub forgets the requests it has out. -/
def forgetRequests (s : State) : State := { s with twine := { s.twine with outstanding := [], retry := [] } }

/-- A core restart begins (R19, R423, R425): the spindles, the distaff and the secure core restart; the sampling path, the
configuration, the retained region and DRAM are kept.  An announced one hands HB_OUT to the field die (R358). -/
def coreRestartBegin (s : State) (watchdog announced : Bool) : State :=
  let s := (s.setStatus 2).ev Ev.coreRestart 0xFF
  let s := s.bump O.restartCount
  let s := s.setPwr (fun p => { p with restart := some { watchdog := watchdog, since := s.now } })
  let s := spindlesDown s
  let s := closeSessions s
  let s := internalRestart ((List.range 4).foldl mbRestart s)
  let s := rootRestart (forgetRequests (sweepAborts s))
  let s := s.setUpd (fun u => { u with healthSince := none })
  if announced && s.bool O.twinEnable then s.setTwin (fun w => { w with hbHanded := some (s.now + 200 * msTicks) }) else s

/-- The trial window opens (Table 21.8). -/
def openTrial (s : State) : State :=
  (s.put O.updState 0 5).put O.trialEnd 0 (s.now + s.nat O.trialWindow * secondTicks)

/-- A core restart ends: secure boot, then the cores run again; held acknowledgements are applied, the spindles recompute and
reels that fell due meanwhile wait for the next boundary (R19, R20, R220, R241, R411).  A restart into a new image opens its trial (Table 21.8). -/
def coreRestartFinish (s : State) (bad : List (Fin 2)) : State :=
  match s.pwr.restart with
  | none => s
  | some r =>
    let b := secureBoot s bad
    let s := b.1.setPwr (fun p => { p with restart := none, wdEnd := if r.watchdog then some s.now else p.wdEnd })
    let s := s.setTwin (fun w => { w with hbHanded := none })
    if !b.2 then s else
    let s := if s.pwr.ready then enterReady s s.now else s.setStatus 0
    let s := takeOverIfDue (rearmMissed (applyHeldDoffs (resumeDoffing (spindlesUp s))) s.now)
    if Nat.beq (s.nat O.updState) 4 && s.nvm.pointer.trial then openTrial s else s

end Sys2Proof.Machine
end

