-- ==== Sys2Proof/Machine/Segments.lean ====
section
/-! DEFINITION. The blocks and pieces of a segmented write (R343, R405), shared by the dictionary's transfers and the
update's payload. -/

namespace Sys2Proof.Machine

/-- A piece: block offset, block length, block CRC-32C, piece offset within the block, bytes (Table 17.6). -/
abbrev Piece := Nat × Nat × Nat × Nat × Bytes

/-- A piece belongs to the block that this offset, length and CRC name. -/
def Piece.ofBlock (p : Piece) (off len crc : Nat) : Bool :=
  Nat.beq p.1 off && Nat.beq p.2.1 len && Nat.beq p.2.2.1 crc

/-- Bytes from a place on that pairs of an offset and bytes cover without a break, up to a limit; each round takes one
pair that covers the place. -/
def coverFrom (l : List (Nat × Bytes)) (limit : Nat) : Nat → Nat → Bytes
  | 0, _ => []
  | fuel + 1, at_ =>
    if Nat.ble limit at_ then [] else
    match l.find? (fun x => Nat.ble x.1 at_ && Nat.blt at_ (x.1 + x.2.length)) with
    | some x =>
      let got := (x.2.drop (at_ - x.1)).take (limit - at_)
      got ++ coverFrom l limit fuel (at_ + got.length)
    | none => []

/-- The bytes that pairs of an offset and bytes cover contiguously from 0, at most `limit` (R343). -/
def covered (l : List (Nat × Bytes)) (limit : Nat) : Bytes := coverFrom l limit (l.length + 1) 0

/-- A piece is taken: pieces and held blocks after it, and the abort (R343).  A block counts as held when its pieces
cover it and its CRC matches; a CRC that does not match discards the block with abort 0x0700_0002. -/
def takePiece (pieces : List Piece) (held : List (Nat × Bytes)) (p : Piece) : List Piece × List (Nat × Bytes) × Nat :=
  let off := p.1
  let len := p.2.1
  let crc := p.2.2.1
  let all := p :: pieces
  let mine := (all.filter (·.ofBlock off len crc)).map (fun x => (x.2.2.2.1, x.2.2.2.2))
  let block := covered mine len
  if !Nat.beq block.length len then (all, held, 0)
  else
    let rest := all.filter (fun x => !x.ofBlock off len crc)
    if Nat.beq (crc32c block) crc then (rest, (off, block) :: held.filter (fun x => !(Nat.beq x.1 off && Nat.beq x.2.length len)), 0)
    else (rest, held, 0x07000002)

/-- The fixed fields of SEG_WRITE data: TOTAL, OFFSET, BLEN, CRC, piece offset, piece (Table 17.6). -/
structure SegFields where
  total : Nat
  off : Nat
  blen : Nat
  crc : Nat
  poff : Nat
  piece : Bytes
  deriving DecidableEq, Repr

/-- Read them. -/
def segFields (b : Bytes) : SegFields := ⟨field b 0 4, field b 4 4, field b 8 4, field b 12 4, field b 16 4, b.drop 20⟩

/-- SEG_WRITE data that does not follow its layout: shorter than its fixed fields, or BLEN outside 1 to 65,536 (R343). -/
def segWriteMalformed (b : Bytes) : Bool :=
  Nat.blt b.length 20 || Nat.blt (field b 8 4) 1 || Nat.blt 65536 (field b 8 4)

/-- A piece that overruns its block, or a block that overruns TOTAL (R343, abort 0x0700_0004). -/
def segOverruns (x : SegFields) : Bool :=
  Nat.blt x.blen (x.poff + x.piece.length) || Nat.blt x.total (x.off + x.blen)

end Sys2Proof.Machine
end

