-- ==== Sys2Proof/Machine/Update.lean ====
section
/-! DEFINITION. Firmware update and life cycle (21_update_lifecycle.md, R401 to R416): manifest checks, staging, deltas and the
build, activation, trial, rollback, keys and life-cycle changes.  The dictionary's hooks for these objects are the functions
of this file; what the parts of an image hold is not interpreted. -/

namespace Sys2Proof.Machine

/-! ### The manifest (R404) -/

/-- Sum of the parts' places in a slot: the manifest's 64 KiB, then each part from a 64 KiB boundary (R401). -/
def slotBytes (sizes : List Nat) : Nat := 65536 + (sizes.map (fun n => ceilDiv n 65536 * 65536)).sum

/-- Sizes of the seven parts that the image will hold. -/
def resultSizes (m : Manifest) (x : Slot) : List Nat :=
  [1, 2, 3, 4, 5, 6, 7].map (fun i => match m.parts.find? (fun p => Nat.beq p.part i) with
    | some p => p.size
    | none => (x.part i).length)

/-- SEQUENCE of a slot. -/
def Slot.sequence (x : Slot) : Nat := if x.factory then Config.factorySequence % 2 ^ 32 else x.seq

/-- A part names an interruption of sampling (Table 21.4). -/
def Manifest.interrupting (m : Manifest) : Bool := m.parts.any (fun p => Nat.ble 6 p.part)

/-- The checks of Table 21.5 in order: the abort, 0 when they pass, and the manifest.  In BLANK and RETIRED updates are refused
(Table 21.10). -/
def manifestCheck (s : State) (b : Bytes) : Nat × Option Manifest :=
  let n := s.nvm
  let st := s.nat O.updState
  if !(Nat.beq st 0 || Nat.beq st 3 || Nat.beq st 6) || Nat.beq n.lc 0 || Nat.beq n.lc 4 then (0x03000081, none) else
  match signedOf b with
  | none => (0x020000C0, none)
  | some g =>
    let m := g.manifest
    let x := n.slot n.pointer.active
    if !(n.keyUsable g.keySlot && n.keyHash g.keySlot == some (sha256 g.key)) then (0x06000011, none)
    else if !ecdsaVerify g.key g.toBeSigned g.sig then (0x06000010, none)
    else if Nat.blt (s.nat O.siliconRev) m.minSilicon then (0x020000C2, none)
    else if m.interrupting && !m.ack then (0x020000C1, none)
    else if !Nat.beq n.lc 3 && Nat.blt m.seq x.sequence then (0x03000083, none)
    else if Nat.blt 20971520 (slotBytes (resultSizes m x)) || Nat.blt 24117248 m.size then (0x040000C0, none)
    else if m.parts.any (fun p => match p.base with | some d => !(d == sha256 (x.part p.part)) | none => false) then (0x07000021, none)
    else (0, some m)

/-- An accepted manifest (R404). -/
def manifestAccept (s : State) (b : Bytes) : State :=
  let s : State := { s with upd := { bytes := b, manifest := (manifestCheck s b).2 } }
  ((s.put O.updState 0 1).put O.updProgress 0 0).ev Ev.updManifestAccepted 0xFF

/-! ### The payload (R405, R406) -/

/-- PAYLOAD_SIZE of the manifest in hand. -/
def payloadSize (s : State) : Nat := match s.upd.manifest with | some m => m.size | none => 0

/-- Whether UPD_PAYLOAD takes transfers: RECEIVING only (R404 to R408). -/
def payloadState (s : State) : Nat := if Nat.beq (s.nat O.updState) 1 then 0 else 0x03000081

/-- A block lies where R405 wants it. -/
def payloadBlockOk (s : State) (off len : Nat) : Bool :=
  Nat.beq (off % 65536) 0 && (Nat.beq len 65536 || Nat.beq (off + len) (payloadSize s))

/-- A SEG_WRITE to UPD_PAYLOAD: the state and the abort (R343, R405). -/
def payloadPiece (s : State) (x : SegFields) : State × Nat :=
  if !Nat.beq (payloadState s) 0 then (s, payloadState s)
  else if !Nat.beq x.total (payloadSize s) then (s, 0x02000001)
  else if segOverruns x || !payloadBlockOk s x.off x.blen then (s, 0x07000004)
  else
    let r := takePiece s.upd.pieces s.upd.blocks (x.off, x.blen, x.crc, x.poff, x.piece)
    let s := s.setUpd (fun u => { u with pieces := r.1, blocks := r.2.1 })
    (s.put O.updProgress 0 ((r.2.1.map (fun b => b.2.length)).sum), r.2.2)

/-- The payload held contiguously from its start. -/
def payloadHeld (s : State) : Bytes := covered s.upd.blocks (payloadSize s)

/-- The SEG_COMMIT of UPD_PAYLOAD: PAYLOAD_DIGEST (R406). -/
def payloadCheck (s : State) (v : Bytes) : Nat :=
  if !Nat.beq (payloadState s) 0 then payloadState s else
  match s.upd.manifest with
  | some m => if sha256 v == m.digest then 0 else 0x07000007
  | none => 0x03000081

/-- The build begins: the inactive slot is erased, and no byte of a result is built yet (R406, Table 21.13). -/
def payloadAccept (s : State) : State :=
  let o := 1 - s.nvm.pointer.active
  ((s.setNvm (fun n => n.setSlot o {})).put O.updState 0 2).put O.updProgress 0 0

/-! ### Deltas and the build (R407) -/

/-- Run a delta against its source: `none` where R407 makes the build fail. -/
def deltaRun (src : Bytes) : Nat → Bytes → Option Bytes
  | 0, _ => none
  | fuel + 1, d =>
    match d with
    | [] => none
    | op :: l =>
      if op = 0x00#8 then (if l.isEmpty then some [] else none)
      else if op = 0x01#8 then
        let off := field l 0 4
        let len := field l 4 4
        if Nat.blt l.length 8 || Nat.blt src.length (off + len) then none
        else (deltaRun src fuel (l.drop 8)).map (slice src off len ++ ·)
      else if op = 0x02#8 then
        let off := field l 0 4
        let len := field l 4 4
        if Nat.blt l.length (8 + len) || Nat.blt src.length (off + len) then none
        else (deltaRun src fuel (l.drop (8 + len))).map (List.zipWith (· + ·) (slice src off len) (slice l 8 len) ++ ·)
      else if op = 0x03#8 then
        let len := field l 0 4
        if Nat.blt l.length (4 + len) then none else (deltaRun src fuel (l.drop (4 + len))).map (slice l 4 len ++ ·)
      else none

/-- Rebuild one part named in PARTS: its result checked for length and digest (R406, R407). -/
def buildPart (x : Slot) (payload : Bytes) (p : PartMap) : Option Bytes :=
  let d := slice payload p.offset p.length
  let src := x.part p.part
  if !Nat.beq d.length p.length then none else
  match deltaRun src (d.length + 1) d with
  | some r => if Nat.beq r.length p.size && sha256 r == p.digest then some r else none
  | none => none

/-- All seven parts: those named rebuilt, the others copied from the active slot (R406). -/
def buildParts (m : Manifest) (x : Slot) (payload : Bytes) : Option (List (Option Bytes)) :=
  [1, 2, 3, 4, 5, 6, 7].mapM (fun i => match m.parts.find? (fun p => Nat.beq p.part i) with
    | some p => (buildPart x payload p).map some
    | none => some (x.parts.getD (i - 1) none))

/-- UPD_BUILT: the build of the inactive slot ends (R407). -/
def execUpdBuilt (t : Nat) (s : State) : Out :=
  if !Nat.beq (s.nat O.updState) 2 then .next s else
  let s := s.advance t
  let a := s.nvm.pointer.active
  let x := s.nvm.slot a
  match s.upd.manifest with
  | none => .next s
  | some m =>
    match buildParts m x (payloadHeld s) with
    | some ps =>
      let y : Slot := { manifest := s.upd.bytes, parts := ps, seq := m.seq, keySlot := m.keySlot, state := 1 }
      let s := s.setNvm (fun n => n.setSlot (1 - a) y)
      .next (((s.put O.updState 0 3).put O.updProgress 0 (resultSizes m x).sum).ev Ev.updBuilt 0xFF)
    | none => .next ((s.put O.updState 0 6).ev Ev.updBuildFailed 0xFF)

/-! ### Activation (R408, Table 21.8) -/

/-- Sampling stops at `t` while interrupting parts are loaded: sequencers, drivers and FIO4 to FIO7 (Table 21.8). -/
def beginGap (s : State) (t : Nat) : State :=
  let s := (List.range 32).foldl wbAbort (endInjections s t)
  let s : State := { s with trig := { s.trig with fio := [] } }
  s.setUpd (fun u => { u with gapFrom := some (u.gapFrom.getD t), resumeAt := none })

/-- The preset tables of slot `x` give way to those of slot `y` at `t`: each channel whose preset's content changes makes a
profile-content change with its states kept (R408, R410, Table 7.5; log entry 162). -/
def presetsChange (s : State) (t : Nat) (x y : Slot) : State :=
  if x.part 4 == y.part 4 then s else
  s.each (List.range 512) (fun s ch => match Map.find? s.draft.plans ch with
    | some p =>
      if Nat.blt 0 p.profSel && Nat.blt p.profSel 24 && Config.presetDiffers (x.part 4) (y.part 4) p.profSel then
        (enterChange s t ch (some p) (.keep, true)).put O.planEffective ch t
      else s
    | none => s)

/-- An activation takes effect at `t` (Table 21.8, R402). -/
def activateAt (s : State) (t : Nat) : State :=
  let o := 1 - s.nvm.pointer.active
  let s := s.setNvm (fun n => n.writePointer (fun p => { (p.pass o) with active := o, trial := true, boots := 0 }))
  let s := s.setUpd (fun u => { u with ports := [1, 2, 20].filter (portUp s), healthSince := none })
  let s := presetsChange ((s.put O.actTime 0 t).evAt Ev.updActivated 0xFF t 0) t (s.nvm.slot (1 - o)) (s.nvm.slot o)
  let s := match s.upd.manifest with
    | some m => if m.interrupting then beginGap s t else s
    | none => s
  coreRestartBegin s false true

/-- INTERRUPTING_PARTS_LOADED: sampling is to resume at the first frame boundary after the load (Table 21.8). -/
def execInterruptingPartsLoaded (t : Nat) (s : State) : Out :=
  if s.upd.gapFrom.isNone then .next s else .next ((s.advance t).setUpd (fun u => { u with resumeAt := some (nextFrame t) }))

/-- Sampling resumes at T_r: sequences at entry 0, drafting cleared, SETTLE, switching events, UPDATE gap records (Table 21.8). -/
def resumeSampling (s : State) (t : Nat) : State :=
  match s.upd.gapFrom with
  | none => s
  | some t0 =>
    let s := s.setUpd (fun u => { u with gapFrom := none, resumeAt := none })
    let s : State := { s with samp := { s.samp with lastSlot := t, prevCode := [] } }
    let s := replanAll s t (fun _ => true)
    let s := s.each (List.range 32) (fun s k => if excEnabled s k then switchDriver s k t else s)
    s.each (List.range 512) (fun s ch =>
      let m := s.nat O.bobbinMode ch
      if Nat.beq m 1 || Nat.beq m 2 then bobGap s ch 5 1 t0 t else s)

/-! ### Trial and rollback (R409, R410) -/

/-- The conditions of R409. -/
def healthy (s : State) : Bool :=
  Nat.beq (s.nat O.hubStatus) 1 && s.gridOn && s.dram.ready && !s.spin.restarting && s.upd.ports.all (portUp s)

/-- The conditions are judged at every frame boundary. -/
def healthBoundary (s : State) (t : Nat) : State :=
  if !Nat.beq (s.nat O.updState) 5 then s
  else s.setUpd (fun u => { u with healthSince := if healthy s then some (u.healthSince.getD t) else none })

/-- Confirmation (R409). -/
def confirmUpdate (s : State) : State :=
  let s := s.setNvm (fun n => n.writePointer (fun p => { p with trial := false, boots := 0 }))
  let s : State := { s with upd := { gapFrom := s.upd.gapFrom, resumeAt := s.upd.resumeAt } }
  ((s.put O.updState 0 0).put O.trialEnd 0 0).ev Ev.updConfirmed 0xFF

/-- HEALTH_HOLD_EXPIRY: the conditions have held for HEALTH_HOLD (R409). -/
def execHealthHoldExpiry (s : State) : Out :=
  match s.upd.healthSince with
  | some t0 =>
    if Nat.beq (s.nat O.updState) 5 && healthy s then .next (confirmUpdate (s.advance (t0 + s.nat O.healthHold * secondTicks))) else .next s
  | none => .next s

/-- The pointer returns to the old slot, the new one marked failed (R410). -/
def pointBack (s : State) : State :=
  let a := s.nvm.pointer.active
  let s := s.setNvm (fun n => (n.failSlot a).writePointer (fun p => { (p.fail a) with active := 1 - a, trial := false, boots := 0 }))
  ((s.bump O.rollbackCount).put O.updState 0 6).put O.trialEnd 0 0

/-- An interrupting part of the two slots differs (R410). -/
def interruptingDiffers (n : NvmState) : Bool :=
  [6, 7].any (fun i => !((n.slotA.part i) == (n.slotB.part i)))

/-- A rollback at `t` (R410). -/
def rollback (s : State) (t : Nat) (announced : Bool) : State :=
  let differs := interruptingDiffers s.nvm
  let a := s.nvm.pointer.active
  let s := presetsChange ((pointBack s).evAt Ev.updRollback 0xFF t 0) t (s.nvm.slot a) (s.nvm.slot (1 - a))
  let s := if differs then beginGap s t else s
  coreRestartBegin s false announced

/-- TRIAL_WINDOW_EXPIRY: rollback at the next frame boundary (Table 21.9). -/
def execTrialWindowExpiry (s : State) : Out :=
  if !Nat.beq (s.nat O.updState) 5 then .next s else
  let t := frameAtOrAfter (s.nat O.trialEnd)
  .next (rollback (s.advance t) t true)

/-- The boot ROM at a full reset while TRIAL is set (Table 21.9). -/
def bootTrial (s : State) : State :=
  let p := s.nvm.pointer
  if !p.trial then s
  else if Nat.ble 2 (p.boots + 1) then (pointBack s).ev Ev.updRollback 0xFF
  else s.setNvm (fun n => n.writePointer (fun p => { p with boots := p.boots + 1 }))

/-! ### Other update objects (Table 21.13) -/

/-- Why UPD_ACTIVATE is refused (R408). -/
def activateState (s : State) : Nat := if Nat.beq (s.nat O.updState) 3 then 0 else 0x03000080

/-- An activation is accepted and pending (R408). -/
def activateArm (s : State) : State := (s.put O.updState 0 4).ev Ev.updArmed 0xFF

/-- Why UPD_CONFIRM or UPD_REJECT is refused (R409, R410). -/
def trialState (s : State) (confirm : Bool) : Nat :=
  if Nat.beq (s.nat O.updState) 5 && (!confirm || Nat.beq (s.nat O.hubStatus) 1) then 0 else 0x03000080

/-- Why UPD_ABORT is refused (R408, Table 21.13). -/
def updAbortState (s : State) : Nat :=
  let st := s.nat O.updState
  if Nat.beq st 2 || Nat.beq st 4 || Nat.beq st 5 then 0x03000081 else 0

/-- UPD_ABORT discards the manifest and the staging (R405). -/
def updAbortNow (s : State) : State :=
  (({ s with upd := { gapFrom := s.upd.gapFrom, resumeAt := s.upd.resumeAt } } : State).put O.updState 0 0).put O.updProgress 0 0

/-! ### Keys (R412, R413) -/

/-- Why REVOKE_KEY is refused (R412). -/
def revokeState (s : State) (k : Nat) : Nat :=
  let n := s.nvm
  if !n.keyUsable (1 - k) || n.verifiedBy (n.slot n.pointer.active) = some k then 0x03000085 else 0

/-- A key slot is revoked (R412). -/
def revokeKey (s : State) (k : Nat) : State :=
  let n := s.nvm
  let o := 1 - n.pointer.active
  let uses := !Nat.beq (n.slot o).state 0 && n.verifiedBy (n.slot o) = some k
  let n := if Nat.beq k 0 then { n with revoked0 := true } else { n with revoked1 := true }
  let n := if uses then (n.failSlot o).writePointer (fun p => p.fail o) else n
  ({ s with nvm := n } : State).ev Ev.keyRevoked 0xFF (be 1 k)

/-- Why KEY_HASH_0 or KEY_HASH_1 is refused (Table 21.12). -/
def keyHashState (s : State) (k : Nat) : Nat := if (s.nvm.keyHash k).isSome then 0x03000086 else 0

/-- A key slot is programmed, once (R412). -/
def programKey (s : State) (k : Nat) (h : Bytes) : State :=
  if (s.nvm.keyHash k).isSome then s else
  (s.setNvm (fun n => if Nat.beq k 0 then { n with keyHash0 := some h } else { n with keyHash1 := some h })).ev Ev.keyProvisioned 0xFF (be 1 k)

/-- A session key takes effect and closes its principal's live sessions (R413). -/
def sessionKeyAt (s : State) (root : Bool) (k : Bytes) : State :=
  let p := if root then Principal.root else Principal.sHost
  let s := s.setNvm (fun n => if root then { n with kRoot := some k } else { n with kShost := some k })
  { s with dict := { s.dict with sessions := s.dict.sessions.filter (fun x => !(x.live && x.principal == p)) } }

/-! ### Life cycle (R414, R415) -/

/-- Table 21.11: from, to, requesters. -/
def lcTransitions : List (Nat × Nat × List Principal) :=
  [(0, 1, [.nsHost]), (1, 2, [.sHost]), (2, 3, [.sHost]), (3, 2, [.sHost, .root]), (1, 4, [.sHost]), (2, 4, [.sHost]), (3, 4, [.sHost])]

/-- The principal may ask for some transition from the present state. -/
def lcRight (s : State) (p : Principal) : Bool := lcTransitions.any (fun x => Nat.beq x.1 s.nvm.lc && x.2.2.contains p)

/-- The condition of a transition (Table 21.11). -/
def lcCondition (n : NvmState) (new : Nat) : Bool :=
  match n.lc, new with
  | 0, 1 => (n.verifiedBy (n.slot n.pointer.active)).isSome
  | 1, 2 => n.kRoot.isSome && n.kShost.isSome
  | _, _ => true

/-- Why LC_REQUEST is refused (R408, R415). -/
def lcState (s : State) (p : Principal) (v : Nat) : Nat :=
  let st := s.nat O.updState
  let new := v % 256
  if Nat.beq st 4 && !s.nvm.pointer.trial then 0x03000081
  else if lcTransitions.any (fun x => Nat.beq x.1 s.nvm.lc && Nat.beq x.2.1 new && x.2.2.contains p) && lcCondition s.nvm new
      && Nat.beq (v / 256) 0xA5 && !Nat.beq st 4 && !Nat.beq st 5 then 0
  else 0x03000084

/-- A life-cycle change of Table 21.11 takes effect: OTP, the count, and a full reset to come; RETIRED also wipes the key store,
the stored configuration and the device key (R415). -/
def lcChange (s : State) (v : Nat) : State :=
  let new := v % 256
  if !lcTransitions.any (fun x => Nat.beq x.1 s.nvm.lc && Nat.beq x.2.1 new) then s else
  let s := s.setNvm (fun n => { n with lc := new, lcCount := n.lcCount + 1 })
  let s := if Nat.beq new 4 then s.setNvm (fun n => { n with kRoot := none, kShost := none, copy0 := none, copy1 := none, deviceKey := false }) else s
  (s.ev Ev.lcChange 0xFF (be 1 new)).setPwr (fun p => { p with resetCause := some 6 })

end Sys2Proof.Machine
end

