-- ==== Sys2Proof/Machine/Root.lean ====
section
/-! DEFINITION. Root services (19_root.md, R369 to R386) and the Twine frames that end at a hub's distaff: DOFF, SKEIN, SUMMARY,
EVENT, NAK and MGMT responses (R321, R327, R328, R331). -/

namespace Sys2Proof.Machine

/-- The hub serves as root: it holds the role, HUB_ID equals ROOT_ID, and ROOT_PORT is 20 (R369). -/
def rootServes (s : State) : Bool :=
  rootHeld s.objs && (ownId s).isSome && Nat.beq (s.nat O.hubId) (s.nat O.rootId) && Nat.beq (s.nat O.rootPort) 20

/-- ROOT_CONFIG_BAD, once for each time that the role is held and cannot be served (R369). -/
def rootCheck (s : State) : State :=
  if rootHeld s.objs && !rootServes s then
    if s.root.badLogged then s else (s.setRoot (fun r => { r with badLogged := true })).ev Ev.rootConfigBad 0xFF
  else if s.root.badLogged then s.setRoot (fun r => { r with badLogged := false }) else s

/-- The distaff runs and serves: READY and no core restart (R19, Table 16.12). -/
def distaffServes (s : State) : Bool := isReady s && !inRestart s

/-! ### Requests of this hub (R327, R331) -/

/-- Send a request and remember it under its REQ_ID. -/
def sendRequest (s : State) (hub kind job reqId : Nat) (body : Bytes) : State :=
  let s := sendTwine s { kind := kind, dest := hub, cls := 1 } body
  { s with twine := { s.twine with outstanding := s.twine.outstanding ++ [⟨reqId, hub, job, body⟩] } }

/-- The next REQ_ID of this hub, never 0. -/
def takeReqId (s : State) : Nat × State :=
  let n := s.root.nextReq
  (n, s.setRoot (fun r => { r with nextReq := if Nat.ble (2 ^ 32) (n + 1) then 1 else n + 1 }))

/-- A request body of Table 17.4. -/
def requestBody (op idx sub : Nat) (timed : Option Nat) (data : Bytes) : Bytes :=
  be 1 op ++ be 1 (b2n timed.isSome) ++ be 2 idx ++ be 1 sub ++ be 1 0 ++ be 2 data.length ++ be 8 (timed.getD 0) ++ data

/-- Bytes 16 on of a MGMT frame: the header that the TAG covers, TAG, BODY (Table 16.8, R347). -/
def mgmtBytes (reqId mtype principal session : Nat) (key : Option Bytes) (body : Bytes) : Bytes :=
  let head := be 4 reqId ++ be 1 mtype ++ be 1 principal ++ be 2 0 ++ be 4 session
  let tag := match key with
    | some k => (hmac k (head ++ body)).take 16
    | none => zeros 16
  head ++ tag ++ body

/-- Send a MGMT request to a hub. -/
def mgmtRequest (s : State) (hub job principal session : Nat) (key : Option Bytes) (body : Bytes) : State :=
  let r := takeReqId s
  sendRequest r.2 hub 4 job r.1 (mgmtBytes r.1 0 principal session key body)

/-! ### DOFF (R321, R383) -/

/-- A DOFF that acknowledges the running stream: every entry is a capture entry naming JOB_ID (R383). -/
def acksJob (s : State) (f : Bytes) : Bool :=
  let b := bodyOf f
  match s.root.retro with
  | some j => rootServes s && Nat.beq (hSrc f) (s.nat O.retroDest) && (List.range (field b 0 2)).all (fun i =>
      Nat.beq (field b (4 + 16 * i) 2 / 16384) 1 && Nat.beq (field b (8 + 16 * i) 4) j.id)
  | none => false

/-! ### The stream of a job (R382, R383) -/

/-- Bytes received by the uplink station: the acknowledged part is given up, and a job acknowledged to its end is over
(R383). -/
def ackJob (s : State) (bytes : Nat) : State :=
  match s.root.retro with
  | none => s
  | some j =>
    let a := min bytes j.sent
    if Nat.ble a j.acked then s else
    let j := { j with acked := a, stream := j.stream.drop (a - j.acked) }
    if j.ended && j.stream.isEmpty then
      let s := s.setRoot (fun r => { r with retro := none })
      if Nat.beq (s.nat O.retroState) 1 then (s.put O.retroState 0 2).ev Ev.retroDone 0xFF (be 4 j.id) else s
    else pump (s.setRoot (fun r => { r with retro := some j }))

/-- DOFF_RECEIVED (R255, R321, R383, Table 16.12). -/
def takeDoff (port : Nat) (f : Bytes) (s : State) : State × Bool :=
  let b := bodyOf f
  if acksJob s f && distaffServes s then
    ((List.range (field b 0 2)).foldl (fun s i => ackJob s (field b (12 + 16 * i) 8)) s, true)
  else if !fromRoot s f then (violation s port f 6, true)
  else if inRestart s then ({ s with twine := { s.twine with heldDoffs := s.twine.heldDoffs ++ [(port, f)] } }, true)
  else if !isReady s then (s, true)
  else (applyDoff s port f, true)

def execDoffReceived (port : Fin 21) (t : Nat) (f : Bytes) (s : State) : Out :=
  if !Nat.beq (hKind f) 2 then .next s
  else .next (arrive s port t f (checked port f (takeDoff port f)))

/-! ### Relaying live data (R371 to R373) -/

/-- Pairs of ROOT_TWINS. -/
def twinPairs (st : Store) : List (Nat × Nat) :=
  let b := st.bytes O.rootTwins
  (List.range (b.length / 4)).map (fun i => (field b (4 * i) 2, field b (4 * i + 2) 2))

/-- The partner that ROOT_TWINS names for a hub. -/
def pairedWith (st : Store) (h : Nat) : Option Nat :=
  (twinPairs st).findSome? (fun p => if Nat.beq p.1 h then some p.2 else if Nat.beq p.2 h then some p.1 else none)

/-- The acknowledged time of a hub's channel, the root's own in its ACK_TIME; 0 when none is kept (R372). -/
def ackOf (s : State) (h ch : Nat) : Nat := if Nat.beq h (s.nat O.hubId) then s.nat O.ackTime ch else Map.getD s.root.acks (h * 512 + ch) 0

/-- FROM of the RETX after a RESUME (R373). -/
def resumeFrom (s : State) (h ch : Nat) : Nat :=
  match pairedWith s.objs h with
  | some p => if Nat.beq (ackOf s p ch) 0 then ackOf s h ch else ackOf s p ch
  | none => ackOf s h ch

/-- A live skein with RESUME: the missing span is asked for (R373). -/
def resumeSkein (s : State) (h ch upto : Nat) : State :=
  let from_ := resumeFrom s h ch
  if Nat.beq from_ 0 || Nat.ble upto from_ then s else
  let r := takeReqId s
  sendRequest r.2 h 3 4 r.1 (be 4 r.1 ++ be 2 ch ++ be 1 3 ++ be 1 0 ++ be 8 from_ ++ be 8 upto)

/-- Relay a skein on port 20: body and other fields unchanged, HOPS at HOPS_INIT (R371). -/
def relaySkein (s : State) (f : Bytes) : State :=
  enqueue (countQueued s 20 f) 20 { cls := beClass (hClass f), body := .twine (patch (f.take (hLength f)) 8 2 (s.nat O.hopsInit)) }

/-! ### Slices (R381, R384) -/

/-- Change the job. -/
def State.setJob (s : State) (j : RetroJob) : State := s.setRoot (fun r => { r with retro := some j })

/-- The first place in a list that a test picks, changed. -/
def changeFirst {α : Type} (p : α → Bool) (f : α → α) : List α → List α
  | [] => []
  | a :: l => if p a then f a :: l else a :: changeFirst p f l

/-- Length of a record by its TYPE (Table 13.2). -/
def recordLength (b : Bytes) : Nat :=
  let t := field b 0 1
  if t = 0x21 then 16 + 8 * (field b 2 1 % 16) else if t = 0x24 then 80 else 32

/-- Key of a record as the root reads it (Table 13.2); a NOT_HELD gap record is placed by its START, and a reduction record,
whose interval length the record does not carry, not before `lo`. -/
def recordKey (lo : Nat) (b : Bytes) : Nat :=
  let t := field b 0 1
  if t = 0x24 then max lo ((field b 10 6 + 1) * frameTicks)
  else if t = 0x25 then (if field b 1 1 = 8 then field b 8 8 else field b 24 8)
  else if t = 0x31 then field b 16 8 else field b 8 8

/-- Records of a payload with their keys; the first one's key is the skein's FIRST. -/
def splitRecords : Nat → Nat → Option Nat → Bytes → List (Nat × Bytes)
  | 0, _, _, _ => []
  | fuel + 1, lo, first, b =>
    if b.isEmpty then [] else
    let n := recordLength b
    let k := match first with | some k => k | none => recordKey lo b
    (k, b.take n) :: splitRecords fuel (max lo k) none (b.drop n)

/-- A run joins the one before it when it continues it (R382). -/
def joinRun (l : List (Bool × Nat × Nat × List Nat)) (r : Bool × Nat × Nat × List Nat) : List (Bool × Nat × Nat × List Nat) :=
  match l.getLast? with
  | some p => if p.1 == r.1 && Nat.beq p.2.2.1 r.2.2.1 && Nat.beq (p.2.1 + p.2.2.2.length * p.2.2.1) r.2.1
      then l.dropLast ++ [(p.1, p.2.1, p.2.2.1, p.2.2.2 ++ r.2.2.2)] else l ++ [r]
  | none => l ++ [r]

/-- What a WINDOW skein adds to its channel (R371, R382); SEQ 0 begins an answer, and what an earlier one brought goes (R322, R384). -/
def SliceChannel.take (c : SliceChannel) (f : Bytes) : SliceChannel :=
  let b := bodyOf f
  let c := if Nat.beq (field b 4 4) 0 then { hub := c.hub, ch := c.ch } else c
  let content := field b 2 1
  let n := field b 12 2
  let c := { c with done := bitOf (field b 3 1) 5 }
  if content = 3 then
    let lo := match c.recs.getLast? with | some r => r.1 | none => 0
    { c with recs := c.recs ++ splitRecords n lo (some (field b 16 8)) (slice b 40 n) }
  else if Nat.beq n 0 then c
  else
    let raw := Nat.beq content 2
    let w := if raw then 2 else 4
    { c with runs := joinRun c.runs (raw, field b 16 8, field b 24 8, (List.range n).map (fun i => field b (40 + w * i) w)) }

/-- A slice is complete: every channel has answered with LAST or was given up (R381). -/
def RetroSlice.complete (x : RetroSlice) : Bool := x.chans.all (·.done)

/-- The RETRO that asks a hub for a slice (R381, Table 16.5). -/
def retroBody (j : RetroJob) (x : RetroSlice) (bitmap : Bytes) : Bytes :=
  be 4 j.id ++ be 1 (2 * b2n j.recs + b2n j.words) ++ zeros 3 ++ be 8 x.start ++ be 8 x.stop ++ bitmap

/-- Ask one hub for a slice, noting when. -/
def askHub (s : State) (k hub : Nat) : State :=
  match s.root.retro with
  | none => s
  | some j =>
    match j.slices.find? (fun x => Nat.beq x.index k), j.hubs.find? (fun h => Nat.beq h.1 hub) with
    | some x, some h =>
      let s := sendTwine s { kind := 7, dest := hub, cls := 1 } (retroBody j x h.2)
      let silent := (Map.getD x.asked hub (0, 0)).2
      s.setJob { j with slices := j.slices.map (fun y => if Nat.beq y.index k then { y with asked := Map.set y.asked hub (s.now, silent) } else y) }
    | _, _ => s

/-- Ask for further slices: at most two are outstanding (R381). -/
def askSlices : Nat → State → State
  | 0, s => s
  | fuel + 1, s =>
    match s.root.retro with
    | none => s
    | some j =>
      if j.ended || j.closing.isSome || Nat.ble 2 j.slices.length || Nat.ble j.t2 j.nextStart then s else
      let x : RetroSlice := { index := j.nextIndex, start := j.nextStart, stop := min (j.nextStart + j.s) j.t2,
                              chans := j.hubs.flatMap (fun h => (bitmapChannels h.2 0).map (fun ch => { hub := h.1, ch := ch })) }
      let s := s.setJob { j with slices := j.slices ++ [x], nextStart := x.stop, nextIndex := j.nextIndex + 1 }
      askSlices fuel (s.each (j.hubs.map (·.1)) (fun s h => askHub s x.index h))

/-- The stream ends with the byte 0x00 (R382). -/
def endStream (s : State) : State :=
  match s.root.retro with
  | some j => pump (s.setJob { j with stream := j.stream ++ [0#8], ended := true, slices := [] })
  | none => s

/-- A slice is too large: it and what follows is discarded and asked for again at half the length, or the job fails (R384). -/
def halveSlices (s : State) : State :=
  match s.root.retro with
  | none => s
  | some j =>
    match j.slices with
    | [] => s
    | x :: _ =>
      if j.closing.isSome then endStream s
      else if !Nat.beq (j.s % 2) 0 || Nat.blt (j.s / 2) 12800 then endStream ((s.put O.retroState 0 3).ev Ev.retroFailed 0xFF (be 4 j.id))
      else askSlices 2 (s.setJob { j with s := j.s / 2, slices := [], nextStart := x.start, nextIndex := x.index })

/-- A skein of an answer lies in a slice: by its FIRST, or by its COMPLETE_TO when it holds nothing (Table 16.3, R322). -/
def RetroSlice.holds (x : RetroSlice) (b : Bytes) : Bool :=
  if Nat.beq (field b 12 2) 0 then Nat.blt x.start (field b 32 8) && Nat.ble (field b 32 8) x.stop
  else Nat.ble x.start (field b 16 8) && Nat.blt (field b 16 8) x.stop

/-- A WINDOW skein enters the slice that it lies in, where its channel has not yet answered with LAST (R371, R381). -/
def takeWindowSkein (s : State) (f : Bytes) : State :=
  let b := bodyOf f
  let ch := field b 0 2 % 512
  match s.root.retro with
  | none => s
  | some j =>
    let mine := fun (c : SliceChannel) => Nat.beq c.hub (hSrc f) && Nat.beq c.ch ch && !c.done
    if !Nat.beq (field b 8 4) j.id then s else
    match j.slices.find? (fun x => x.holds b && x.chans.any mine) with
    | none => s
    | some x =>
      let n := x.bytes + (b.length - 40)
      let y := { x with chans := changeFirst mine (·.take f) x.chans, bytes := n, asked := Map.set x.asked (hSrc f) (s.now, 0) }
      let s := s.setJob { j with slices := j.slices.map (fun z => if Nat.beq z.index x.index then y else z) }
      if Nat.blt 33554432 n then halveSlices s else s

/-- SKEIN_RECEIVED: relayed, or taken into assembly; elsewhere than at a root it is unexpected (R371, R373, Table 16.10). -/
def takeSkein (port : Nat) (f : Bytes) (s : State) : State × Bool :=
  let b := bodyOf f
  let fl := field b 3 1
  if !rootServes s then (violation s port f 5, true)
  else if !distaffServes s then (s, true)
  else if bitOf fl 6 then (takeWindowSkein s f, true)
  else
    let s := relaySkein s f
    let s := if bitOf fl 7 && bitOf fl 5 then
        { s with twine := { s.twine with outstanding := s.twine.outstanding.filter (fun o => !(Nat.beq o.job 4 && Nat.beq o.reqId (field b 8 4) && Nat.beq o.hub (hSrc f))) } }
      else s
    if !bitOf fl 7 && bitOf fl 4 && Nat.ble (field b 2 1) 3 then (resumeSkein s (hSrc f) (field b 0 2 % 512) (field b 16 8), true)
    else (s, true)

def execSkeinReceived (port : Fin 21) (t : Nat) (f : Bytes) (s : State) : Out :=
  if !Nat.beq (hKind f) 1 then .next s
  else .next (arrive s port t f (checked port f (takeSkein port f)))

/-- Order of the items of a slice: key, word blocks before records, hub, channel (R382). -/
def itemBefore (a b : (Nat × Nat × Nat × Nat) × Bytes) : Bool :=
  let x := a.1
  let y := b.1
  Nat.blt x.1 y.1 || (Nat.beq x.1 y.1 && (Nat.blt x.2.1 y.2.1 || (Nat.beq x.2.1 y.2.1 && (Nat.blt x.2.2.1 y.2.2.1
    || (Nat.beq x.2.2.1 y.2.2.1 && Nat.blt x.2.2.2 y.2.2.2)))))

/-- Insert after items that do not come after it. -/
def placeItem (x : (Nat × Nat × Nat × Nat) × Bytes) : List ((Nat × Nat × Nat × Nat) × Bytes) → List ((Nat × Nat × Nat × Nat) × Bytes)
  | [] => [x]
  | y :: l => if itemBefore x y then x :: y :: l else y :: placeItem x l

/-- A word block (R382). -/
def wordBlock (c : SliceChannel) (r : Bool × Nat × Nat × List Nat) : Bytes :=
  let ws := r.2.2.2.flatMap (be (if r.1 then 2 else 4))
  be 1 0x13 ++ be 1 (b2n r.1) ++ be 2 c.ch ++ be 2 c.hub ++ zeros 2 ++ be 4 r.2.2.2.length ++ zeros 4 ++ be 8 r.2.1 ++ be 8 r.2.2.1
    ++ ws ++ zeros ((4 - ws.length % 4) % 4)

/-- Items of a channel of a slice. -/
def sliceItems (c : SliceChannel) : List ((Nat × Nat × Nat × Nat) × Bytes) :=
  c.runs.map (fun r => ((r.2.1, 0, c.hub, c.ch), wordBlock c r))
    ++ c.recs.map (fun r => ((r.1, 1, c.hub, c.ch), be 1 0x14 ++ be 1 0 ++ be 2 c.hub ++ be 2 c.ch ++ zeros 2 ++ r.2))

/-- A slice in the stream: its marker, then its items in order (R382). -/
def sliceBytes (x : RetroSlice) (last : Bool) : Bytes :=
  be 1 0x15 ++ be 1 (b2n last) ++ zeros 2 ++ be 4 x.index ++ be 8 x.start
    ++ (((x.chans.flatMap sliceItems).foldl (fun l i => placeItem i l) []).flatMap (·.2))

/-- RETRO_SLICE_COMPLETE: the oldest slice, when complete, is sorted into the stream, and the next one is asked for (R381 to R383). -/
def execRetroSliceComplete (t : Nat) (s : State) : Out :=
  match s.root.retro with
  | none => .next s
  | some j =>
    match j.slices with
    | [] => .next s
    | x :: rest =>
      if !x.complete || !rootServes s then .next s else
      let s := s.advance t
      let last := Nat.ble j.t2 x.stop || j.closing = some x.index
      let s := s.setJob { j with slices := rest, stream := j.stream ++ sliceBytes x last }
      .next (if last then endStream s else pump (askSlices 2 s))

/-- A hub is given up for a slice: a NOT_HELD gap record for each channel still owed (R384). -/
def giveUp (s : State) (j : RetroJob) (x : RetroSlice) (hub : Nat) : State :=
  let chans := x.chans.map (fun c =>
    if Nat.beq c.hub hub && !c.done then
      { c with done := true, recs := c.recs ++ [(x.start, gapBytes c.ch ⟨8, 2 * b2n j.recs + b2n j.words, x.start, x.stop, none⟩ s.gridTime)] }
    else c)
  (s.setJob { j with slices := j.slices.map (fun y => if Nat.beq y.index x.index then { x with chans := chans } else y) }).ev Ev.retroHubLost 0xFF (be 2 hub)

/-- RETRO_TIMEOUT: a hub has not answered for RETRO_TIMEOUT; it is asked again, and given up the third time in a row (R384). -/
def execRetroTimeout (hub : Fin 16384) (t : Nat) (s : State) : Out :=
  match s.root.retro with
  | none => .next s
  | some j =>
    let owes := fun (x : RetroSlice) => x.chans.any (fun c => Nat.beq c.hub hub && !c.done)
      && Nat.ble ((Map.getD x.asked hub.val (0, 0)).1 + s.nat O.retroTimeout * msTicks) t
    match j.slices.find? owes with
    | none => .next s
    | some x =>
      let s := s.advance t
      let n := (Map.getD x.asked hub.val (0, 0)).2 + 1
      let y := { x with asked := Map.set x.asked hub.val (t, n) }
      let j := { j with slices := j.slices.map (fun z => if Nat.beq z.index x.index then y else z) }
      if Nat.ble 3 n then .next (giveUp (s.setJob j) j y hub) else .next (askHub (s.setJob j) x.index hub)

/-! ### Job writes (R380, R384) -/

/-- RETRO_JOB's layout (Table 19.4). -/
def retroFields (b : Bytes) : RetroJob :=
  let h := field b 2 2
  { id := field b 4 4, words := bitOf (field b 1 1) 0, recs := bitOf (field b 1 1) 1, t1 := field b 8 8, t2 := field b 16 8,
    hubs := (List.range h).map (fun i => (field b (24 + 68 * i) 2, slice b (28 + 68 * i) 64)), s := 0, nextStart := field b 8 8 }

/-- A single byte 0 aborts. -/
def retroAborts (b : Bytes) : Bool := b == [0#8]

/-- The layout is malformed, or names no channel or more than 65,536 (R380). -/
def retroMalformed (b : Bytes) : Bool :=
  let h := field b 2 2
  let j := retroFields b
  let n := (j.hubs.map (fun x => (bitmapChannels x.2 0).length)).sum
  Nat.blt b.length 24 || !Nat.beq (field b 0 1) 1 || Nat.beq (field b 1 1 % 4) 0 || Nat.blt h 1 || Nat.blt 256 h
    || !Nat.beq b.length (24 + 68 * h) || Nat.beq j.id 0 || !decide (j.hubs.map (·.1)).Nodup || Nat.beq n 0 || Nat.blt 65536 n

/-- Why RETRO_JOB is refused: the cases of R380 in the order of R336's steps; 0 when it is accepted. -/
def retroCheck (s : State) (b : Bytes) : Nat :=
  if retroAborts b then 0
  else if retroMalformed b then 0x020000B0
  else
    let j := retroFields b
    if j.hubs.any (fun h => (Map.find? s.root.segment h.1).isNone) then 0x020000B1
    else if Nat.beq (s.nat O.retroState) 1 then 0x030000B2
    else if Nat.ble j.t2 j.t1 || Nat.blt s.gridTime j.t2 then 0x050000B0 else 0

/-- The job starts (R381). -/
def retroBegin (s : State) (b : Bytes) : State :=
  let s := (s.put O.retroState 0 1).put O.retroSent 0 0
  askSlices 2 (s.setJob { retroFields b with s := s.nat O.retroSlice })

/-- A running job is aborted: the stream ends after the slice in progress (R384). -/
def retroAbort (s : State) : State :=
  if !Nat.beq (s.nat O.retroState) 1 then s else
  match s.root.retro with
  | none => s
  | some j =>
    let s := s.put O.retroState 0 4
    match j.slices with
    | [] => endStream s
    | x :: _ => s.setJob { j with slices := [x], closing := some x.index }

/-! ### The directory (R374 to R377) -/

/-- Put an entry into its record: an entry older than the record is counted (R375); STALE is never stored (R376). -/
def storeEntry (s : State) (own : Bool) (e : Bytes) : State :=
  let key := field e 0 2 * 512 + field e 2 2 % 512
  let clean := e.take 4 ++ be 1 (field e 4 1 / 2 * 2) ++ e.drop 5
  match Map.find? s.root.dir key with
  | some r =>
    if Nat.blt (field e 8 8) (field r 8 8) then s.bump O.summaryOldCount
    else s.setRoot (fun x => { x with dir := if Nat.beq (field e 5 1 / 4 % 4) 0 then Map.erase x.dir key else Map.set x.dir key clean,
                                      changed := if own && !(r == clean) && !x.changed.contains key then x.changed ++ [key] else x.changed })
  | none =>
    if Nat.beq (field e 5 1 / 4 % 4) 0 then s
    else s.setRoot (fun x => { x with dir := Map.set x.dir key clean, changed := if own && !x.changed.contains key then x.changed ++ [key] else x.changed })

/-- Entries of a hub were received now (R376). -/
def noteReceipt (s : State) (hub : Nat) : State := s.setRoot (fun r => { r with receipts := Map.set r.receipts hub s.now })

/-- FED_ROOTS. -/
def fedRootList (st : Store) : List Nat :=
  let b := st.bytes O.fedRoots
  (List.range (b.length / 2)).map (fun i => field b (2 * i) 2)

/-- SUMMARY_RECEIVED (R370, R375 to R377, Table 16.10). -/
def takeSummary (port : Nat) (f : Bytes) (s : State) : State × Bool :=
  let b := bodyOf f
  let src := hSrc f
  let es := (List.range (field b 0 2)).map (fun i => slice b (16 + 64 * i) 64)
  let fed := (fedRootList s.objs).contains src
  if !rootServes s then (violation s port f 5, true)
  else if !fed && es.any (fun e => !Nat.beq (field e 0 2) src) then (violation s port f 5, true)
  else if !distaffServes s then (s, true)
  else
    let known := (Map.find? s.root.segment src).isSome
    if !fed && !known && Nat.ble 256 s.root.segment.length then (s.ev Ev.segmentFull 0xFF (be 2 src), true)
    else
      let s := if fed then s else s.setRoot (fun r => { r with segment := Map.set r.segment src ⟨s.now, field b 12 4⟩ })
      ((s.each es (storeEntry · (!fed) ·)).each es (fun s e => noteReceipt s (field e 0 2)), true)

def execSummaryReceived (port : Fin 21) (t : Nat) (f : Bytes) (s : State) : Out :=
  if !Nat.beq (hKind f) 8 then .next s
  else .next (arrive s port t f (checked port f (takeSummary port f)))

/-- EVENT_RECEIVED: the root consumes it; elsewhere it is unexpected (R328, Table 16.10). -/
def execEventReceived (port : Fin 21) (t : Nat) (f : Bytes) (s : State) : Out :=
  if !Nat.beq (hKind f) 5 then .next s
  else .next (arrive s port t f (checked port f (fun s => if rootServes s then (s, true) else (violation s port f 5, true))))

/-- SEGMENT_LEAVE: no SUMMARY for the longer of 60 s and three INTERVALs (R370). -/
def execSegmentLeave (hub : Fin 16384) (t : Nat) (s : State) : Out :=
  match Map.find? s.root.segment hub with
  | some h =>
    if Nat.ble (h.last + max (60 * secondTicks) (3 * h.interval * msTicks)) t then
      .next ((s.advance t).setRoot (fun r => { r with segment := Map.erase r.segment hub }))
    else .next s
  | none => .next s

/-- SUMMARY_SEND: at a multiple of SUMMARY_INTERVAL the hub's entries go to the root, or into the directory of the hub itself
when it is the root (R328, R375). -/
def execSummarySend (t : Nat) (s : State) : Out :=
  let iv := s.nat O.summaryInterval
  if !s.gridOn || !distaffServes s || !Nat.beq (t % (iv * frameTicks)) 0 then .next s else
  let s := s.advance t
  let chs := summaryChannels s
  let es := chs.map (dirEntry s)
  if es.isEmpty then .next s
  else if rootServes s then
    .next (noteReceipt (clearNotes (s.each es (storeEntry · true ·)) chs) (s.nat O.hubId))
  else if hasRoot s then .next (clearNotes (summaryFrames s (s.nat O.rootId) t iv es.length es) chs)
  else .next s

/-- FED_INTERVAL_SEND: records of the own segment that changed go to every federation root (R377). -/
def execFedIntervalSend (t : Nat) (s : State) : Out :=
  if !rootServes s || !distaffServes s then .next s else
  let s := s.advance t
  let es := s.root.changed.filterMap (Map.find? s.root.dir)
  let s := (fedRootList s.objs).foldl (fun s d => summaryFrames s d t (s.nat O.fedInterval) es.length es) s
  .next (s.setRoot (fun r => { r with changed := [] }))

/-- A record is stale at a time (R376). -/
def staleAt (s : State) (hub t : Nat) : Bool :=
  match Map.find? s.root.receipts hub with
  | some r => Nat.blt (r + s.nat O.staleAge * secondTicks) t
  | none => true

/-- A record as the root returns it (R376). -/
def returned (s : State) (t : Nat) (r : Bytes) : Bytes :=
  r.take 4 ++ be 1 (field r 4 1 / 2 * 2 + b2n (staleAt s (field r 0 2) t)) ++ r.drop 5

/-! ### Queries (R378, R379) -/

/-- A malformed query (Table 19.3). -/
def queryMalformed (b : Bytes) : Bool :=
  !Nat.beq b.length 24 || !Nat.beq (field b 0 1) 1 || Nat.blt 16383 (field b 2 2) || Nat.blt 16383 (field b 4 2)
    || Nat.blt (field b 4 2) (field b 2 2) || Nat.blt 3 (field b 8 1) || (bitOf (field b 1 1) 2 && !(Nat.beq (field b 9 1) 1 || Nat.beq (field b 9 1) 2))
    || Nat.blt (field b 12 4) 1 || Nat.blt 1048575 (field b 12 4)

/-- Why DIR_QUERY is refused (R379); 0 when it is accepted. -/
def queryCheck (s : State) (b : Bytes) : Nat :=
  let unread := match s.root.result with | some r => Nat.blt r.reached r.bytes.length | none => false
  if queryMalformed b then 0x020000B0 else if s.root.query.isSome || unread then 0x030000B0 else 0

/-- The scan starts. -/
def queryBegin (s : State) (b : Bytes) : State := s.setRoot (fun r => { r with query := some (b, s.gridTime), result := none })

/-- A record meets every criterion that SEL enables (R378, Table 19.3). -/
def matchesQuery (q r : Bytes) : Bool :=
  let sel := field q 1 1
  let hub := field r 0 2
  let v := fieldI r (16 + 8 * field q 8 1) 8
  let lim := fieldI q 16 8
  (!bitOf sel 0 || (Nat.ble (field q 2 2) hub && Nat.ble hub (field q 4 2)))
    && (!bitOf sel 1 || Nat.beq (field r 4 1 &&& field q 6 1) (field q 7 1))
    && (!bitOf sel 2 || (decide (v ≠ -9223372036854775808) && (if Nat.beq (field q 9 1) 1 then decide (v > lim) else decide (v < lim))))

/-- DIR_SCAN_DONE: DIR_RESULT is formed (R376, R378, R379). -/
def execDirScanDone (t : Nat) (s : State) : Out :=
  match s.root.query with
  | none => .next s
  | some (q, t0) =>
    let s := s.advance t
    let rs := (s.root.dir.map (fun x => returned s s.gridTime x.2)).filter (matchesQuery q)
    let out := rs.take (field q 12 4)
    let res : DirResult := { bytes := be 4 rs.length ++ be 4 out.length ++ be 8 t0 ++ be 8 s.gridTime ++ out.flatten }
    .next (s.setRoot (fun r => { r with query := none, result := some res }))

/-- DIR_STATE (Table 19.5). -/
def dirStateObj (s : State) : Nat := 2 * b2n s.root.result.isSome + b2n s.root.query.isSome

/-! ### RELAY_ACK (R372) -/

/-- RELAY_ACK's layout is broken (Table 19.1). -/
def relayMalformed (b : Bytes) : Bool :=
  let n := field b 2 2
  Nat.blt b.length 4 || !Nat.beq (field b 0 1) 1 || Nat.blt n 1 || Nat.blt 512 n || !Nat.beq b.length (4 + 12 * n)
    || (List.range n).any (fun i => Nat.blt 16383 (field b (4 + 12 * i) 2))

/-- DOFF frames of at most 256 entries to one hub (R372). -/
def sendDoffs (hub : Nat) : Nat → List (Nat × Nat) → State → State
  | 0, _, s => s
  | _, [], s => s
  | fuel + 1, e :: l, s =>
    let now := (e :: l).take 256
    let body := be 2 now.length ++ be 2 0 ++ now.flatMap (fun x => be 2 x.1 ++ be 2 0 ++ be 4 0 ++ be 8 x.2)
    sendDoffs hub fuel ((e :: l).drop 256) (sendTwine s { kind := 2, dest := hub, cls := 1 } body)

/-- The root takes a RELAY_ACK: own entries under R255, the others as DOFF frames, and the acknowledgement table (R372). -/
def relayAck (s : State) (b : Bytes) : State :=
  let es := (List.range (field b 2 2)).map (fun i => (field b (4 + 12 * i) 2, field b (6 + 12 * i) 2 % 512, field b (8 + 12 * i) 8))
  let own := es.filter (fun e => Nat.beq e.1 (s.nat O.hubId))
  let others := es.filter (fun e => !Nat.beq e.1 (s.nat O.hubId))
  let s := s.each own (fun s e => if Nat.blt s.gridTime e.2.2 then s else ackChannel s e.2.1 e.2.2)
  let hubs := (others.map (·.1)).eraseDups
  let s := s.each hubs (fun s h =>
    let l := (others.filter (fun e => Nat.beq e.1 h)).map (·.2)
    sendDoffs h l.length l s)
  s.each others (fun s e =>
    if (Map.find? s.root.segment e.1).isNone || Nat.ble e.2.2 (ackOf s e.1 e.2.1) then s
    else s.setRoot (fun r => { r with acks := Map.set r.acks (e.1 * 512 + e.2.1) e.2.2 }))

/-! ### Timed activation (R385) -/

/-- ACT_JOB's layout: FORMAT 1, reserved, H, T, then H hub IDs (Table 19.5). -/
def actMalformed (b : Bytes) : Bool :=
  let h := field b 2 2
  Nat.blt b.length 12 || !Nat.beq (field b 0 1) 1 || Nat.blt h 1 || Nat.blt 256 h || !Nat.beq b.length (12 + 2 * h)
    || !decide ((List.range h).map (fun i => field b (12 + 2 * i) 2)).Nodup

/-- ACT_MARGIN in ticks. -/
def actMarginTicks (st : Store) : Nat := st.nat O.actMargin * msTicks

/-- Why ACT_JOB is refused (R385); 0 when it is accepted. -/
def actCheck (s : State) (b : Bytes) : Nat :=
  if actMalformed b then 0x02000001
  else if (List.range (field b 2 2)).any (fun i => (Map.find? s.root.segment (field b (12 + 2 * i) 2)).isNone) then 0x020000B1
  else if s.root.act.isSome then 0x030000B2
  else if Nat.blt (field b 4 8) (s.gridTime + actMarginTicks s.objs + 1280000) then 0x050000B1 else 0

/-- Change one hub of the job. -/
def setActHub (s : State) (hub : Nat) (f : ActHub → ActHub) : State :=
  s.setRoot (fun r => { r with act := r.act.map (fun a => { a with hubs := a.hubs.map (fun h => if Nat.beq h.hub hub then f h else h) }) })

/-- The job starts: a ROOT session is opened with every hub (R346, R385). -/
def actBegin (s : State) (b : Bytes) : State :=
  let hubs := (List.range (field b 2 2)).map (fun i => field b (12 + 2 * i) 2)
  let s := s.setRoot (fun r => { r with act := some { t := field b 4 8, hubs := hubs.map (fun h => { hub := h }) } })
  s.each hubs (fun s h =>
    let n := s.freshBytes 16
    let s := setActHub n.2 h (fun x => { x with nonce := n.1 })
    mgmtRequest s h 0 2 0 none (requestBody 9 0 0 none (be 1 1 ++ n.1)))

/-- Send CANCEL to a hub over its session (R340, R385). -/
def actCancel (s : State) (h : ActHub) : State :=
  mgmtRequest (setActHub s h.hub (fun x => { x with cancelling := true })) h.hub 3 1 h.session (some h.key) (requestBody 8 0x1800 5 none [])

/-- Every hub has accepted: the job is ARMED (R385). -/
def actArm (s : State) : State :=
  match s.root.act with
  | some a =>
    if !a.armed && !a.cancelled && a.hubs.all (fun h => Nat.beq h.outcome 1) then
      (s.setRoot (fun r => { r with act := some { a with armed := true } })).ev Ev.actArmed 0xFF (be 8 a.t)
    else s
  | none => s

/-- A response in the course of an activation job (R346, R385): `body` is the response body of Table 17.5. -/
def actResponse (s : State) (o : Outstanding) (body : Bytes) : State :=
  let abort := field body 8 4
  match (s.root.act.bind (fun a => a.hubs.find? (fun h => Nat.beq h.hub o.hub))) with
  | none => s
  | some h =>
    if Nat.beq o.job 3 then
      if Nat.beq h.outcome 5 then s
      else setActHub s h.hub (fun x => { x with cancelling := false, outcome := if Nat.beq abort 0 then 4 else 5, abort := abort })
    else if !Nat.beq abort 0 then setActHub s h.hub (fun x => { x with outcome := 2, abort := abort })
    else if Nat.ble o.job 1 && (match s.root.act with | some a => a.cancelled | none => true) then s
    else if Nat.beq o.job 0 then
      let k := hmac (s.nvm.kRoot.getD []) (h.nonce ++ slice body 28 16 ++ slice body 24 4)
      let sess := field body 24 4
      let s := setActHub s h.hub (fun x => { x with stage := 1, session := sess, key := k })
      mgmtRequest s h.hub 1 1 sess (some k) (requestBody 10 0 0 none [])
    else if Nat.beq o.job 1 then
      let t := match s.root.act with | some a => a.t | none => 0
      let s := setActHub s h.hub (fun x => { x with stage := 2 })
      mgmtRequest s h.hub 2 1 h.session (some h.key) (requestBody 2 0x1800 5 (some t) [1#8])
    else actArm (setActHub s h.hub (fun x => { x with outcome := 1 }))

/-- A response's TAG is right, where its request went over a session (R347). -/
def responseTagOk (s : State) (o : Outstanding) (b : Bytes) : Bool :=
  if Nat.beq o.job 0 then true else
  match (s.root.act.bind (fun a => a.hubs.find? (fun h => Nat.beq h.hub o.hub))) with
  | some h => slice b 12 16 == (hmac h.key (b.take 12 ++ b.drop 28)).take 16
  | none => false

/-- MGMT_RESPONSE: matched to its request, or dropped as stray (R327). -/
def takeResponse (f : Bytes) (s : State) : State × Bool :=
  let b := bodyOf f
  if inRestart s then (s, true) else
  match s.twine.outstanding.find? (fun o => Nat.ble o.job 3 && Nat.beq o.reqId (field b 0 4) && Nat.beq o.hub (hSrc f)) with
  | some o =>
    if !responseTagOk s o b then (s.bump O.mgmtStrayCount, true) else
    let s : State := { s with twine := { s.twine with outstanding := s.twine.outstanding.filter (fun x => !(Nat.beq x.reqId o.reqId && Nat.beq x.hub o.hub)) } }
    (actResponse s o (b.drop 28), true)
  | none => (s.bump O.mgmtStrayCount, true)

def execMgmtResponse (port : Fin 21) (t : Nat) (f : Bytes) (s : State) : Out :=
  if !Nat.beq (hKind f) 4 || !Nat.beq (field f (hBody f + 4) 1) 1 then .next s
  else .next (arrive s port t f (checked port f (takeResponse f)))

/-- ACT_MARGIN_EXPIRY: at T - ACT_MARGIN an incomplete job is cancelled at every hub that did not refuse (R385). -/
def execActMarginExpiry (s : State) : Out :=
  match s.root.act with
  | some a =>
    if a.armed || a.cancelled then .next s else
    let s := s.advance (a.t - actMarginTicks s.objs)
    let s := (s.setRoot (fun r => { r with act := some { a with cancelled := true } })).ev Ev.actCancelled 0xFF (be 8 a.t)
    .next (s.each (a.hubs.filter (fun h => Nat.beq h.stage 2 && !Nat.beq h.outcome 2)) actCancel)
  | none => .next s

/-- ACT_CANCEL_REPEAT: every 100 ms CANCEL goes again to each hub that has not answered it (R385). -/
def execActCancelRepeat (t : Nat) (s : State) : Out :=
  match s.root.act with
  | some a => if a.cancelled then .next ((s.advance t).each (a.hubs.filter (·.cancelling)) actCancel) else .next s
  | none => .next s

/-- ACT_LAST_CANCEL: at T - 1,280,000 ticks the last CANCEL is sent, and a hub still unanswered is marked cancel failed (R385). -/
def execActLastCancel (s : State) : Out :=
  match s.root.act with
  | some a =>
    if !a.cancelled then .next s else
    let late := a.hubs.filter (·.cancelling)
    let s := (s.advance (a.t - 1280000)).each late actCancel
    .next (s.each late (fun s h => setActHub s h.hub (fun x => { x with cancelling := false, outcome := 5 })))
  | none => .next s

/-- ACT_RESULT (R385). -/
def actResultOf (a : ActJob) : Bytes := a.hubs.flatMap (fun h => be 2 h.hub ++ be 1 h.outcome ++ be 1 0 ++ be 4 h.abort)

/-- At T the job is over; its result stays readable (R385). -/
def actBoundary (s : State) (t : Nat) : State :=
  match s.root.act with
  | some a => if Nat.ble a.t t then s.setRoot (fun r => { r with act := none, actResult := actResultOf a }) else s
  | none => s

/-! ### NAK and BUSY (R331, R384) -/

/-- The latest slice that a hub still owes and that does not already wait for its RETRO to be sent again: a hub refuses what comes
after the requests that it holds (R324). -/
def busySlice (s : State) (hub : Nat) : Option Nat :=
  match s.root.retro with
  | some j => ((j.slices.reverse.find? (fun x => x.chans.any (fun c => Nat.beq c.hub hub && !c.done)
      && !s.twine.retry.any (fun r => Nat.beq r.2.1 hub && r.2.2 == be 1 7 ++ be 4 x.index)))).map (·.index)
  | none => none

/-- A hub has answered for a slice; its next silence counts from `t` (R384). -/
def answered (s : State) (k hub t : Nat) : State :=
  s.setRoot (fun r => { r with retro := r.retro.map (fun j =>
    { j with slices := j.slices.map (fun y => if Nat.beq y.index k then { y with asked := Map.set y.asked hub (t, 0) } else y) }) })

/-- NAK_RECEIVED: a BUSY puts the request off by RETRY_MS; TOO_LARGE of a RETRO halves the slice (R331, R384). -/
def takeNak (f : Bytes) (s : State) : State × Bool :=
  let b := bodyOf f
  let ref := field b 0 4
  let kind := field b 4 1
  let reason := field b 5 1
  let at_ := s.now + field b 6 2 * msTicks
  if !distaffServes s then (s, true) else
  let retroHub := match s.root.retro with
    | some j => Nat.beq kind 7 && Nat.beq ref j.id && j.hubs.any (fun h => Nat.beq h.1 (hSrc f))
    | none => false
  if Nat.beq reason 10 then
    if retroHub then
      match busySlice s (hSrc f) with
      | some k =>
        let s := answered s k (hSrc f) at_
        ({ s with twine := { s.twine with retry := s.twine.retry ++ [(at_, hSrc f, be 1 7 ++ be 4 k)] } }, true)
      | none => (s, true)
    else match s.twine.outstanding.find? (fun o => Nat.beq o.reqId ref && Nat.beq o.hub (hSrc f)) with
      | some o => ({ s with twine := { s.twine with retry := s.twine.retry ++ [(at_, o.hub, be 1 (if Nat.beq o.job 4 then 3 else 4) ++ o.body)] } }, true)
      | none => (s, true)
  else if Nat.beq reason 9 && retroHub then (halveSlices s, true)
  else (s, true)

def execNakReceived (port : Fin 21) (t : Nat) (f : Bytes) (s : State) : Out :=
  if !Nat.beq (hKind f) 11 then .next s
  else .next (arrive s port t f (checked port f (takeNak f)))

/-- BUSY_RETRY: the wait of the oldest deferred request is over and it is sent again (R331, R384). -/
def execBusyRetry (s : State) : Out :=
  match s.twine.retry with
  | [] => .next s
  | (t, hub, b) :: rest =>
    let s : State := { s.advance t with twine := { s.twine with retry := rest } }
    let kind := field b 0 1
    if Nat.beq kind 7 then
      let owed := match s.root.retro with
        | some j => j.slices.any (fun x => Nat.beq x.index (field b 1 4) && x.chans.any (fun c => Nat.beq c.hub hub && !c.done))
        | none => false
      .next (if owed then askHub s (field b 1 4) hub else s)
    else .next (sendTwine s { kind := kind, dest := hub, cls := 1 } (b.drop 1))

end Sys2Proof.Machine
end

