-- ==== Sys2Proof/Machine/Power.lean ====
section
/-! DEFINITION. Supplies, rail sequencing, resets, watchdogs, sleep and wake, thermal limits, PMBus (22_power_startup.md, R417 to
R434; R181, R182). -/

namespace Sys2Proof.Machine

/-! ### Supply and rails (R417 to R420) -/

/-- Everything on the logic side is in reset, its cause not changed and no full reset counted yet: power is away. -/
def powerAway (s : State) (cause : Nat) (p : PowerState) : State :=
  let n := s.nvm.bootCount
  (fullReset s cause p).setNvm (fun v => { v with bootCount := n })

/-- VIN_VALID: VIN rises into 8.6 V to 64 V (R417). `kept` says that it stayed above 6 V since it became invalid, so that the
field die kept LAST_RESET_CAUSE; otherwise this is a power-on. -/
def execVinValid (mv : Nat) (kept : Bool) (s : State) : Out :=
  if s.pwr.vin || Nat.blt mv 8600 || Nat.blt 64000 mv then .next (s.put O.vin 0 mv) else
  .next ((fullReset s (if kept then s.nat O.lastResetCause else 1) { vin := true, held := s.pwr.held }).put O.vin 0 mv)

/-- VIN_INVALID: VIN falls below 8.2 V or rises above 64 V; the buck stops, the rails shut down and the hub stays in full reset
(R417). -/
def execVinInvalid (mv : Nat) (s : State) : Out :=
  if !s.pwr.vin || (Nat.ble 8200 mv && Nat.ble mv 64000) then .next (s.put O.vin 0 mv) else
  .next ((powerAway s 2 { held := s.pwr.held }).put O.vin 0 mv)

/-- The hub enables the first rail group, B (R420). -/
def sequenceUp (p : PowerState) : PowerState := { p with enabled := [0], good := [] }

/-- V5_RAIL_GOOD: the intermediate rail is within its window, and PWR_EN_B is raised (R418, R420). -/
def execV5RailGood (s : State) : Out :=
  if !s.pwr.vin || s.pwr.v5 || s.pwr.buckStop then .next s
  else .next (s.setPwr (fun p => sequenceUp { p with v5 := true }))

/-- PWR_PG_RISE: a group's power-good input rises; the next group in the order B, A, C is enabled (R420).  With the last one
every rail is good and P1 is on. -/
def execPwrPgRise (g : Fin 3) (t : Nat) (s : State) : Out :=
  let p := s.pwr
  if !p.enabled.contains g.val || p.good.contains g.val || p.sleep.isSome then .next s else
  let p := { p with good := p.good ++ [g.val] }
  if Nat.beq g.val 2 then
    let s := (s.advance t).setPwr (fun _ => { p with pgFaults := 0 })
    .next { s with time := { s.time with p1On := t } }
  else .next (s.setPwr (fun _ => { p with enabled := p.enabled ++ [g.val + 1] }))

/-- PG_FAULT: a group's PG is not high 3 ms after its enable (R420); a full reset of Table 22.3.  After three in a row the groups
stay off. -/
def execPgFault (g : Fin 3) (s : State) : Out :=
  let p := s.pwr
  if !p.enabled.contains g.val || p.good.contains g.val || p.sleep.isSome then .next s else
  let n := p.pgFaults + 1
  .next (fullReset s 3 { vin := p.vin, v5 := p.v5, held := p.held, pgFaults := n, pgWait := Nat.blt n 3, pgOff := Nat.ble 3 n })

/-- PG_RESTART_WAIT: 100 ms after a PG fault sequencing starts again (R420). -/
def execPgRestartWait (s : State) : Out :=
  if s.pwr.pgWait then .next (s.setPwr (fun p => sequenceUp { p with pgWait := false })) else .next s

/-- PG_LOSS: a PG input falls while the hub runs; the rails shut down, a full reset follows and they are sequenced up again
(R420). -/
def execPgLoss (g : Fin 3) (s : State) : Out :=
  if !s.pwr.good.contains g.val then .next s
  else .next (fullReset s 3 (sequenceUp { vin := s.pwr.vin, v5 := s.pwr.v5, held := s.pwr.held }))

/-! ### Resets (R423 to R425) -/

/-- The rails at a full reset: kept as they are; out of sleep, groups A and C are powered up again. -/
def railsAtReset (p : PowerState) : PowerState :=
  if p.sleep.isSome then { railsKept p with enabled := [0, 1], good := [0] } else railsKept p

/-- RESET_N_ASSERT: RESET_N has been low for `ns`; from 1 µs on the logic side is held in full reset with the rails on (R424). -/
def execResetNAssert (ns : Nat) (s : State) : Out :=
  if Nat.blt ns 1000 || s.pwr.held then .next s
  else .next (fullReset s 4 { railsAtReset s.pwr with held := true, pgOff := s.pwr.pgOff, pgWait := s.pwr.pgWait, buckStop := s.pwr.buckStop })

/-- RESET_N_RELEASE: start-up runs from the 13 ms row; groups that stayed off after three PG faults start again (R420, R424). -/
def execResetNRelease (s : State) : Out :=
  if !s.pwr.held then .next s else
  .next (s.setPwr (fun p =>
    let p := { p with held := false }
    if p.pgOff then sequenceUp { p with pgOff := false, pgFaults := 0 } else p))

/-- Every rail group is good and RESET_N is high. -/
def logicRuns (p : PowerState) : Bool := p.good.contains 0 && p.good.contains 1 && p.good.contains 2 && !p.held

/-- SRAM_WIPE_END: the host port begins to answer (R390, Table 22.4). -/
def execSramWipeEnd (s : State) : Out :=
  if logicRuns s.pwr then .next (s.setPwr (fun p => { p with sram := true })) else .next s

/-- The boot parts are in: the oscillators are measured, the internal references are enabled, the first lanes start, DRAM
training begins and its wipe is owed (Table 22.4, R163, R280, R285, R291). -/
def boot (s : State) (osc : List Nat) : State :=
  let s := s.setPwr (fun p => { p with booted := true })
  let s := oscMeasure s osc
  let s := s.each (List.range 33) (fun s c => refreshBuffers s c s.now)
  let s := lanesOn s
  let s := trainAt s (s.nat O.dramSpeed)
  { s with dram := { s.dram with wiping := true } }

/-- BOOT_PARTS_LOADED: secure boot ends (R411, R426).  `bad` names image slots whose flash content fails its checks, `osc` the
oscillators' measured frequencies in Hz. -/
def execBootPartsLoaded (t : Nat) (bad : List (Fin 2)) (osc : List Nat) (s : State) : Out :=
  if !logicRuns s.pwr || !s.pwr.sram || !s.pwr.copyRead || s.pwr.booted || s.pwr.sleep.isSome then .next s else
  let b := secureBoot (bootTrial (s.advance t)) bad
  if b.2 then .next (boot b.1 osc) else .next b.1

/-- WATCHDOG: the distaff's or the secure core's watchdog expires (R425, R410). -/
def execWatchdog (t : Nat) (s : State) : Out :=
  if !s.pwr.booted || inRestart s || s.pwr.sleep.isSome then .next s else
  let s := (s.advance t).ev Ev.watchdog 0xFF
  let again := match s.pwr.wdEnd with | some e => Nat.ble t (e + 10 * secondTicks) | none => false
  if Nat.beq (s.nat O.updState) 5 then .next (rollback s t false)
  else if again then .next (fullReset s 8 (railsKept s.pwr))
  else .next (coreRestartBegin s true false)

/-- CORE_RESTART_END (R19, R241, R425). `bad` names image slots whose flash content fails secure boot's checks. -/
def execCoreRestartEnd (t : Nat) (bad : List (Fin 2)) (s : State) : Out := .next (coreRestartFinish (s.advance t) bad)

/-- A port reset of a reel: its capture ends with ABORTED and its rings are cleared; held captures remain (R221, R423). -/
def reelReset (s : State) (r : Nat) : State :=
  let armed := (s.reel r).arm.isSome
  let s := finishCapture s r true
  let s := s.setReel r { s.reel r with words := [], later := [] }
  if armed then armReel s r s.now false else s

/-- PORT_RESET takes effect: class and number (R423, Table 22.8). -/
def portResetNow (s : State) (v : Nat) : State :=
  let n := v % 256
  let s := s.ev Ev.portReset 0xFF (be 2 v)
  if Nat.beq (v / 256) 1 then laneReset s n
  else if Nat.beq (v / 256) 2 then mbPortReset s n
  else reelReset s n

/-! ### Domains (R422) -/

/-- DOMAIN_CTRL changes at `t` (R422): the switches are logged, and references of P2 start or stop. -/
def domainChanged (s : State) (t old : Nat) : State :=
  let new := s.nat O.domainCtrl
  if Nat.beq old new then s else
  let s := s.evAt Ev.domainSwitched 0xFF t 0 (be 1 old ++ be 1 new)
  s.each (List.range 33) (fun s c => refreshBuffers s c t)

/-- Why a DOMAIN_CTRL value is refused (R13, R14, R422), given the store before it. -/
def domainState (st : Store) (new : Nat) : Nat :=
  let old := st.nat O.domainCtrl
  let on := fun (v i : Nat) => bitOf v i
  let p4 := fun (v : Nat) => Nat.blt 0 (v / 4 % 16)
  let bad := (on new 1 && !on new 0) || (p4 new && !on new 1)
  let gated := (List.range 4).any (fun g => on old (2 + g) && !on new (2 + g) && (List.range 4).any (fun i => spindleBusy st (4 * g + i)))
  let off := (on old 0 && !on new 0) || (on old 1 && !on new 1)
  let runs := (List.range 32).any (fun c => !(seqOf st c).entries.isEmpty || interleaved st c)
  if bad || gated then 0x03000002 else if off && runs then 0x030000D0 else 0

/-- DOMAIN_STATE (Table 22.8): bit n is set while Pn is on. -/
def domainStateObj (s : State) : Nat :=
  let v := s.nat O.domainCtrl
  let awake := s.pwr.sleep.isNone
  1 + (if awake then 2 + 4 * b2n (bitOf v 0) + 8 * b2n (bitOf v 1) + 16 * b2n (Nat.blt 0 (v / 4 % 16)) + 32 + 64 * b2n (p6On s) + 128 else 0)

/-- ISLAND_FREQ_0 to 11 in the order of Table 1.4, in Hz; 0 while the island is off. -/
def islandFreq (s : State) (i : Nat) : Nat :=
  let d := domainStateObj s
  let strand := fun (x : Nat) => if strandRuns s x then s.nat O.oscFreq x else 0
  match i with
  | 0 => if s.gridOn then 640000000 else 0
  | 1 => if bitOf d 3 then 500000000 else 0
  | 2 => if bitOf d 4 then 1000000000 else 0
  | 3 => if bitOf d 7 then (if s.pwr.throttled then 400000000 else 800000000) else 0
  | 4 => if bitOf d 5 then s.nat O.dramSpeedActive * 250000 else 0
  | 5 => if bitOf d 6 then 322265625 else 0
  | 6 => strand 0
  | 7 => strand 1
  | 8 => strand 2
  | 9 => 32768
  | 10 => if bitOf d 7 then 200000000 else 0
  | _ => 40000000

/-! ### PMBus and VEXC (R419, R421) -/

/-- LINEAR11: an 11-bit mantissa and a 5-bit exponent, in units of 1 / `k`. -/
def linear11 (k : Nat) (w : Nat) : Int :=
  let m := ofTwos 11 w
  let e := ofTwos 5 (w / 2048)
  if 0 ≤ e then m * (k : Int) * (2 ^ e.toNat : Int) else roundConv (m * (k : Int)) (-e).toNat

/-- LINEAR16: READ_VOUT in mV by the exponent of VOUT_MODE. -/
def linear16 (e : Int) (w : Nat) : Int :=
  if 0 ≤ e then (w : Int) * 1000 * (2 ^ e.toNat : Int) else roundConv ((w : Int) * 1000) (-e).toNat

/-- Bits of STATUS_WORD that report a fault; BUSY, OFF and POWER_GOOD# do not. -/
def pmbusFaultBits : Nat := 0xF73F

/-- The device at an address, as last polled. -/
def pmbDevice (s : State) (a : Nat) : PmbDevice := (s.pwr.pmbus.find? (fun d => Nat.beq d.addr a)).getD { addr := a }

/-- Put devices back in the order of PMBUS_DEVICES. -/
def setPmbDevice (s : State) (d : PmbDevice) : State :=
  let ds := s.pwr.pmbus
  s.setPwr (fun p => { p with pmbus := if ds.any (fun x => Nat.beq x.addr d.addr) then ds.map (fun x => if Nat.beq x.addr d.addr then d else x) else ds ++ [d] })

/-- A read of one device: its STATUS_WORD and, in a poll, the figures; `none` is no answer (R421). -/
def pmbRead (s : State) (a : Nat) (r : Option PmbReading) (full : Bool) : State :=
  let d := pmbDevice s a
  match r with
  | none =>
    let s := setPmbDevice s { d with answers := false, fails := d.fails + 1 }
    if Nat.beq (d.fails + 1) 3 then s.ev Ev.pmbusLost 0xFF (be 1 a) else s
  | some r =>
    let st := r.status.toNat
    let m := d.mode.getD (ofTwos 5 r.mode.toNat)
    let d' := if full then { d with mode := some m, vout := linear16 m r.vout.toNat, iout := linear11 1000 r.iout.toNat, temp := linear11 64 r.temp.toNat } else d
    let s := setPmbDevice s { d' with answers := true, fails := 0, status := st }
    let news := (st &&& pmbusFaultBits) &&& (0xFFFF - d.status)
    if Nat.beq news 0 then s else s.ev Ev.pmbusFault 0xFF (be 1 a ++ be 2 st)

/-- Addresses of PMBUS_DEVICES. -/
def pmbusAddresses (s : State) : List Nat := (s.bytes O.pmbusDevices).map (·.toNat)

/-- Devices no longer listed are forgotten. -/
def pmbusListed (s : State) : State :=
  s.setPwr (fun p => { p with pmbus := p.pmbus.filter (fun d => (pmbusAddresses s).contains d.addr) })

/-- PMBUS_POLL: every 32 ms, one answer for each listed device (R421). -/
def execPmbusPoll (answers : List (Option PmbReading)) (s : State) : Out :=
  if !s.pwr.booted || s.pwr.sleep.isSome then .next s else
  .next ((pmbusAddresses s).zipIdx.foldl (fun s x => pmbRead s x.1 (answers.getD x.2 none) true) (pmbusListed s))

/-- PMB_ALERT_FALL: an extra read of every device's STATUS_WORD (R421). -/
def execPmbAlertFall (status : List (Option (BitVec 16))) (s : State) : Out :=
  if !s.pwr.booted || s.pwr.sleep.isSome then .next s else
  .next ((pmbusAddresses s).zipIdx.foldl (fun s x =>
    pmbRead s x.1 ((status.getD x.2 none).map (fun w => { status := w, vout := 0, iout := 0, temp := 0, mode := 0 })) false) (pmbusListed s))

/-- PMBUS_DATA (Table 22.8). -/
def pmbusData (s : State) : Bytes :=
  (pmbusAddresses s).flatMap (fun a =>
    let d := pmbDevice s a
    be 1 a ++ be 1 (b2n d.answers) ++ be 2 d.status ++ beI 4 d.vout ++ beI 4 d.iout ++ beI 4 d.temp)

/-- The measured VEXC lies more than 100 mV above VEXC_MAX (R419). -/
def vexcAbove (s : State) (mv : Nat) : Bool := Nat.blt (s.nat O.vexcMax + 100) mv

/-- A figure of the supply monitor for VEXC: above the declared maximum it sets SUPPLY_STATE[4] and is logged once (R419). -/
def vexcMeasured (s : State) (mv : Nat) : State :=
  let s := s.put O.vexc 0 mv
  if !vexcAbove s mv then s.put O.supplyState 0 0
  else if Nat.beq (s.nat O.supplyState) 16 then s
  else (s.put O.supplyState 0 16).ev Ev.vexcAboveDeclared 0xFF (be 4 mv)

/-- VEXC_ABOVE_DECLARED: the supply monitor measures VEXC against VEXC_MAX (R419). -/
def execVexcAboveDeclared (mv : Nat) (s : State) : Out :=
  .next (vexcMeasured s mv)

/-- SUPPLY_STATE (Table 22.8). -/
def supplyStateObj (s : State) : Nat :=
  s.nat O.supplyState + 8 * b2n (s.pwr.pmbus.any (fun d => Nat.ble 3 d.fails)) + 4 * b2n (Nat.ble 3500 (s.nat O.vexc)) + 2 * b2n s.pwr.v5 + b2n s.pwr.vin

/-! ### Sleep (R429 to R431, Table 22.5) -/

/-- What powering down P6 leaves of the lanes, their queues and what was learnt on them. -/
def lanesLost (s : State) : State :=
  { s with lanes := {}, twine := { s.twine with learned := [] }, ptp := { s.ptp with lanes := [], egress := [], syncOk := [] } }

/-- Strand A goes on by the crystal in HOLDOVER, a strand without a first lock keeping its state; strands B and C enter OFF, and the grid
stops (R181). -/
def strandsSleep (s : State) : State :=
  let a := s.nat O.strandState 0
  let s := if Nat.beq a 2 || Nat.beq a 4 then setRate (enterStrand s 0 3) 0 else s
  let s := enterStrand (enterStrand s 1 6) 2 6
  let s := s.put O.gridState 0 0
  { s with time := { s.time with slewEnd := none, slewUntil := 0, reepochAt := none, pause := none, ppsOut := none, ppsFall := none } }

/-- Reels hold no words, no capture and no arm while asleep; what they hold completed stays in its allocation (R432). -/
def reelSleeps (x : Reel) : Reel :=
  let again := if x.arm.isSome || x.capture.isSome then some (0, 2) else x.rearmAt.map (fun a => (0, a.2))
  { x with words := [], arm := none, capture := none, rearmAt := again, seg := 0, segTrig := [], prior := none, later := [], since := [],
           restartDue := again.isSome }
def reelsSleep (s : State) : State :=
  let rs := s.trig.reels.map (fun x => (x.1, reelSleeps x.2))
  { s with trig := { fio := [], seq := s.trig.seq, seen := s.trig.seen, reels := rs } }

/-- Sessions close and a STORE in progress ends with sleep. -/
def dictSleep (s : State) : State := { s with dict := { s.dict with sessions := [], storeAt := none } }

/-- Grid time after a wake. -/
def State.setNow (s : State) (t : Nat) : State := { s with now := t }

/-- What powering down strands B and C's domains leaves of creels, drivers, drafting, calibration and spindles (Table 22.5). -/
def blocksSleep (s : State) (t : Nat) : State :=
  { s with
    samp := { lastSlot := t, lastFrame := t, refinOut := false, inputOpen := s.samp.inputOpen,
              creels := s.samp.creels.map (fun c => (c.1, { sense := c.2.sense })),
              drivers := s.samp.drivers.map (fun x => (x.1, { tripped := x.2.tripped })) }
    draft := {}
    cal := { s.cal with sweep := none, connected := none, serving := none, stopped := [], request := none, ratioA := none, ratioB := none }
    spin := { restarting := s.spin.restarting, downSince := s.spin.downSince } }

/-- DRAM goes to self-refresh for sleep (R279). -/
def dramSleep (s : State) : State :=
  let s := s.each (rankList s.objs) (fun s k => closeRank (s.setRank k { debt := 0, sr := true }) k)
  { s with dram := { s.dram with ready := false, training := none, waiting := none, changing := false, panic := [], scrubDue := none } }

/-- DRAM leaves self-refresh. -/
def dramWake (s : State) : State :=
  let s := s.each (rankList s.objs) (fun s k => s.setRank k { s.rank k with sr := false })
  { s with dram := { s.dram with ready := !s.dram.broken } }

/-- Enter sleep at `d.ts` (Table 22.5, R181, R279, R429, R430). -/
def enterSleep (s : State) (d : Sleep) : State :=
  let t := d.ts
  let s := closeStreams (s.advance t) t
  let s := dictSleep (dropWrites s (fun w => Nat.blt t w.t))
  let s := evalStages (becomeStandby (s.setTwin (fun w => { w with listenUntil := none, switch := none, hbHanded := none })))
  let s := reelsSleep s
  let s := dramSleep (blocksSleep s t)
  let s := (s.setStatus 3).evAt Ev.sleepEntry 0xFF t 0 (be 1 (b2n d.thermal))
  let s := strandsSleep (lanesLost ((s.put O.sleepEntry 0 t).bump O.sleepCount))
  let s := s.setUpd (fun u => { u with healthSince := none })
  s.setPwr (fun p => { p with sleep := some d, sleepDue := none, ready := false, enabled := [0], good := [0] })

/-- SLEEP_ENTRY: the sleep that is due at T_s begins, once that boundary has passed, with the crystal's count of strand A's last 4,096 ms
(R181, R429). -/
def execSleepEntry (s : State) : Out :=
  match s.pwr.sleepDue with
  | some d => if s.gridOn && Nat.ble d.ts s.samp.lastFrame then .next (enterSleep s { d with cycles := s.time.crystal }) else .next s
  | none => .next s

/-- Why SLEEP_REQ is refused (R429). -/
def sleepState (s : State) : Nat :=
  let u := s.nat O.updState
  let busy := s.cal.sweep.isSome || s.cal.request.isSome || s.dict.storeAt.isSome || s.dict.storing.isSome || s.dram.changing || s.dram.waiting.isSome
    || s.dict.pend.any (fun w => Nat.beq w.key O.calStart.key || Nat.beq w.key O.dramSpeed.key)
  if Nat.beq (s.nat O.wakeEnable % 32) 0 || Nat.beq u 2 || Nat.beq u 4 || Nat.beq u 5 || busy || s.root.retro.isSome then 0x030000D2 else 0

/-! ### Wake (R431, R432, Table 22.6) -/

/-- Strands B and C take strand A's time and rate (R182). -/
def strandsWake (s : State) (time : Int) : State :=
  let s := s.setStrand 0 { s.strand 0 with time := time }
  let a := s.strand 0
  s.each [1, 2] (fun s x =>
    let s := enterStrand s x 3
    (s.setStrand x { s.strand x with time := time, servo := a.servo, freq := a.freq, err := 0 }).putI O.rateCorr x (s.int O.rateCorr 0))

/-- Sampling starts at `t`: sequences at entry 0, drafting started with SETTLE, reductions and reels as new, and the drivers that
are on switch on (R75, R170, R240, R426, Table 22.6); after a wake reductions begin with PARTIAL. -/
def startSampling (s : State) (t : Nat) (woken : Bool) : State :=
  let s : State := { s with samp := { s.samp with lastSlot := t, lastFrame := t, prevCode := [] } }
  let s := replanAll s t (fun _ => false)
  let s := s.each (List.range 32) (fun s k => if excEnabled s k then switchDriver s k t else s)
  restartReductions s t woken

/-- Strand A's advance since sleep entry, in 1/65536 tick: crystal cycles scaled by the ratio measured before entry, or, with
SLEEP_OSC_A, its own oscillator's count (R181). -/
def sleepAdvance (s : State) (d : Sleep) (n : SleepCount) : Int :=
  if s.bool O.sleepOscA then (n.osc : Int) + roundDiv ((n.osc : Int) * s.int O.rateCorr 0) 1000000000
  else roundDiv ((n.crystal * (4096 * msTicks) * 65536 : Nat) : Int) (max 1 d.cycles)

/-- Wake by cause `cause` after what was counted since T_s (R181, R182, R431, R432, Table 22.6): the whole of Table 22.6 up to the
grid's start at the first frame boundary after 16 ms. -/
def wakeUp (s : State) (cause : Nat) (n : SleepCount) : State :=
  match s.pwr.sleep with
  | none => s
  | some d =>
    let w := (s.strand 0).time + sleepAdvance s d n
    let wTick := (w / 65536).toNat
    let t := max (nextFrame (wTick + 16 * msTicks)) (nextFrame d.ts)
    let gaps := (List.range 512).filter (fun ch => Nat.beq (s.nat O.bobbinMode ch) 1 || Nat.beq (s.nat O.bobbinMode ch) 2)
    let s := s.setPwr (fun p => { p with sleep := none, enabled := [0, 1, 2], good := [0, 1, 2], ready := true, sleepGaps := gaps })
    let s := s.setNow (max (wTick + 12 * msTicks) d.ts)
    let s := (s.put O.wakeCause 0 cause).evAt Ev.wake 0xFF wTick 0 (be 1 cause)
    let s := dramWake s
    let s := lanesOn s
    let s := s.each (List.range 24) (fun s l => if Nat.beq (s.nat O.laneAdmin l) 2 then s.setLane l { started := true, code := s.nat O.testSpeed l } else s)
    let s := s.each (List.range 33) (fun s c => refreshBuffers s c s.now)
    let s := (strandsWake s ((t : Int) * 65536)).setNow t
    let s := voteAt ({ s with time := { s.time with strandsAt := t } } : State) t
    let s := startSampling ((s.put O.epochStart 0 t).put O.tAnchor 0 0) t true
    let s := s.each (List.range 16) (fun s r => match (s.reel r).rearmAt with | some _ => armReel s r t true | none => s)
    twinReady (enterReady s t)

/-- A source of R431 is enabled. -/
def wakeEnabled (s : State) : WakeSource → Bool
  | .comparator i => bitOf (s.nat O.wakeEnable) 1 && bitOf (s.nat O.sleepCompMask) i.val
  | .hostSelect _ => bitOf (s.nat O.wakeEnable) 2
  | .fieldInput _ => bitOf (s.nat O.wakeEnable) 3
  | .signalDetect _ => bitOf (s.nat O.wakeEnable) 4

/-- WAKE_CAUSE of a source (Table 22.8). -/
def wakeCode : WakeSource → Nat
  | .comparator _ => 2
  | .hostSelect _ => 3
  | .fieldInput _ => 4
  | .signalDetect _ => 5

/-- WAKE: a source of R431 fires; after a thermal trip it is ignored. -/
def execWake (src : WakeSource) (n : SleepCount) (s : State) : Out :=
  match s.pwr.sleep with
  | some d => if !d.thermal && wakeEnabled s src then .next (wakeUp s (wakeCode src) n) else .next s
  | none => .next s

/-- WAKE_AFTER_EXPIRY: WAKE_AFTER seconds of the real-time counter since entry, which counts the crystal (R431); what OSC_A has counted
meanwhile, should it run, is a free value (log entry 173). -/
def execWakeAfterExpiry (s : State) : Out :=
  match s.pwr.sleep with
  | some d =>
    if !d.thermal && bitOf (s.nat O.wakeEnable) 0 then
      let osc := s.freshNat
      .next (wakeUp osc.2 1 ⟨s.nat O.wakeAfter * 32768, osc.1⟩)
    else .next s
  | none => .next s

/-- THERMAL_RELEASE_WAKE: after a thermal trip every die is 20 K below its trip limit (R431). -/
def execThermalReleaseWake (temps : DieTemps) (n : SleepCount) (s : State) : Out :=
  match s.pwr.sleep with
  | some d =>
    if d.thermal && decide (temps.hub ≤ 95 * 64) && decide (temps.conv ≤ 95 * 64) && decide (temps.field ≤ 115 * 64) then
      .next (wakeUp (((s.putI O.hubTemp 0 temps.hub).putI O.convTemp 0 temps.conv).putI O.fieldTemp 0 temps.field) 6 n)
    else .next s
  | none => .next s

/-! ### Thermal limits (R433, Table 22.7) -/

/-- A state that is entered at a threshold in °C and clears 5 K below it. -/
def hysteresis (was : Bool) (temp : Int) (limit : Nat) : Bool :=
  decide ((limit : Int) * 64 ≤ temp) || (was && decide ((limit : Int) * 64 - 320 < temp))

/-- Warnings of the three dies (0 hub, 1 converter, 2 field). -/
def thermalWarn (s : State) (die : Nat) (temp : Int) (limit : Nat) : State :=
  let was := s.pwr.warm.contains die
  let is := hysteresis was temp limit
  let s := s.setPwr (fun p => { p with warm := if is then (if was then p.warm else p.warm ++ [die]) else p.warm.filter (fun d => !Nat.beq d die) })
  if is && !was then s.ev Ev.thermalWarn 0xFF (be 1 die ++ beI 2 temp) else s

/-- Throttling of the hub die: the distaff slows, patrol scrub is suspended, recomputation pauses. -/
def thermalThrottle (s : State) (temp : Int) : State :=
  let was := s.pwr.throttled
  let is := hysteresis was temp 105
  let s := s.setPwr (fun p => { p with throttled := is })
  if is && !was then (s.bump O.throttleCount).ev Ev.thermalThrottle 0xFF (beI 2 temp) else s

/-- The hub or converter die at its trip limit: forced sleep at the next frame boundary (R429). -/
def thermalTrip (s : State) (die : Nat) (temp : Int) : State :=
  let due := match s.pwr.sleepDue with | some d => d.thermal | none => false
  if decide (temp < 115 * 64) || due then s else
  let ts := match s.pwr.sleepDue with | some d => min d.ts (nextFrame s.now) | none => nextFrame s.now
  (s.ev Ev.thermalTrip 0xFF (be 1 die ++ beI 2 temp)).setPwr (fun p => { p with sleepDue := some { ts := ts, thermal := true } })

/-- The field die's trip: every driver trips, FIO4 to FIO7 and the test currents switch off. -/
def fieldTripStep (s : State) (temp : Int) : State :=
  let was := s.pwr.fieldTrip
  let is := hysteresis was temp 135
  let s := s.setPwr (fun p => { p with fieldTrip := is })
  if is && !was then
    let s := s.ev Ev.fieldThermal 0xFF (beI 2 temp)
    let s := s.each (List.range 32) (fun s k => if excEnabled s k then tripDriver s k else s)
    { s with trig := { s.trig with fio := [] } }
  else s

/-- At 150 °C the buck stops: the logic side loses its power until the die is below 125 °C. -/
def buckStops (s : State) (temp : Int) : State :=
  if decide (temp < 150 * 64) then s
  else (powerAway s (s.nat O.lastResetCause) { vin := s.pwr.vin, held := s.pwr.held, buckStop := true }).putI O.fieldTemp 0 temp

/-- The hottest converter path (R101). -/
def hottestPath (s : State) : Int :=
  ((List.range 33).map (fun c => s.objs.intK O.dieTemp (O.dieTemp.conv c))).foldl max (s.objs.intK O.dieTemp (O.dieTemp.conv 0))

/-- THERMAL_EVALUATION: every grid frame the dies are compared with their thresholds (R433); VIN and VEXC in mV are the supply
monitor's figures. -/
def execThermalEvaluation (hub field : Int) (vin vexc : Nat) (s : State) : Out :=
  if s.pwr.sleep.isSome || s.pwr.buckStop || !logicRuns s.pwr then .next s else
  let conv := hottestPath s
  let s := ((s.putI O.hubTemp 0 hub).putI O.convTemp 0 conv).putI O.fieldTemp 0 field
  let s := vexcMeasured (s.put O.vin 0 vin) vexc
  if !s.gridOn then .next (buckStops s field) else
  let s := thermalThrottle (thermalWarn (thermalWarn (thermalWarn s 0 hub 100) 1 conv 100) 2 field 125) hub
  .next (buckStops (fieldTripStep (thermalTrip (thermalTrip s 0 hub) 1 conv) field) field)

/-- THERMAL_STATE (Table 22.8). -/
def thermalStateObj (s : State) : Nat :=
  8 * b2n s.pwr.fieldTrip + 4 * b2n (match s.pwr.sleep with | some d => d.thermal | none => false) + 2 * b2n s.pwr.throttled + b2n (!s.pwr.warm.isEmpty)

/-- FIELD_DIE_THERMAL_RESET: after the buck stop the field die is below 125 °C, and a full reset follows (R433). -/
def execFieldDieThermalReset (field : Int) (s : State) : Out :=
  if s.pwr.buckStop && decide (field < 125 * 64) then
    .next ((fullReset s 7 { vin := s.pwr.vin, held := s.pwr.held }).putI O.fieldTemp 0 field)
  else .next s

end Sys2Proof.Machine
end

