-- ==== Sys2Proof/Machine/Format.lean ====
section
/-! DEFINITION. What the dictionary checks of a value before it looks at the machine: existence, rights, type, range and format
(R333 to R336 steps 2 to 5), and how values are encoded (Table 17.1). -/

namespace Sys2Proof.Machine

/-- The unit of a numbered object that a key names: `n` units from `r` on (R333). -/
def unitOf (r : Ref) (n key : Nat) : Option Nat :=
  if Nat.beq (key % 256) (r.key % 256) && Nat.ble (r.key / 256) (key / 256) && Nat.blt (key / 256) (r.key / 256 + n) then
    some (key / 256 - r.key / 256)
  else none

/-- The key names some unit of the object. -/
def names (r : Ref) (n key : Nat) : Bool := (unitOf r n key).isSome

/-- The key names an object whose index lies in a range and whose sub-index is one of a list. -/
def inArea (key lo n : Nat) (subs : List Nat) : Bool :=
  Nat.ble lo (key / 256) && Nat.blt (key / 256) (lo + n) && subs.contains (key % 256)

/-! ### Values on the wire (R334, Table 17.1) -/

/-- Length of a fixed-length type; `none` for STRING and DOMAIN. -/
def OType.size : OType → Option Nat
  | .u n => some n
  | .i n => some n
  | .bool => some 1
  | .bytes => none

/-- A value as its type encodes it, most significant byte first. -/
def encodeVal (t : OType) (v : Val) : Bytes :=
  match t with
  | .bytes => v.toBytes
  | .bool => be 1 (b2n (decide (v.toInt ≠ 0)))
  | .u n => beI n v.toInt
  | .i n => beI n v.toInt

/-- The value that bytes encode. -/
def decodeValue (t : OType) (b : Bytes) : Val :=
  match t with
  | .bytes => .bytes b
  | .i n => .int (ofTwos (8 * n) (beNat b))
  | _ => .int (beNat b)

/-- The bytes fit the type (R334, abort 0x0200_0002). -/
def lengthFits (t : OType) (b : Bytes) : Bool :=
  match t.size with
  | some n => Nat.beq b.length n
  | none => Nat.ble b.length 67108864

/-! ### Rights (R335, R336, Table 17.2) -/

/-- PRINCIPAL codes of Table 17.2. -/
def Principal.code : Principal → Nat
  | .root => 1
  | .peer => 2
  | .twin => 3
  | .nsHost => 4
  | .sHost => 5

/-- Who may write a security object in this life-cycle state (Tables 21.11 and 21.12). -/
def keyRight (s : State) (key : Nat) (p : Principal) : Bool :=
  if Nat.beq key O.lcRequest.key then lcRight s p
  else if Nat.beq s.nvm.lc 0 then p == .nsHost
  else if Nat.beq key O.keyHash0.key || Nat.beq key O.keyHash1.key then Nat.beq s.nvm.lc 1 && p == .sHost
  else p == .sHost

/-- The principal may write the object. -/
def writeRight (s : State) (d : ObjDef) (key : Nat) (p : Principal) : Bool :=
  d.commit.isSome && (if d.access.key then keyRight s key p else match p with
    | .sHost => d.access.sHost
    | .root => d.access.root
    | _ => false)

/-- The principal may read the object (R400, R413). -/
def readRight (key : Nat) (p : Principal) : Bool :=
  if Nat.beq key O.kRoot.key || Nat.beq key O.kShost.key then false
  else if Nat.beq (key / 256) 0x2402 || Nat.beq (key / 256) 0x2403 then p == .root || p == .sHost
  else true

/-! ### Ranges (R334, R336 step 5) -/

/-- The stated range of Tables 17.8 on, but for the objects whose chapter gives a layout. -/
def inRange (d : ObjDef) (v : Val) : Bool :=
  let i := v.toInt
  let ok := match d.range with
    | .any => true
    | .span lo hi => decide (lo ≤ i) && decide (i ≤ hi)
    | .oneOf vs => vs.contains i
    | .zeroOr lo hi => decide (i = 0) || (decide (lo ≤ i) && decide (i ≤ hi))
    | .step u hi => decide (0 ≤ i) && decide (i ≤ hi) && decide (i % u = 0)
    | .mask _ => true
    | .format => true
  match d.typ with
  | .bool => decide (i = 0) || decide (i = 1)
  | _ => ok

/-- Zero the bytes at the offsets that `p` names. -/
def clearBytes (p : Nat → Bool) (b : Bytes) : Bytes := b.zipIdx.map (fun x => if p x.2 then 0#8 else x.1)

/-- The reserved bytes of a DOMAIN layout that reads them as 0 and checks nothing of them, by offset: USER_SET (Table 6.3), HASH_WINDOW
(Table 14.7), SCHEDULE (Table 10.8), MASK_UPPER and MASK_LOWER (Table 11.9). -/
def reservedByte (key : Nat) : Nat → Bool :=
  if inArea key 0x4300 65 [0x32, 0x33, 0x34, 0x35, 0x36, 0x37, 0x38, 0x39] then fun i => Nat.beq i 1
  else if Nat.ble O.hashWindowNext.key key && Nat.blt key (O.hashWindowNext.key + 4) then fun i => Nat.beq i 2 || Nat.beq i 3
  else if Nat.beq key O.scheduleWest.key || Nat.beq key O.scheduleEast.key || Nat.beq key O.scheduleUplink.key then
    fun i => Nat.beq i 2 || Nat.beq i 3 || (Nat.blt 12 i && !Nat.beq (i % 12) 0 && Nat.blt (i % 12) 4)
  else if names O.maskUpper 16 key || names O.maskLower 16 key then fun i => Nat.beq i 2 || Nat.beq i 3 || (Nat.ble 16 i && Nat.blt (i % 16) 4)
  else fun _ => false

/-- The value that the hub takes: reserved bits and bytes are ignored and read 0 whatever was written (R6). -/
def stored (d : ObjDef) (key : Nat) (v : Val) : Val :=
  match d.range, v with
  | .mask m, _ => .int ((v.toInt.toNat &&& m : Nat))
  | _, .int i => if Nat.beq key O.geometryNext.key then .int (i % 2 ^ 24) else v
  | _, .bytes b =>
    let b := clearBytes (reservedByte key) b
    .bytes (if Nat.ble O.hashWindowNext.key key && Nat.blt key (O.hashWindowNext.key + 4) then
      b.zipIdx.map (fun x => if Nat.beq x.2 1 then x.1 &&& 1#8 else x.1) else b)

/-- Distinct hub IDs in a list of U16 values, all assigned ones. -/
def hubIds (b : Bytes) (max : Nat) : Bool :=
  Nat.beq (b.length % 2) 0 && Nat.ble b.length (2 * max) && (List.range (b.length / 2)).all (fun i => Nat.ble (field b (2 * i) 2) 16383)

/-- The selection of a trigger unit lies in the range of its source (Table 11.2, R211). -/
def selectFormat (st : Store) (u : Nat) : Nat :=
  let src := st.nat O.trigSource u
  let sel := st.nat O.trigSelect u
  let hi := if src = 1 then 31 else if src = 2 ∨ src = 3 then 3 else if src = 4 then 511 else if src = 7 then 15 else 65535
  if Nat.blt hi sel then 0x02000001
  else if unitFormat u src sel ≠ 0 then unitFormat u src sel else unitMask st u

/-- Entries of a creel settle with its discharge length (R44). -/
def dischargeFormat (st : Store) (k : Nat) : Nat :=
  let es := (seqOf st k).entries.filter (fun w => !entryIdle w) ++ (injOf st k).2
  if es.any (fun w => !settlesOk (st.nat O.discharge k) w) then 0x02000011 else 0

/-- A first non-zero abort of a list. -/
def firstAbort (l : List Nat) : Nat := (l.find? (fun a => !Nat.beq a 0)).getD 0

/-- Abort of a condition. -/
def abortIf (c : Bool) (a : Nat) : Nat := if c then a else 0

/-- Layout and range of the security, update, supply and lane objects whose table row gives a layout. -/
def formatSystem (s : State) (st : Store) (key : Nat) (v : Val) : Nat :=
  let b := v.toBytes
  let n := v.toInt.toNat
  let bad := fun (c : Bool) => abortIf c 0x02000001
  if Nat.beq key O.keyHash0.key || Nat.beq key O.keyHash1.key || Nat.beq key O.kRoot.key || Nat.beq key O.kShost.key then bad (!Nat.beq b.length 32)
  else if Nat.beq key O.updManifest.key then bad (Nat.blt 65536 b.length)
  else if Nat.beq key O.pmbusDevices.key then bad (Nat.blt 8 b.length || b.any (fun x => Nat.blt x.toNat 8 || Nat.blt 0x77 x.toNat))
  else if Nat.beq key O.portReset.key then
    bad (!((Nat.beq (n / 256) 1 && Nat.blt (n % 256) 24) || (Nat.beq (n / 256) 2 && Nat.blt (n % 256) 4) || (Nat.beq (n / 256) 3 && Nat.blt (n % 256) 16)))
  else if Nat.beq key O.healthHold.key then bad (Nat.ble (st.nat O.trialWindow) n)
  else if Nat.beq key O.twinDomain.key then bad (Nat.beq n (st.nat O.ptpDomain))
  else if Nat.beq key O.dramSpeed.key then bad (!dramRates.contains n)
  else if Nat.beq key O.geometryNext.key then geometryFormat n
  else if Nat.ble O.hashWindowNext.key key && Nat.blt key (O.hashWindowNext.key + 4) then hashFormat st (key - O.hashWindowNext.key) b
  else if Nat.beq key O.srcMap.key then abortIf (Nat.beq n 2) 0x02000030
  else if Nat.beq key O.scheduleWest.key || Nat.beq key O.scheduleEast.key || Nat.beq key O.scheduleUplink.key then scheduleFormat b
  else if names O.tapFixed 24 key then tapsFormat n
  else if Nat.beq key O.hubIdNext.key || Nat.beq key O.rootId.key then bad (Nat.blt 16383 n && !Nat.beq n 0xFFFF)
  else if Nat.beq key O.ethertypeNext.key then bad (Nat.blt n 0x600 || Nat.beq n 0x88F7)
  else if Nat.beq key O.windowReq.key then windowFormat b
  else if Nat.beq key O.rootTwins.key then bad (!Nat.beq (b.length % 4) 0 || !hubIds b 256)
  else if Nat.beq key O.fedRoots.key then bad (!hubIds b 63)
  else if Nat.beq key O.relayAck.key then bad (relayMalformed b)
  else if Nat.beq key O.dirQuery.key then abortIf (queryMalformed b) 0x020000B0
  else if Nat.beq key O.retroJob.key then
    abortIf (!retroAborts b) (firstAbort [abortIf (retroMalformed b) 0x020000B0,
      abortIf ((retroFields b).hubs.any (fun h => (Map.find? s.root.segment h.1).isNone)) 0x020000B1])
  else if Nat.beq key O.retroDest.key then bad (Nat.blt 16383 n)
  else if Nat.beq key O.retroSlice.key then bad (Nat.beq n 0 || Nat.blt 640000000 n || !Nat.beq (n % 640000) 0)
  else if Nat.beq key O.actJob.key then bad (actMalformed b)
  else 0

/-- SEGMENTS is 1 in the modes that record one capture at a time (Table 11.13). -/
def segmentsFormat (st : Store) (r : Nat) : Nat :=
  let m := st.nat O.reelMode r
  abortIf ((Nat.beq m 1 || Nat.beq m 2) && !Nat.beq (st.nat O.segments r) 1) 0x02000001

/-- Layout and range of the sampling, trigger and reduction objects, on the configuration `st` in which the value stands. -/
def formatChannel (st : Store) (key : Nat) (v : Val) : Nat :=
  let b := v.toBytes
  let n := v.toInt.toNat
  let idx := key / 256
  let sub := key % 256
  if names O.discharge 32 key then dischargeFormat st (idx - 0x4200)
  else if names O.seqRegular 32 key then seqFormat st (idx - 0x4400) b
  else if names O.seqInjected 32 key then injFormat st (idx - 0x4400) b
  else if names O.injSource 32 key then
    abortIf (!(Nat.beq (n / 256) 0 || (Nat.beq (n / 256) 1 && Nat.blt (n % 256) 64) || (Nat.beq (n / 256) 2 && Nat.blt (n % 256) 4))) 0x02000001
  else if (inArea key 0x4300 32 [0x32, 0x33, 0x34, 0x35, 0x36, 0x37, 0x38, 0x39] || (Nat.beq idx 0x4340 && Nat.ble 0x32 sub)) then
    abortIf (!Nat.beq b.length 272 || !(Nat.beq (field b 0 1) 0 || Nat.beq (field b 0 1) 2)) 0x02000001
  else if inArea key 0x4A00 64 [1] then profileFormat b
  else if inArea key 0x5000 64 [1, 2] then selectFormat st (idx - 0x5000)
  else if names O.reelChannels 16 key || names O.maskChannels 16 key then abortIf (Nat.blt 16 (popCount n)) 0x02000061
  else if names O.reelMode 16 key || names O.segments 16 key then segmentsFormat st (idx - 0x5100)
  else if names O.redProfile 64 key then redFormat b
  else if names O.maskUpper 16 key || names O.maskLower 16 key then envelopeFormat b
  else 0

/-- Step 5 of R336 for a value on the configuration in which it stands. -/
def formatCheck (s : State) (st : Store) (d : ObjDef) (key : Nat) (v : Val) : Nat :=
  if !inRange d v then 0x02000001
  else if Nat.ble 0x400000 key && Nat.blt key 0x600000 then formatChannel st key v else formatSystem s st key v

end Sys2Proof.Machine
end

