-- ==== Sys2Proof/Machine/Checks.lean ====
section
/-! DEFINITION. What the dictionary checks of the machine: state and STOPPED (R336 step 6), and admission (step 8, R25, R341). -/

namespace Sys2Proof.Machine

/-! ### State, on the configuration in which the value stands -/

/-- The converter of a sequence object. -/
def seqConverter (key : Nat) : Option Nat := if inArea key 0x4400 32 [1, 2, 3, 4] then some (key / 256 - 0x4400) else none

/-- Pair rules (R97): INTERLEAVE with injected entries or a source, and sequence objects of an interleaving pair. -/
def pairState (st : Store) (key : Nat) (v : Val) : Nat :=
  if names O.interleave 31 key && decide (v.toInt ≠ 0) then
    let c := key / 256 - 0x4300
    abortIf ([c, c + 1].any (fun i => !(injOf st i).2.isEmpty || !Nat.beq (st.nat O.injSource i / 256) 0)) 0x03000005
  else match seqConverter key with
    | some c => abortIf (interleaved st c) 0x03000005
    | none => 0

/-- Excitation headroom: the write would enable the driver, anew after a trip too (R69), or raise its setpoint, and VEXC is
below setpoint + 0.8 V (R65). -/
def headroomState (s : State) (base st : Store) (key k : Nat) : Nat :=
  let on := !Nat.beq (st.nat O.excMode k) 0
  let was := !Nat.beq (base.nat O.excMode k) 0 && !((s.driver k).tripped && Nat.beq key (O.excMode.at k))
  let raised := Nat.blt (base.nat O.excVoltage k) (st.nat O.excVoltage k)
  abortIf (((on && !was) || raised) && Nat.blt (s.nat O.vexc) (setpointNv (st.nat O.excVoltage k) / 1000000 + 800)) 0x03000004

/-- A reduction needs an output-word bobbin (R232, R254). -/
def bobbinRedState (st : Store) (ch : Nat) : Nat :=
  abortIf (!Nat.beq (st.nat O.redSelect ch) 255 && !Nat.beq (st.nat O.bobbinMode ch) 1) 0x03000040

/-- State checks that a configuration decides: `base` is the configuration without the write, `st` with it. -/
def configState (s : State) (base st : Store) (key : Nat) (v : Val) : Nat :=
  let idx := key / 256
  let sub := key % 256
  if inArea key 0x4600 32 [1, 2] then
    firstAbort [headroomState s base st key (idx - 0x4600), ratioState st (idx - 0x4600)]
  else if inArea key 0x4400 32 [1, 2] then firstAbort [ratioState st (idx - 0x4400), pairState st key v]
  else if names O.refKeep 32 key then ratioState st (idx - 0x4300)
  else if names O.interleave 31 key || (seqConverter key).isSome then pairState st key v
  else if Nat.beq key O.vexcMax.key then abortIf (decide (v.toInt < s.int O.vexc)) 0x030000D1
  else if Nat.beq key O.domainCtrl.key then
    domainState (st.put O.domainCtrl.key (.int (base.nat O.domainCtrl))) (st.nat O.domainCtrl)
  else if Nat.beq key O.gmEnable.key then abortIf (decide (v.toInt ≠ 0) && !rootHeld st) 0x03000030
  else if Nat.beq key O.dramSpeed.key then abortIf ((List.range 16).any (fun r => !Nat.beq (st.nat O.reelMode r) 0)) 0x03000060
  else if Nat.ble 0x4000 idx && Nat.blt idx 0x4200 && (Nat.beq sub 0x10 || Nat.beq sub 0x20) then bobbinRedState st (idx - 0x4000)
  else 0

/-! ### State of the machine at acceptance -/

/-- A lane's index and sub-index, for a lane object. -/
def laneKey (key : Nat) : Option (Nat × Nat) :=
  if Nat.ble 0x3400 (key / 256) && Nat.blt (key / 256) 0x3418 then some (key / 256 - 0x3400, key % 256) else none

/-- The block that a STOPPED object governs runs (Table 17.3). -/
def blockRuns (s : State) (key : Nat) : Bool :=
  let idx := key / 256
  let adminOn := fun (l : Nat) => !Nat.beq (s.nat O.laneAdmin l) 0
  if Nat.beq key O.bobbinStore.key then !(enabledChannels s.objs).isEmpty
  else if names O.bobbinHanks 512 key then !Nat.beq (s.nat O.bobbinMode (idx - 0x4000)) 0
  else if Nat.ble 0x5100 idx && Nat.blt idx 0x5110 then !Nat.beq (s.nat O.reelMode (idx - 0x5100)) 0
  else if Nat.ble 0x5400 idx && Nat.blt idx 0x5410 then !Nat.beq (s.nat O.maskMode (idx - 0x5400)) 0
  else if Nat.beq idx 0x4340 then s.cal.sweep.isSome
  else match laneKey key with
    | some (l, sub) => if Nat.beq sub 0x02 || Nat.beq sub 0x20 || Nat.beq sub 0x21 then adminOn 22 || adminOn 23 else adminOn l
    | none => false

/-- Root objects need the role; requests also a configuration that serves (R369). -/
def rootState (s : State) (key : Nat) (kind : Kind) : Nat :=
  if !Nat.beq (key / 256) 0x6000 || Nat.beq key O.rootRoleNext.key then 0
  else abortIf (!(if kind = .request then rootServes s else rootHeld s.objs)) 0x030000B1

/-- Another pending write of the object (a later one for the same boundary replaces it, R340). -/
def pendingOther (s : State) (key : Nat) (timed : Option Nat) : Bool :=
  s.dict.pend.any (fun w => Nat.beq w.key key && !(w.timed && timed = some w.t))

/-- What refuses a command or request (the rules cited at each). -/
def commandState (s : State) (key : Nat) (v : Val) (p : Principal) (timed : Option Nat) : Nat :=
  let b := v.toBytes
  let n := v.toInt.toNat
  let storeBusy := abortIf (s.dict.storeAt.isSome || s.dict.storing.isSome) 0x03000009
  if Nat.beq key O.store.key || Nat.beq key O.restoreDefaults.key then storeBusy
  else if Nat.beq key O.lcRequest.key then lcState s p n
  else if Nat.beq key O.keyHash0.key then keyHashState s 0
  else if Nat.beq key O.keyHash1.key then keyHashState s 1
  else if Nat.beq key O.revokeKey.key then revokeState s n
  else if Nat.beq key O.updManifest.key then (manifestCheck s b).1
  else if Nat.beq key O.updPayload.key then payloadCheck s b
  else if Nat.beq key O.updActivate.key then activateState s
  else if Nat.beq key O.updConfirm.key then trialState s true
  else if Nat.beq key O.updReject.key then trialState s false
  else if Nat.beq key O.updAbort.key then updAbortState s
  else if Nat.beq key O.sleepReq.key then sleepState s
  else if Nat.beq key O.switchOver.key then
    firstAbort [switchOverState s, abortIf (pendingOther s key timed) 0x03000072]
  else if Nat.beq key O.reepoch.key then reepochState s none
  else if Nat.beq key O.calStart.key then calStartState s
  else if Nat.beq key O.windowReq.key then windowState s
  else if names O.laneStepObj 24 key then laneStepState s (key / 256 - 0x3400) n
  else if names O.bobbinDiscard 512 key then abortIf (!Nat.beq (s.nat O.bobbinMode (key / 256 - 0x4000)) 0) 0x03000001
  else if Nat.beq key O.dirQuery.key then queryCheck s b
  else if Nat.beq key O.retroJob.key then retroCheck s b
  else if Nat.beq key O.actJob.key then actCheck s b
  else 0

/-- What refuses a setting because of what the machine does at acceptance (R118, R266, R282). -/
def settingState (s : State) (key : Nat) (timed : Option Nat) : Nat :=
  let idx := key / 256
  if names O.bobbinHanks 512 key then abortIf (holdsUndoffed s (idx - 0x4000)) 0x03000050
  else if names O.interleave 31 key || (inArea key 0x4300 65 [0x32, 0x33, 0x34, 0x35, 0x36, 0x37, 0x38, 0x39]) then
    abortIf s.cal.connected.isSome 0x03000006
  else if Nat.beq key O.dramSpeed.key then abortIf (s.dram.changing || s.dram.waiting.isSome || pendingOther s key timed) 0x03000061
  else 0

/-- A profile's content (R147). -/
def isProfile (key : Nat) : Bool := inArea key 0x4A18 40 [1]

/-- An object holds at most one pending timed write, and a profile one pending write of either kind (R147, R340). -/
def pendingClash (s : State) (key : Nat) (timed : Option Nat) (effect : Nat) : Nat :=
  abortIf (s.dict.pend.any (fun w => Nat.beq w.key key && !Nat.beq w.t effect && ((w.timed && timed.isSome) || isProfile key))) 0x03000010

/-- Step 6 of R336 but for what the configuration decides: READY, the root role, STOPPED, then the chapter's own rules. -/
def machineState (s : State) (d : ObjDef) (key : Nat) (v : Val) (p : Principal) (timed : Option Nat) : Nat :=
  if isBooting s then 0x03000008
  else if rootState s key d.kind ≠ 0 then rootState s key d.kind
  else if d.commit = some .stopped && timed.isNone && blockRuns s key then 0x03000001
  else if d.kind = .setting then settingState s key timed else commandState s key v p timed

/-! ### Admission (R25, R341) -/

/-- The spindles that carry work lie in groups that are on (R14, R230). -/
def gatedAdmit (st : Store) : Nat :=
  let v := st.nat O.domainCtrl
  abortIf ((List.range 16).any (fun k => !bitOf v (2 + k / 4) && spindleBusy st k)) 0x04000041

/-- The dissipation of the excitation drivers (R66). -/
def excAdmit (st : Store) : Nat := abortIf (Nat.blt 4000000 (((List.range 32).map (excCostUw st)).sum)) 0x04000012

/-- DRAM_SPEED against the staging and the new rate's budget (R282). -/
def speedAdmit (st : Store) : Nat :=
  let a := allocP0 st
  if Nat.blt (2097152 * 1000 * a.2) (7 * a.1) then 0x04000062
  else abortIf (!fitsRate st (st.nat O.dramSpeed)) 0x04000060

/-- Objects whose write can change a creel's sequencing: the creel (Tables 3.12, 3.13, 5.3). -/
def seqTouched (key : Nat) : List Nat :=
  let idx := key / 256
  if inArea key 0x4400 32 [1, 2] then [idx - 0x4400]
  else if inArea key 0x4200 32 [1, 5, 6] then [idx - 0x4200]
  else if Nat.ble 0x4000 idx && Nat.blt idx 0x4200 && Nat.beq (key % 256) 2 then [(idx - 0x4000) / 16]
  else if names O.excCheck 32 key then [idx - 0x4600]
  else if names O.interleave 31 key then [idx - 0x4300, idx - 0x4300 + 1]
  else []

/-- Objects that change a channel's rate: sequences, profiles, INTERLEAVE, PROFILE_SEL. -/
def rateKey (key : Nat) : Bool :=
  inArea key 0x4400 32 [1, 2] || names O.interleave 31 key || inArea key 0x4800 512 [2] || isProfile key

/-- Objects that enter drafting costs (R149). -/
def draftKey (key : Nat) : Bool := rateKey key || inArea key 0x4800 512 [3, 4]

/-- Objects that enter spindle costs (R230). -/
def spindleKey (key : Nat) : Bool :=
  rateKey key || inArea key 0x4000 512 [0x10] || inArea key 0x5200 64 [1] || inArea key 0x5000 64 [1, 2, 0x0A] ||
  inArea key 0x5100 16 [1, 2, 3] || inArea key 0x5400 16 [1, 2, 3, 6, 7]

/-- Objects that enter the store and DRAM limits of R269. -/
def dramKey (key : Nat) : Bool :=
  rateKey key || inArea key 0x4000 512 [2, 3, 0x10, 0x20, 0x22] || inArea key 0x4200 32 [5] || inArea key 0x5200 64 [1] || names O.excCheck 32 key ||
  inArea key 0x5000 64 [0x0A] || inArea key 0x5100 16 [1, 2, 3, 5, 9] || inArea key 0x5400 16 [1, 2, 3] || Nat.beq key O.bobbinStore.key || Nat.beq key O.trunkReadAlloc.key ||
  Nat.beq key O.laneRole.key

/-- Objects that R325 checks. -/
def liveKey (key : Nat) : Bool :=
  rateKey key || inArea key 0x4000 512 [0x10, 0x20] || inArea key 0x5200 64 [1] || inArea key 0x5000 64 [0x0A] || inArea key 0x5400 16 [1, 2, 3] || inArea key 0x3800 1 [6, 8, 9] ||
  inArea key 0x3200 1 [1, 3, 4, 5] || inArea key 0x3400 24 [3]

/-- Reels whose settings or whose lag a write changes (R218): its own objects always, the others only while the reel is in use. -/
def reelTouched (st : Store) (key : Nat) : List Nat :=
  let idx := key / 256
  if Nat.ble 0x5100 idx && Nat.blt idx 0x5110 then [idx - 0x5100]
  else if rateKey key || inArea key 0x4000 512 [2, 3] || inArea key 0x4200 32 [5] || inArea key 0x5000 64 [1, 2] || names O.feedTimeout 16 key
      || names O.excCheck 32 key then
    (List.range 16).filter (fun r => !Nat.beq (st.nat O.reelMode r) 0)
  else []

/-- Step 8 of R336 for the writes of some objects: `base` is the configuration without them, `st` with them; the resources of
Table 2.2 in its order. -/
def admitWrites (ext : Map (Nat × Nat)) (base st : Store) (keys : List Nat) : Nat :=
  firstAbort
    [ firstAbort ((keys.flatMap seqTouched).eraseDups.map (seqAdmit st)),
      if keys.any (fun k => inArea k 0x4600 32 [1, 2, 3] || Nat.beq k O.vexcMax.key) then excAdmit st else 0,
      if keys.any draftKey then draftAdmit st (List.range 16) else 0,
      if keys.any spindleKey then firstAbort [spindleAdmit st, gatedAdmit st] else 0,
      firstAbort ((keys.flatMap (reelTouched st)).eraseDups.map (reelAdmit st)),
      if keys.any dramKey then dramAdmit ext base st else 0,
      if keys.any (fun k => Nat.beq k O.dramSpeed.key) then speedAdmit st else 0,
      if keys.any liveKey then liveAdmit st else 0 ]

end Sys2Proof.Machine
end

