-- ==== Sys2Proof/Machine/Read.lean ====
section
/-! DEFINITION. What every object reads: settings as they are in force, status computed from the state it reports, logs, and
the few reads that have an effect of their own (chapters' object tables; R333, R344, R351). -/

namespace Sys2Proof.Machine

/-- A number as a value. -/
def natVal (n : Nat) : Option Val := some (.int (n : Int))

/-! ### Creels, converters, drafting -/

/-- Entry, combination and coefficients in force for a channel (Table 6.1, R102): `none` while no entry names it. -/
def channelCombo (s : State) (ch : Nat) : Option Nat :=
  (placeOf s.objs ch).map (fun p => comboOf (isB ch) (entryRef p.2.2.2) (entryGain p.2.2.2))

/-- Coefficients applied to a channel now. -/
def channelCoef (s : State) (ch : Nat) : Coef :=
  match channelCombo s ch with
  | some k => (coefsOf s.objs (pathOf s (creelOf ch)) k (s.bool O.userCalEnable ch)).1
  | none => {}

/-- Channel objects that are computed at the read (Tables 3.13, 13.9). -/
def readChannel (s : State) (ch sub : Nat) : Option Val :=
  match sub with
  | 0x01 => natVal (b2n (!isB ch))
  | 0x04 => natVal (b2n (openState s ch))
  | 0x25 => natVal (oldestHeld (s.bobbin ch))
  | 0x27 => natVal (hanksUndoffed (s.bobbin ch))
  | 0x28 => natVal (hanksDoffed (s.bobbin ch))
  | 0x29 => natVal (min (retentionOf s ch) 0xFFFFFFFF)
  | 0x2B => natVal (bobbinState s ch)
  | _ => none

/-- Converter objects computed at the read (Tables 5.10 and 6.8): odd converters mirror the even one's pair objects. -/
def readConverter (s : State) (c key sub : Nat) : Option Val :=
  match sub with
  | 0x01 => natVal (convState s c)
  | 0x02 => if Nat.beq c 32 then none else natVal (s.nat O.interleave (c / 2 * 2))
  | 0x03 => if Nat.beq c 32 then none else natVal (s.nat O.ilRange (c / 2 * 2))
  | 0x04 => if Nat.beq c 32 then none else natVal (s.nat O.ilRef (c / 2 * 2))
  | 0x11 => natVal (refState s c)
  | 0x27 => natVal (calState s)
  | 0x3D => some (.int (s.objs.val key (.int (skewTrim s.objs c))).toInt)
  | _ => if Nat.ble 0x32 sub && Nat.ble sub 0x39 && (s.objs.bytesK O.userSet key).isEmpty then some (.bytes (zeros 272)) else none

/-- Drafting objects computed at the read (Table 7.11). -/
def readDrafting (s : State) (ch sub : Nat) : Option Val :=
  match sub with
  | 0x0B => natVal (draftState s ch)
  | 0x0C => natVal (Map.getD s.draft.chains ch {}).interval
  | 0x0E => natVal (Map.getD s.draft.chains ch {}).settleEnd
  | 0x10 => natVal (let c := macCost s.objs ch; ceilDiv c.1 (max c.2 1))
  | _ =>
    if Nat.beq ch 0 && Nat.ble 0x50 sub && Nat.ble sub 0x5F then natVal (let c := unitLoad s.objs (sub - 0x50); ceilDiv (2 * c.1) (max c.2 1))
    else none

/-- Profile objects computed at the read (Table 7.12). -/
def readProfile (s : State) (p sub : Nat) : Option Val :=
  match sub with
  | 0x01 => some (.bytes (encodeProfile (profileOf s.objs p)))
  | 0x02 => natVal (profileOf s.objs p).m
  | 0x03 => natVal (gdDc (profileOf s.objs p))
  | 0x04 => natVal (gdSpreadOf s.objs p)
  | 0x05 => natVal (settleLenOf s.objs p)
  | 0x06 => natVal ((List.range 512).filter (fun ch => Nat.beq (s.nat O.profileSel ch) p)).length
  | _ => none

/-- Sampling-path objects computed at the read. -/
def readPath (s : State) (key : Nat) : Option Val :=
  let idx := key / 256
  let sub := key % 256
  if Nat.ble 0x4000 idx && Nat.blt idx 0x4200 then readChannel s (idx - 0x4000) sub
  else if Nat.ble 0x4200 idx && Nat.blt idx 0x4220 && Nat.beq sub 0x0A then natVal (creelState s (idx - 0x4200))
  else if Nat.ble 0x4300 idx && Nat.blt idx 0x4320 then readConverter s (idx - 0x4300) key sub
  else if Nat.beq idx 0x4340 then readConverter s 32 key sub
  else if Nat.ble 0x4400 idx && Nat.blt idx 0x4420 then
    (if Nat.beq sub 0x06 then natVal (injState s (idx - 0x4400))
     else if Nat.beq sub 0x0B then natVal (seqLoad (seqOf s.objs (idx - 0x4400)).entries) else none)
  else if Nat.ble 0x4600 idx && Nat.blt idx 0x4620 then
    (if Nat.beq sub 0x07 then natVal (excState s (idx - 0x4600))
     else if Nat.beq sub 0x0A then natVal (ceilDiv (excCostUw s.objs (idx - 0x4600)) 1000) else none)
  else if Nat.ble 0x4800 idx && Nat.blt idx 0x4A00 then readDrafting s (idx - 0x4800) sub
  else if Nat.ble 0x4A00 idx && Nat.blt idx 0x4A40 then readProfile s (idx - 0x4A00) sub
  else if Nat.ble 0x5800 idx && Nat.blt idx 0x5A00 then
    (match sub with
     | 0x02 => some (.int (channelCoef s (idx - 0x5800)).g)
     | 0x03 => some (.int (channelCoef s (idx - 0x5800)).o)
     | 0x04 => natVal (pathOf s (creelOf (idx - 0x5800)))
     | 0x05 => natVal ((channelCombo s (idx - 0x5800)).getD 0)
     | _ => none)
  else none

/-! ### Triggers, spindles, stores, DRAM -/

/-- Reel, profile, spindle and store objects computed at the read. -/
def readStores (s : State) (key : Nat) : Option Val :=
  let idx := key / 256
  let sub := key % 256
  if Nat.ble 0x5100 idx && Nat.blt idx 0x5110 then
    (match sub with
     | 0x0D => natVal (reelStateOf s (idx - 0x5100))
     | 0x0E => some (.bytes (match (s.reel (idx - 0x5100)).held with | c :: _ => c.bytes | [] => []))
     | 0x10 => some (.bytes (missLogOf s (idx - 0x5100)))
     | _ => none)
  else if Nat.ble 0x5200 idx && Nat.blt idx 0x5240 then
    (let p := idx - 0x5200
     match sub with
     | 0x01 => some (.bytes (redBytes s.objs p))
     | 0x02 => natVal (redUsersOf s.objs p)
     | 0x03 => natVal (redOf s.objs p).wordCost
     | 0x04 => natVal (redOf s.objs p).recordCost
     | _ => none)
  else if Nat.ble 0x52F0 idx && Nat.blt idx 0x5300 then
    (let k := idx - 0x52F0
     match sub with
     | 0x01 => natVal (spindleLoadObj s.objs k)
     | 0x02 => natVal (spindleStateObj s k (!bitOf (s.nat O.domainCtrl) (2 + k / 4)))
     | _ => none)
  else if Nat.ble 0x5400 idx && Nat.blt idx 0x5410 && (Nat.beq sub 0x06 || Nat.beq sub 0x07) then
    (if (s.objs.val key (.bytes [])).toBytes.isEmpty then some (.bytes [1#8, 0#8, 0#8, 0#8]) else none)
  else if Nat.beq idx 0x2900 then
    (match sub with
     | 0x01 => natVal (storeMiB s.objs)
     | 0x03 => natVal (storeHanks s.objs - allocatedHanks s.objs)
     | 0x11 => some (.bytes (match s.bob.window with | some w => w.data.getD [] | none => []))
     | 0x12 => natVal (windowStateObj s)
     | _ => none)
  else if Nat.beq idx 0x2800 then
    (if Nat.ble 0x08 sub && Nat.ble sub 0x0B then some (.bytes (hashNext s.objs (sub - 0x08)))
     else if Nat.ble 0x12 sub && Nat.ble sub 0x14 then natVal (rtAllocObj s.objs (sub - 0x12))
     else if Nat.beq sub 0x1C then natVal (dramStateObj s)
     else if Nat.ble 0x28 sub && Nat.ble sub 0x2F then natVal (portHintOf s.objs (sub - 0x28))
     else if Nat.ble 0x30 sub && Nat.ble sub 0x37 then natVal (portWeightOf s.objs (sub - 0x30))
     else none)
  else none

/-! ### Time, network, lanes, Twine -/

/-- Time, PTP, lane and Twine objects computed at the read. -/
def readLinks (s : State) (key : Nat) : Option Val :=
  let idx := key / 256
  let sub := key % 256
  if Nat.beq idx 0x3000 then
    (match sub with
     | 0x01 => natVal s.gridTime
     | 0x09 => natVal (slewRemaining s)
     | 0x14 => natVal (ppsState s)
     | _ => none)
  else if Nat.ble 0x3001 idx && Nat.ble idx 0x3003 && Nat.beq sub 0x01 then natVal (srcOf s.objs (idx - 0x3001))
  else if Nat.beq idx 0x3100 && Nat.beq sub 0x02 then natVal (clockId s.objs)
  else if Nat.ble 0x3101 idx && Nat.ble idx 0x3114 then
    (match sub with
     | 0x02 => natVal (portState s (idx - 0x3100))
     | 0x0A => natVal ((timingLane s (idx - 0x3100)).getD 0xFF)
     | _ => none)
  else if Nat.beq idx 0x3200 && Nat.ble 0x03 sub && Nat.ble sub 0x05 then
    (if (s.objs.val key (.bytes [])).toBytes.isEmpty then some (.bytes [1#8, 0#8, 0#8, 0#8]) else none)
  else if Nat.ble 0x3400 idx && Nat.blt idx 0x3418 then
    (let l := idx - 0x3400
     match sub with
     | 0x02 => natVal (if Nat.ble 22 l then s.nat O.laneRole 22 else Config.laneRole l % 256)
     | 0x04 => natVal (laneSpeed s l)
     | 0x11 => natVal (laneStateObj s l)
     | 0x20 => if Nat.beq l 23 then some (s.objs.val key (.int 2)) else none
     | _ => none)
  else if Nat.beq idx 0x3800 then
    (match sub with
     | 0x0E => natVal (liveDemandObj s.objs)
     | 0x0F => natVal (liveCapacityObj s.objs)
     | 0x1B => natVal s.twine.requests.length
     | _ => none)
  else none

/-! ### The dictionary's own objects (Tables 17.9 and 17.12) -/

/-- Put a pending write before the first one of a later T. -/
def placePending (w : PendWrite) : List PendWrite → List PendWrite
  | [] => [w]
  | x :: l => if Nat.blt w.t x.t then w :: x :: l else x :: placePending w l

/-- Pending writes in order of T, those of one boundary in order of acceptance (R339). -/
def inOrderOfT (l : List PendWrite) : List PendWrite := l.foldl (fun a w => placePending w a) []

/-- PENDING_LIST, in order of T. -/
def pendingListBytes (l : List PendWrite) : Bytes :=
  (inOrderOfT l).flatMap (fun w => be 8 w.t ++ be 3 w.key ++ be 1 w.principal ++ be 4 w.batch)

/-- EVENT_LOG: FIRST_SEQ, count, entries oldest first. -/
def eventLogBytes (l : EventLog) : Bytes := be 4 (firstSeq l) ++ be 4 l.entries.length ++ l.entries.flatMap eventBytes

/-- A violation-log entry (Table 16.11). -/
def violationBytes (v : Violation) : Bytes :=
  be 8 v.time ++ be 1 v.port ++ be 1 v.kind ++ be 1 v.reason ++ be 1 0 ++ fit 2 v.srcField ++ be 2 0 ++ fit 4 v.head ++ be 4 0

/-- STORE_STATE: [3] and [1] are kept, [2] and [0] follow (Table 17.12). -/
def storeStateObj (s : State) : Nat := (s.nat O.storeState &&& 10) + 4 * b2n s.nvm.defaults + b2n s.dict.storeAt.isSome

/-- The counter objects of one row in COUNTER_SNAPSHOT, by unit and sub-index. -/
def snapshotRow (st : Store) (d : ObjDef) : Bytes :=
  if d.kind ≠ .counter then [] else
  (List.range d.units).flatMap (fun u => (List.range d.subs).flatMap (fun i =>
    let key := d.key + 256 * u + i
    let v := encodeVal d.typ (st.val key d.dflt)
    be 3 key ++ be 1 v.length ++ v))

/-- COUNTER_SNAPSHOT: every counter object with its length and value, then the internal pairs' (0x7000:01, R399). -/
def snapshotBytes (s : State) : Bytes :=
  match s.dict.counters with
  | none => []
  | some st => objTable.flatMap (snapshotRow st) ++
    (List.range 17).flatMap (fun i => be 3 (Config.internalCounterKey i) ++ be 1 4 ++ be 4 (Map.getD s.host.internal i {}).discards)

/-- What COUNTER_SNAPSHOT takes at a frame boundary: the store, with the counters that are kept elsewhere. -/
def counterStore (s : State) : Store :=
  ((s.objs.put O.eventOverwritten.key (.int s.log.overwritten)).put O.bootCount.key (.int s.nvm.bootCount)).put O.lcChangeCount.key (.int s.nvm.lcCount)

/-- Dictionary, twin, root, mailbox, life-cycle, update and supply objects computed at the read. -/
def readHub (s : State) (key : Nat) : Option Val :=
  let sub := key % 256
  match key / 256 with
  | 0x1100 =>
    (match sub with
     | 0x02 => natVal s.nvm.bootCount
     | 0x05 => natVal s.log.nextSeq
     | 0x06 => some (.bytes (eventLogBytes s.log))
     | 0x07 => natVal s.log.overwritten
     | 0x08 => some (.bytes (s.twine.violations.reverse.flatMap violationBytes))
     | _ => none)
  | 0x1200 =>
    (match sub with
     | 0x03 => natVal (storeStateObj s)
     | 0x05 => natVal s.dict.pend.length
     | 0x06 => some (.bytes (pendingListBytes s.dict.pend))
     | 0x08 => natVal (s.dict.sessions.filter (·.live)).length
     | _ => none)
  | 0x1400 =>
    (match sub with
     | 0x01 => natVal s.nvm.lc
     | 0x03 => some (.bytes (s.nvm.keyHash0.getD []))
     | 0x04 => some (.bytes (s.nvm.keyHash1.getD []))
     | 0x05 => natVal (keyStateObj s.nvm)
     | 0x06 => natVal 0xFF
     | 0x09 => natVal (b2n (Nat.beq s.nvm.lc 3))
     | 0x0A => natVal s.nvm.lcCount
     | _ => none)
  | 0x1800 =>
    (match sub with
     | 0x0A => natVal s.nvm.pointer.active
     | 0x0B => some (.bytes (slotInfoBytes s.nvm.slotA ++ slotInfoBytes s.nvm.slotB))
     | _ => none)
  | 0x2000 =>
    (match sub with
     | 0x01 => natVal (supplyStateObj s)
     | 0x09 => some (.bytes (pmbusData s))
     | 0x11 => natVal (domainStateObj s)
     | 0x23 => natVal (thermalStateObj s)
     | _ => none)
  | 0x2100 => natVal (islandFreq s (sub - 1))
  | 0x2200 =>
    (match sub with
     | 0x07 => natVal (twinStateObj s)
     | 0x08 => natVal (ownClaim s)
     | 0x09 => natVal (s.twin.partner.getD 0)
     | 0x0A => natVal (b2n s.twin.strap)
     | _ => none)
  | 0x6000 =>
    (match sub with
     | 0x01 => natVal (b2n (rootHeld s.objs))
     | 0x03 => natVal s.root.segment.length
     | 0x11 => some (.bytes (match s.root.result with | some r => r.bytes | none => []))
     | 0x12 => natVal (dirStateObj s)
     | 0x32 => some (.bytes (match s.root.act with | some a => actResultOf a | none => s.root.actResult))
     | _ => none)
  | 0x7000 => some (.bytes (snapshotBytes s))
  | idx =>
    if Nat.ble 0x2400 idx && Nat.ble idx 0x2403 then
      (match sub with
       | 0x01 => natVal (s.mbStatus (idx - 0x2400))
       | 0x02 => natVal (s.mailbox (idx - 0x2400)).hostEpoch
       | 0x07 => natVal (s.nat O.wrongPageCount)
       | _ => none)
    else none

/-! ### Reading an object -/

/-- The value that a read of an object returns: settings in force, computed status, 0 or nothing for commands and requests. -/
def readVal (s : State) (d : ObjDef) (key : Nat) : Val :=
  let derived := if Nat.ble 0x400000 key && Nat.blt key 0x500000 || Nat.ble 0x580000 key && Nat.blt key 0x5A0000 then readPath s key
    else if Nat.ble 0x500000 key && Nat.blt key 0x580000 || Nat.ble 0x280000 key && Nat.blt key 0x2A0000 then readStores s key
    else if Nat.ble 0x300000 key && Nat.blt key 0x390000 then readLinks s key
    else readHub s key
  derived.getD (s.objs.val key d.dflt)

/-- What some reads do before the value is taken: counts that nothing in the spec fixes are drawn (R307, R406). -/
def beforeRead (s : State) (key : Nat) : State :=
  let l := key / 256 - 0x3400
  if names O.testErrCount 24 key || names O.testBits 24 key then (if checkerRuns s l then sampleChecker s l else s)
  else if Nat.beq key O.updProgress.key && Nat.beq (s.nat O.updState) 2 then
    (let f := s.freshNat
     f.2.put O.updProgress 0 (f.1 % 2 ^ 32))
  else s

/-- What some reads do afterwards: DRAFT_STATE[4] tells of the time since the last read (Table 7.7). -/
def afterRead (s : State) (key : Nat) : State :=
  match unitOf O.draftState 512 key with
  | some ch => match Map.find? s.draft.chains ch with
    | some c => { s with draft := { s.draft with chains := Map.set s.draft.chains ch { c with clipSeen := false } } }
    | none => s
  | none => s

/-- The bytes of an object at a read. -/
def readBytes (s : State) (d : ObjDef) (key : Nat) : Bytes := encodeVal d.typ (readVal s d key)

end Sys2Proof.Machine
end

