-- ==== Sys2Proof/Machine/Apply.lean ====
section
/-! DEFINITION. What an accepted write does when it takes effect: the value stored and logged (R24, R337 to R339), what each
setting's chapter attaches to it, and the actions of commands and requests. -/

namespace Sys2Proof.Machine

/-! ### Storing and logging (R24, R337) -/

/-- The row of a key. -/
def rowOf (key : Nat) : Option ObjDef := findObj (key / 256) (key % 256)

/-- The kind of a key's object. -/
def kindOf (key : Nat) : Kind := match rowOf key with | some d => d.kind | none => .status

/-- The first 8 bytes of a value as the event log holds them: zeros for keys, whose values are not recorded (Table 17.10, R416). -/
def loggedValue (key : Nat) (v : Val) : Bytes :=
  if Nat.beq key O.kRoot.key || Nat.beq key O.kShost.key || Nat.beq key O.keyHash0.key || Nat.beq key O.keyHash1.key then zeros 8
  else match rowOf key with
    | some d => (encodeVal d.typ v).take 8
    | none => []

/-- Log a write at the grid time at which it took effect (R24, R339). -/
def logWrite (t : Nat) (s : State) (w : PendWrite) : State :=
  s.evAt (if kindOf w.key = .command then Ev.commandApplied else Ev.writeApplied) 0xFF t 0 (be 3 w.key ++ be 1 w.principal ++ loggedValue w.key w.val)

/-- A user set of a converter path. -/
def isUserSet (key : Nat) : Bool := inArea key 0x4300 65 [0x32, 0x33, 0x34, 0x35, 0x36, 0x37, 0x38, 0x39]

/-- The value that a write in force at `t` leaves: a user set carries its time (R104). -/
def inForce (t : Nat) (w : PendWrite) : Val := if isUserSet w.key then .bytes (userSetWritten w.val.toBytes t) else w.val

/-- Put settings in force in order of acceptance and log every write (R339). -/
def putWrite (t : Nat) (s : State) (w : PendWrite) : State :=
  logWrite t (if kindOf w.key = .setting then s.putK w.key (inForce t w) else s) w

/-! ### What a setting's change does besides -/

/-- EXC_MODE or EXC_VOLTAGE of creel `k` (R69, R75). -/
def excHook (before : Store) (t : Nat) (keys : List Nat) (s : State) (k : Nat) : State :=
  let mode := keys.contains (O.excMode.at k)
  if mode || keys.contains (O.excVoltage.at k) then refillHolds s t (excWritten s k t (before.nat O.excMode k) (before.nat O.excVoltage k) mode) else s

/-- A converter's previous codes no longer count (R92). -/
def forgetCodes (s : State) (c : Nat) : State :=
  { s with samp := { s.samp with prevCode := s.samp.prevCode.filter (fun x => !Nat.beq (creelOf x.1) c) } }

/-- SEQ_REGULAR or SEQ_INJECTED of converter `c` at t0 (R88). -/
def seqHook (t : Nat) (keys : List Nat) (s : State) (c : Nat) : State :=
  let reg := keys.contains (O.seqRegular.at c)
  if reg || keys.contains (O.seqInjected.at c) then
    let s := if reg then forgetCodes (s.put O.seqEffective c t) c else s
    let s := match (s.injector c).run with | some r => finishInj c (Map.getD s.samp.injRecords c []).length (endRun s c t r true) | none => s
    wbAbort s c
  else s

/-- INTERLEAVE of an even converter at t0 (R96). -/
def pairHook (before : Store) (t : Nat) (keys : List Nat) (s : State) (m : Nat) : State :=
  let c := 2 * m
  if keys.contains (O.interleave.at c) && (before.bool O.interleave c != s.bool O.interleave c) then
    let s := forgetCodes (forgetCodes s c) (c + 1)
    if s.bool O.interleave c then s else (s.put O.seqEffective c t).put O.seqEffective (c + 1) t
  else s

/-- A comparator object is written: its comparator begins anew (R208); a new tap masks it for 10 µs (R60). -/
def watchHook (before : Store) (t : Nat) (keys : List Nat) (s : State) (k : Nat) : State :=
  let tap := keys.contains (O.watchTap.at k)
  let comp := keys.contains (O.compThresh.at k) || keys.contains (O.compHyst.at k) || keys.contains (O.compBlank.at k)
  if tap || comp then
    let s : State := if comp then { s with trig := { s.trig with watch := Map.set s.trig.watch k { Map.getD s.trig.watch k {} with wrote := some t } } } else s
    if tap && !Nat.beq (before.nat O.watchTap k) (s.nat O.watchTap k) then s.setCreel k { s.creel k with watchMask := t + 6400 } else s
  else s

/-- A trigger unit's settings change at `t`: what it has gathered towards its next event does not count for events from then on; holdoff
runs on. -/
def unitHook (t : Nat) (keys : List Nat) (s : State) (u : Nat) : State :=
  if [O.trigSource, O.trigSelect, O.crossLevel, O.crossHyst, O.timeStart, O.timePeriod].any (fun r => keys.contains (r.at u)) then
    s.setUnit u { s.unit u with clears := (s.unit u).clears ++ [t], lastDue := none }
  else s

/-- Hanks that are wiped and usable, under the present BOBBIN_STORE (R253). -/
def refreshUsable (s : State) : State :=
  let u := min (storeHanks s.objs) ((s.nat O.wipeDone - 512) * 64)
  let s : State := { s.put O.storeUsable 0 u with bob := { s.bob with usable := u } }
  s.each (s.bob.bobbins.map (·.1)) shrinkBobbin

/-- A user set has been written or loaded (R104, R108). -/
def userSetHook (t : Nat) (s : State) (key : Nat) : State :=
  calSetChanged s (if Nat.beq (key / 256) 0x4340 then 32 else key / 256 - 0x4300) t

/-- What one hub-wide setting's write does at `t`. -/
def hubHook (before : Store) (t : Nat) (s : State) (key : Nat) : State :=
  if names O.srcMap 3 key then
    (let x := key / 256 - 0x3001
     if Nat.beq (srcOf before x) (srcOf s.objs x) then s else srcMapChanged s x)
  else if Nat.beq key O.twinEnable.key then (if before.bool O.twinEnable == s.bool O.twinEnable then s else twinEnableWritten s)
  else if Nat.beq key O.twinPriority.key then evalStages s
  else if Nat.beq key O.domainCtrl.key then domainChanged s t (before.nat O.domainCtrl)
  else if Nat.beq key O.dramSpeed.key then dramSpeedChanged s (s.nat O.dramSpeed)
  else if Nat.beq key O.tempSource.key then (if Nat.beq (s.nat O.tempSource) 0 then s.put O.dramTemp 0 0x7FFF else s)
  else if Nat.beq key O.pmbusDevices.key then pmbusListed s
  else if Nat.beq key O.gmEnable.key || Nat.beq key O.priority1.key || Nat.beq key O.priority2.key then selectGm s
  else if Nat.beq key O.scheduleWest.key || Nat.beq key O.scheduleEast.key || Nat.beq key O.scheduleUplink.key then s.put O.schedEffective 0 t
  else if Nat.beq key O.bobbinStore.key then refreshUsable s
  else if Nat.beq key O.rootId.key || Nat.beq key O.rootPort.key || names O.reelSend 16 key then trunkReader s
  else if Nat.beq key O.calrefCert.key then { s with cal := { s.cal with noRef := false, tempCond := false } }
  else if Nat.beq key O.ppsOutEnable.key && !s.bool O.ppsOutEnable then { s with time := { s.time with ppsFall := none } }
  else if names O.laneAdmin 24 key then
    laneAdminWritten s (key / 256 - 0x3400) (before.nat O.laneAdmin (key / 256 - 0x3400)) (s.nat O.laneAdmin (key / 256 - 0x3400))
  else if names O.maxSpeed 24 key then maxSpeedWritten s (key / 256 - 0x3400)
  else if names O.laneTest 24 key then laneTestWritten s (key / 256 - 0x3400)
  else s

/-- What one setting of the sampling path's write does at `t`. -/
def pathHook (before : Store) (t : Nat) (s : State) (key : Nat) : State :=
  let idx := key / 256
  if names O.redSelect 512 key then redSelectWritten s (idx - 0x4000) t
  else if names O.redProfile 64 key then redProfileWritten s (idx - 0x5200) t
  else if names O.bobbinMode 512 key then
    (let ch := idx - 0x4000
     let old := before.nat O.bobbinMode ch
     let new := s.nat O.bobbinMode ch
     if Nat.beq old new then s else bobbinModeChanged (if Nat.beq new 0 then closeAll s ch else s) ch t old new)
  else if names O.bobbinHanks 512 key then shrinkBobbin s (idx - 0x4000)
  else if names O.reelMode 16 key then
    (if Nat.beq (before.nat O.reelMode (idx - 0x5100)) (s.nat O.reelMode (idx - 0x5100)) then s else reelModeChanged s (idx - 0x5100) t)
  else if names O.reelAlloc 16 key then { s with dram := { s.dram with extents := (placeExtents s.objs s.dram.extents).getD s.dram.extents } }
  else if names O.maskMode 16 key then
    (if Nat.beq (before.nat O.maskMode (idx - 0x5400)) (s.nat O.maskMode (idx - 0x5400)) then s else
       let y := s.mask (idx - 0x5400)
       s.setMask (idx - 0x5400) { y with clears := y.clears ++ [t] })
  else if isUserSet key then userSetHook t s key
  else s

/-- A channel's captures end when its entry changes, in output format also when its profile or interval does (R221). -/
def captureHook (t : Nat) (old : Map Plan) (s : State) (ch : Nat) : State :=
  match Map.find? old ch, Map.find? s.draft.plans ch with
  | some a, some b =>
    if a.entry ≠ b.entry ∨ a.delta ≠ b.delta ∨ a.d ≠ b.d then endCaptures s ch t false
    else if a.profSel ≠ b.profSel ∨ a.profile ≠ b.profile then endCaptures s ch t true else s
  | none, none => s
  | _, _ => endCaptures s ch t false

/-- Objects that enter a channel's plan (R145). -/
def planKey (key : Nat) : Bool := rateKey key || inArea key 0x4800 512 [3, 4, 5, 6, 7, 8] || inArea key 0x4300 32 [3, 4]

/-- Plans at `t`, and the captures that their change ends (R145, R221). -/
def planHook (t : Nat) (keys : List Nat) (force : Nat → Bool) (s : State) : State :=
  let old := s.draft.plans
  let s := replanAll s t force
  let s := if keys.any planKey then s.each (List.range 512) (captureHook t old) else s
  s

/-- Objects that decide which reference buffers are on (R71). -/
def bufferKey (key : Nat) : Bool :=
  inArea key 0x4400 32 [1, 2] || inArea key 0x4300 65 [0x02, 0x04, 0x10] || Nat.beq key O.domainCtrl.key

/-- REARM_EFF of a reel as its settings give it (R220). -/
def refreshRearm (s : State) (r : Nat) : State :=
  if Nat.beq (s.nat O.rearmEff r) (rearmEffOf s.objs r) then s else s.put O.rearmEff r (rearmEffOf s.objs r)

/-- Everything that settings written at `t` do besides taking their values: `before` is the store before them, `force` names the
channels that a DRAFT_CLEAR of the same boundary clears. -/
def settingHooks (before : Store) (t : Nat) (keys : List Nat) (force : Nat → Bool) (clears : Bool) (s : State) : State :=
  let within := fun (lo n : Nat) => keys.any (fun k => Nat.ble lo (k / 256) && Nat.blt (k / 256) (lo + n))
  let s := notePast before t keys s
  let s := if within 0x4600 32 then s.each (List.range 32) (excHook before t keys) else s
  let s := s.each keys (hubHook before t)
  let s := s.each keys (pathHook before t)
  let s := if within 0x4400 32 then s.each (List.range 32) (seqHook t keys) else s
  let s := if within 0x4000 512 || within 0x4600 32 then s.each (List.range 32) (wbPrune t) else s
  let s := if within 0x4300 32 then s.each (List.range 16) (pairHook before t keys) else s
  let s := if within 0x4200 32 then s.each (List.range 32) (watchHook before t keys) else s
  let s := if within 0x5000 64 then s.each (List.range 64) (unitHook t keys) else s
  let s := if keys.any bufferKey then s.each (List.range 33) (fun s c => refillHolds s t (refreshBuffers s c t)) else s
  let s := if clears || keys.any planKey then planHook t keys force s else s
  let s := if keys.any (fun k => inArea k 0x4000 512 [2, 3] || names O.excCheck 32 k) then s.each (s.draft.delay.map (·.1)) (releaseDelay {}) else s
  if within 0x5100 16 then s.each (List.range 16) refreshRearm else s

/-! ### Commands and requests -/

/-- A copy of every setting that is kept, and of the ones whose default depends on the machine (R348). -/
def settingsOf (s : State) : Store :=
  let st := s.objs.filter (fun x => kindOf x.1 = .setting)
  let st := Store.put st O.bobbinStore.key (.int (storeMiB s.objs))
  (List.range 4).foldl (fun st i => Store.put st (O.hashWindowNext.key + i) (.bytes (hashNext s.objs i))) st

/-- The objects that RESTORE_DEFAULTS keeps, from the newer valid copy (R349). -/
def keptByRestore (n : NvmState) : Store :=
  match n.newerCopy with
  | none => []
  | some c => c.objs.filter (fun x => [O.hubIdNext.key, O.ethertypeNext.key, O.geometryNext.key, O.grainNext.key, O.rootRoleNext.key].contains x.1
      || (Nat.ble O.hashWindowNext.key x.1 && Nat.blt x.1 (O.hashWindowNext.key + 4)))

/-- Commands of the hub as a whole, at `t`. -/
def hubCommand (t : Nat) (w : PendWrite) (s : State) : State :=
  let n := w.val.toInt.toNat
  if Nat.beq w.key O.fullReset.key then s.setPwr (fun p => { p with resetCause := some 5 })
  else if Nat.beq w.key O.coreRestart.key then (if inRestart s then s else coreRestartBegin s false true)
  else if Nat.beq w.key O.portReset.key then portResetNow s n
  else if Nat.beq w.key O.sleepReq.key then s.setPwr (fun p => { p with sleepDue := some { ts := t, thermal := false } })
  else if Nat.beq w.key O.reepoch.key then (if w.timed then s else reepochAccept s none)
  else if Nat.beq w.key O.syncCmd.key then syncRequest s (if w.timed then t else nextFrame t) false
  else if Nat.beq w.key O.calStart.key then (if s.cal.sweep.isSome then s else calStartAt s (if w.timed then t else nextFrame t))
  else if Nat.beq w.key O.switchOver.key then switchOverAt s t
  else if Nat.beq w.key O.store.key then { s with dict := { s.dict with storeAt := some (nextFrame t, false) } }
  else if Nat.beq w.key O.restoreDefaults.key then
    { s with dict := { s.dict with storeAt := some (t, true), storing := some (keptByRestore s.nvm) } }
  else if Nat.beq w.key O.updActivate.key then activateAt s t
  else if Nat.beq w.key O.updConfirm.key then confirmUpdate s
  else if Nat.beq w.key O.updReject.key then (if Nat.beq (s.nat O.updState) 5 then rollback s t true else s)
  else if Nat.beq w.key O.updAbort.key then updAbortNow s
  else s

/-- Requests and security objects, at `t`. -/
def hubRequest (t : Nat) (w : PendWrite) (s : State) : State :=
  let b := w.val.toBytes
  let n := w.val.toInt.toNat
  if Nat.beq w.key O.windowReq.key then windowBegin s b
  else if Nat.beq w.key O.relayAck.key then relayAck s b
  else if Nat.beq w.key O.dirQuery.key then queryBegin s b
  else if Nat.beq w.key O.retroJob.key then (if retroAborts b then retroAbort s else retroBegin s b)
  else if Nat.beq w.key O.actJob.key then actBegin s b
  else if Nat.beq w.key O.updManifest.key then manifestAccept s b
  else if Nat.beq w.key O.updPayload.key then payloadAccept s
  else if Nat.beq w.key O.revokeKey.key then revokeKey s n
  else if Nat.beq w.key O.keyHash0.key then programKey s 0 b
  else if Nat.beq w.key O.keyHash1.key then programKey s 1 b
  else if Nat.beq w.key O.kRoot.key then sessionKeyAt s true b
  else if Nat.beq w.key O.kShost.key then sessionKeyAt s false b
  else if Nat.beq w.key O.lcRequest.key then lcChange s n
  else hubCommand t w s

/-- INJ_START of converter `c` at `t`: untimed starts depend on arrival (Table 5.4). -/
def injStartAt (t c : Nat) (timed : Bool) (s : State) : State :=
  if timed then injRequest s c (t * 65536) { cause := 3, source := 0, late := false, start := slotAtOrAfterFine (t * 65536), queued := false }
  else injRequest s c (t * 65536) { cause := 2, source := 0, late := true, start := injBoundaryNow t, queued := false }

/-- What a command or request does when it takes effect. -/
def commandAction (t : Nat) (s : State) (w : PendWrite) : State :=
  let idx := w.key / 256
  if kindOf w.key = .setting then s
  else if names O.injStart 32 w.key then injStartAt t (idx - 0x4400) w.timed s
  else if names O.reelArm 16 w.key then reelArmed s (idx - 0x5100) t
  else if names O.reelRelease 16 w.key then releaseReel s (idx - 0x5100)
  else if names O.bobbinDiscard 512 w.key then discardBobbin s (idx - 0x4000)
  else if names O.laneStepObj 24 w.key then laneStepWritten s (idx - 0x3400) w.val.toInt.toNat
  else hubRequest t w s

/-- Writes that take effect together at `t`, in order of acceptance (R339): settings first take their values, then act, then
commands act. -/
def applyWrites (t : Nat) (ws : List PendWrite) (s : State) : State :=
  if ws.isEmpty then s else
  let before := s.objs
  let s := s.each ws (putWrite t)
  let keys := (ws.filter (fun w => kindOf w.key = .setting)).map (·.key)
  let cleared := (ws.filterMap (fun w => unitOf O.draftClear 512 w.key))
  let s := settingHooks before t keys (fun ch => cleared.contains ch) (!cleared.isEmpty) s
  s.each ws (commandAction t)

end Sys2Proof.Machine
end

