-- ==== Sys2Proof/Machine/Dict.lean ====
section
/-! DEFINITION. The dictionary's checks and transfers (R333 to R347): a write on every configuration that it meets (R341), pending
writes (R338 to R340), segmented transfers and snapshots (R343, R344), batches (R345). -/

namespace Sys2Proof.Machine

/-! ### New writes and the configurations they meet (R341) -/

/-- A write that has passed steps 2 to 4: its object, key and value. -/
structure NewWrite where
  d : ObjDef
  key : Nat
  val : Val
  deriving DecidableEq, Repr

/-- Put a setting into a configuration; commands, requests and security objects are no part of it. -/
def putConf (st : Store) (key : Nat) (v : Val) : Store :=
  if kindOf key = .setting then
    st.put key (if inArea key 0x4300 65 [0x32, 0x33, 0x34, 0x35, 0x36, 0x37, 0x38, 0x39] then .bytes (userSetWritten v.toBytes 0) else v)
  else st

/-- The configuration in force at `at_`, with the new writes in force from `te` on (R341). -/
def confAt (s : State) (news : List NewWrite) (te at_ : Nat) : Store :=
  let due := inOrderOfT (s.dict.pend.filter (fun w => Nat.ble w.t at_))
  let put := fun (st : Store) (l : List PendWrite) => l.foldl (fun st w => putConf st w.key w.val) st
  let st := put s.objs (due.filter (fun w => Nat.ble w.t te))
  let st := news.foldl (fun st n => putConf st n.key n.val) st
  put st (due.filter (fun w => Nat.blt te w.t))

/-- The effect times after `te` at which pending writes change the configuration. -/
def laterTimes (s : State) (te : Nat) : List Nat :=
  ((inOrderOfT (s.dict.pend.filter (fun w => Nat.blt te w.t))).map (·.t)).eraseDups

/-- The new value still stands at `at_`: no pending write of the object has replaced it. -/
def stands (s : State) (te at_ : Nat) (n : NewWrite) : Bool :=
  !s.dict.pend.any (fun w => Nat.beq w.key n.key && Nat.blt te w.t && Nat.ble w.t at_)

/-- Steps 5 and 6 of the pending writes that fall due at `at_`. -/
def dueAbort (s : State) (base st : Store) (at_ : Nat) : Nat :=
  firstAbort ((s.dict.pend.filter (fun w => Nat.beq w.t at_ && kindOf w.key = .setting)).map (fun w =>
    match rowOf w.key with
    | some d => firstAbort [formatCheck s st d w.key w.val, configState s base st w.key w.val]
    | none => 0))

/-- A new write's format on every configuration in which it stands (step 5). -/
def formatAll (s : State) (news : List NewWrite) (te : Nat) (n : NewWrite) : Nat :=
  firstAbort ((te :: laterTimes s te).map (fun at_ => if stands s te at_ n then formatCheck s (confAt s news te at_) n.d n.key n.val else 0))

/-- What the configurations refuse of a new write (step 6). -/
def configAll (s : State) (news : List NewWrite) (te : Nat) (n : NewWrite) : Nat :=
  firstAbort ((te :: laterTimes s te).map (fun at_ =>
    if stands s te at_ n then configState s (confAt s [] te at_) (confAt s news te at_) n.key n.val else 0))

/-- Admission at every effect time (step 8, R341), and what it would do to pending writes. -/
def admitAll (s : State) (news : List NewWrite) (te : Nat) : Nat :=
  let keys := news.map (·.key)
  firstAbort ((te :: laterTimes s te).map (fun at_ =>
    let base := confAt s [] te at_
    let st := confAt s news te at_
    let due := (s.dict.pend.filter (fun w => Nat.beq w.t at_)).map (·.key)
    if Nat.beq at_ te then admitWrites s.dram.extents base st keys
    else firstAbort [dueAbort s base st at_, admitWrites s.dram.extents base st (keys ++ due)]))

/-- When an accepted write takes effect (Table 17.3). -/
def effectTime (s : State) (d : ObjDef) (timed : Option Nat) : Nat :=
  match timed with
  | some t => t
  | none => match d.commit with
    | some .frame => nextFrame s.now
    | _ => s.now

/-- The write waits for a boundary. -/
def waitsFor (d : ObjDef) (timed : Option Nat) : Bool := timed.isSome || d.commit = some .frame

/-- A pending write gives way to new ones: a further timed write of its object for the same T, or any further write of its profile for the
same t0 (R147, R340). -/
def replacedBy (s : State) (timed : Option Nat) (news : List NewWrite) (w : PendWrite) : Bool :=
  ((w.timed && timed.isSome) || isProfile w.key) &&
    news.any (fun n => waitsFor n.d timed && Nat.beq n.key w.key && Nat.beq (effectTime s n.d timed) w.t)

/-- Pending writes once new ones are in (R340): those they replace no longer count. -/
def pendingAfter (s : State) (news : List NewWrite) (timed : Option Nat) : Nat :=
  (s.dict.pend.filter (fun w => !replacedBy s timed news w)).length + news.length

/-- Step 8 for new writes that take effect at `te`. -/
def stepEight (s : State) (news : List NewWrite) (te : Nat) (timed : Option Nat) (waits : Bool) : Nat :=
  firstAbort
    [ abortIf (waits && Nat.blt 256 (pendingAfter s news timed)) 0x04000001,
      admitAll s news te,
      firstAbort (news.map (fun n => if Nat.beq n.key O.windowReq.key then windowAdmit s n.val.toBytes else 0)) ]

/-! ### Steps 2 to 7 (R336 to R340) -/

/-- Steps 2 and 3 of a write: existence and right; the row when both hold. -/
def writeRow (s : State) (idx sub : Nat) (p : Principal) : Nat × Option ObjDef :=
  if Nat.beq sub 0 then (if (highestSub idx).isSome then 0x01000001 else 0x01000002, none)
  else match findObj idx sub with
    | none => (0x01000002, none)
    | some d => if writeRight s d (idx * 256 + sub) p then (0, some d) else (0x01000001, none)

/-- Step 4 of a write: the length of an expedited transfer, then of the type. -/
def typeAbort (d : ObjDef) (b : Bytes) (expedited : Bool) : Nat :=
  if expedited && Nat.blt 8 b.length then 0x07000008 else abortIf (!lengthFits d.typ b) 0x02000002

/-- An IMMEDIATE object that accepts a timed transfer (R337). -/
def timedImmediate (key : Nat) : Bool :=
  names O.injStart 32 key || Nat.beq key O.calStart.key || Nat.beq key O.reepoch.key || Nat.beq key O.syncCmd.key

/-- Step 7: what the commit class refuses (Table 17.3). -/
def classAbort (d : ObjDef) (key : Nat) (timed : Option Nat) (batch : Bool) : Nat :=
  match d.commit with
  | some .stopped => if timed.isNone then 0 else if batch then 0x07000005 else 0x05000003
  | some .immediate => if timed.isSome && !timedImmediate key then 0x05000003 else 0
  | some .timed => abortIf timed.isNone 0x05000002
  | _ => 0

/-- Step 7: the stated time of a timed write, in the order of R338. -/
def timeAbort (s : State) (timed : Option Nat) : Nat :=
  match timed with
  | none => 0
  | some t =>
    if !s.gridOn then 0x05000004
    else if !Nat.beq (t % frameTicks) 0 then 0x05000010
    else if Nat.blt t (s.now + 1280000) then 0x05000001
    else abortIf (Nat.blt (s.now + 2304000000000) t) 0x05000005

/-- Steps 5 to 7 of one write among the new ones `news`; `repeated` says that an earlier entry of a batch names the object. -/
def fiveToSeven (s : State) (p : Principal) (timed : Option Nat) (batch repeated : Bool) (news : List NewWrite) (n : NewWrite) : Nat :=
  let te := effectTime s n.d timed
  firstAbort
    [ formatAll s news te n,
      abortIf repeated 0x03000010,
      machineState s n.d n.key n.val p timed,
      configAll s news te n,
      pendingClash s n.key timed te,
      classAbort n.d n.key timed batch,
      timeAbort s timed ]

/-! ### Acceptance -/

/-- What acceptance itself does for two timed commands: UPD_ACTIVATE arms, a timed REEPOCH holds its T_e (R176, R408). -/
def acceptHook (timed : Option Nat) (s : State) (w : PendWrite) : State :=
  if Nat.beq w.key O.updActivate.key then activateArm s
  else if Nat.beq w.key O.reepoch.key && timed.isSome then reepochAccept s timed
  else s

/-- Accept new writes: those that do not wait take effect now, the others join the pending writes, where a further timed write
for the same boundary replaces the one there (R337 to R340). A profile's replaced write is entered in the event log when it is
replaced, with the t0 that it had (R147, log entry 163). -/
def acceptWrites (s : State) (p : Principal) (timed : Option Nat) (batch : Nat) (news : List NewWrite) : State :=
  let mk := fun (i : Nat) (n : NewWrite) =>
    ({ t := effectTime s n.d timed, timed := timed.isSome, key := n.key, val := n.val, principal := Principal.code p, batch := batch,
       order := s.dict.order + i } : PendWrite)
  let ws := news.zipIdx.map (fun x => (waitsFor x.1.d timed, mk x.2 x.1))
  let waiting := (ws.filter (·.1)).map (·.2)
  let gone := s.dict.pend.filter (fun w => isProfile w.key && replacedBy s timed news w)
  let pend := s.dict.pend.filter (fun w => !replacedBy s timed news w)
  let s : State := { s with dict := { s.dict with pend := pend ++ waiting, order := s.dict.order + news.length } }
  let s := gone.foldl (fun s w => logWrite w.t s w) s
  let s := waiting.foldl (acceptHook timed) s
  applyWrites s.now ((ws.filter (fun x => !x.1)).map (·.2)) s

/-! ### Answers -/

/-- What a request comes to: ABORT, EFFECT and DATA of Table 17.5. -/
structure Answer where
  abort : Nat
  effect : Nat := 0
  data : Bytes := []
  deriving DecidableEq, Repr

/-- The response body (Table 17.5): EFFECT is 0 in a refusal and while the grid is not running. -/
def responseBody (s : State) (op idx sub : Nat) (a : Answer) : Bytes :=
  be 1 (128 + op % 128) ++ be 1 0 ++ be 2 idx ++ be 1 sub ++ be 1 0 ++ be 2 a.data.length ++ be 4 a.abort ++ be 4 0
    ++ be 8 (if Nat.beq a.abort 0 && s.gridOn then a.effect else 0) ++ a.data

/-- A write of one value whose steps 2 and 3 have passed (R336, R341). -/
def writeValue (s : State) (p : Principal) (timed : Option Nat) (d : ObjDef) (key : Nat) (b : Bytes) (expedited : Bool) : State × Answer :=
  let n : NewWrite := ⟨d, key, stored d key (decodeValue d.typ b)⟩
  let te := effectTime s d timed
  let a := if typeAbort d b expedited ≠ 0 then typeAbort d b expedited
    else
      let x := fiveToSeven s p timed false false [n] n
      if x ≠ 0 then x else stepEight s [n] te timed (waitsFor d timed)
  if a ≠ 0 then (s, { abort := a }) else (acceptWrites s p timed 0 [n], { abort := 0, effect := te })

/-- WRITE (R342). -/
def opWrite (s : State) (q : Req) (idx sub : Nat) : State × Answer :=
  match writeRow s idx sub q.principal with
  | (a, none) => (s, { abort := a })
  | (_, some d) => writeValue s q.principal q.timed d (idx * 256 + sub) q.data true

/-- Steps 2 and 3 of a read: the row, or none for sub-index 0, whose value is the highest sub-index (R333, R336). -/
def readRow (idx sub : Nat) (p : Principal) : Nat × Option ObjDef :=
  if Nat.beq sub 0 then (if (highestSub idx).isSome then 0 else 0x01000002, none)
  else match findObj idx sub with
    | none => (0x01000002, none)
    | some d => if readRight (idx * 256 + sub) p then (0, some d) else (0x01000003, none)

/-- The whole value of a readable object now. -/
def takeValue (s : State) (idx sub : Nat) (d : Option ObjDef) : Bytes :=
  match d with
  | some d => readBytes s d (idx * 256 + sub)
  | none => be 1 ((highestSub idx).getD 0)

/-- READ: values of up to 8 bytes (R342). -/
def opRead (s : State) (q : Req) (idx sub : Nat) : State × Answer :=
  let r := readRow idx sub q.principal
  if r.1 ≠ 0 then (s, { abort := r.1 }) else
  let key := idx * 256 + sub
  let s1 := beforeRead s key
  let b := takeValue s1 idx sub r.2
  if Nat.blt 8 b.length then (s, { abort := 0x07000008 })
  else (afterRead s1 key, { abort := 0, effect := s.gridTime, data := b })

/-! ### Segmented transfers (R343, R344) -/

/-- Who a transfer or snapshot belongs to: principal with its session, or mailbox channel (R343). -/
def ownerOf (q : Req) : Path × Nat :=
  (match q.path with | .twine _ src => .twine 0 src | .mailbox n => .mailbox n, q.session * 8 + Principal.code q.principal)

/-- The transfer of a requester and object. -/
def SegWrite.isOf (x : SegWrite) (o : Path × Nat) (key : Nat) : Bool := x.owner = o && Nat.beq x.key key

/-- Change the open transfers. -/
def State.setSegs (s : State) (l : List SegWrite) : State := { s with dict := { s.dict with segs := l } }

/-- SEG_WRITE into the dictionary's own staging: at most 8 transfers and 4 MiB between them (R343). -/
def stagePiece (s : State) (o : Path × Nat) (key : Nat) (x : SegFields) : State × Nat :=
  let rest := s.dict.segs.filter (fun y => !y.isOf o key)
  let own := match s.dict.segs.find? (fun y => y.isOf o key) with
    | some y => if Nat.beq y.total x.total then y else ⟨o, key, x.total, [], [], s.now⟩
    | none => ⟨o, key, x.total, [], [], s.now⟩
  if Nat.blt 8 (rest.length + 1) || Nat.blt 4194304 ((rest.map (·.total)).sum + x.total) then (s, 0x04000002)
  else if segOverruns x then (s.setSegs (rest ++ [{ own with last := s.now }]), 0x07000004)
  else
    let r := takePiece own.pieces own.held (x.off, x.blen, x.crc, x.poff, x.piece)
    (s.setSegs (rest ++ [{ own with pieces := r.1, held := r.2.1, last := s.now }]), r.2.2)

/-- SEG_WRITE (R343, R405). -/
def opSegWrite (s : State) (q : Req) (idx sub : Nat) : State × Answer :=
  if segWriteMalformed q.data then (s, { abort := 0x07000009 }) else
  match writeRow s idx sub q.principal with
  | (a, none) => (s, { abort := a })
  | (_, some _) =>
    if isBooting s then (s, { abort := 0x03000008 }) else
    let key := idx * 256 + sub
    let x := segFields q.data
    let r := if Nat.beq key O.updPayload.key then payloadPiece s x else stagePiece s (ownerOf q) key x
    (r.1, { abort := r.2, effect := s.gridTime })

/-- A request for a transfer keeps it open (R343). -/
def touchSegs (s : State) (q : Req) (key : Nat) : State :=
  s.setSegs (s.dict.segs.map (fun y => if y.isOf (ownerOf q) key then { y with last := s.now } else y))

/-- What the staging holds for a commit: TOTAL and the bytes held contiguously from offset 0. -/
def heldFor (s : State) (q : Req) (key : Nat) : Nat × Bytes :=
  if Nat.beq key O.updPayload.key then (payloadSize s, payloadHeld s)
  else match s.dict.segs.find? (fun y => y.isOf (ownerOf q) key) with
    | some y => (y.total, covered y.held y.total)
    | none => (0, [])

/-- SEG_COMMIT: TOTAL and CRC-32C of the whole value, then the checks of a write; the transfer ends when the write is accepted
(R343, R406). -/
def opSegCommit (s : State) (q : Req) (idx sub : Nat) : State × Answer :=
  if Nat.blt q.data.length 8 then (s, { abort := 0x07000009 }) else
  match writeRow s idx sub q.principal with
  | (a, none) => (s, { abort := a })
  | (_, some d) =>
    let key := idx * 256 + sub
    let s := touchSegs s q key
    let total := field q.data 0 4
    let h := heldFor s q key
    let upd := Nat.beq key O.updPayload.key
    if upd && !Nat.beq (payloadState s) 0 then (s, { abort := payloadState s })
    else if Nat.blt h.2.length total || Nat.blt h.2.length h.1 then (s, { abort := 0x07000003, data := be 4 h.2.length })
    else if !Nat.beq total h.1 || !Nat.beq (crc32c h.2) (field q.data 4 4) then (s, { abort := 0x07000007 })
    else
      let r := writeValue s q.principal q.timed d key h.2 false
      if Nat.beq r.2.abort 0 then (r.1.setSegs (r.1.dict.segs.filter (fun y => !y.isOf (ownerOf q) key)), r.2) else r

/-- SEG_STATUS: TOTAL, bytes held contiguously from 0, first missing offset (R343). -/
def opSegStatus (s : State) (q : Req) (idx sub : Nat) : State × Answer :=
  match writeRow s idx sub q.principal with
  | (a, none) => (s, { abort := a })
  | (_, some _) =>
    let key := idx * 256 + sub
    let h := heldFor s q key
    (touchSegs s q key, { abort := 0, effect := s.gridTime, data := be 4 h.1 ++ be 4 h.2.length ++ be 4 h.2.length })

/-- How far WINDOW_DATA and DIR_RESULT have been read (R265, R379). -/
def noteReached (s : State) (key upto : Nat) : State :=
  if Nat.beq key O.windowData.key then
    (match s.bob.window with
     | some w => if w.data.isNone then s else { s with bob := { s.bob with window := some { w with reached := max w.reached upto } } }
     | none => s)
  else if Nat.beq key O.dirResult.key then
    (match s.root.result with | some r => s.setRoot (fun x => { x with result := some { r with reached := max r.reached upto } }) | none => s)
  else s

/-- SEG_READ: a piece of the requester's snapshot of the object (R344). -/
def opSegRead (s : State) (q : Req) (idx sub : Nat) : State × Answer :=
  let off := field q.data 0 4
  let len := field q.data 4 4
  if Nat.blt q.data.length 8 || Nat.blt len 1 || Nat.blt 8160 len then (s, { abort := 0x07000009 }) else
  let r := readRow idx sub q.principal
  if r.1 ≠ 0 then (s, { abort := r.1 }) else
  let key := idx * 256 + sub
  let o := ownerOf q
  let mine := fun (x : Snapshot) => x.owner = o && Nat.beq x.key key
  let s1 := if s.dict.snaps.any mine then s else beforeRead s key
  let sn := (s.dict.snaps.find? mine).getD ⟨o, key, takeValue s1 idx sub r.2, 0, s.gridTime, s.now⟩
  let s2 := if s.dict.snaps.any mine then s else afterRead s1 key
  let piece := slice sn.value off len
  let upto := off + piece.length
  let ended := Nat.ble sn.value.length upto
  let rest := s2.dict.snaps.filter (fun x => !mine x)
  let sn' : Snapshot := { sn with reached := max sn.reached upto, last := s.now }
  let s3 : State := { s2 with dict := { s2.dict with snaps := if ended then rest else rest ++ [sn'] } }
  (noteReached s3 key upto,
   { abort := 0, effect := sn.taken, data := be 4 sn.value.length ++ be 4 (crc32c piece) ++ piece })

/-! ### Batches (R345) -/

/-- An entry of a batch: INDEX, SUB, value. -/
structure BatchEntry where
  idx : Nat
  sub : Nat
  val : Bytes
  deriving DecidableEq, Repr

/-- The entries of a batch's DATA after its count; `none` when an entry runs past the end or bytes are left over. -/
def batchEntries : Nat → Bytes → Option (List BatchEntry)
  | 0, b => if b.isEmpty then some [] else none
  | n + 1, b =>
    let len := field b 4 2
    let size := 8 + ceilDiv len 4 * 4
    if Nat.blt b.length size then none
    else (batchEntries n (b.drop size)).map (fun l => ⟨field b 0 2, field b 2 1, slice b 8 len⟩ :: l)

/-- A batch's DATA; `none` when it does not follow its layout (abort 0x0700_0009). -/
def decodeBatch (b : Bytes) : Option (List BatchEntry) :=
  let n := field b 0 1
  if Nat.blt b.length 4 || Nat.beq n 0 || Nat.blt 64 n then none else batchEntries n (b.drop 4)

/-- Steps 2 to 4 of an entry: its abort, and the write when they pass. -/
def entryWrite (s : State) (p : Principal) (e : BatchEntry) : Nat × Option NewWrite :=
  match writeRow s e.idx e.sub p with
  | (a, none) => (a, none)
  | (_, some d) =>
    let a := typeAbort d e.val false
    if a ≠ 0 then (a, none) else (0, some ⟨d, e.idx * 256 + e.sub, stored d (e.idx * 256 + e.sub) (decodeValue d.typ e.val)⟩)

/-- First pass: the first entry that fails and its abort. -/
def firstPass (s : State) (p : Principal) (timed : Option Nat) (news : List NewWrite) : Nat → List Nat → List (Nat × Option NewWrite) → Option (Nat × Nat)
  | _, _, [] => none
  | i, seen, (a, w) :: l =>
    match w with
    | none => some (i, a)
    | some n =>
      let x := fiveToSeven s p timed true (seen.contains n.key) news n
      if x ≠ 0 then some (i, x) else firstPass s p timed news (i + 1) (n.key :: seen) l

/-- Second pass: the whole batch passes, or the smallest prefix, in batch order, that fails admission, and its abort. -/
def secondPass (s : State) (te : Nat) (timed : Option Nat) (news : List NewWrite) : Option (Nat × Nat) :=
  if Nat.beq (stepEight s news te timed true) 0 then none
  else (List.range news.length).findSome? (fun i =>
    let a := stepEight s (news.take (i + 1)) te timed true
    if a ≠ 0 then some (i, a) else none)

/-- BATCH: all entries take effect at T as one unit, or none does (R345). -/
def opBatch (s : State) (q : Req) : State × Answer :=
  match decodeBatch q.data with
  | none => (s, { abort := 0x07000009 })
  | some es =>
    match q.timed with
    | none => (s, { abort := 0x05000002 })
    | some t =>
      let ws := es.map (entryWrite s q.principal)
      let news := (ws.filterMap (·.2)).filter (fun n => inRange n.d n.val)
      let fails := fun (x : Nat × Nat) => (s, { abort := x.2, data := be 1 x.1 : Answer })
      match firstPass s q.principal q.timed news 0 [] ws with
      | some x => fails x
      | none => match secondPass s t q.timed news with
        | some x => fails x
        | none =>
          let s' := acceptWrites s q.principal q.timed s.dict.batchNo news
          ({ s' with dict := { s'.dict with batchNo := s.dict.batchNo % (2 ^ 32 - 1) + 1 } }, { abort := 0, effect := t })

/-! ### CANCEL (R340) -/

/-- A pending write goes away on request: a re-epoch loses its T_e, an activation is disarmed (R176, R408). -/
def dropPending (s : State) (w : PendWrite) : State :=
  let s : State := { s with dict := { s.dict with pend := s.dict.pend.filter (fun x => !Nat.beq x.order w.order) } }
  let s : State := if Nat.beq w.key O.reepoch.key then { s with time := { s.time with reepochAt := none } } else s
  if Nat.beq w.key O.updActivate.key then disarmUpdate s else s

/-- CANCEL: removes the object's pending timed write; an untimed one lies less than two frames ahead, so it stays (R340). -/
def opCancel (s : State) (q : Req) (idx sub : Nat) : State × Answer :=
  match writeRow s idx sub q.principal with
  | (a, none) => (s, { abort := a })
  | (_, some _) =>
    let key := idx * 256 + sub
    if isBooting s then (s, { abort := 0x03000008 })
    else
      let mine := s.dict.pend.filter (fun w => Nat.beq w.key key)
      match mine.find? (·.timed) with
      | some w => if Nat.blt w.t (s.now + 1280000) then (s, { abort := 0x05000001 }) else (dropPending s w, { abort := 0, effect := s.gridTime })
      | none => (s, { abort := if mine.isEmpty then 0 else 0x05000001, effect := s.gridTime })

end Sys2Proof.Machine
end

