-- ==== Sys2Proof/Machine/Sessions.lean ====
section
/-! DEFINITION. Sessions, authentication and the paths on which requests reach the dictionary and responses leave it
(17_dictionary.md, R335, R342, R346, R347; R327, R394, R396, Table 16.12). -/

namespace Sys2Proof.Machine

/-- A request as the dictionary sees it: its fields, OP, INDEX, SUB, what the TAG covers (bytes 16 to 27 of the MGMT layout, then
BODY), and whether its DLEN disagrees with the body. -/
structure Ask where
  req : Req
  op : Nat
  idx : Nat
  sub : Nat
  cover : Bytes
  bad : Bool
  deriving DecidableEq, Repr

/-- PRINCIPAL by code (Table 17.2). -/
def principalOf (n : Nat) : Option Principal :=
  if n = 1 then some .root else if n = 2 then some .peer else if n = 3 then some .twin else if n = 4 then some .nsHost
  else if n = 5 then some .sHost else none

/-- A request read from bytes 16 on of the MGMT layout (Tables 16.8, 17.4, R394); none when its PRINCIPAL has no code or its
fixed fields are not all there. -/
def parseAsk (path : Path) (b : Bytes) : Option Ask :=
  if Nat.blt b.length 29 then none else
  (principalOf (field b 5 1)).map (fun p =>
    let body := b.drop 28
    let timed := bitOf (field body 1 1) 0
    { req := { path := path, principal := p, reqId := field b 0 4, session := field b 8 4, tag := slice b 12 16,
               timed := if timed then some (field body 8 8) else none, data := body.drop 16 },
      op := field body 0 1, idx := field body 2 2, sub := field body 4 1, cover := b.take 12 ++ body,
      bad := Nat.blt body.length 16 || !Nat.beq (field body 6 2) (body.length - 16) })

/-- Bytes 16 on of the MGMT layout of a request given by its fields. -/
def reqBytes (op idx sub : Nat) (q : Req) : Bytes :=
  be 4 q.reqId ++ be 1 0 ++ be 1 (Principal.code q.principal) ++ be 2 0 ++ be 4 q.session ++ fit 16 q.tag ++ requestBody op idx sub q.timed q.data

/-- The request of given fields. -/
def askOf (op idx sub : Nat) (q : Req) : Ask :=
  let b := reqBytes op idx sub q
  { req := q, op := op, idx := idx, sub := sub, cover := b.take 12 ++ b.drop 28, bad := false }

/-- BODY is longer than 8,192 bytes (R342). -/
def Ask.tooLong (a : Ask) : Bool := Nat.blt 8204 a.cover.length

/-- OP changes or may change something: what Table 16.12 calls a write. -/
def Ask.writes (a : Ask) : Bool := [2, 4, 5, 7, 8].contains a.op

/-! ### Sessions (R346, R347) -/

/-- What a session is bound to: the SRC, or the mailbox. -/
def bindingOf : Path → Path
  | .twine _ src => .twine 0 src
  | .mailbox n => .mailbox n

/-- The session that a request names, if it is bound to its path and principal. -/
def namedSession (s : State) (a : Ask) : Option Session :=
  s.dict.sessions.find? (fun x => Nat.beq x.id a.req.session && x.principal == a.req.principal && x.path == bindingOf a.req.path)

/-- TAG of what it covers under a session key (R347). -/
def tagOf (key cover : Bytes) : Bytes := (hmac key cover).take 16

/-- The request's REQ_ID does not rise (R347). -/
def replayed (x : Session) (a : Ask) : Bool := match x.lastReq with | some r => Nat.ble a.req.reqId r | none => false

/-- Session, TAG and REQ_ID of a request that needs a session: the abort, 0 when they hold, and the session (R347).  Only
SESSION_PROVE may name a session that is not live. -/
def sessionCheck (s : State) (a : Ask) : Nat × Option Session :=
  match namedSession s a with
  | none => (0x06000001, none)
  | some x =>
    if !x.live && !Nat.beq a.op 10 then (0x06000001, none)
    else if !(a.req.tag == tagOf x.key a.cover) then (0x06000002, some x)
    else if replayed x a then (0x06000003, some x)
    else (0, some x)

/-- SESSION 0 and a zero TAG. -/
def Ask.bare (a : Ask) : Bool := Nat.beq a.req.session 0 && a.req.tag == zeros 16

/-- Step 1 of R336 on mailbox `n` (R335, R347, R394). -/
def mailboxAuth (s : State) (n : Fin 4) (a : Ask) : Nat × Option Session :=
  if Nat.blt n.val 2 then (if a.req.principal == .nsHost && a.bare then 0 else 0x06000001, none)
  else if !(a.req.principal == .sHost) then (0x06000001, none)
  else if Nat.beq a.op 9 then (if a.bare then 0 else 0x06000001, none)
  else sessionCheck s a

/-- Step 1 over Twine: the reason of the NAK, 0 when the request is authentic (R327, R335, R347). -/
def twineAuth (s : State) (port : Nat) (a : Ask) : Nat × Option Session :=
  match a.req.principal with
  | .nsHost => (1, none)
  | .sHost => (1, none)
  | .peer => (if a.bare then 0 else 8, none)
  | .twin => (if Nat.beq port 19 then 0 else 8, none)
  | .root =>
    if Nat.beq port 19 then (8, none) else
    let r := sessionCheck s a
    (if Nat.beq r.1 0 then 0 else 8, r.2)

/-- The live sessions. -/
def liveSessions (s : State) : List Session := s.dict.sessions.filter (·.live)

/-- Change the sessions. -/
def State.setSessions (s : State) (l : List Session) : State := { s with dict := { s.dict with sessions := l } }

/-- A session's last request (R347). -/
def noteRequest (s : State) (a : Ask) (x : Option Session) : State :=
  match x with
  | none => s
  | some x => s.setSessions (s.dict.sessions.map (fun y => if Nat.beq y.id x.id then { y with lastReq := some a.req.reqId, last := s.now } else y))

/-- The key K of the principal that a SESSION_OPEN wants, when its path may have it and it is provisioned (R346, R413). -/
def wantedKey (s : State) (q : Req) : Option (Principal × Bytes) :=
  let want := field q.data 0 1
  if q.principal == .peer && Nat.beq want 1 then s.nvm.kRoot.map (fun k => (.root, k))
  else if q.principal == .sHost && Nat.beq want 5 then s.nvm.kShost.map (fun k => (.sHost, k))
  else none

/-- A SESSION that is not 0 and not in use, from a free number. -/
def freshId (used : List Nat) (c : Nat) : Nat :=
  ((List.range (used.length + 1)).map (fun k => (c + k) % (2 ^ 32 - 1) + 1)).find? (fun i => !used.contains i) |>.getD 1

/-- SESSION_OPEN (R346): SESSION and Nh are free. -/
def opSessionOpen (s : State) (q : Req) : State × Answer :=
  if !(q.principal == .peer || q.principal == .sHost) then (s, { abort := 0x06000001 })
  else if !Nat.beq q.data.length 17 then (s, { abort := 0x07000009 })
  else match wantedKey s q with
    | none => (s, { abort := 0x06000005 })
    | some (p, k) =>
      if Nat.ble 16 (liveSessions s).length then (s, { abort := 0x06000004 }) else
      let n := s.freshNat
      let h := n.2.freshBytes 16
      let id := freshId (s.dict.sessions.map (·.id)) n.1
      let x : Session := { id := id, principal := p, path := bindingOf q.path, key := hmac k (q.data.drop 1 ++ h.1 ++ be 4 id), live := false,
                           lastReq := none, last := s.now }
      (h.2.setSessions (s.dict.sessions ++ [x]), { abort := 0, effect := s.gridTime, data := be 4 id ++ h.1 })

/-- SESSION_PROVE: the session whose TAG was accepted becomes live; at most 16 are (R346, R347). -/
def opSessionProve (s : State) (x : Option Session) : State × Answer :=
  match x with
  | none => (s, { abort := 0x06000001 })
  | some x =>
    if !x.live && Nat.ble 16 (liveSessions s).length then (s, { abort := 0x06000004 })
    else (s.setSessions (s.dict.sessions.map (fun y => if Nat.beq y.id x.id then { y with live := true } else y)),
          { abort := 0, effect := s.gridTime })

/-- SESSION_CLOSE (R347). -/
def opSessionClose (s : State) (x : Option Session) : State × Answer :=
  match x with
  | none => (s, { abort := 0x06000001 })
  | some x => (s.setSessions (s.dict.sessions.filter (fun y => !Nat.beq y.id x.id)), { abort := 0, effect := s.gridTime })

/-! ### Serving a request -/

/-- The operations of Table 17.4. -/
def runOp (s : State) (a : Ask) (x : Option Session) : State × Answer :=
  let q := a.req
  if Nat.beq a.op 0 || Nat.blt 11 a.op then (s, { abort := 0x07000001 })
  else if a.bad then (s, { abort := 0x07000009 })
  else if Nat.beq a.op 1 then opRead s q a.idx a.sub
  else if Nat.beq a.op 2 then opWrite s q a.idx a.sub
  else if Nat.beq a.op 3 then opSegRead s q a.idx a.sub
  else if Nat.beq a.op 4 then opSegWrite s q a.idx a.sub
  else if Nat.beq a.op 5 then opSegCommit s q a.idx a.sub
  else if Nat.beq a.op 6 then opSegStatus s q a.idx a.sub
  else if Nat.beq a.op 7 then opBatch s q
  else if Nat.beq a.op 8 then opCancel s q a.idx a.sub
  else if Nat.beq a.op 9 then opSessionOpen s q
  else if Nat.beq a.op 10 then opSessionProve s x
  else opSessionClose s x

/-- Bytes 16 on of the MGMT layout of a response; within a session it carries the hub's TAG (R327, R347). -/
def askAnswer (s : State) (a : Ask) (x : Option Session) (r : Answer) : Bytes :=
  mgmtBytes a.req.reqId 1 (Principal.code a.req.principal) a.req.session (x.map (·.key)) (responseBody s a.op a.idx a.sub r)

/-- An authentic request is carried out; the answer is its response. -/
def serveAsk (s : State) (a : Ask) (x : Option Session) : State × Bytes :=
  let r := runOp (noteRequest s a x) a x
  (r.1, askAnswer r.1 a x r.2)

/-- A response joins the ones that wait at a mailbox (R396). -/
def queueResponse (s : State) (n : Nat) (b : Bytes) : State :=
  let m := s.mailbox n
  s.setMailbox n { m with responses := m.responses ++ [b] }

/-- A request that has been read from mailbox `n` is answered (R342, R394, R396). -/
def serveMailbox (s : State) (n : Fin 4) (a : Ask) : State :=
  if !s.mbServed then s
  else if a.tooLong then queueResponse s n.val (askAnswer s a none { abort := 0x07000006 })
  else
    let g := mailboxAuth s n a
    if g.1 ≠ 0 then queueResponse s n.val (askAnswer s a g.2 { abort := g.1 })
    else
      let r := serveAsk s a g.2
      queueResponse r.1 n.val r.2

/-- Send a response to the request's SRC (R327); without a SRC, or on port 19, it leaves on the port of the request. -/
def sendResponse (s : State) (port src : Nat) (b : Bytes) : State :=
  let h : TwineHead := { kind := 4, dest := src % 16384, cls := 1 }
  if Nat.beq port 19 || Nat.ble 16384 src then sendTwineOn s port h b else sendTwine s h b

/-- The dictionary serves requests from Twine: the boot parts are in, the hub is neither asleep nor in FAULT. -/
def twineServed (s : State) : Bool := s.pwr.booted && s.pwr.sleep.isNone && !Nat.beq (s.nat O.hubStatus) 4

/-- Requests of the mailboxes that are not yet answered (R396). -/
def mailboxHeld (s : State) : Nat := ((List.range 4).map (fun n => (s.mailbox n).responses.length + b2n (s.mailbox n).reserve.isSome)).sum

/-- A MGMT request that the hub consumes on `port`, frame `f`, with `held` requests from Twine in the queue, against whose limit the
mailboxes' requests count (R396): AUTH before BUSY (R327, R330, Table 16.12). -/
def serveTwine (s : State) (port src held : Nat) (f : Bytes) (a : Ask) : State :=
  if !twineServed s then s
  else if a.tooLong && !inRestart s then sendResponse s port src (askAnswer s a none { abort := 0x07000006 })
  else
    let g := twineAuth s port a
    if g.1 ≠ 0 then violation s port f g.1
    else if inRestart s || Nat.ble 64 (held + mailboxHeld s) || (isBooting s && a.writes) then answerBusy s port f
    else
      let r := serveAsk s a g.2
      sendResponse r.1 port src r.2

/-- The frame of a MGMT request given by its fields. -/
def mgmtFrame (s : State) (src : Nat) (b : Bytes) : Bytes :=
  twineBytes (if Nat.blt src 16384 then some src else none) { kind := 4, dest := (ownId s).getD 0, cls := 1, hops := s.nat O.hopsInit } b

/-- A request of given fields reaches the dictionary over its path. -/
def request (t op key : Nat) (q : Req) (s : State) : State :=
  let s := s.advance t
  let a := askOf op (key / 256) (key % 256) q
  match q.path with
  | .mailbox n => serveMailbox s n a
  | .twine port src => serveTwine s port src 0 (mgmtFrame s src (reqBytes op (key / 256) (key % 256) q)) a

end Sys2Proof.Machine
end

