-- ==== Sys2Proof/Machine/Requests.lean ====
section
/-! DEFINITION. The commands that reach the hub as dictionary requests (17_dictionary.md, and the chapter of each object).  A
request is given by its fields (`Req`), or as the Twine frame that carries it (MGMT_REQUEST).  A row for an object's write is
that write with its own OP, INDEX and SUB: WRITE, or SEG_COMMIT where `seg` says that the value was sent in pieces. -/

namespace Sys2Proof.Machine

/-- The OP that writes a value: WRITE, or SEG_COMMIT after its pieces (R342, R343). -/
def writeOp (seg : Bool) : Nat := if seg then 5 else 2

/-- A request with a fixed value. -/
def reqWith (q : Req) (v : Bytes) : Req := { q with data := v }

/-! ### Operations of Table 17.4 -/

/-- MGMT_REQUEST: a MGMT frame with MTYPE 0 (R312, R327, R330); `held` requests wait before it (Table 16.12). -/
def takeMgmt (port held : Nat) (f : Bytes) (s : State) : State × Bool :=
  let s := s.put O.mgmtQueued 0 held
  match parseAsk (.twine port (hSrc f)) (bodyOf f) with
  | some a => (serveTwine s port (if hSrcUnset f then 16384 + hSrc f else hSrc f) held f a, true)
  | none => (violation s port f 1, true)

/-- MGMT_REQUEST (R327). -/
def execMgmtRequest (port : Fin 21) (t : Nat) (f : Bytes) (held : Fin 65) (s : State) : Out :=
  if !Nat.beq (hKind f) 4 || Nat.beq (field f (hBody f + 4) 1) 1 then .next s
  else .next (arrive s port t f (checked port f (takeMgmt port held f)))

/-- READ (R342). -/
def execRead (idx : BitVec 16) (sub : BitVec 8) (t : Nat) (q : Req) (s : State) : Out := .next (request t 1 (idx.toNat * 256 + sub.toNat) q s)

/-- WRITE (R337, R342). -/
def execWrite (idx : BitVec 16) (sub : BitVec 8) (t : Nat) (q : Req) (s : State) : Out := .next (request t 2 (idx.toNat * 256 + sub.toNat) q s)

/-- SEG_READ (R344). -/
def execSegRead (idx : BitVec 16) (sub : BitVec 8) (t : Nat) (q : Req) (s : State) : Out := .next (request t 3 (idx.toNat * 256 + sub.toNat) q s)

/-- SEG_WRITE (R343). -/
def execSegWrite (idx : BitVec 16) (sub : BitVec 8) (t : Nat) (q : Req) (s : State) : Out := .next (request t 4 (idx.toNat * 256 + sub.toNat) q s)

/-- SEG_COMMIT (R343). -/
def execSegCommit (idx : BitVec 16) (sub : BitVec 8) (t : Nat) (q : Req) (s : State) : Out := .next (request t 5 (idx.toNat * 256 + sub.toNat) q s)

/-- SEG_STATUS (R343). -/
def execSegStatus (idx : BitVec 16) (sub : BitVec 8) (t : Nat) (q : Req) (s : State) : Out := .next (request t 6 (idx.toNat * 256 + sub.toNat) q s)

/-- BATCH (R345). -/
def execBatch (t : Nat) (q : Req) (s : State) : Out := .next (request t 7 0 q s)

/-- CANCEL (R340). -/
def execCancel (idx : BitVec 16) (sub : BitVec 8) (t : Nat) (q : Req) (s : State) : Out := .next (request t 8 (idx.toNat * 256 + sub.toNat) q s)

/-- SESSION_OPEN (R346). -/
def execSessionOpen (t : Nat) (q : Req) (s : State) : Out := .next (request t 9 0 q s)

/-- SESSION_PROVE (R346). -/
def execSessionProve (t : Nat) (q : Req) (s : State) : Out := .next (request t 10 0 q s)

/-- SESSION_CLOSE (R347). -/
def execSessionClose (t : Nat) (q : Req) (s : State) : Out := .next (request t 11 0 q s)

/-! ### Writes to commands of the hub as a whole -/

/-- FULL_RESET: 0xA501 asks for a full reset at the frame boundary (R425). -/
def execFullReset (t : Nat) (q : Req) (s : State) : Out := .next (request t 2 O.fullReset.key q s)

/-- CORE_RESTART: 0xA501 restarts the cores at the frame boundary (R425). -/
def execCoreRestart (t : Nat) (q : Req) (s : State) : Out := .next (request t 2 O.coreRestart.key q s)

/-- PORT_RESET names a lane (R423). -/
def execPortResetLane (l : Fin 24) (t : Nat) (q : Req) (s : State) : Out := .next (request t 2 O.portReset.key (reqWith q (be 2 (256 + l.val))) s)

/-- PORT_RESET names a mailbox; without a request, it is MB_CTRL[0] of that mailbox (R398, R423). -/
def execPortResetMailbox (n : Fin 4) (t : Nat) (q : Option Req) (s : State) : Out :=
  match q with
  | some q => .next (request t 2 O.portReset.key (reqWith q (be 2 (512 + n.val))) s)
  | none => if s.pwr.sram then .next (mbPortReset (s.advance t) n) else .next s

/-- PORT_RESET names a reel (R423). -/
def execPortResetReel (r : Fin 16) (t : Nat) (q : Req) (s : State) : Out := .next (request t 2 O.portReset.key (reqWith q (be 2 (768 + r.val))) s)

/-- SLEEP_REQ (R429). -/
def execSleepReq (t : Nat) (q : Req) (s : State) : Out := .next (request t 2 O.sleepReq.key q s)

/-- DOMAIN_CTRL (R422). -/
def execDomainCtrl (t : Nat) (q : Req) (s : State) : Out := .next (request t 2 O.domainCtrl.key q s)

/-- REEPOCH: a re-epoch is requested (R176). -/
def execReepoch (t : Nat) (q : Req) (s : State) : Out := .next (request t 2 O.reepoch.key q s)

/-- CAL_START: a sweep is requested (R113). -/
def execCalStart (t : Nat) (q : Req) (s : State) : Out := .next (request t 2 O.calStart.key q s)

/-- SYNC_CMD: a SYNC at a frame boundary (R148). -/
def execSyncCmd (t : Nat) (q : Req) (s : State) : Out := .next (request t 2 O.syncCmd.key q s)

/-- DRAM_SPEED: a frequency change is requested (R282). -/
def execDramSpeed (t : Nat) (q : Req) (s : State) : Out := .next (request t 2 O.dramSpeed.key q s)

/-- SWITCH_OVER (R366). -/
def execSwitchOver (t : Nat) (q : Req) (s : State) : Out := .next (request t 2 O.switchOver.key q s)

/-- STORE (R348). -/
def execStore (t : Nat) (q : Req) (s : State) : Out := .next (request t 2 O.store.key q s)

/-- RESTORE_DEFAULTS (R349). -/
def execRestoreDefaults (t : Nat) (q : Req) (s : State) : Out := .next (request t 2 O.restoreDefaults.key q s)

/-- UPD_ACTIVATE, timed (R408). -/
def execUpdActivate (t : Nat) (q : Req) (s : State) : Out := .next (request t 2 O.updActivate.key q s)

/-- UPD_CONFIRM (R409). -/
def execUpdConfirm (t : Nat) (q : Req) (s : State) : Out := .next (request t 2 O.updConfirm.key q s)

/-- UPD_REJECT (R410). -/
def execUpdReject (t : Nat) (q : Req) (s : State) : Out := .next (request t 2 O.updReject.key q s)

/-- UPD_ABORT (R405). -/
def execUpdAbort (t : Nat) (q : Req) (s : State) : Out := .next (request t 2 O.updAbort.key q s)

/-- LC_REQUEST (R415). -/
def execLcRequest (t : Nat) (q : Req) (s : State) : Out := .next (request t 2 O.lcRequest.key q s)

/-- REVOKE_KEY (R412). -/
def execRevokeKey (t : Nat) (q : Req) (s : State) : Out := .next (request t 2 O.revokeKey.key q s)

/-! ### Writes to a unit's command or setting -/

/-- INJ_START of a converter (R89). -/
def execInjStart (c : Fin 32) (t : Nat) (q : Req) (s : State) : Out := .next (request t 2 (O.injStart.at c) q s)

/-- DRAFT_CLEAR of a channel (R145). -/
def execDraftClear (ch : Fin 512) (t : Nat) (q : Req) (s : State) : Out := .next (request t 2 (O.draftClear.at ch) q s)

/-- REEL_ARM (R220). -/
def execReelArm (r : Fin 16) (t : Nat) (q : Req) (s : State) : Out := .next (request t 2 (O.reelArm.at r) q s)

/-- REEL_RELEASE (R222). -/
def execReelRelease (r : Fin 16) (t : Nat) (q : Req) (s : State) : Out := .next (request t 2 (O.reelRelease.at r) q s)

/-- BOBBIN_DISCARD (R266). -/
def execBobbinDiscard (ch : Fin 512) (t : Nat) (q : Req) (s : State) : Out := .next (request t 2 (O.bobbinDiscard.at ch) q s)

/-- LANE_STEP 1: a step up (R292). -/
def execLaneStepUpCommand (l : Fin 24) (t : Nat) (q : Req) (s : State) : Out := .next (request t 2 (O.laneStepObj.at l) (reqWith q [1#8]) s)

/-- LANE_STEP 2: a step down (R292). -/
def execLaneStepDownCommand (l : Fin 24) (t : Nat) (q : Req) (s : State) : Out := .next (request t 2 (O.laneStepObj.at l) (reqWith q [2#8]) s)

/-- MAX_SPEED (R295). -/
def execMaxSpeed (l : Fin 24) (t : Nat) (q : Req) (s : State) : Out := .next (request t 2 (O.maxSpeed.at l) q s)

/-- LANE_ADMIN (R291). -/
def execLaneAdmin (l : Fin 24) (t : Nat) (q : Req) (s : State) : Out := .next (request t 2 (O.laneAdmin.at l) q s)

/-- LANE_TEST (R307). -/
def execLaneTest (l : Fin 24) (t : Nat) (q : Req) (s : State) : Out := .next (request t 2 (O.laneTest.at l) q s)

/-! ### Writes to requests, the update and keys -/

/-- WINDOW_REQ (R262). -/
def execWindowReq (seg : Bool) (t : Nat) (q : Req) (s : State) : Out := .next (request t (writeOp seg) O.windowReq.key q s)

/-- RELAY_ACK (R372). -/
def execRelayAck (seg : Bool) (t : Nat) (q : Req) (s : State) : Out := .next (request t (writeOp seg) O.relayAck.key q s)

/-- DIR_QUERY (R378). -/
def execDirQuery (seg : Bool) (t : Nat) (q : Req) (s : State) : Out := .next (request t (writeOp seg) O.dirQuery.key q s)

/-- RETRO_JOB (R380). -/
def execRetroJob (seg : Bool) (t : Nat) (q : Req) (s : State) : Out := .next (request t (writeOp seg) O.retroJob.key q s)

/-- RETRO_JOB 0: the job is aborted (R384). -/
def execRetroJobAbort (t : Nat) (q : Req) (s : State) : Out := .next (request t 2 O.retroJob.key (reqWith q [0#8]) s)

/-- ACT_JOB (R385). -/
def execActJob (seg : Bool) (t : Nat) (q : Req) (s : State) : Out := .next (request t (writeOp seg) O.actJob.key q s)

/-- The SEG_COMMIT of UPD_MANIFEST (R404). -/
def execUpdManifest (t : Nat) (q : Req) (s : State) : Out := .next (request t 5 O.updManifest.key q s)

/-- The SEG_COMMIT of UPD_PAYLOAD (R406). -/
def execUpdPayload (t : Nat) (q : Req) (s : State) : Out := .next (request t 5 O.updPayload.key q s)

/-- KEY_HASH_0 or KEY_HASH_1 (R412). -/
def execKeyHash (second seg : Bool) (t : Nat) (q : Req) (s : State) : Out := .next (request t (writeOp seg) (if second then O.keyHash1.key else O.keyHash0.key) q s)

/-- K_ROOT or K_SHOST (R413). -/
def execSessionKey (root seg : Bool) (t : Nat) (q : Req) (s : State) : Out := .next (request t (writeOp seg) (if root then O.kRoot.key else O.kShost.key) q s)

/-! ### What time ends (R343, R344, R347) -/

/-- SESSION_IDLE_EXPIRY: SESSION_IDLE without a request (R347). -/
def execSessionIdleExpiry (id : BitVec 32) (s : State) : Out :=
  match s.dict.sessions.find? (fun x => Nat.beq x.id id.toNat) with
  | some x => .next ((s.advance (x.last + s.nat O.sessionIdle * secondTicks)).setSessions (s.dict.sessions.filter (fun y => !Nat.beq y.id x.id)))
  | none => .next s

/-- SEGMENTED_TRANSFER_LAPSE: 60 s without a request for the oldest transfer of the object (R343). -/
def execSegmentedTransferLapse (idx : BitVec 16) (sub : BitVec 8) (s : State) : Out :=
  match s.dict.segs.find? (fun y => Nat.beq y.key (idx.toNat * 256 + sub.toNat)) with
  | some y => .next ((s.advance (y.last + 60 * secondTicks)).setSegs (s.dict.segs.filter (fun z => !z.isOf y.owner y.key)))
  | none => .next s

/-- SNAPSHOT_RELEASE: 60 s without a read of the oldest snapshot of the object (R344). -/
def execSnapshotRelease (idx : BitVec 16) (sub : BitVec 8) (s : State) : Out :=
  match s.dict.snaps.find? (fun y => Nat.beq y.key (idx.toNat * 256 + sub.toNat)) with
  | some y =>
    let s := s.advance (y.last + 60 * secondTicks)
    .next { s with dict := { s.dict with snaps := s.dict.snaps.filter (fun z => !(z.owner = y.owner && Nat.beq z.key y.key)) } }
  | none => .next s

/-! ### The stored copies (R348, R349) -/

/-- SEQUENCE for a new copy. -/
def nextCopySeq (n : NvmState) : Nat := match n.newerCopy with | some c => c.seq + 1 | none => 1

/-- Which copy is the older: 0 or 1. -/
def olderCopy (n : NvmState) : Nat :=
  match n.copy0, n.copy1 with
  | none, _ => 0
  | _, none => 1
  | some a, some b => if Nat.ble a.seq b.seq then 0 else 1

/-- A new copy in place of the older one; RESTORE_DEFAULTS marks the other void and loses the user calibration (R348, R349). -/
def writeCopy (n : NvmState) (objs : Store) (restore : Bool) : NvmState :=
  let c : StoredCopy := { seq := nextCopySeq n, objs := objs }
  let o := olderCopy n
  let n := if Nat.beq o 0 then { n with copy0 := some c, copy1 := if restore then none else n.copy1 }
    else { n with copy1 := some c, copy0 := if restore then none else n.copy0 }
  { n with defaults := restore }

/-- STORE_DONE: the flash write of a STORE or RESTORE_DEFAULTS ends, `ok` or not (R348, Table 17.12). -/
def execStoreDone (ok : Bool) (t : Nat) (s : State) : Out :=
  match s.dict.storing with
  | none => .next s
  | some objs =>
    let s := s.advance t
    let restore := match s.dict.storeAt with | some x => x.2 | none => false
    let s : State := { s with dict := { s.dict with storing := none, storeAt := none } }
    let keep := s.nat O.storeState / 4 * 4
    if ok then .next (((s.setNvm (fun n => writeCopy n objs restore)).put O.storeState 0 keep).ev Ev.storeDone 0xFF)
    else .next ((s.put O.storeState 0 (keep + 2)).ev Ev.storeFailed 0xFF)

end Sys2Proof.Machine
end

