-- ==== Sys2Proof/Machine/HostPort.lean ====
section
/-! DEFINITION. The SPI host port, its register window, and the mailboxes as the host and the distaff use them (20_host_port.md,
R387 to R399). -/

namespace Sys2Proof.Machine

/-! ### Messages (Tables 20.5, 20.6) -/

/-- Fields of a header. -/
def mbEpochOf (w : Nat) : Nat := w / 2 ^ 24 % 256
def mbSeqOf (w : Nat) : Nat := w / 2 ^ 16 % 256
def mbFirst (w : Nat) : Bool := bitOf w 15
def mbLast (w : Nat) : Bool := bitOf w 14
def mbBytes (w : Nat) : Nat := w % 32

/-- LEN of a message with header `w`. -/
def mbLen (w : Nat) : Nat := 1 + ceilDiv (mbBytes w) 4

/-- Word `k` of a queue. -/
def mbWord (l : List Nat) (k : Nat) : Nat := l.getD k 0

/-- Payload bytes of a message. -/
def mbPayload (l : List Nat) : Bytes := ((l.drop 1).flatMap (be 4)).take (mbBytes (mbWord l 0))

/-- The error bit of a mailbox's page, when a bit of MB_STATUS[5:3] becomes set (Table 20.4). -/
def mbError (s : State) (n : Nat) (was : Bool) : State := if was then s else s.mbIrq n 2

/-- The port answers: the SRAM wipe has ended and the hub is not asleep (R390). -/
def portOn (s : State) : Bool := s.pwr.sram && s.pwr.sleep.isNone

/-- A host write to outbound word `k` of mailbox `n` at `t`: it posts with word LEN - 1, or collides (R392, R393). -/
def outWrite (s : State) (n k v t : Nat) : State :=
  let m := s.mailbox n
  let out := m.out.set k v
  if m.outFull then
    let s := s.setMailbox n { m with out := out, collision := true }
    let s := if m.collision then s else s.ev Ev.mbCollision 0xFF
    mbError (s.bump O.collisionCount n) n m.collision
  else
    let full := Nat.beq k (mbLen (mbWord out 0) - 1)
    s.setMailbox n { m with out := out, outFull := full, fullSince := if full && m.inFull then some t else m.fullSince }

/-- What the host reads in inbound word `k`, and what the read does: word 0 shows an old epoch, word LEN - 1 clears FULL (R392, R398). -/
def inRead (s : State) (n k : Nat) : State × Nat :=
  let m := s.mailbox n
  let w0 := mbWord m.inn 0
  let old := m.oldEpoch || (m.inFull && Nat.beq k 0 && !Nat.beq (mbEpochOf w0) (s.hubEpoch))
  let done := m.inFull && Nat.beq k (mbLen w0 - 1)
  (s.setMailbox n { m with oldEpoch := old, inFull := m.inFull && !done, fullSince := if done then none else m.fullSince }, mbWord m.inn k)

/-! ### The register window (R389, Tables 20.2, 20.3, 20.7) -/

/-- A page. -/
def State.page (s : State) (sec : Bool) : Page := if sec then s.host.sec else s.host.ns

/-- Change a page. -/
def State.setPage (s : State) (sec : Bool) (f : Page → Page) : State :=
  s.setHost (fun h => if sec then { h with sec := f h.sec } else { h with ns := f h.ns })

/-- HP_ID and HP_STATUS (Table 20.3). -/
def hpId (s : State) : Nat := 0x0512 * 65536 + s.nat O.siliconRev
def hpStatus (s : State) : Nat :=
  32 * s.nat O.hubStatus + 16 * b2n s.gridOn + 8 * b2n (s.gridOn && s.time.timeq) + 4 * b2n s.mbServed

/-- MB_EPOCH. -/
def mbEpochReg (s : State) (n : Nat) : Nat := (s.mailbox n).hostEpoch * 2 ^ 24 + s.hubEpoch

/-- The mailbox and the offset in its block of a page offset. -/
def mbBlock (sec : Bool) (off : Nat) : Option (Nat × Nat) :=
  let base := if sec then 2 else 0
  if Nat.ble 0x100 off && Nat.blt off 0x150 then some (base, off - 0x100)
  else if Nat.ble 0x180 off && Nat.blt off 0x1D0 then some (base + 1, off - 0x180)
  else none

/-- A read of GRID_HI latches GRID_LO (R390). -/
def gridHiRead (s : State) (sec : Bool) : State × Nat :=
  (s.setPage sec (fun p => { p with gridLo := s.gridTime % 2 ^ 32 }), s.gridTime / 2 ^ 32 % 2 ^ 32)

/-- A read of the register at a page offset. -/
def readReg (s : State) (sec : Bool) (off : Nat) : State × Nat :=
  if off = 0x000 then (s, hpId s)
  else if off = 0x004 then (s, hpStatus s)
  else if off = 0x008 then (s, (s.page sec).scratch)
  else if off = 0x010 then (s, (s.page sec).irqStatus)
  else if off = 0x014 then (s, (s.page sec).irqEnable)
  else if off = 0x018 then gridHiRead s sec
  else if off = 0x01C then (s, if s.gridOn then (s.page sec).gridLo else 0)
  else match mbBlock sec off with
    | some (n, o) =>
      if Nat.ble 0x20 o && Nat.blt o 0x40 then inRead s n ((o - 0x20) / 4)
      else if o = 0x44 then (s, s.mbStatus n)
      else if o = 0x48 then (s, mbEpochReg s n)
      else (s, 0)
    | none => (s, 0)

/-- IRQ_STATUS: a 1 clears its bit (R391). -/
def irqClear (s : State) (sec : Bool) (v : Nat) : State :=
  s.setPage sec (fun p => { p with irqStatus := p.irqStatus &&& (0xFFFFFFFF - v % 2 ^ 32) })

/-- MB_STATUS: a 1 clears bit 5, 4, 3 or 2 (Table 20.5). -/
def mbStatusClear (s : State) (n v : Nat) : State :=
  let m := s.mailbox n
  s.setMailbox n { m with collision := m.collision && !bitOf v 5, discarded := m.discarded && !bitOf v 4,
                          crossed := m.crossed && !bitOf v 3, oldEpoch := m.oldEpoch && !bitOf v 2 }

/-- HP_SCRATCH and IRQ_ENABLE store what is written, reserved bits apart; other addresses ignore it. -/
def plainWrite (s : State) (sec : Bool) (off v : Nat) : State :=
  if off = 0x008 then s.setPage sec (fun p => { p with scratch := v })
  else if off = 0x014 then s.setPage sec (fun p => { p with irqEnable := v &&& 0x177 })
  else s

/-- A write of the register at a page offset. -/
def writeReg (s : State) (sec : Bool) (t off v : Nat) : State :=
  if off = 0x010 then irqClear s sec v
  else match mbBlock sec off with
    | some (n, o) =>
      if Nat.blt o 0x20 then outWrite s n (o / 4) v t
      else if o = 0x40 then (if bitOf v 0 then mbPortReset s n else if bitOf v 1 then mbFlushIn s n else s)
      else if o = 0x44 then mbStatusClear s n v
      else s
    | none => plainWrite s sec off v

/-- HOST_IRQ_N and HOST_SIRQ_N are low (R391). -/
def irqLow (s : State) (sec : Bool) : Bool := !Nat.beq ((s.page sec).irqStatus &&& (s.page sec).irqEnable) 0

/-! ### SPI transactions (R387 to R389) -/

/-- A transaction that the port carries out: one select is low and the address lies in the window; the page and its offset. -/
def spiTarget (cs scs : Bool) (addr : BitVec 16) : Option (Bool × Nat) :=
  if cs == scs || Nat.ble 4096 addr.toNat then none else some (Nat.ble 2048 addr.toNat, addr.toNat % 2048 / 4 * 4)

/-- Words written from an offset on, wrapping within the page. -/
def writeWords (sec : Bool) (t : Nat) : Nat → List (BitVec 32) → State → State
  | _, [], s => s
  | off, w :: ws, s => writeWords sec t ((off + 4) % 2048) ws (writeReg s sec t off w.toNat)

/-- Words read from an offset on, wrapping within the page. -/
def readWords (sec : Bool) : Nat → Nat → State → State × List Nat
  | _, 0, s => (s, [])
  | off, n + 1, s =>
    let r := readReg s sec off
    let q := readWords sec ((off + 4) % 2048) n r.1
    (q.1, r.2 :: q.2)

/-- A write transaction of whole words under the selects that are low. -/
def spiWrite (cs scs : Bool) (addr : BitVec 16) (words : List (BitVec 32)) (t : Nat) (s : State) : State :=
  if !portOn s then s else
  let s := s.advance t
  match spiTarget cs scs addr with
  | none => s
  | some (sec, off) => if sec == scs then writeWords sec t off words s else s.bump O.wrongPageCount

/-- A read transaction of `n` whole words; the data words stay in the state. -/
def spiRead (cs scs : Bool) (addr : BitVec 16) (n t : Nat) (s : State) : State :=
  if !portOn s then s else
  let s := s.advance t
  let answer := fun (s : State) (l : List Nat) => s.setHost (fun h => { h with data := l })
  match spiTarget cs scs addr with
  | none => if cs == scs then s else answer s (List.replicate n 0)
  | some (sec, off) =>
    if sec == scs then
      (let r := readWords sec off n s
       answer r.1 r.2)
    else answer (s.bump O.wrongPageCount) (List.replicate n 0)

/-- SPI_WRITE, opcode 0x02 (R388). -/
def execSpiWrite (cs scs : Bool) (addr : BitVec 16) (words : List (BitVec 32)) (t : Nat) (s : State) : Out := .next (spiWrite cs scs addr words t s)

/-- SPI_READ, opcode 0x0B (R388). -/
def execSpiRead (cs scs : Bool) (addr : BitVec 16) (n : Nat) (t : Nat) (s : State) : Out := .next (spiRead cs scs addr n t s)

/-- SPI_QUAD_WRITE, opcode 0x32 (R388). -/
def execSpiQuadWrite (cs scs : Bool) (addr : BitVec 16) (words : List (BitVec 32)) (t : Nat) (s : State) : Out := .next (spiWrite cs scs addr words t s)

/-- SPI_QUAD_READ, opcode 0xEB (R388). -/
def execSpiQuadRead (cs scs : Bool) (addr : BitVec 16) (n : Nat) (t : Nat) (s : State) : Out := .next (spiRead cs scs addr n t s)

/-! ### Single register accesses -/

/-- A register access by the host at `t`, while the port answers. -/
def onPort (t : Nat) (f : State → State) (s : State) : Out := if portOn s then .next (f (s.advance t)) else .next s

/-- HOST_REGISTER_WRITE: a register without behaviour of its own stores the value (R389). -/
def execHostRegisterWrite (sec : Bool) (off : Fin 2048) (v : BitVec 32) (t : Nat) (s : State) : Out := onPort t (fun s => plainWrite s sec off v.toNat) s

/-- GRID_HI_READ (R390). -/
def execGridHiRead (sec : Bool) (t : Nat) (s : State) : Out :=
  onPort t (fun s =>
    let r := gridHiRead s sec
    r.1.setHost (fun h => { h with data := [r.2] })) s

/-- IRQ_STATUS_CLEAR (R391). -/
def execIrqStatusClear (sec : Bool) (v : BitVec 32) (t : Nat) (s : State) : Out := onPort t (fun s => irqClear s sec v.toNat) s

/-- MB_STATUS_CLEAR (R398, Table 20.5). -/
def execMbStatusClear (n : Fin 4) (v : BitVec 32) (t : Nat) (s : State) : Out := onPort t (fun s => mbStatusClear s n v.toNat) s

/-- OUT_W_WRITE (R392, R393). -/
def execOutWWrite (n : Fin 4) (k : Fin 8) (v : BitVec 32) (t : Nat) (s : State) : Out := onPort t (fun s => outWrite s n k v.toNat t) s

/-- IN_W_READ (R392). -/
def execInWRead (n : Fin 4) (k : Fin 8) (t : Nat) (s : State) : Out :=
  onPort t (fun s =>
    let r := inRead s n k
    r.1.setHost (fun h => { h with data := [r.2] })) s

/-- FLUSH_IN (R398). -/
def execFlushIn (n : Fin 4) (t : Nat) (s : State) : Out := onPort t (fun s => mbFlushIn s n) s

/-! ### The distaff's side (R393, R395 to R397) -/

/-- Refuse a body of which the first bytes may be held: its REQ_ID, OP, INDEX and SUB as far as they are. -/
def refuseBody (s : State) (n : Nat) (held : Bytes) (abort : Nat) : State :=
  let whole := fun (off k : Nat) => if Nat.ble (off + k) held.length then field held off k else 0
  queueResponse s n (mgmtBytes (whole 0 4) 1 (if Nat.blt n 2 then 4 else 5) (whole 8 4) none
    (responseBody s (whole 28 1) (whole 30 2) (whole 32 1) { abort := abort }))

/-- Bytes of the body being assembled. -/
def partBytes (m : Mailbox) : Bytes := match m.part with | some p => p.bytes | none => []

/-- A discard under R395: counted and logged. -/
def fragError (s : State) (n : Nat) : State :=
  (s.setMailbox n { s.mailbox n with part := none }).bump O.fragErrCount n |>.ev Ev.mbFragError 0xFF (be 1 n)

/-- A body is complete: it goes to the dictionary (R394, R396). -/
def bodyComplete (s : State) (n : Fin 4) (b : Bytes) : State :=
  match parseAsk (.mailbox n) b with
  | some a => serveMailbox s n a
  | none => refuseBody s n b (if Nat.blt b.length 29 then 0x07000009 else 0x06000001)

/-- A fragment in order joins its body (R394, R395). -/
def joinFragment (s : State) (n : Fin 4) (words : List Nat) (before : Bytes) : State :=
  let w0 := mbWord words 0
  let b := before ++ mbPayload words
  if Nat.blt 8220 b.length then refuseBody (fragError s n) n b 0x07000006
  else if mbLast w0 then bodyComplete (s.setMailbox n { s.mailbox n with part := none }) n b
  else s.setMailbox n { s.mailbox n with part := some { next := (mbSeqOf w0 + 1) % 256, epoch := mbEpochOf w0, bytes := b } }

/-- A message that the distaff has read from mailbox `n` (R393, R395). -/
def takeMessage (s : State) (n : Fin 4) (words : List Nat) (collided : Bool) : State :=
  let m := s.mailbox n
  let w0 := mbWord words 0
  let s := s.setMailbox n { m with hostEpoch := mbEpochOf w0 }
  if collided then refuseBody (s.setMailbox n { s.mailbox n with part := none }) n (partBytes m) 0x07000010
  else if mbFirst w0 then
    let s := if m.part.isSome then fragError s n else s
    if Nat.beq (mbSeqOf w0) 0 then joinFragment s n words [] else refuseBody (fragError s n) n [] 0x07000011
  else match m.part with
    | none => refuseBody (fragError s n) n [] 0x07000011
    | some p =>
      if !Nat.beq (mbSeqOf w0) p.next then refuseBody (fragError s n) n p.bytes 0x07000011
      else if !Nat.beq (mbEpochOf w0) p.epoch then refuseBody (fragError s n) n p.bytes 0x07000012
      else joinFragment s n words p.bytes

/-- MAILBOX_SERVICE: the distaff reads the next message of mailbox `n`, a crossed one in its place, unless four requests wait for
their answers (R396, R397). -/
def execMailboxService (n : Fin 4) (t : Nat) (s : State) : Out :=
  let m := s.mailbox n
  if !s.mbServed || Nat.ble 4 m.responses.length then .next s else
  match m.reserve with
  | some (words, collided) => .next (takeMessage ((s.advance t).setMailbox n { m with reserve := none }) n words collided)
  | none =>
    if !m.outFull then .next s
    else .next (takeMessage (((s.advance t).setMailbox n { m with outFull := false, fullSince := none }).mbIrq n 1) n m.out m.collision)

/-- The message that carries the next fragment of a response (Table 20.6). -/
def fragmentWords (epoch seq : Nat) (first : Bool) (rest : Bytes) : List Nat :=
  let now := rest.take 28
  let last := Nat.ble rest.length 28
  (epoch * 2 ^ 24 + seq * 2 ^ 16 + 32768 * b2n first + 16384 * b2n last + now.length) ::
    (List.range (ceilDiv now.length 4)).map (fun i => field (fit 28 now) (4 * i) 4)

/-- RESPONSE_FRAGMENT_POST: into an empty inbound queue (R392, R394). -/
def execResponseFragmentPost (n : Fin 4) (t : Nat) (s : State) : Out :=
  let m := s.mailbox n
  match m.responses with
  | [] => .next s
  | b :: rest =>
    if m.inFull || !s.mbServed then .next s else
    let s := s.advance t
    let left := b.drop m.posted
    let ws := fragmentWords s.hubEpoch m.seq (Nat.beq m.posted 0) left
    let ended := Nat.ble left.length 28
    let m := { m with inn := ws ++ m.inn.drop ws.length, inFull := true, fullSince := if m.outFull then some t else none }
    let m := if ended then { m with responses := rest, posted := 0, seq := 0 }
      else { m with posted := m.posted + 28, seq := (m.seq + 1) % 256 }
    .next ((s.setMailbox n m).mbIrq n 0)

/-- MAILBOX_CROSSED: both queues have been FULL for 50 ms (R397). -/
def execMailboxCrossed (n : Fin 4) (s : State) : Out :=
  let m := s.mailbox n
  match m.fullSince with
  | none => .next s
  | some t0 =>
    if !(m.outFull && m.inFull) || m.reserve.isSome || !s.mbServed then .next s else
    let s := s.advance (t0 + 50 * msTicks)
    let s := s.setMailbox n { m with crossed := true, outFull := false, fullSince := none, reserve := some (m.out, m.collision) }
    .next (mbError (((s.ev Ev.mailboxCrossed 0xFF (be 1 n.val)).bump O.crossedCount n).mbIrq n 1) n m.crossed)

end Sys2Proof.Machine
end

