-- ==== Sys2Proof/Machine/Frame.lean ====
section
/-! DEFINITION. Frame boundaries: the grid's start, what happens at every boundary, re-epochs, and the stored configuration at
start-up (R167 to R178, R337 to R341, R348 to R350, R426). -/

namespace Sys2Proof.Machine

/-! ### The hub's clock takes a new value (R170, R177)

Elapsed times go on across a start of the grid or a re-epoch: what was noted in the hub's time moves with it. -/

/-- A time moved by `d`. -/
def movedBy (d : Int) (t : Nat) : Nat := ((t : Int) + d).toNat

/-- Values of a sparse array. -/
def Map.vals {β γ : Type} (f : β → γ) (m : Map β) : Map γ := List.map (fun x => (x.1, f x.2)) m

/-- A lane's times. -/
def Lane.moved (d : Int) (v : Lane) : Lane :=
  { v with lockAt := movedBy d v.lockAt, entered := v.entered.map (fun x => (movedBy d x.1, x.2)), noStepUntil := movedBy d v.noStepUntil,
           retryAt := movedBy d v.retryAt, offerAt := movedBy d v.offerAt,
           step := v.step.map (fun x => { x with ack := x.ack.map (movedBy d), locked := x.locked.map (movedBy d) }) }

/-- The lane island's times. -/
def LaneState.moved (d : Int) (x : LaneState) : LaneState :=
  { x with startAt := movedBy d x.startAt, lanes := x.lanes.vals (Lane.moved d),
           reorder := x.reorder.vals (fun r => { r with held := r.held.map (fun y => (y.1, movedBy d y.2.1, y.2.2)) }),
           taps := x.taps.vals (fun l => l.map (fun y => (movedBy d y.1, y.2))) }

/-- Network time's times. -/
def PtpState.moved (d : Int) (x : PtpState) : PtpState :=
  { x with senders := x.senders.map (fun y => { y with times := y.times.map (movedBy d) }), lastQualified := movedBy d x.lastQualified,
           syncOk := x.syncOk.vals (fun y => (movedBy d y.1, y.2)),
           lanes := x.lanes.vals (fun y => { y with answered := y.answered.map (movedBy d), nextReq := movedBy d y.nextReq }) }

/-- Twin times. -/
def TwinState.moved (d : Int) (x : TwinState) : TwinState :=
  { x with partnerAt := movedBy d x.partnerAt, listenUntil := x.listenUntil.map (movedBy d), dualSince := x.dualSince.map (movedBy d),
           hbOutAt := movedBy d x.hbOutAt, hbHanded := x.hbHanded.map (movedBy d), hbInAt := movedBy d x.hbInAt, frameAt := movedBy d x.frameAt }

/-- Twine's times. -/
def TwineState.moved (d : Int) (x : TwineState) : TwineState :=
  { x with learned := x.learned.vals (fun y => (y.1, movedBy d y.2)), naks := x.naks.vals (fun l => l.map (movedBy d)),
           streams := x.streams.vals (fun y => { y with since := y.since.map (movedBy d) }), retry := x.retry.map (fun y => (movedBy d y.1, y.2)) }

/-- Times of the dictionary, the mailboxes and the root. -/
def DictState.moved (d : Int) (x : DictState) : DictState :=
  { x with segs := x.segs.map (fun y => { y with last := movedBy d y.last }), snaps := x.snaps.map (fun y => { y with last := movedBy d y.last }),
           sessions := x.sessions.map (fun y => { y with last := movedBy d y.last }) }
def HostState.moved (d : Int) (x : HostState) : HostState := { x with mb := x.mb.vals (fun m => { m with fullSince := m.fullSince.map (movedBy d) }) }
def RootState.moved (d : Int) (x : RootState) : RootState :=
  { x with segment := x.segment.vals (fun h => { h with last := movedBy d h.last }), receipts := x.receipts.vals (movedBy d),
           retro := x.retro.map (fun j => { j with slices := j.slices.map (fun y =>
             { y with asked := y.asked.vals (fun a => (movedBy d a.1, a.2)) }) }) }

/-- Times of the converters' buffers (R71). -/
def Converter.moved (d : Int) (x : Converter) : Converter :=
  { x with buf := { internal := x.buf.internal.map (movedBy d), refin := x.buf.refin.map (movedBy d), ratio := x.buf.ratio.map (movedBy d) } }

/-- Times of the excitation drivers (R69, R75). -/
def Driver.moved (d : Int) (x : Driver) : Driver :=
  { x with lastSwitch := x.lastSwitch.map (movedBy d), settleAt := movedBy d x.settleAt, fillEnd := movedBy d x.fillEnd,
           oorSince := x.oorSince.map (movedBy d) }

/-- Times of wire-break verdicts (R55). -/
def OpenTrack.moved (d : Int) (x : OpenTrack) : OpenTrack :=
  let v := fun (y : Verdict) => { y with testHold := movedBy d y.testHold }
  { last := x.last.map v, prev := x.prev.map v, lastGood := x.lastGood.map (movedBy d) }

/-- Times of the creels: spans, masks and verdicts (R46, R55, R60, R209). -/
def Creel.moved (d : Int) (x : Creel) : Creel :=
  { x with spans := x.spans.map (fun p => { p with lo := movedBy d p.lo, hi := movedBy d p.hi }), t2Until := movedBy d x.t2Until,
           t3Until := movedBy d x.t3Until, dischargeUntil := movedBy d x.dischargeUntil, sense := x.sense.moved d,
           wbLast := x.wbLast.map (fun w => (w.1, movedBy d w.2.1, movedBy d w.2.2)), watchMask := movedBy d x.watchMask }

/-- Times of the sampling path: elapsed times of creels, buffers, drivers, BLANK and REFIN go on (log entry 144). -/
def SampState.moved (d : Int) (x : SampState) : SampState :=
  { x with creels := x.creels.vals (Creel.moved d), inputOpen := x.inputOpen.vals (OpenTrack.moved d),
           blank := x.blank.vals (List.map (fun b => (movedBy (d * 65536) b.1, b.2.map (movedBy (d * 65536))))), convs := x.convs.vals (Converter.moved d), drivers := x.drivers.vals (Driver.moved d),
           refinFirst := movedBy d x.refinFirst, refinLast := x.refinLast.map (movedBy d) }

/-- Times of a reel's arm and re-arm (R220). -/
def Reel.moved (d : Int) (x : Reel) : Reel :=
  { x with arm := x.arm.map (movedBy d), rearmAt := x.rearmAt.map (fun a => (movedBy d a.1, a.2)), segTrig := x.segTrig.map (movedBy d) }

/-- Times of the triggers: holdoffs, the TDCs' last edges and pulses run on; words and events of the old epoch make no pair with those of the
new one, and no mask span reaches over the jump (log entry 150). -/
def TrigState.moved (d : Int) (x : TrigState) : TrigState :=
  { x with tdc := x.tdc.vals (movedBy (d * 65536)), fio := x.fio.vals (movedBy d), past := [],
           watch := x.watch.vals (fun w => { w with wrote := w.wrote.map (movedBy d) }),
           units := x.units.vals (fun u => { last := u.last.map (movedBy (d * 65536)), low := u.low, high := u.high }),
           masks := x.masks.vals (fun _ => {}),
           reels := x.reels.vals (Reel.moved d) }

/-- The hub's time jumps by `d`. -/
def rebase (d : Int) (s : State) : State :=
  { s with
    now := movedBy d s.now
    lanes := s.lanes.moved d, ptp := s.ptp.moved d, twin := s.twin.moved d, twine := s.twine.moved d, dict := s.dict.moved d
    host := s.host.moved d, root := s.root.moved d
    samp := s.samp.moved d
    cal := { s.cal with intervalFrom := s.cal.intervalFrom.map (movedBy d), ratioA := s.cal.ratioA.map (fun x => (x.1, movedBy d x.2)),
                        ratioB := s.cal.ratioB.map (fun x => (x.1, movedBy d x.2)) }
    time := { s.time with firstTracking := s.time.firstTracking.map (movedBy d), p1On := movedBy d s.time.p1On,
                          firstPresent := s.time.firstPresent.map (movedBy d), strandsAt := movedBy d s.time.strandsAt,
                          slewUntil := movedBy d s.time.slewUntil, ppsFall := s.time.ppsFall.map (movedBy d), txStepAt := movedBy d s.time.txStepAt,
                          ppsEdge := s.time.ppsEdge.map (fun x => (movedBy d x.1, x.2)), ppsLast := s.time.ppsLast.map (movedBy d),
                          strands := s.time.strands.vals (fun v => { v with clearSince := v.clearSince.map (movedBy d) }) }
    bob := { s.bob with bobbins := s.bob.bobbins.vals (fun b => { b with lastItem := movedBy d b.lastItem }) }
    spin := { s.spin with downSince := movedBy d s.spin.downSince, feeds := s.spin.feeds.vals (fun f => { f with lastWrite := movedBy d f.lastWrite }) }
    trig := s.trig.moved d
    dram := { s.dram with ceLogged := s.dram.ceLogged.map (movedBy d), scrubDue := s.dram.scrubDue.map (movedBy (d * 65536)), scrubLast := movedBy (d * 65536) s.dram.scrubLast }
    upd := { s.upd with healthSince := s.upd.healthSince.map (movedBy d) }
    pwr := { s.pwr with wdEnd := s.pwr.wdEnd.map (movedBy d), restart := s.pwr.restart.map (fun r => { r with since := movedBy d r.since }) } }

/-! ### The stored configuration (R350) -/

/-- Objects of the start-up part. -/
def startUpKey (key : Nat) : Bool :=
  let idx := key / 256
  Nat.beq idx 0x2000 || Nat.beq idx 0x2200 || Nat.beq idx 0x2800 || (Nat.ble 0x3000 idx && Nat.ble idx 0x3003) ||
  (Nat.ble 0x3100 idx && Nat.ble idx 0x3200) || (Nat.ble 0x3400 idx && Nat.ble idx 0x3417) || Nat.beq idx 0x3800 ||
  Nat.beq key O.sessionIdle.key

/-- The objects that took effect at the reset itself (R268, R311, R369). -/
def resetKey (key : Nat) : Bool :=
  [O.hubIdNext.key, O.ethertypeNext.key, O.geometryNext.key, O.grainNext.key, O.rootRoleNext.key].contains key
    || (Nat.ble O.hashWindowNext.key key && Nat.blt key (O.hashWindowNext.key + 4))

/-- The settings of the newer valid copy. -/
def storedItems (s : State) : List (Nat × Val) :=
  match s.nvm.newerCopy with
  | some c => c.objs.filter (fun x => kindOf x.1 = .setting && !resetKey x.1)
  | none => []

/-- What a stored item fails: format, the configuration, admission; 0 when it passes. -/
def itemAbort (s : State) (d : ObjDef) (x : Nat × Val) : Nat :=
  let st := putConf s.objs x.1 x.2
  firstAbort [formatCheck s st d x.1 x.2, configState s s.objs st x.1 x.2, admitWrites s.dram.extents s.objs st [x.1]]

/-- One item of the start-up part: in force, or refused and left at its default. -/
def startUpItem (s : State) (x : Nat × Val) : State :=
  match rowOf x.1 with
  | none => s
  | some d =>
    let a := itemAbort s d x
    if Nat.beq a 0 then s.putK x.1 x.2 else s.ev Ev.configItemRefused 0xFF (be 3 x.1 ++ be 4 a)

/-- START_UP_PART_APPLY: the stored copy has been read (R350, Table 22.4). -/
def execStartUpPartApply (t : Nat) (s : State) : Out :=
  if !logicRuns s.pwr || !s.pwr.sram || s.pwr.booted || s.pwr.copyRead || s.pwr.sleep.isSome then .next s else
  let s := (s.advance t).each ((storedItems s).filter (fun x => startUpKey x.1)) startUpItem
  .next (selectGm (pmbusListed (s.setPwr (fun p => { p with copyRead := true }))))

/-- The configuration with all stored items in force. -/
def withItems (st : Store) (l : List (Nat × Val)) : Store := l.foldl (fun st x => putConf st x.1 x.2) st

/-- The first item of the grid-start part that fails its own checks, with its abort. -/
def gridItemFails (s : State) (l : List (Nat × Val)) : Option ((Nat × Val) × Nat) :=
  let st := withItems s.objs l
  l.findSome? (fun x => match rowOf x.1 with
    | none => some (x, 0x01000002)
    | some d =>
      let a := firstAbort [formatCheck s st d x.1 x.2, configState s s.objs st x.1 x.2]
      if Nat.beq a 0 then none else some (x, a))

/-- Admission of items of the grid-start part together. -/
def itemsAdmit (s : State) (l : List (Nat × Val)) : Nat := admitWrites s.dram.extents s.objs (withItems s.objs l) (l.map (·.1))

/-- The first item whose addition makes a resource exceed its budget (R345). -/
def gridAdmitFails (s : State) (l : List (Nat × Val)) : Option ((Nat × Val) × Nat) :=
  if Nat.beq (itemsAdmit s l) 0 then none
  else (List.range l.length).findSome? (fun i =>
    let a := itemsAdmit s (l.take (i + 1))
    if Nat.beq a 0 then none else (l.drop i).head?.map (fun x => (x, a)))

/-- The grid-start part takes effect at `t` as one batch, or none of it does (R350). -/
def gridPart (s : State) (t : Nat) : State :=
  let l := (storedItems s).filter (fun x => !startUpKey x.1)
  match (gridItemFails s l).orElse (fun _ => gridAdmitFails s l) with
  | some (x, a) => (s.put O.storeState 0 (s.nat O.storeState ||| 8)).evAt Ev.configRefused 0xFF t 0 (be 4 a ++ be 3 x.1)
  | none =>
    let before := s.objs
    let s := s.each l (fun s x => s.putK x.1 x.2)
    settingHooks before t (l.map (·.1)) (fun _ => false) false s

/-! ### The start of the grid (R170, R172, R426) -/

/-- What must hold before the grid can start after a full reset (R426). -/
def startReady (s : State) : Bool :=
  !s.gridOn && s.pwr.booted && s.pwr.copyRead && s.dram.ready && Nat.ble 1024 (s.nat O.wipeDone) && s.pwr.sleep.isNone && isBooting s
    && s.pwr.restart.isNone

/-- The first boundary of a target, in 1/65536 tick. -/
def firstBoundary (target : Int) : Nat := frameAtOrAfter (max 0 (-((-target) / 65536))).toNat

/-- The grid starts at the first boundary of twice the target `target2`; `alone` names the strand that starts it alone, with the outcome
no majority (R170). -/
def gridStart (s : State) (target2 : Int) (alone : Option Nat) : State :=
  let t := firstBoundary (target2 / 2)
  let n := ((t : Int) * 65536 - target2 / 2).toNat
  let s := rebase ((t : Int) - s.now) (advanceStrands s ⟨n, n, n⟩)
  let s : State := { s with time := { s.time with strandsAt := t } }
  let s : State := match alone with
    | some x => trackRate { s with time := { s.time with target2 := 2 * (s.strand x).time, refOsc := x } } false
    | none => s
  let s := applyVote s (if alone.isSome then noVote else voteOf s) t
  let s := startSampling (gridPart s t) t false
  let s := s.put O.epochStart 0 t
  let s : State := { s with cal := { s.cal with intervalFrom := some t } }
  let s := s.setPwr (fun p => { p with ready := true })
  let s := if s.nvm.pointer.trial then s.put O.trialEnd 0 (t + s.nat O.trialWindow * secondTicks) else s
  twinReady (enterReady s t)

/-- GRID_START: the voter has a steering set of TRACKING strands (R170). `t` is the hub's own count, `adv` what the oscillators
have counted. -/
def execGridStart (t : Nat) (adv : StrandAdv) (s : State) : Out :=
  if !startReady s then .next s else
  let s := advanceStrands (s.advance t) adv
  let v := classify (s.nat O.voteThreshold) (strandsIn s [2])
  if v.set.isEmpty then .next s else .next (gridStart s v.target2 none)

/-- START_WAIT_EXPIRY: the grid starts from the first strand that tracks, alone (R170). -/
def execStartWaitExpiry (adv : StrandAdv) (s : State) : Out :=
  match s.time.firstTracking with
  | none => .next s
  | some t0 =>
    let x := s.time.firstStrand
    if !startReady s || !(classify (s.nat O.voteThreshold) (strandsIn s [2])).set.isEmpty || !List.contains [2, 3, 4] (s.nat O.strandState x) then .next s else
    let s := advanceStrands (s.advance (t0 + s.nat O.startWait * msTicks)) adv
    .next (gridStart s (2 * (s.strand x).time) (some x))

/-- A strand of the free-running start: strand A's time, HOLDOVER, no rate correction (R172). -/
def freeRunStrand (time : Int) (s : State) (x : Nat) : State :=
  if Nat.beq (s.nat O.strandState x) 0 then
    let s := enterStrand s x 3
    (s.setStrand x { s.strand x with time := time, servo := 0, freq := 0, err := 0 }).putI O.rateCorr x 0
  else s

/-- When START_WAIT has elapsed since P1 was switched on (R172). -/
def startWaitEnd (s : State) : Nat := s.time.p1On + s.nat O.startWait * msTicks

/-- No strand's source has become present by then (R172). -/
def noSourceYet (s : State) : Bool := match s.time.firstPresent with | some t => Nat.blt (startWaitEnd s) t | none => true

/-- FREE_RUNNING_GRANDMASTER_START (R172): the strands take strand A's time, and the grid starts from the steering set that the voter finds
among them, if it finds one. -/
def execFreeRunningGrandmasterStart (adv : StrandAdv) (s : State) : Out :=
  if !startReady s || !s.bool O.gmEnable || !s.bool O.isGm || !noSourceYet s then .next s else
  let s := advanceStrands (s.advance (startWaitEnd s)) adv
  let s := s.each [0, 1, 2] (freeRunStrand (s.strand 0).time)
  let v := voteOf s
  .next (if v.set.isEmpty then s else gridStart s v.target2 none)

/-! ### Every frame boundary -/

/-- Converters without a reference check in the frame that ends at `t` (R87). -/
def countSkipped (t : Nat) (s : State) (c : Nat) : State :=
  if (s.conv c).refFrame = some (t / frameTicks - 1) then s else s.addK O.refcheckSkipped (O.refcheckSkipped.conv c) 1

/-- The writes due at `t` are applied in order of acceptance; during a core restart they are discarded (R338, R339). -/
def dueWrites (s : State) (t : Nat) : State :=
  let due := s.dict.pend.filter (fun w => Nat.ble w.t t)
  if inRestart s then
    let s := dropWrites s (fun w => Nat.ble w.t t)
    if due.any (fun w => Nat.beq w.key O.reepoch.key) then { s with time := { s.time with reepochAt := none } } else s
  else
    let s : State := { s with dict := { s.dict with pend := s.dict.pend.filter (fun w => Nat.blt t w.t) } }
    applyWrites t due s

/-- Samples whose instant lies in the frame that begins at `t` carry its TIMEQ (R169). -/
def markTimeq (s : State) (t : Nat) : State :=
  { s with samp := { s.samp with holds := s.samp.holds.map (fun g => match g with
      | .hold h => if Nat.ble t h.t then .hold { h with flags := { h.flags with timeq := s.time.timeq } } else g
      | .change .. => g) } }

/-- The oscillator monitor and the vote at `t` (R166 to R171), with what clockClass 6 leaves (Table 10.6); the hub's own class enters the
selection of the grandmaster (R195). -/
def voteBoundary (s : State) (t : Nat) (osc : List (Option Int)) : State :=
  let s := markTimeq (voteAt (s.each [0, 1, 2] (oscMonitor osc t)) t) t
  selectGm (if Nat.beq (ownClass s) 6 then { s with ptp := { s.ptp with class6 := true } } else s)

/-- A pending re-epoch is cancelled when the vote at T_e finds no majority (R176). -/
def cancelReepoch (s : State) (t : Nat) : State :=
  if s.time.reepochAt = some t && Nat.beq (s.nat O.voteOutcome) 3 then
    ({ s with time := { s.time with reepochAt := none } } : State).evAt Ev.reepochCancelled 0xFF t 0
  else s

/-- A mode change is over once no word of the old mode is on its way: its word hank is sealed, in a disabled bobbin the record hank too (R252,
R254). -/
def endOldMode (s : State) (ch : Nat) : State :=
  match (s.bobbin ch).oldMode with
  | some (t0, old) =>
    if channelPending s ch t0 then s
    else
      let off := Nat.beq (s.nat O.bobbinMode ch) 0
      s.setBobbin ch { (s.bobbin ch).seal (fun h => off || Nat.beq h.kind old) (doffTime s ch) with oldMode := none }
  | none => s

/-- The next word of a channel's plan will not continue its open word hank, and no older word is on its way: the hank is sealed (R252). -/
def sealChanged (t : Nat) (s : State) (ch : Nat) : State :=
  let goesOn := fun (h : Hank) =>
    let next := h.first + h.words.length * h.interval
    match Map.find? s.draft.plans ch with
    | some p => Nat.beq h.interval (if Nat.beq h.kind 2 then p.delta else p.delta * p.profile.m) && Nat.beq (firstInstant p (Nat.beq h.kind 2) next) next
    | none => false
  let b := s.bobbin ch
  let ends := fun (h : Hank) => !Nat.beq h.kind 3 && !h.sealed && !goesOn h
  if b.hanks.any ends && !channelPending s ch t then s.setBobbin ch (b.seal ends (doffTime s ch)) else s

/-- The snapshot of a STORE at its boundary (R348, Table 17.12). -/
def storeBoundary (s : State) (t : Nat) : State :=
  match s.dict.storeAt with
  | some (b, false) =>
    if Nat.ble b t && s.dict.storing.isNone then
      ({ s with dict := { s.dict with storing := some (settingsOf s) } } : State).put O.storeTime 0 t
    else s
  | _ => s

/-- CAL_ON_START's request at the first boundary after READY (R113). -/
def calOnStart (s : State) (t : Nat) : State :=
  if s.cal.onStartDone || !isReady s then s
  else
    let s : State := { s with cal := { s.cal with onStartDone := true } }
    if s.bool O.calOnStart then calAutoRequest s t else s

/-- The chapters' own work at a boundary. -/
def chapterBoundary (s : State) (t : Nat) : State :=
  let s := syncBoundary s t
  let s := trigPrune (s.each (List.range 16) (fun s q => feedBoundary s q t))
  let s := s.each (s.bob.bobbins.map (·.1)) (fun s ch => sealChanged t (endOldMode s ch) ch)
  let s := releaseChanges s
  let s := if inRestart s then s else rearmDue s t
  let s := match s.upd.resumeAt with | some b => if Nat.ble b t then resumeSampling s t else s | none => s
  let s := rootCheck (actBoundary (healthBoundary s t) t)
  let s := calOnStart (storeBoundary s t) t
  { s with dict := { s.dict with counters := some (counterStore s) } }

/-- GRID_FRAME_BOUNDARY: the next frame boundary, after its slot boundary (R87, R105, R167, R337 to R339, R423). -/
def execGridFrameBoundary (e : FrameEnv) (s : State) : Out :=
  let t := s.samp.lastFrame + frameTicks
  let paused := s.time.pause.isSome || s.upd.gapFrom.isSome
  if !s.gridOn || s.pwr.sleep.isSome || (!paused && Nat.blt s.samp.lastSlot t) then .next s else
  let s := s.elapse t e.adv
  let s : State := { s with samp := { s.samp with lastFrame := t }, time := { s.time with crystal := e.crystal } }
  let s := if paused then s else s.each (List.range 33) (countSkipped t)
  let s := dueWrites (calBoundary s t e.temps) t
  let s := chapterBoundary (cancelReepoch (voteBoundary s t e.osc) t) t
  match s.pwr.resetCause with
  | some c => .next (fullReset s c (railsKept s.pwr))
  | none => .next s

/-! ### Re-epoch (R176 to R178) -/

/-- Timed writes whose T the jump passes over are discarded, as R338 has it for a T that passes unserved. -/
def dropPassed (s : State) (te start : Nat) : State := dropWrites s (fun w => w.timed && Nat.blt te w.t && Nat.blt w.t start)

/-- REEPOCH_EXECUTE: at T_e, after its vote (Table 9.6). -/
def execReepochExecute (s : State) : Out :=
  match s.time.reepochAt with
  | none => .next s
  | some te =>
    if !s.gridOn || !Nat.beq s.samp.lastFrame te || s.time.pause.isSome then .next s else
    let d := reepochD s te
    let start := reepochStart te d
    let g := ((te : Int) + d).toNat
    let s := closeStreams s te
    let s := reepochStrands (s.each (s.bob.bobbins.map (·.1)) closeAll)
    let s := s.evAt Ev.reepoch 0xFF te 0 (beI 8 d)
    let s := if d > 0 then dropPassed s te start else s
    let s := rebase ((g : Int) - s.now) s
    .next { s with
      time := { s.time with reepochAt := none, pause := some { te := te, d := d, start := start }, slewEnd := none, slewUntil := g }
      samp := { s.samp with lastFrame := (g - 1) / frameTicks * frameTicks } }

/-- An epoch record (Table 9.7). -/
def epochRecord (epoch ch : Nat) (p : Reepoch) : Bytes :=
  be 1 0x31 ++ be 1 0 ++ be 2 epoch ++ be 4 ch ++ be 8 p.te ++ be 8 p.start ++ beI 8 p.d

/-- EPOCH_START: at T_e′, after its boundary (Table 9.6, R178). -/
def execEpochStart (s : State) : Out :=
  match s.time.pause with
  | none => .next s
  | some p =>
    if Nat.blt s.samp.lastFrame p.start then .next s else
    let t := p.start
    let n := (s.nat O.timeEpoch + 1) % 65536
    let s := ((s.put O.timeEpoch 0 n).put O.epochStart 0 t).put O.tAnchor 0 0
    let s : State := { s with time := { s.time with pause := none }, samp := { s.samp with lastSlot := t },
                              draft := { s.draft with anchors := [] } }
    let s := s.each (enabledChannels s.objs) (fun s ch => commitRecord s ch t (epochRecord n ch p))
    .next (restartReductions (replanAll s t (fun _ => false)) t true)

/-- RECOMPUTATION_COMPLETE: a spindle has recomputed what it missed (R241); a throttled hub has paused it (R433). -/
def execRecomputationComplete (k : Fin 16) (s : State) : Out :=
  if s.pwr.throttled || s.spin.restarting then .next s else .next (recomputeSpindle s k)

end Sys2Proof.Machine
end

