-- ==== Sys2Proof/Machine/Dispatch.lean ====
section
/-! DEFINITION. One arm per command (spec/opcode_table.json): a direct call of its meaning. -/

namespace Sys2Proof.Machine

/-- What a command does to everything but the queue. -/
def exec (i : Instr) (s : State) : Host.Outcome State Fault Refusal :=
  match i with
  | .vinValid mv kept => Sys2Proof.Machine.execVinValid mv kept s
  | .vinInvalid mv => Sys2Proof.Machine.execVinInvalid mv s
  | .pwrPgRise g t => Sys2Proof.Machine.execPwrPgRise g t s
  | .pgFault g => Sys2Proof.Machine.execPgFault g s
  | .pgRestartWait => Sys2Proof.Machine.execPgRestartWait s
  | .pgLoss g => Sys2Proof.Machine.execPgLoss g s
  | .resetNAssert ns => Sys2Proof.Machine.execResetNAssert ns s
  | .resetNRelease => Sys2Proof.Machine.execResetNRelease s
  | .fullReset t q => Sys2Proof.Machine.execFullReset t q s
  | .coreRestart t q => Sys2Proof.Machine.execCoreRestart t q s
  | .watchdog t => Sys2Proof.Machine.execWatchdog t s
  | .coreRestartEnd t bad => Sys2Proof.Machine.execCoreRestartEnd t bad s
  | .portResetLane l t q => Sys2Proof.Machine.execPortResetLane l t q s
  | .portResetMailbox n t q => Sys2Proof.Machine.execPortResetMailbox n t q s
  | .portResetReel r t q => Sys2Proof.Machine.execPortResetReel r t q s
  | .startUpPartApply t => Sys2Proof.Machine.execStartUpPartApply t s
  | .dramWipeAdvance mib => Sys2Proof.Machine.execDramWipeAdvance mib s
  | .gridStart t adv => Sys2Proof.Machine.execGridStart t adv s
  | .startWaitExpiry adv => Sys2Proof.Machine.execStartWaitExpiry adv s
  | .freeRunningGrandmasterStart adv => Sys2Proof.Machine.execFreeRunningGrandmasterStart adv s
  | .sleepReq t q => Sys2Proof.Machine.execSleepReq t q s
  | .sleepEntry => Sys2Proof.Machine.execSleepEntry s
  | .wake src n => Sys2Proof.Machine.execWake src n s
  | .wakeAfterExpiry => Sys2Proof.Machine.execWakeAfterExpiry s
  | .thermalEvaluation hub field vin vexc => Sys2Proof.Machine.execThermalEvaluation hub field vin vexc s
  | .pmbusPoll answers => Sys2Proof.Machine.execPmbusPoll answers s
  | .pmbAlertFall status => Sys2Proof.Machine.execPmbAlertFall status s
  | .vexcAboveDeclared mv => Sys2Proof.Machine.execVexcAboveDeclared mv s
  | .domainCtrl t q => Sys2Proof.Machine.execDomainCtrl t q s
  | .gridFrameBoundary e => Sys2Proof.Machine.execGridFrameBoundary e s
  | .gridSlewEnd => Sys2Proof.Machine.execGridSlewEnd s
  | .sourceAbsent x => Sys2Proof.Machine.execSourceAbsent x s
  | .reepoch t q => Sys2Proof.Machine.execReepoch t q s
  | .reepochExecute => Sys2Proof.Machine.execReepochExecute s
  | .epochStart => Sys2Proof.Machine.execEpochStart s
  | .ppsInEdge edge adv => Sys2Proof.Machine.execPpsInEdge edge adv s
  | .todRxSentence m t => Sys2Proof.Machine.execTodRxSentence m t s
  | .ppsOutEdge => Sys2Proof.Machine.execPpsOutEdge s
  | .todTxSentence => Sys2Proof.Machine.execTodTxSentence s
  | .syncReceived rx m => Sys2Proof.Machine.execSyncReceived rx m s
  | .pdelayReqReceived rx m => Sys2Proof.Machine.execPdelayReqReceived rx m s
  | .pdelayRespReceived rx m rate => Sys2Proof.Machine.execPdelayRespReceived rx m rate s
  | .pdelayReqSend l => Sys2Proof.Machine.execPdelayReqSend l s
  | .pdelayExchangeLost l => Sys2Proof.Machine.execPdelayExchangeLost l s
  | .announceReceived rx m => Sys2Proof.Machine.execAnnounceReceived rx m s
  | .announceTimeout t => Sys2Proof.Machine.execAnnounceTimeout t s
  | .ptpFrameDiscarded port m => Sys2Proof.Machine.execPtpFrameDiscarded port m s
  | .gmSyncSend => Sys2Proof.Machine.execGmSyncSend s
  | .gmAnnounceSend => Sys2Proof.Machine.execGmAnnounceSend s
  | .twinTimeMessageSend => Sys2Proof.Machine.execTwinTimeMessageSend s
  | .twinTimeMessage rx m => Sys2Proof.Machine.execTwinTimeMessage rx m s
  | .txTimebaseStep => Sys2Proof.Machine.execTxTimebaseStep s
  | .trunkCycleStart => Sys2Proof.Machine.execTrunkCycleStart s
  | .launchTimeReached p grid base => Sys2Proof.Machine.execLaunchTimeReached p grid base s
  | .frameTransmitEnd l grid base adv => Sys2Proof.Machine.execFrameTransmitEnd l grid base adv s
  | .slotBoundary e => Sys2Proof.Machine.execSlotBoundary e s
  | .rawWordFormed => Sys2Proof.Machine.execRawWordFormed s
  | .draftingInput parity faults => Sys2Proof.Machine.execDraftingInput parity faults s
  | .feedTimeout q faults => Sys2Proof.Machine.execFeedTimeout q faults s
  | .tailTimeout ch => Sys2Proof.Machine.execTailTimeout ch s
  | .reductionIntervalEnd ch => Sys2Proof.Machine.execReductionIntervalEnd ch s
  | .maskSpanStart m => Sys2Proof.Machine.execMaskSpanStart m s
  | .maskPulseEnd o => Sys2Proof.Machine.execMaskPulseEnd o s
  | .watchComparatorEdge k rising edge tap reach => Sys2Proof.Machine.execWatchComparatorEdge k rising edge tap reach s
  | .trigPinEdge pin rising edge => Sys2Proof.Machine.execTrigPinEdge pin rising edge s
  | .fieldInputEdge pin rising edge => Sys2Proof.Machine.execFieldInputEdge pin rising edge s
  | .syncPinEdge edge => Sys2Proof.Machine.execSyncPinEdge edge s
  | .blankEdge pin high edge => Sys2Proof.Machine.execBlankEdge pin high edge s
  | .gridTimeTrigger u => Sys2Proof.Machine.execGridTimeTrigger u s
  | .injStart c t q => Sys2Proof.Machine.execInjStart c t q s
  | .injectedEntryBegin c => Sys2Proof.Machine.execInjectedEntryBegin c s
  | .wbRunStart k => Sys2Proof.Machine.execWbRunStart k s
  | .wbCheck k e faults => Sys2Proof.Machine.execWbCheck k e faults s
  | .excTripped k => Sys2Proof.Machine.execExcTripped k s
  | .excSettleElapsed k sense => Sys2Proof.Machine.execExcSettleElapsed k sense s
  | .refBufferSettled c src => Sys2Proof.Machine.execRefBufferSettled c src s
  | .calStart t q => Sys2Proof.Machine.execCalStart t q s
  | .calIntervalExpiry => Sys2Proof.Machine.execCalIntervalExpiry s
  | .calSweepStart codeSum => Sys2Proof.Machine.execCalSweepStart codeSum s
  | .handoverStep relief runs => Sys2Proof.Machine.execHandoverStep relief runs s
  | .compatStop runs => Sys2Proof.Machine.execCompatStop runs s
  | .syncCmd t q => Sys2Proof.Machine.execSyncCmd t q s
  | .draftClear ch t q => Sys2Proof.Machine.execDraftClear ch t q s
  | .reelArm r t q => Sys2Proof.Machine.execReelArm r t q s
  | .reelRearm r => Sys2Proof.Machine.execReelRearm r s
  | .reelRelease r t q => Sys2Proof.Machine.execReelRelease r t q s
  | .windowReq seg t q => Sys2Proof.Machine.execWindowReq seg t q s
  | .windowAnswerReady => Sys2Proof.Machine.execWindowAnswerReady s
  | .bobbinDiscard ch t q => Sys2Proof.Machine.execBobbinDiscard ch t q s
  | .standbyAgeDoff ch => Sys2Proof.Machine.execStandbyAgeDoff ch s
  | .refreshInterval k reqs fill slots => Sys2Proof.Machine.execRefreshInterval k reqs fill slots s
  | .dramTempEval mpr pmbus => Sys2Proof.Machine.execDramTempEval mpr pmbus s
  | .dramSpeed t q => Sys2Proof.Machine.execDramSpeed t q s
  | .trainingStepEnd ok => Sys2Proof.Machine.execTrainingStepEnd ok s
  | .zqcsPeriodic ok => Sys2Proof.Machine.execZqcsPeriodic ok s
  | .readGateUpdate ok => Sys2Proof.Machine.execReadGateUpdate ok s
  | .patrolScrub found => Sys2Proof.Machine.execPatrolScrub found s
  | .powerDownIdle k => Sys2Proof.Machine.execPowerDownIdle k s
  | .bankIdleTimer k bank => Sys2Proof.Machine.execBankIdleTimer k bank s
  | .laneGroupStart g => Sys2Proof.Machine.execLaneGroupStart g s
  | .laneLock l t found => Sys2Proof.Machine.execLaneLock l t found s
  | .laneLockLost l t => Sys2Proof.Machine.execLaneLockLost l t s
  | .stepOfferSend l t => Sys2Proof.Machine.execStepOfferSend l t s
  | .stepOffer l t f => Sys2Proof.Machine.execStepOffer l t f s
  | .stepGo l t f => Sys2Proof.Machine.execStepGo l t f s
  | .stepGoAck l t f => Sys2Proof.Machine.execStepGoAck l t f s
  | .stepRateSwitch l => Sys2Proof.Machine.execStepRateSwitch l s
  | .stepLockTimeout l => Sys2Proof.Machine.execStepLockTimeout l s
  | .stepExchangeTimeout l t => Sys2Proof.Machine.execStepExchangeTimeout l t s
  | .fomMeasurementEnd l t h w => Sys2Proof.Machine.execFomMeasurementEnd l t h w s
  | .stepConfirm l t f => Sys2Proof.Machine.execStepConfirm l t f s
  | .stepFallback l t f => Sys2Proof.Machine.execStepFallback l t f s
  | .stepTap l t f => Sys2Proof.Machine.execStepTap l t f s
  | .stepTapAck l t f => Sys2Proof.Machine.execStepTapAck l t f s
  | .stepLoopReq l t f => Sys2Proof.Machine.execStepLoopReq l t f s
  | .stepLoopAck l t f => Sys2Proof.Machine.execStepLoopAck l t f s
  | .stepLoopEnd l t f => Sys2Proof.Machine.execStepLoopEnd l t f s
  | .laneRetryAttempt l t => Sys2Proof.Machine.execLaneRetryAttempt l t s
  | .stepRetryExpiry l => Sys2Proof.Machine.execStepRetryExpiry l s
  | .fomPeriodic l h w => Sys2Proof.Machine.execFomPeriodic l h w s
  | .laneStepUpCommand l t q => Sys2Proof.Machine.execLaneStepUpCommand l t q s
  | .laneStepDownCommand l t q => Sys2Proof.Machine.execLaneStepDownCommand l t q s
  | .maxSpeed l t q => Sys2Proof.Machine.execMaxSpeed l t q s
  | .laneAdmin l t q => Sys2Proof.Machine.execLaneAdmin l t q s
  | .laneTest l t q => Sys2Proof.Machine.execLaneTest l t q s
  | .reorderWaitExpiry p => Sys2Proof.Machine.execReorderWaitExpiry p s
  | .ethernetFrameReceived l t f => Sys2Proof.Machine.execEthernetFrameReceived l t f s
  | .tapCopyDrop l => Sys2Proof.Machine.execTapCopyDrop l s
  | .twineForward port t f => Sys2Proof.Machine.execTwineForward port t f s
  | .skeinReceived port t f => Sys2Proof.Machine.execSkeinReceived port t f s
  | .doffReceived port t f => Sys2Proof.Machine.execDoffReceived port t f s
  | .retxReceived port t f ue => Sys2Proof.Machine.execRetxReceived port t f ue s
  | .retroReceived port t f ue => Sys2Proof.Machine.execRetroReceived port t f ue s
  | .requestAnswerComplete ue => Sys2Proof.Machine.execRequestAnswerComplete ue s
  | .mgmtRequest port t f held => Sys2Proof.Machine.execMgmtRequest port t f held s
  | .mgmtResponse port t f => Sys2Proof.Machine.execMgmtResponse port t f s
  | .eventReceived port t f => Sys2Proof.Machine.execEventReceived port t f s
  | .triggerReceived port t f => Sys2Proof.Machine.execTriggerReceived port t f s
  | .summaryReceived port t f => Sys2Proof.Machine.execSummaryReceived port t f s
  | .nakReceived port t f => Sys2Proof.Machine.execNakReceived port t f s
  | .learningEntryExpiry src => Sys2Proof.Machine.execLearningEntryExpiry src s
  | .skeinAgeExpiry id => Sys2Proof.Machine.execSkeinAgeExpiry id s
  | .transmitUnderrun l => Sys2Proof.Machine.execTransmitUnderrun l s
  | .eventSend t => Sys2Proof.Machine.execEventSend t s
  | .summarySend t => Sys2Proof.Machine.execSummarySend t s
  | .twinFrameSend t => Sys2Proof.Machine.execTwinFrameSend t s
  | .twinHeartbeat t f => Sys2Proof.Machine.execTwinHeartbeat t f s
  | .claimFrameSend => Sys2Proof.Machine.execClaimFrameSend s
  | .claimFrameReceived t coded bits => Sys2Proof.Machine.execClaimFrameReceived t coded bits s
  | .twinClaimLost t => Sys2Proof.Machine.execTwinClaimLost t s
  | .hbOutToggle t => Sys2Proof.Machine.execHbOutToggle t s
  | .hbInEdge t => Sys2Proof.Machine.execHbInEdge t s
  | .twinLeaseLapsed t => Sys2Proof.Machine.execTwinLeaseLapsed t s
  | .twinPathSilent link t => Sys2Proof.Machine.execTwinPathSilent link t s
  | .twinRoleListenEnd => Sys2Proof.Machine.execTwinRoleListenEnd s
  | .twinDualActive => Sys2Proof.Machine.execTwinDualActive s
  | .switchOver t q => Sys2Proof.Machine.execSwitchOver t q s
  | .twinSwitchOver t f => Sys2Proof.Machine.execTwinSwitchOver t f s
  | .twinSwitchOverAck t f => Sys2Proof.Machine.execTwinSwitchOverAck t f s
  | .twinSwitchFailed => Sys2Proof.Machine.execTwinSwitchFailed s
  | .switchOverHandover => Sys2Proof.Machine.execSwitchOverHandover s
  | .relayAck seg t q => Sys2Proof.Machine.execRelayAck seg t q s
  | .dirQuery seg t q => Sys2Proof.Machine.execDirQuery seg t q s
  | .dirScanDone t => Sys2Proof.Machine.execDirScanDone t s
  | .retroJob seg t q => Sys2Proof.Machine.execRetroJob seg t q s
  | .retroJobAbort t q => Sys2Proof.Machine.execRetroJobAbort t q s
  | .retroSliceComplete t => Sys2Proof.Machine.execRetroSliceComplete t s
  | .retroTimeout hub t => Sys2Proof.Machine.execRetroTimeout hub t s
  | .segmentLeave hub t => Sys2Proof.Machine.execSegmentLeave hub t s
  | .fedIntervalSend t => Sys2Proof.Machine.execFedIntervalSend t s
  | .actJob seg t q => Sys2Proof.Machine.execActJob seg t q s
  | .actMarginExpiry => Sys2Proof.Machine.execActMarginExpiry s
  | .actCancelRepeat t => Sys2Proof.Machine.execActCancelRepeat t s
  | .actLastCancel => Sys2Proof.Machine.execActLastCancel s
  | .updManifest t q => Sys2Proof.Machine.execUpdManifest t q s
  | .updPayload t q => Sys2Proof.Machine.execUpdPayload t q s
  | .updBuilt t => Sys2Proof.Machine.execUpdBuilt t s
  | .updActivate t q => Sys2Proof.Machine.execUpdActivate t q s
  | .interruptingPartsLoaded t => Sys2Proof.Machine.execInterruptingPartsLoaded t s
  | .healthHoldExpiry => Sys2Proof.Machine.execHealthHoldExpiry s
  | .trialWindowExpiry => Sys2Proof.Machine.execTrialWindowExpiry s
  | .updConfirm t q => Sys2Proof.Machine.execUpdConfirm t q s
  | .updReject t q => Sys2Proof.Machine.execUpdReject t q s
  | .updAbort t q => Sys2Proof.Machine.execUpdAbort t q s
  | .lcRequest t q => Sys2Proof.Machine.execLcRequest t q s
  | .revokeKey t q => Sys2Proof.Machine.execRevokeKey t q s
  | .keyHash second seg t q => Sys2Proof.Machine.execKeyHash second seg t q s
  | .sessionKey root seg t q => Sys2Proof.Machine.execSessionKey root seg t q s
  | .read idx sub t q => Sys2Proof.Machine.execRead idx sub t q s
  | .write idx sub t q => Sys2Proof.Machine.execWrite idx sub t q s
  | .segRead idx sub t q => Sys2Proof.Machine.execSegRead idx sub t q s
  | .segWrite idx sub t q => Sys2Proof.Machine.execSegWrite idx sub t q s
  | .segCommit idx sub t q => Sys2Proof.Machine.execSegCommit idx sub t q s
  | .segStatus idx sub t q => Sys2Proof.Machine.execSegStatus idx sub t q s
  | .batch t q => Sys2Proof.Machine.execBatch t q s
  | .cancel idx sub t q => Sys2Proof.Machine.execCancel idx sub t q s
  | .sessionOpen t q => Sys2Proof.Machine.execSessionOpen t q s
  | .sessionProve t q => Sys2Proof.Machine.execSessionProve t q s
  | .sessionClose t q => Sys2Proof.Machine.execSessionClose t q s
  | .sessionIdleExpiry id => Sys2Proof.Machine.execSessionIdleExpiry id s
  | .segmentedTransferLapse idx sub => Sys2Proof.Machine.execSegmentedTransferLapse idx sub s
  | .snapshotRelease idx sub => Sys2Proof.Machine.execSnapshotRelease idx sub s
  | .store t q => Sys2Proof.Machine.execStore t q s
  | .storeDone ok t => Sys2Proof.Machine.execStoreDone ok t s
  | .restoreDefaults t q => Sys2Proof.Machine.execRestoreDefaults t q s
  | .spiWrite cs scs addr words t => Sys2Proof.Machine.execSpiWrite cs scs addr words t s
  | .spiRead cs scs addr n t => Sys2Proof.Machine.execSpiRead cs scs addr n t s
  | .spiQuadWrite cs scs addr words t => Sys2Proof.Machine.execSpiQuadWrite cs scs addr words t s
  | .spiQuadRead cs scs addr n t => Sys2Proof.Machine.execSpiQuadRead cs scs addr n t s
  | .hostRegisterWrite sec off v t => Sys2Proof.Machine.execHostRegisterWrite sec off v t s
  | .gridHiRead sec t => Sys2Proof.Machine.execGridHiRead sec t s
  | .irqStatusClear sec v t => Sys2Proof.Machine.execIrqStatusClear sec v t s
  | .mbStatusClear n v t => Sys2Proof.Machine.execMbStatusClear n v t s
  | .outWWrite n k v t => Sys2Proof.Machine.execOutWWrite n k v t s
  | .inWRead n k t => Sys2Proof.Machine.execInWRead n k t s
  | .flushIn n t => Sys2Proof.Machine.execFlushIn n t s
  | .mailboxService n t => Sys2Proof.Machine.execMailboxService n t s
  | .responseFragmentPost n t => Sys2Proof.Machine.execResponseFragmentPost n t s
  | .mailboxCrossed n => Sys2Proof.Machine.execMailboxCrossed n s
  | .v5RailGood => Sys2Proof.Machine.execV5RailGood s
  | .sramWipeEnd => Sys2Proof.Machine.execSramWipeEnd s
  | .bootPartsLoaded t bad osc => Sys2Proof.Machine.execBootPartsLoaded t bad osc s
  | .dfeConverged l => Sys2Proof.Machine.execDfeConverged l s
  | .recomputationComplete k => Sys2Proof.Machine.execRecomputationComplete k s
  | .busyRetry => Sys2Proof.Machine.execBusyRetry s
  | .thermalReleaseWake temps n => Sys2Proof.Machine.execThermalReleaseWake temps n s
  | .fieldDieThermalReset field => Sys2Proof.Machine.execFieldDieThermalReset field s

end Sys2Proof.Machine
end

