-- ==== Sys2Proof/Safety.lean ====
section
/-! DEFINITION. What claims mean by a safe run: completion, the invariants that every step keeps, what the one-time-programmable
store only gains, the parts of the state that a command may change, and the requests that commands carry. -/

namespace Sys2Proof.Machine

/-- The command is carried out: a next state, no fault and no refusal. -/
def completes (i : Instr) (s : State) : Prop := ∃ t, exec i s = .next t

/-! ### Invariants -/

/-- The object store lists each key once, keys rising (R333). -/
def objsWf (s : State) : Prop := Map.wf s.objs = true

/-- Entries that carry consecutive numbers from `n` on. -/
def seqsFrom : Nat → List Event → Prop
  | _, [] => True
  | n, e :: l => e.seq = n % 2 ^ 32 ∧ seqsFrom (n + 1) l

/-- The event log holds at most 16,384 entries with consecutive SEQ, the next entry's SEQ following (R351, Table 17.9). -/
def logWf (s : State) : Prop :=
  s.log.entries.length ≤ 16384 ∧ ∃ n, seqsFrom n s.log.entries ∧ s.log.nextSeq = (n + s.log.entries.length) % 2 ^ 32

/-- At most 256 writes are pending (R340). -/
def pendWf (s : State) : Prop := s.dict.pend.length ≤ 256

/-- The violation log holds at most 128 entries (R330). -/
def violWf (s : State) : Prop := s.twine.violations.length ≤ 128

/-- What every step keeps. -/
structure Inv (s : State) : Prop where
  objs : objsWf s
  log : logWf s
  pend : pendWf s
  viol : violWf s

/-! ### One-time-programmable storage -/

/-- How far a life-cycle state lies on its way: BLANK, PROVISIONED, then FIELD with SERVICE, then RETIRED (Table 21.11). -/
def lcRank (n : Nat) : Nat := if n = 0 then 0 else if n = 1 then 1 else if n = 4 then 3 else 2

/-- The one-time-programmable store only gains: a revoked key slot stays revoked, a programmed slot keeps its hash, the
life cycle does not go back and its changes are counted up (R412, R414, R415). -/
structure OtpLe (a b : NvmState) : Prop where
  revoked0 : a.revoked0 = true → b.revoked0 = true
  revoked1 : a.revoked1 = true → b.revoked1 = true
  key0 : ∀ h, a.keyHash0 = some h → b.keyHash0 = some h
  key1 : ∀ h, a.keyHash1 = some h → b.keyHash1 = some h
  lc : lcRank a.lc ≤ lcRank b.lc
  count : a.lcCount ≤ b.lcCount

/-! ### Parts of the state -/

/-- The parts of the state beside the queue. -/
inductive Part where
  /-- Grid time. -/
  | now
  /-- The free values taken. -/
  | free
  /-- The dictionary objects. -/
  | objs
  /-- The event log. -/
  | log
  /-- Creels, drivers, converters, sequencers. -/
  | samp
  /-- Drafting. -/
  | draft
  /-- Calibration. -/
  | cal
  /-- Pending writes, transfers, sessions. -/
  | dict
  /-- Strands and grid. -/
  | time
  /-- Network time and egress ports. -/
  | ptp
  /-- Lanes. -/
  | lanes
  /-- Bobbins. -/
  | bob
  /-- Spindles and feed queues. -/
  | spin
  /-- Triggers, reels, mask sets. -/
  | trig
  /-- Twine. -/
  | twine
  /-- Twin operation. -/
  | twin
  /-- DRAM controllers. -/
  | dram
  /-- Supply and resets. -/
  | pwr
  /-- OTP and boot flash. -/
  | nvm
  /-- The update engine. -/
  | upd
  /-- Root services. -/
  | root
  /-- Host port and mailboxes. -/
  | host
  deriving DecidableEq, Repr

/-- A part is the same in two states. -/
def Part.same (s t : State) : Part → Prop
  | .now => t.now = s.now
  | .free => t.free = s.free
  | .objs => t.objs = s.objs
  | .log => t.log = s.log
  | .samp => t.samp = s.samp
  | .draft => t.draft = s.draft
  | .cal => t.cal = s.cal
  | .dict => t.dict = s.dict
  | .time => t.time = s.time
  | .ptp => t.ptp = s.ptp
  | .lanes => t.lanes = s.lanes
  | .bob => t.bob = s.bob
  | .spin => t.spin = s.spin
  | .trig => t.trig = s.trig
  | .twine => t.twine = s.twine
  | .twin => t.twin = s.twin
  | .dram => t.dram = s.dram
  | .pwr => t.pwr = s.pwr
  | .nvm => t.nvm = s.nvm
  | .upd => t.upd = s.upd
  | .root => t.root = s.root
  | .host => t.host = s.host

/-- Only the listed parts may differ. -/
def frame (changed : List Part) (s t : State) : Prop := ∀ p, p ∉ changed → Part.same s t p

/-- Only the listed dictionary objects may differ. -/
def objsExcept (keys : List Nat) (s t : State) : Prop := ∀ k, k ∉ keys → Map.find? t.objs k = Map.find? s.objs k


/-! ### What commands answer -/

/-- The command answers a next state, and the next state has a property. -/
def answers (i : Instr) (s : State) (p : State → Prop) : Prop := ∃ t, exec i s = .next t ∧ p t

/-- The log gains one entry of a code, unit and parameter, and nothing else (R351, Table 17.10). -/
def logsOnly (s t : State) (code unit : Nat) (param : Bytes) : Prop :=
  ∃ e : Event, e.code = code ∧ e.unit = unit ∧ e.param = fit 12 param ∧ t.log = s.log.push e

/-- A U32 counter object counts one; what it reads past its largest value is free (log entry 2). -/
def counts (s t : State) (r : Ref) (u : Nat) : Prop := s.nat r u + 1 < 2 ^ 32 → t.nat r u = s.nat r u + 1

/-- A STEP frame of a type that passes every check of a lane in service (R329, R330). -/
def stepFrame (s : State) (l : Nat) (f : Bytes) (stype : Nat) : Prop :=
  hKind f = 10 ∧ frameCheck f = 0 ∧ hMac f = false ∧ field f 16 1 = stype ∧ s.nat O.laneAdmin l = 1

/-- A frame of a kind arrives at `t` on a port but 19 for this hub or for all and passes the checks of every kind; `s1` is the state once its
sender is learnt (R312, R330). -/
def arrivesHere (s : State) (port t : Nat) (f : Bytes) (kind : Nat) (s1 : State) : Prop :=
  hKind f = kind ∧ port ≠ 19 ∧ ownFrame s f = false ∧ (addressedHere s f = true ∨ hBcast f = true) ∧ frameCheck f = 0 ∧ (hMac f = true → kind = 4) ∧
  s1 = learnSrc (tookFrame (s.advance t) port f) port f

/-- A TWIN frame, or a MGMT frame for this hub, arrives at `t` on port 19 and passes the checks of every kind (R312, R330, R361). -/
def arrivesAtTwinPort (s : State) (t : Nat) (f : Bytes) (kind : Nat) (s1 : State) : Prop :=
  hKind f = kind ∧ (kind = 9 ∨ kind = 4 ∧ addressedHere s f = true) ∧ frameCheck f = 0 ∧ (hMac f = true → kind = 4) ∧
  s1 = tookFrame (s.advance t) 19 f

/-- A frame is a violation of Table 16.10: logged last in the violation log, and counted. -/
def refusedAs (s t : State) (port : Nat) (f : Bytes) (reason : Nat) : Prop :=
  (∃ l, t.twine.violations = l ++ [violationEntry s port f reason]) ∧ counts s t O.violationCount 0

/-- The objects that a full reset keeps or sets: the read-only identity, the factory record, the cause, UPD_STATE, the figures of the
field die, and what takes effect at a reset (R350, R405, R417, R423). -/
def resetKeeps (k : Nat) : Prop :=
  k ∈ [O.siliconRev.key, O.serial.key, O.baseMac.key, O.lastResetCause.key, O.updState.key, O.vin.key, O.fieldTemp.key]
    ∨ O.factoryCal.key ≤ k ∧ k ≤ O.factorySkew.at 32 ∨ (∃ p ∈ resetPairs, k = p.1.key ∨ k = p.2.key)
    ∨ O.hashWindowNext.key ≤ k ∧ k < O.hashWindowNext.key + 4 ∨ O.hashWindow.key ≤ k ∧ k < O.hashWindow.key + 4

/-- What a full reset leaves (R423, R426, Table 22.3): its cause is kept, HUB_STATUS is BOOTING, every other object but those of `resetKeeps` reads
its default, every volatile part is as after power-on, and OTP and boot flash are kept; `boots` is BOOT_COUNT after it. -/
def resetLeaves (s t : State) (cause boots : Nat) : Prop :=
  t.nat O.lastResetCause = cause ∧ t.nat O.hubStatus = 0 ∧ (∀ k, ¬resetKeeps k → Map.find? t.objs k = none) ∧ t.gridOn = false
    ∧ t.now = 0 ∧ t.log = {} ∧ t.samp = {} ∧ t.draft = {} ∧ t.cal = {} ∧ t.dict = {}
    ∧ t.time = {} ∧ t.ptp = {} ∧ t.lanes = {} ∧ t.bob = {} ∧ t.spin = {} ∧ t.trig = {} ∧ t.twine = {} ∧ t.dram = {} ∧ t.root = {}
    ∧ t.host = {} ∧ t.twin = { strap := s.twin.strap } ∧ t.upd.gapFrom = none ∧ t.nvm = { s.nvm with bootCount := boots }

/-- Every part. -/
def allParts : List Part :=
  [.now, .free, .objs, .log, .samp, .draft, .cal, .dict, .time, .ptp, .lanes, .bob, .spin, .trig, .twine, .twin, .dram, .pwr, .nvm, .upd,
   .root, .host]

/-- All parts but some. -/
def allBut (l : List Part) : List Part := allParts.filter (fun p => !(l.contains p))

/-- The parts beside the queue that a command may change, by its chapter; a request may be a write of any object, so it may change all. -/
def changes (i : Instr) : List Part :=
  match i with
  | .vinValid _ _ => allBut [.free]
  | .vinInvalid _ => allBut [.free]
  | .pwrPgRise _ _ => [.now, .time, .pwr]
  | .pgFault _ => allBut [.free]
  | .pgRestartWait => [.pwr]
  | .pgLoss _ => allBut [.free]
  | .resetNAssert _ => allBut [.free]
  | .resetNRelease => [.pwr]
  | .fullReset _ _ => allParts
  | .coreRestart _ _ => allParts
  | .watchdog _ => allBut [.free]
  | .coreRestartEnd _ _ => [.now, .free, .objs, .log, .samp, .cal, .ptp, .bob, .spin, .trig, .twine, .twin, .pwr, .nvm, .host]
  | .portResetLane _ _ _ => allParts
  | .portResetMailbox _ _ _ => allParts
  | .portResetReel _ _ _ => allParts
  | .startUpPartApply _ => [.now, .objs, .log, .ptp, .pwr]
  | .dramWipeAdvance _ => [.objs, .bob, .dram]
  | .gridStart _ _ => allBut [.nvm]
  | .startWaitExpiry _ => allBut [.nvm]
  | .freeRunningGrandmasterStart _ => allBut [.nvm]
  | .sleepReq _ _ => allParts
  | .sleepEntry => allBut [.nvm, .root]
  | .wake _ _ => [.now, .free, .objs, .log, .samp, .draft, .cal, .time, .lanes, .spin, .trig, .twin, .dram, .pwr, .host]
  | .wakeAfterExpiry => [.now, .free, .objs, .log, .samp, .draft, .cal, .time, .lanes, .spin, .trig, .twin, .dram, .pwr, .host]
  | .thermalEvaluation _ _ _ _ => allBut [.free]
  | .pmbusPoll _ => [.log, .pwr]
  | .pmbAlertFall _ => [.log, .pwr]
  | .vexcAboveDeclared _ => [.objs, .log]
  | .domainCtrl _ _ => allParts
  | .gridFrameBoundary _ => allParts
  | .gridSlewEnd => [.now, .objs, .time]
  | .sourceAbsent _ => [.now, .objs, .log, .time]
  | .reepoch _ _ => allParts
  | .reepochExecute => allBut [.nvm]
  | .epochStart => [.objs, .log, .samp, .draft, .time, .ptp, .bob, .spin, .twine]
  | .ppsInEdge _ _ => [.now, .time, .trig]
  | .todRxSentence _ _ => [.now, .free, .objs, .log, .time]
  | .ppsOutEdge => [.now, .time]
  | .todTxSentence => [.now, .time]
  | .syncReceived _ _ => [.now, .free, .objs, .log, .time, .ptp, .lanes]
  | .pdelayReqReceived _ _ => [.now, .objs, .ptp, .lanes]
  | .pdelayRespReceived _ _ _ => [.now, .objs, .ptp, .lanes]
  | .pdelayReqSend _ => [.now, .ptp]
  | .pdelayExchangeLost _ => [.ptp]
  | .announceReceived _ _ => [.now, .objs, .ptp, .lanes]
  | .announceTimeout _ => [.now, .objs, .ptp]
  | .ptpFrameDiscarded _ _ => [.objs]
  | .gmSyncSend => [.ptp]
  | .gmAnnounceSend => [.ptp]
  | .twinTimeMessageSend => [.ptp]
  | .twinTimeMessage _ _ => [.now, .free, .objs, .log, .time, .lanes]
  | .txTimebaseStep => [.now, .time]
  | .trunkCycleStart => [.now, .objs, .ptp]
  | .launchTimeReached _ _ _ => [.now, .objs, .ptp]
  | .frameTransmitEnd _ _ _ _ => [.now, .objs, .time, .ptp, .lanes]
  | .slotBoundary _ => [.now, .free, .objs, .log, .samp]
  | .rawWordFormed => [.now, .free, .objs, .log, .samp, .draft, .cal, .ptp, .bob, .trig, .twine, .pwr]
  | .draftingInput _ _ => [.free, .objs, .log, .samp, .draft, .ptp, .bob, .spin, .trig, .twine, .pwr]
  | .feedTimeout _ _ => [.now, .free, .objs, .log, .samp, .ptp, .bob, .spin, .trig, .twine, .pwr]
  | .tailTimeout _ => [.now, .bob]
  | .reductionIntervalEnd _ => [.now, .objs, .log, .ptp, .bob, .spin, .twine]
  | .maskSpanStart _ => [.now, .trig]
  | .maskPulseEnd _ => [.now, .trig]
  | .watchComparatorEdge _ _ _ _ _ => [.now, .free, .objs, .log, .samp, .ptp, .bob, .spin, .trig, .twine]
  | .trigPinEdge _ _ _ => [.now, .free, .objs, .log, .samp, .ptp, .bob, .spin, .trig, .twine]
  | .fieldInputEdge _ _ _ => [.now, .free, .objs, .log, .samp, .ptp, .bob, .spin, .trig, .twine]
  | .syncPinEdge _ => [.log, .draft, .trig]
  | .blankEdge _ _ _ => [.log, .samp, .trig]
  | .gridTimeTrigger _ => [.now, .free, .objs, .log, .samp, .ptp, .bob, .spin, .trig, .twine]
  | .injStart _ _ _ => allParts
  | .injectedEntryBegin _ => [.objs, .log, .samp]
  | .wbRunStart _ => [.objs, .log, .samp]
  | .wbCheck _ _ _ => [.now, .free, .objs, .log, .samp, .draft, .ptp, .bob, .spin, .trig, .twine, .pwr]
  | .excTripped _ => [.now, .log, .samp]
  | .excSettleElapsed _ _ => [.now, .log, .samp]
  | .refBufferSettled _ _ => [.now, .objs]
  | .calStart _ _ => allParts
  | .calIntervalExpiry => [.now, .log, .cal]
  | .calSweepStart _ => [.objs, .log, .samp, .cal]
  | .handoverStep _ _ => [.free, .objs, .log, .samp, .cal]
  | .compatStop _ => [.free, .objs, .log, .samp, .cal]
  | .syncCmd _ _ => allParts
  | .draftClear _ _ _ => allParts
  | .reelArm _ _ _ => allParts
  | .reelRearm _ => [.now, .free, .objs, .ptp, .trig, .twine]
  | .reelRelease _ _ _ => allParts
  | .windowReq _ _ _ => allParts
  | .windowAnswerReady => [.bob]
  | .bobbinDiscard _ _ _ => allParts
  | .standbyAgeDoff _ => [.bob]
  | .refreshInterval _ _ _ _ => [.objs, .dram]
  | .dramTempEval _ _ => [.objs, .log, .dram]
  | .dramSpeed _ _ => allParts
  | .trainingStepEnd _ => [.objs, .log, .dram]
  | .zqcsPeriodic _ => [.log, .dram]
  | .readGateUpdate _ => [.log, .dram]
  | .patrolScrub _ => [.now, .objs, .log, .bob, .twine, .dram]
  | .powerDownIdle _ => [.dram]
  | .bankIdleTimer _ _ => [.dram]
  | .laneGroupStart _ => [.now, .objs, .lanes]
  | .laneLock _ _ _ => [.now, .objs, .ptp, .lanes, .trig, .twine, .root]
  | .laneLockLost _ _ => [.now, .objs, .log, .ptp, .lanes, .twine]
  | .stepOfferSend _ _ => [.now, .lanes]
  | .stepOffer _ _ _ => [.now, .objs, .ptp, .lanes, .twine]
  | .stepGo _ _ _ => [.now, .objs, .ptp, .lanes, .twine]
  | .stepGoAck _ _ _ => [.now, .objs, .ptp, .lanes, .twine]
  | .stepRateSwitch _ => [.now, .objs, .ptp, .lanes, .twine]
  | .stepLockTimeout _ => [.now, .lanes]
  | .stepExchangeTimeout _ _ => [.now, .objs, .log, .ptp, .lanes]
  | .fomMeasurementEnd _ _ _ _ => [.now, .objs, .log, .ptp, .lanes, .trig, .twine, .root]
  | .stepConfirm _ _ _ => [.now, .objs, .log, .ptp, .lanes, .trig, .twine, .root]
  | .stepFallback _ _ _ => [.now, .objs, .log, .ptp, .lanes, .twine]
  | .stepTap _ _ _ => [.now, .objs, .ptp, .lanes, .twine]
  | .stepTapAck _ _ _ => [.now, .objs, .log, .ptp, .lanes, .trig, .twine, .root]
  | .stepLoopReq _ _ _ => [.now, .objs, .ptp, .lanes, .twine]
  | .stepLoopAck _ _ _ => [.now, .objs, .ptp, .lanes, .twine]
  | .stepLoopEnd _ _ _ => [.now, .objs, .ptp, .lanes, .twine]
  | .laneRetryAttempt _ _ => [.now, .objs, .log, .ptp, .lanes]
  | .stepRetryExpiry _ => [.now, .lanes]
  | .fomPeriodic _ _ _ => [.objs]
  | .laneStepUpCommand _ _ _ => allParts
  | .laneStepDownCommand _ _ _ => allParts
  | .maxSpeed _ _ _ => allParts
  | .laneAdmin _ _ _ => allParts
  | .laneTest _ _ _ => allParts
  | .reorderWaitExpiry _ => [.now, .objs, .lanes]
  | .ethernetFrameReceived _ _ _ => [.now, .objs, .lanes]
  | .tapCopyDrop _ => [.now, .objs, .lanes]
  | .twineForward _ _ _ => [.now, .objs, .ptp, .lanes, .twine]
  | .skeinReceived _ _ _ => [.now, .objs, .log, .ptp, .lanes, .twine, .root]
  | .doffReceived _ _ _ => [.now, .objs, .log, .ptp, .lanes, .bob, .trig, .twine, .root]
  | .retxReceived _ _ _ _ => [.now, .objs, .log, .ptp, .lanes, .bob, .twine]
  | .retroReceived _ _ _ _ => [.now, .objs, .log, .ptp, .lanes, .bob, .twine]
  | .requestAnswerComplete _ => [.objs, .log, .ptp, .bob, .twine]
  | .mgmtRequest _ _ _ _ => allParts
  | .mgmtResponse _ _ _ => [.now, .objs, .log, .ptp, .lanes, .twine, .root]
  | .eventReceived _ _ _ => [.now, .objs, .ptp, .lanes, .twine]
  | .triggerReceived _ _ _ => [.now, .free, .objs, .log, .samp, .ptp, .lanes, .bob, .spin, .trig, .twine]
  | .summaryReceived _ _ _ => [.now, .objs, .log, .ptp, .lanes, .twine, .root]
  | .nakReceived _ _ _ => [.now, .objs, .log, .ptp, .lanes, .twine, .root]
  | .learningEntryExpiry _ => [.now, .twine]
  | .skeinAgeExpiry _ => [.now, .objs, .ptp, .twine]
  | .transmitUnderrun _ => [.objs, .ptp]
  | .eventSend _ => [.now, .objs, .ptp, .twine]
  | .summarySend _ => [.now, .objs, .ptp, .twine, .root]
  | .twinFrameSend _ => [.now, .objs, .ptp, .twin]
  | .twinHeartbeat _ _ => [.now, .objs, .ptp, .lanes, .twine, .twin]
  | .claimFrameSend => [.now, .twin]
  | .claimFrameReceived _ _ _ => [.now, .objs, .samp, .twin]
  | .twinClaimLost _ => [.now, .objs, .log, .samp, .twin]
  | .hbOutToggle _ => [.now, .twin]
  | .hbInEdge _ => [.now, .twin]
  | .twinLeaseLapsed _ => [.now, .objs, .log, .samp, .ptp, .twin]
  | .twinPathSilent _ _ => [.now, .objs, .log, .samp, .bob, .trig, .twine, .twin]
  | .twinRoleListenEnd => [.now, .objs, .log, .samp, .bob, .trig, .twine, .twin]
  | .twinDualActive => [.now, .objs, .log, .samp, .ptp, .twin]
  | .switchOver _ _ => allParts
  | .twinSwitchOver _ _ => [.now, .objs, .ptp, .lanes, .twine, .twin]
  | .twinSwitchOverAck _ _ => [.now, .objs, .ptp, .lanes, .twine, .twin]
  | .twinSwitchFailed => [.now, .log, .twin]
  | .switchOverHandover => [.now, .objs, .log, .samp, .ptp, .bob, .trig, .twine, .twin]
  | .relayAck _ _ _ => allParts
  | .dirQuery _ _ _ => allParts
  | .dirScanDone _ => [.now, .root]
  | .retroJob _ _ _ => allParts
  | .retroJobAbort _ _ => allParts
  | .retroSliceComplete _ => [.now, .objs, .ptp, .root]
  | .retroTimeout _ _ => [.now, .objs, .log, .ptp, .root]
  | .segmentLeave _ _ => [.now, .root]
  | .fedIntervalSend _ => [.now, .objs, .ptp, .root]
  | .actJob _ _ _ => allParts
  | .actMarginExpiry => [.now, .objs, .log, .ptp, .twine, .root]
  | .actCancelRepeat _ => [.now, .objs, .ptp, .twine, .root]
  | .actLastCancel => [.now, .objs, .ptp, .twine, .root]
  | .updManifest _ _ => allParts
  | .updPayload _ _ => allParts
  | .updBuilt _ => [.now, .objs, .log, .nvm]
  | .updActivate _ _ => allParts
  | .interruptingPartsLoaded _ => [.now, .upd]
  | .healthHoldExpiry => [.now, .objs, .log, .nvm, .upd]
  | .trialWindowExpiry => [.now, .objs, .log, .samp, .cal, .dict, .ptp, .bob, .spin, .trig, .twine, .twin, .pwr, .nvm, .upd, .root, .host]
  | .updConfirm _ _ => allParts
  | .updReject _ _ => allParts
  | .updAbort _ _ => allParts
  | .lcRequest _ _ => allParts
  | .revokeKey _ _ => allParts
  | .keyHash _ _ _ _ => allParts
  | .sessionKey _ _ _ _ => allParts
  | .read _ _ _ _ => allParts
  | .write _ _ _ _ => allParts
  | .segRead _ _ _ _ => allParts
  | .segWrite _ _ _ _ => allParts
  | .segCommit _ _ _ _ => allParts
  | .segStatus _ _ _ _ => allParts
  | .batch _ _ => allParts
  | .cancel _ _ _ _ => allParts
  | .sessionOpen _ _ => allParts
  | .sessionProve _ _ => allParts
  | .sessionClose _ _ => allParts
  | .sessionIdleExpiry _ => [.now, .dict]
  | .segmentedTransferLapse _ _ => [.now, .dict]
  | .snapshotRelease _ _ => [.now, .dict]
  | .store _ _ => allParts
  | .storeDone _ _ => [.now, .objs, .log, .dict, .nvm]
  | .restoreDefaults _ _ => allParts
  | .spiWrite _ _ _ _ _ => [.now, .objs, .log, .dict, .host]
  | .spiRead _ _ _ _ _ => [.now, .objs, .host]
  | .spiQuadWrite _ _ _ _ _ => [.now, .objs, .log, .dict, .host]
  | .spiQuadRead _ _ _ _ _ => [.now, .objs, .host]
  | .hostRegisterWrite _ _ _ _ => [.now, .host]
  | .gridHiRead _ _ => [.now, .host]
  | .irqStatusClear _ _ _ => [.now, .host]
  | .mbStatusClear _ _ _ => [.now, .host]
  | .outWWrite _ _ _ _ => [.now, .objs, .log, .host]
  | .inWRead _ _ _ => [.now, .host]
  | .flushIn _ _ => [.now, .objs, .host]
  | .mailboxService _ _ => allParts
  | .responseFragmentPost _ _ => [.now, .host]
  | .mailboxCrossed _ => [.now, .objs, .log, .host]
  | .v5RailGood => [.pwr]
  | .sramWipeEnd => [.pwr]
  | .bootPartsLoaded _ _ _ => [.now, .objs, .log, .samp, .time, .lanes, .dram, .pwr, .nvm, .host]
  | .dfeConverged _ => [.now, .lanes]
  | .recomputationComplete _ => [.objs, .log, .ptp, .bob, .spin, .twine]
  | .busyRetry => [.now, .objs, .ptp, .twine, .root]
  | .thermalReleaseWake _ _ => [.now, .free, .objs, .log, .samp, .draft, .cal, .time, .lanes, .spin, .trig, .twin, .dram, .pwr, .host]
  | .fieldDieThermalReset _ => allBut [.free]

/-! ### Requests -/

/-- The dictionary request that a command of the table carries: its time, OP, object and fields (R342, R343, R345); `none` for the other
commands, and for MGMT_REQUEST, whose frame is read at its arrival. -/
def requestOf (i : Instr) : Option (Nat × Nat × Nat × Req) :=
  match i with
  | .fullReset t q => some (t, 2, O.fullReset.key, q)
  | .coreRestart t q => some (t, 2, O.coreRestart.key, q)
  | .portResetLane l t q => some (t, 2, O.portReset.key, (reqWith q (be 2 (256 + l.val))))
  | .portResetReel r t q => some (t, 2, O.portReset.key, (reqWith q (be 2 (768 + r.val))))
  | .sleepReq t q => some (t, 2, O.sleepReq.key, q)
  | .domainCtrl t q => some (t, 2, O.domainCtrl.key, q)
  | .reepoch t q => some (t, 2, O.reepoch.key, q)
  | .injStart c t q => some (t, 2, (O.injStart.at c), q)
  | .calStart t q => some (t, 2, O.calStart.key, q)
  | .syncCmd t q => some (t, 2, O.syncCmd.key, q)
  | .draftClear ch t q => some (t, 2, (O.draftClear.at ch), q)
  | .reelArm r t q => some (t, 2, (O.reelArm.at r), q)
  | .reelRelease r t q => some (t, 2, (O.reelRelease.at r), q)
  | .windowReq seg t q => some (t, (writeOp seg), O.windowReq.key, q)
  | .bobbinDiscard ch t q => some (t, 2, (O.bobbinDiscard.at ch), q)
  | .dramSpeed t q => some (t, 2, O.dramSpeed.key, q)
  | .laneStepUpCommand l t q => some (t, 2, (O.laneStepObj.at l), (reqWith q [1#8]))
  | .laneStepDownCommand l t q => some (t, 2, (O.laneStepObj.at l), (reqWith q [2#8]))
  | .maxSpeed l t q => some (t, 2, (O.maxSpeed.at l), q)
  | .laneAdmin l t q => some (t, 2, (O.laneAdmin.at l), q)
  | .laneTest l t q => some (t, 2, (O.laneTest.at l), q)
  | .switchOver t q => some (t, 2, O.switchOver.key, q)
  | .relayAck seg t q => some (t, (writeOp seg), O.relayAck.key, q)
  | .dirQuery seg t q => some (t, (writeOp seg), O.dirQuery.key, q)
  | .retroJob seg t q => some (t, (writeOp seg), O.retroJob.key, q)
  | .retroJobAbort t q => some (t, 2, O.retroJob.key, (reqWith q [0#8]))
  | .actJob seg t q => some (t, (writeOp seg), O.actJob.key, q)
  | .updManifest t q => some (t, 5, O.updManifest.key, q)
  | .updPayload t q => some (t, 5, O.updPayload.key, q)
  | .updActivate t q => some (t, 2, O.updActivate.key, q)
  | .updConfirm t q => some (t, 2, O.updConfirm.key, q)
  | .updReject t q => some (t, 2, O.updReject.key, q)
  | .updAbort t q => some (t, 2, O.updAbort.key, q)
  | .lcRequest t q => some (t, 2, O.lcRequest.key, q)
  | .revokeKey t q => some (t, 2, O.revokeKey.key, q)
  | .keyHash second seg t q => some (t, (writeOp seg), (if second then O.keyHash1.key else O.keyHash0.key), q)
  | .sessionKey root seg t q => some (t, (writeOp seg), (if root then O.kRoot.key else O.kShost.key), q)
  | .read idx sub t q => some (t, 1, (idx.toNat * 256 + sub.toNat), q)
  | .write idx sub t q => some (t, 2, (idx.toNat * 256 + sub.toNat), q)
  | .segRead idx sub t q => some (t, 3, (idx.toNat * 256 + sub.toNat), q)
  | .segWrite idx sub t q => some (t, 4, (idx.toNat * 256 + sub.toNat), q)
  | .segCommit idx sub t q => some (t, 5, (idx.toNat * 256 + sub.toNat), q)
  | .segStatus idx sub t q => some (t, 6, (idx.toNat * 256 + sub.toNat), q)
  | .batch t q => some (t, 7, 0, q)
  | .cancel idx sub t q => some (t, 8, (idx.toNat * 256 + sub.toNat), q)
  | .sessionOpen t q => some (t, 9, 0, q)
  | .sessionProve t q => some (t, 10, 0, q)
  | .sessionClose t q => some (t, 11, 0, q)
  | .store t q => some (t, 2, O.store.key, q)
  | .restoreDefaults t q => some (t, 2, O.restoreDefaults.key, q)
  | .portResetMailbox n t (some q) => some (t, 2, O.portReset.key, reqWith q (be 2 (512 + n.val)))
  | _ => none

/-- A request reaches the dictionary over mailbox `n` and passes step 1 of R336: the distaff serves, the body has a legal length, and
principal, session and TAG hold; `s1` is the state once the session has noted it. -/
def authentic (s : State) (n : Fin 4) (t op key : Nat) (q : Req) (x : Option Session) (s1 : State) : Prop :=
  q.path = .mailbox n ∧ (s.advance t).mbServed = true ∧ (askOf op (key / 256) (key % 256) q).tooLong = false ∧
  mailboxAuth (s.advance t) n (askOf op (key / 256) (key % 256) q) = (0, x) ∧
  s1 = noteRequest (s.advance t) (askOf op (key / 256) (key % 256) q) x

/-- The answer of a request stands last among the responses that wait at mailbox `n`, and nothing else of the mailboxes changed. -/
def answeredWith (s u : State) (n : Fin 4) (op key : Nat) (q : Req) (x : Option Session) (r : Answer) : Prop :=
  u.host = (queueResponse s n.val (askAnswer u (askOf op (key / 256) (key % 256) q) x r)).host

/-- The new write of an accepted transfer. -/
def pendingOf (s : State) (q : Req) (d : ObjDef) (key : Nat) (v : Val) : PendWrite :=
  { t := effectTime s d q.timed, timed := q.timed.isSome, key := key, val := stored d key v, principal := Principal.code q.principal,
    batch := 0, order := s.dict.order }

/-- Steps 2 to 8 of R336 pass for one value `b`. -/
def accepted (s : State) (q : Req) (d : ObjDef) (key : Nat) (b : Bytes) (expedited : Bool) : Prop :=
  writeRow s (key / 256) (key % 256) q.principal = (0, some d) ∧ typeAbort d b expedited = 0 ∧
  fiveToSeven s q.principal q.timed false false [⟨d, key, stored d key (decodeValue d.typ b)⟩] ⟨d, key, stored d key (decodeValue d.typ b)⟩ = 0 ∧
  stepEight s [⟨d, key, stored d key (decodeValue d.typ b)⟩] (effectTime s d q.timed) q.timed (waitsFor d q.timed) = 0

end Sys2Proof.Machine
end

