-- ==== Sys2Proof/Certificates/Slice0/Obligations.lean ====
section
/-! DEFINITION. The statements for the provers. Each docstring says which rules of spec/ its statement formalises; where one rests on a
choice of the model it names the log entry. -/

open Sys2Proof Sys2Proof.Machine


/-! ### The queue, and what every command does -/

/-- The block takes its commands first in, first out: with `c` at the front of the queue, a step is `c` on the state with the
queue's rest. -/
def Obligations.StepRunsFrontCommand : Prop :=
  ∀ (s : State) (c : Instr), step (s.withCommand c) = exec c s

/-- With no command waiting a step changes nothing (log entry 8, the model's choice). -/
def Obligations.EmptyQueueIdles : Prop :=
  ∀ s : State, s.pending = [] → step s = .next s

/-- Every command answers a next state in every state: none faults and none is refused.
Where the spec leaves a point open it follows the model's choice: log entry 9. -/
def Obligations.EveryCommandAnswers : Prop :=
  ∀ (i : Instr) (s : State), completes i s

/-- Every step keeps the invariants: the object store in its one form, at most 16,384 log entries with consecutive SEQ, at most
256 pending writes, at most 128 violations logged. -/
def Obligations.StepKeepsInvariant : Prop :=
  ∀ s t : State, Inv s → step s = .next t → Inv t

/-- The state after reset has the invariants.
Where the spec leaves a point open it follows the model's choice: log entry 3. -/
def Obligations.ResetHasInvariant : Prop :=
  Inv State.reset

/-- Whatever the command, OTP only gains: a revoked slot stays revoked, a programmed key slot keeps its hash, the life cycle does not
go back. -/
def Obligations.OtpOnlyGains : Prop :=
  ∀ s t : State, step s = .next t → OtpLe s.nvm t.nvm

/-- Each command changes at most the parts of the state that its chapter gives it, and leaves the queue's rest as it is. -/
def Obligations.CommandsKeepOtherParts : Prop :=
  ∀ (i : Instr) (s t : State), exec i s = .next t → frame (changes i) s t ∧ t.pending = s.pending

/-- A read of an object that no step has written gives the default of its table: an empty store reads as the defaults (R333).
Where the spec leaves a point open it follows the model's choice: log entries 3, 4, 5. -/
def Obligations.ResetReadsDefaults : Prop :=
  (∀ (r : Ref) (u : Nat), r.at u ≠ O.lastResetCause.key → State.reset.objs.val (r.at u) r.dflt = r.dflt) ∧
  State.reset.nat O.lastResetCause = 1 ∧ State.reset.nat O.hubStatus = 0 ∧ State.reset.log = {} ∧
  State.reset.gridOn = false ∧ State.reset.pwr = {} ∧ State.reset.pending = []


/-! ### Requests on the mailboxes (chapters 17 and 20) -/

/-- An accepted WRITE that waits for a boundary, of any command that is one: it joins the pending writes at its T, in place of a
timed write of the same object for the same T (of a profile, in place of any write for it, which is then logged: log entry 163), and the
answer carries ABORT 0 and T; no object and no part but the queue of pending writes, the mailbox and the time changes. An accepted
UPD_ACTIVATE also arms the update, and a timed REEPOCH notes its T_e (R176, R340, R408). Of a command with frame
commit the effect comes at the boundary and is that of the statements on commands taking effect.
Completes: write, fullReset, coreRestart, sleepReq, domainCtrl, draftClear, reelArm, dramSpeed, switchOver, updActivate, updReject, lcRequest,
sessionKey.
Where the spec leaves a point open it follows the model's choice: log entries 42, 163. -/
def Obligations.AcceptedWriteWaitsForItsBoundary : Prop :=
  ∀ (i : Instr) (s s1 : State) (n : Fin 4) (t key : Nat) (q : Req) (x : Option Session) (d : ObjDef),
    requestOf i = some (t, 2, key, q) → authentic s n t 2 key q x s1 → accepted s1 q d key q.data true → waitsFor d q.timed = true →
    answers i s (fun u =>
      u.dict.pend = s1.dict.pend.filter (fun w =>
          !(((w.timed && q.timed.isSome) || isProfile key) && Nat.beq key w.key && Nat.beq (effectTime s1 d q.timed) w.t))
        ++ [pendingOf s1 q d key (decodeValue d.typ q.data)] ∧
      answeredWith s u n 2 key q x { abort := 0, effect := effectTime s1 d q.timed } ∧
      (isProfile key = false → key ≠ O.updActivate.key → u.log = s.log) ∧
      (key ≠ O.updActivate.key → key ≠ O.reepoch.key → frame [.now, .log, .dict, .host] s u) ∧
      (key = O.updActivate.key → u.nat O.updState = 4 ∧ logsOnly s u Ev.updArmed 0xFF [] ∧ frame [.now, .objs, .log, .dict, .host] s u) ∧
      (key = O.reepoch.key → u.time = { s1.time with reepochAt := q.timed } ∧ frame [.now, .dict, .time, .host] s u))

/-- An accepted WRITE that does not wait takes effect at once, of any command that is one: the state is that of its value put and its
action done, and the answer carries ABORT 0 and the instant; what the action does is in the statements on commands taking effect.
Completes: write, portResetLane, portResetMailbox, portResetReel, reepoch, injStart, calStart, syncCmd, reelRelease, windowReq, bobbinDiscard,
laneStepUpCommand, laneStepDownCommand, maxSpeed, laneAdmin, laneTest, relayAck, dirQuery, retroJob, retroJobAbort, actJob, updConfirm, updAbort,
revokeKey, keyHash, store, restoreDefaults.
Where the spec leaves a point open it follows the model's choice: log entry 91. -/
def Obligations.AcceptedImmediateWriteActsNow : Prop :=
  ∀ (i : Instr) (s s1 : State) (n : Fin 4) (t key : Nat) (q : Req) (x : Option Session) (d : ObjDef),
    requestOf i = some (t, 2, key, q) → authentic s n t 2 key q x s1 → accepted s1 q d key q.data true → waitsFor d q.timed = false →
    answers i s (fun u =>
      ∃ v, v = applyWrites s1.now [pendingOf s1 q d key (decodeValue d.typ q.data)]
          { s1 with dict := { s1.dict with order := s1.dict.order + 1 } } ∧
        u = queueResponse v n.val (askAnswer v (askOf 2 (key / 256) (key % 256) q) x { abort := 0, effect := s1.now }) ∧
        frame [.host] v u)

/-- An accepted SEG_COMMIT, of any command that is one: the transfer holds every byte and its CRC-32C agrees. A value that does not wait
takes effect at once, one that waits joins the pending writes at its T, and the transfer ends (R343). The accepted commit of
UPD_PAYLOAD erases the inactive slot and starts the build, with nothing of it built (R406).
Completes: segCommit, updManifest, updPayload, windowReq, relayAck, dirQuery, retroJob, actJob, keyHash, sessionKey.
Where the spec leaves a point open it follows the model's choice: log entries 91, 93. -/
def Obligations.AcceptedCommitActsNow : Prop :=
  (∀ (i : Instr) (s s1 s2 : State) (n : Fin 4) (t key : Nat) (q : Req) (x : Option Session) (d : ObjDef) (y : SegWrite),
      requestOf i = some (t, 5, key, q) → authentic s n t 5 key q x s1 → key ≠ O.updPayload.key → 8 ≤ q.data.length →
      s2 = touchSegs s1 q key → s2.dict.segs.find? (fun z => z.isOf (ownerOf q) key) = some y → field q.data 0 4 = y.total →
      (covered y.held y.total).length = y.total → crc32c (covered y.held y.total) = field q.data 4 4 →
      accepted s2 q d key (covered y.held y.total) false →
      let w := pendingOf s2 q d key (decodeValue d.typ (covered y.held y.total))
      (waitsFor d q.timed = false → answers i s (fun u =>
        ∃ v, v = applyWrites s2.now [w] { s2 with dict := { s2.dict with order := s2.dict.order + 1 } } ∧
          u.dict = { v.dict with segs := v.dict.segs.filter (fun z => !z.isOf (ownerOf q) key) } ∧
          frame [.dict, .host] v u ∧ answeredWith v u n 5 key q x { abort := 0, effect := s2.now })) ∧
      (waitsFor d q.timed = true → key ≠ O.updActivate.key → key ≠ O.reepoch.key → answers i s (fun u =>
        u.dict.pend = s1.dict.pend.filter (fun w =>
            !(((w.timed && q.timed.isSome) || isProfile key) && Nat.beq key w.key && Nat.beq (effectTime s2 d q.timed) w.t)) ++ [w] ∧
          u.dict.segs = s2.dict.segs.filter (fun z => !z.isOf (ownerOf q) key) ∧ (isProfile key = false → u.log = s.log) ∧
          frame [.now, .log, .dict, .host] s u ∧ answeredWith s u n 5 key q x { abort := 0, effect := effectTime s2 d q.timed }))) ∧
  (∀ (s s1 : State) (n : Fin 4) (t : Nat) (q : Req) (x : Option Session) (d : ObjDef),
      authentic s n t 5 O.updPayload.key q x s1 → 8 ≤ q.data.length → payloadState s1 = 0 →
      (payloadHeld s1).length = payloadSize s1 → field q.data 0 4 = payloadSize s1 → crc32c (payloadHeld s1) = field q.data 4 4 →
      accepted s1 q d O.updPayload.key (payloadHeld s1) false → waitsFor d q.timed = false →
      answers (.updPayload t q) s (fun u => u.nat O.updState = 2 ∧ u.nat O.updProgress = 0 ∧ u.nvm.pointer = s.nvm.pointer ∧
        (s.nvm.pointer.active ≤ 1 → u.nvm.slot (1 - s.nvm.pointer.active) = {} ∧ u.nvm.slot s.nvm.pointer.active = s.nvm.slot s.nvm.pointer.active) ∧
        answeredWith s u n 5 O.updPayload.key q x { abort := 0, effect := s1.now } ∧ frame [.now, .objs, .log, .dict, .nvm, .host] s u))

/-- A refused request changes nothing but the response that says so (R335, R336). A WRITE is refused by steps 2 and 3, its type, steps 5 to 7 or
step 8, in this order, and no object, pending write or log entry changes; a request without the rights of its path is refused by step 1.
Where the spec leaves a point open it follows the model's choice: log entries 87, 102, 103. -/
def Obligations.RefusedRequestsChangeNothing : Prop :=
  (∀ (i : Instr) (s s1 : State) (n : Fin 4) (t key : Nat) (q : Req) (x : Option Session) (a : Nat),
      requestOf i = some (t, 2, key, q) → authentic s n t 2 key q x s1 → a ≠ 0 →
      (writeRow s1 (key / 256) (key % 256) q.principal = (a, none) ∨
        ∃ d w, writeRow s1 (key / 256) (key % 256) q.principal = (0, some d) ∧ w = NewWrite.mk d key (stored d key (decodeValue d.typ q.data)) ∧
          (typeAbort d q.data true = a ∨
            typeAbort d q.data true = 0 ∧
              (fiveToSeven s1 q.principal q.timed false false [w] w = a ∨
                fiveToSeven s1 q.principal q.timed false false [w] w = 0 ∧
                  stepEight s1 [w] (effectTime s1 d q.timed) q.timed (waitsFor d q.timed) = a))) →
      answers i s (fun u => frame [.now, .dict, .host] s u ∧ u.dict = s1.dict ∧ answeredWith s u n 2 key q x { abort := a })) ∧
  (∀ (i : Instr) (s : State) (n : Fin 4) (t op key : Nat) (q : Req) (a : Nat) (x : Option Session),
      requestOf i = some (t, op, key, q) → q.path = .mailbox n → (s.advance t).mbServed = true →
      (askOf op (key / 256) (key % 256) q).tooLong = false →
      mailboxAuth (s.advance t) n (askOf op (key / 256) (key % 256) q) = (a, x) → a ≠ 0 →
      answers i s (fun u => frame [.now, .host] s u ∧ answeredWith s u n op key q x { abort := a }))

/-- READ answers the object's value and changes no setting: but for what a read of its object draws or clears (DRAFT_STATE[4], the test counters,
UPD_PROGRESS during a build), nothing but the time, the session and the mailbox changes. Completes: read.
Where the spec leaves a point open it follows the model's choice: log entry 91. -/
def Obligations.ReadAnswersValue : Prop :=
  ∀ (s s1 : State) (n : Fin 4) (idx : BitVec 16) (sub : BitVec 8) (t : Nat) (q : Req) (x : Option Session) (d : Option ObjDef),
    let key := idx.toNat * 256 + sub.toNat
    let b := takeValue (beforeRead s1 key) idx.toNat sub.toNat d
    authentic s n t 1 key q x s1 → readRow idx.toNat sub.toNat q.principal = (0, d) → b.length ≤ 8 →
    answers (.read idx sub t q) s (fun u =>
      answeredWith s u n 1 key q x { abort := 0, effect := s1.gridTime, data := b } ∧ frame [.host] (afterRead (beforeRead s1 key) key) u ∧
      (beforeRead s1 key = s1 → afterRead s1 key = s1 → frame [.now, .dict, .host] s u ∧ u.dict = s1.dict) ∧
      frame [.now, .free, .objs, .draft, .dict, .host] s u)

/-- CANCEL of a pending timed write at least two frames ahead removes it and nothing else of the pending writes; that of an activation
disarms it, and that of a re-epoch takes back its T_e (R176, R340, R408). Completes: cancel.
Where the spec leaves a point open it follows the model's choice: log entries 91, 94. -/
def Obligations.CancelRemovesPendingWrite : Prop :=
  ∀ (s s1 : State) (n : Fin 4) (idx : BitVec 16) (sub : BitVec 8) (t : Nat) (q : Req) (x : Option Session) (d : ObjDef) (w : PendWrite),
    let key := idx.toNat * 256 + sub.toNat
    authentic s n t 8 key q x s1 → writeRow s1 idx.toNat sub.toNat q.principal = (0, some d) → isBooting s1 = false →
    (s1.dict.pend.filter (fun w => Nat.beq w.key key)).find? (·.timed) = some w → s1.now + 1280000 ≤ w.t →
    answers (.cancel idx sub t q) s (fun u =>
      u.dict.pend = s1.dict.pend.filter (fun y => !Nat.beq y.order w.order) ∧
      answeredWith s u n 8 key q x { abort := 0, effect := s1.gridTime } ∧
      (key = O.reepoch.key → u.time = { s1.time with reepochAt := none } ∧ frame [.now, .dict, .time, .host] s u) ∧
      (key = O.updActivate.key → frame [.now, .objs, .dict, .host] s u ∧ (s.nat O.updState = 4 → s.nvm.pointer.trial = false →
        (∀ y ∈ s1.dict.pend, y.key = O.updActivate.key → y.order = w.order) → u.nat O.updState = 3)) ∧
      (key ≠ O.updActivate.key → key ≠ O.reepoch.key → frame [.now, .dict, .host] s u))

/-- An accepted BATCH: every entry joins the pending writes for T, in the batch's order and as one unit, in place of the timed writes of the
same objects for T, and none takes effect before. Completes: batch.
Where the spec leaves a point open it follows the model's choice: log entries 89, 90. -/
def Obligations.BatchIsAcceptedWhole : Prop :=
  ∀ (s s1 : State) (n : Fin 4) (t at_ : Nat) (q : Req) (x : Option Session) (es : List BatchEntry) (news : List NewWrite),
    authentic s n t 7 0 q x s1 → decodeBatch q.data = some es → q.timed = some at_ → es.map (entryWrite s1 q.principal) = news.map (fun w => (0, some w)) →
    (∀ w ∈ news, inRange w.d w.val = true) →
    firstPass s1 q.principal q.timed news 0 [] (news.map (fun w => (0, some w))) = none → secondPass s1 at_ q.timed news = none →
    answers (.batch t q) s (fun u =>
      u.dict.pend = s1.dict.pend.filter (fun p => !((p.timed || isProfile p.key) && Nat.beq at_ p.t && news.any (fun w => Nat.beq w.key p.key)))
        ++ news.zipIdx.map (fun y => PendWrite.mk at_ true y.1.key y.1.val (Principal.code q.principal) s1.dict.batchNo (s1.dict.order + y.2)) ∧
      answeredWith s u n 7 0 q x { abort := 0, effect := at_ } ∧
      ((∀ w ∈ news, isProfile w.key = false ∧ w.key ≠ O.updActivate.key) → u.log = s.log) ∧
      ((∀ w ∈ news, w.key ≠ O.updActivate.key ∧ w.key ≠ O.reepoch.key) → frame [.now, .log, .dict, .host] s u) ∧
      frame [.now, .objs, .log, .dict, .time, .host] s u)

/-- SEG_WRITE of one piece is held in the requester's own transfer, or for UPD_PAYLOAD in the update's staging, and changes no setting;
SEG_STATUS answers the transfer's total, the bytes held from offset 0 and the first missing offset, and keeps the transfer open; SEG_READ answers a piece of the
requester's snapshot, which it takes at its first piece, and notes how far WINDOW_DATA and DIR_RESULT were read.
Completes: segWrite, segStatus, segRead.
Where the spec leaves a point open it follows the model's choice: log entries 91, 93. -/
def Obligations.SegmentedTransfersStage : Prop :=
  ∀ (s s1 : State) (n : Fin 4) (idx : BitVec 16) (sub : BitVec 8) (t : Nat) (q : Req) (x : Option Session),
    let key := idx.toNat * 256 + sub.toNat
    let off := field q.data 0 4
    let len := field q.data 4 4
    (∀ d, authentic s n t 4 key q x s1 → writeRow s1 idx.toNat sub.toNat q.principal = (0, some d) → isBooting s1 = false →
      segWriteMalformed q.data = false →
      (key ≠ O.updPayload.key → (stagePiece s1 (ownerOf q) key (segFields q.data)).2 = 0 →
        answers (.segWrite idx sub t q) s (fun u => frame [.now, .dict, .host] s u ∧
          u.dict = { s1.dict with segs := (stagePiece s1 (ownerOf q) key (segFields q.data)).1.dict.segs } ∧
          answeredWith s u n 4 key q x { abort := 0, effect := s1.gridTime })) ∧
      (key = O.updPayload.key → (payloadPiece s1 (segFields q.data)).2 = 0 →
        answers (.segWrite idx sub t q) s (fun u => frame [.now, .objs, .dict, .upd, .host] s u ∧ u.dict = s1.dict ∧
          u.upd = (payloadPiece s1 (segFields q.data)).1.upd ∧
          u.nat O.updProgress = ((u.upd.blocks.map (fun b => b.2.length)).sum) ∧
          answeredWith s u n 4 key q x { abort := 0, effect := s1.gridTime }))) ∧
    (∀ d, authentic s n t 6 key q x s1 → writeRow s1 idx.toNat sub.toNat q.principal = (0, some d) →
      let h := heldFor s1 q key
      answers (.segStatus idx sub t q) s (fun u => frame [.now, .dict, .host] s u ∧ u.dict = (touchSegs s1 q key).dict ∧
        answeredWith s u n 6 key q x ⟨0, s1.gridTime, be 4 h.1 ++ be 4 h.2.length ++ be 4 h.2.length⟩)) ∧
    (∀ d, authentic s n t 3 key q x s1 → 8 ≤ q.data.length → 1 ≤ len → len ≤ 8160 → readRow idx.toNat sub.toNat q.principal = (0, d) →
      let answer := fun (value : Bytes) (taken : Nat) =>
        Answer.mk 0 taken (be 4 value.length ++ be 4 (crc32c (slice value off len)) ++ slice value off len)
      let held := fun (u : State) (value : Bytes) (taken : Nat) => ∀ y ∈ u.dict.snaps, y.owner = ownerOf q → y.key = key →
        y.value = value ∧ y.taken = taken ∧ off + (slice value off len).length < value.length
      (s1.dict.snaps.any (fun y => y.owner = ownerOf q && Nat.beq y.key key) = false →
        let v := takeValue (beforeRead s1 key) idx.toNat sub.toNat d
        answers (.segRead idx sub t q) s (fun u => answeredWith s u n 3 key q x (answer v s1.gridTime) ∧ held u v s1.gridTime ∧
          (beforeRead s1 key = s1 → afterRead s1 key = s1 → frame [.now, .dict, .bob, .root, .host] s u) ∧ u.dict.pend = s1.dict.pend ∧
          (key ≠ O.windowData.key → key ≠ O.dirResult.key → u.bob = s.bob ∧ u.root = s.root) ∧
          frame [.now, .free, .objs, .draft, .dict, .bob, .root, .host] s u)) ∧
      (∀ y, s1.dict.snaps.find? (fun y => y.owner = ownerOf q && Nat.beq y.key key) = some y →
        answers (.segRead idx sub t q) s (fun u => answeredWith s u n 3 key q x (answer y.value y.taken) ∧ held u y.value y.taken ∧
          frame [.now, .dict, .bob, .root, .host] s u ∧ u.dict.pend = s1.dict.pend ∧
          (key ≠ O.windowData.key → key ≠ O.dirResult.key → u.bob = s.bob ∧ u.root = s.root) ∧
          (∀ r, key = O.dirResult.key → s.root.result = some r →
            u.root.result = some { r with reached := max r.reached (off + (slice y.value off len).length) }) ∧
          (∀ w, key = O.windowData.key → s.bob.window = some w → w.data.isSome = true →
            u.bob.window = some { w with reached := max w.reached (off + (slice y.value off len).length) })))) 

/-- Sessions: OPEN adds one session, not yet live, with its key, and answers SESSION and the hub's nonce; PROVE makes it live, CLOSE ends it
(R346, R347). Completes: sessionOpen, sessionProve, sessionClose.
Where the spec leaves a point open it follows the model's choice: log entries 91, 104. -/
def Obligations.SessionsOpenProveClose : Prop :=
  ∀ (s s1 : State) (n : Fin 4) (t : Nat) (q : Req) (x : Option Session),
    (∀ p k, authentic s n t 9 0 q x s1 → (q.principal = .peer ∨ q.principal = .sHost) → q.data.length = 17 → wantedKey s1 q = some (p, k) →
      (liveSessions s1).length < 16 →
      answers (.sessionOpen t q) s (fun u => ∃ (id : Nat) (nonce : Bytes), nonce.length = 16 ∧ 1 ≤ id ∧ id < 2 ^ 32 ∧
        u.dict = { s1.dict with sessions := s1.dict.sessions ++ [Session.mk id p (.mailbox n) (hmac k (q.data.drop 1 ++ nonce ++ be 4 id)) false none s1.now] } ∧
        answeredWith s u n 9 0 q x { abort := 0, effect := s1.gridTime, data := be 4 id ++ nonce } ∧ frame [.now, .free, .dict, .host] s u)) ∧
    (∀ y, authentic s n t 10 0 q (some y) s1 → (y.live = true ∨ (liveSessions s1).length < 16) →
      answers (.sessionProve t q) s (fun u =>
        u.dict = { s1.dict with sessions := s1.dict.sessions.map (fun z => if Nat.beq z.id y.id then { z with live := true } else z) } ∧
        answeredWith s u n 10 0 q (some y) { abort := 0, effect := s1.gridTime } ∧ frame [.now, .dict, .host] s u)) ∧
    (∀ y, authentic s n t 11 0 q (some y) s1 →
      answers (.sessionClose t q) s (fun u => u.dict = { s1.dict with sessions := s1.dict.sessions.filter (fun z => !Nat.beq z.id y.id) } ∧
        answeredWith s u n 11 0 q (some y) { abort := 0, effect := s1.gridTime } ∧ frame [.now, .dict, .host] s u))

/-- An idle session, a lapsed transfer and an unread snapshot end at their times, 60 s after the last request of the latter two, and
nothing but the dictionary's own holdings changes (R343, R344, R347). A completed STORE or RESTORE_DEFAULTS stands in the older copy with the next
sequence number (a restore voids the other copy), a failed one leaves both copies as they were and sets STORE_STATE[1]; either logs one event
(R348, R349). Completes: sessionIdleExpiry, segmentedTransferLapse, snapshotRelease, storeDone.
Where the spec leaves a point open it follows the model's choice: log entries 97, 98. -/
def Obligations.TransfersAndStoresEnd : Prop :=
  (∀ s : State,
      (∀ (id : BitVec 32) (x : Session), s.dict.sessions.find? (fun y => Nat.beq y.id id.toNat) = some x →
        answers (.sessionIdleExpiry id) s (fun u => frame [.now, .dict] s u ∧ u.now = max s.now (x.last + s.nat O.sessionIdle * secondTicks) ∧
          u.dict = { s.dict with sessions := s.dict.sessions.filter (fun y => !Nat.beq y.id id.toNat) })) ∧
      (∀ (idx : BitVec 16) (sub : BitVec 8) (y : SegWrite), s.dict.segs.find? (fun z => Nat.beq z.key (idx.toNat * 256 + sub.toNat)) = some y →
        answers (.segmentedTransferLapse idx sub) s (fun u => frame [.now, .dict] s u ∧ u.now = max s.now (y.last + 60 * secondTicks) ∧
          u.dict = { s.dict with segs := s.dict.segs.filter (fun z => !z.isOf y.owner y.key) })) ∧
      (∀ (idx : BitVec 16) (sub : BitVec 8) (y : Snapshot), s.dict.snaps.find? (fun z => Nat.beq z.key (idx.toNat * 256 + sub.toNat)) = some y →
        answers (.snapshotRelease idx sub) s (fun u => frame [.now, .dict] s u ∧ u.now = max s.now (y.last + 60 * secondTicks) ∧
          u.dict = { s.dict with snaps := s.dict.snaps.filter (fun z => !(z.owner = y.owner && Nat.beq z.key y.key)) }))) ∧
  (∀ (s : State) (t : Nat) (objs : Store), s.dict.storing = some objs →
      let copy : StoredCopy := { seq := nextCopySeq s.nvm, objs := objs }
      let ended := fun (u : State) => u.now = max s.now t ∧ u.dict = { s.dict with storing := none, storeAt := none }
      (∀ pick restore, s.dict.storeAt = some (pick, restore) →
        answers (.storeDone true t) s (fun u => ended u ∧
          (olderCopy s.nvm = 0 → u.nvm = { s.nvm with copy0 := some copy, copy1 := (if restore then none else s.nvm.copy1), defaults := restore }) ∧
          (olderCopy s.nvm ≠ 0 → u.nvm = { s.nvm with copy1 := some copy, copy0 := (if restore then none else s.nvm.copy0), defaults := restore }) ∧
          bitOf (u.nat O.storeState) 0 = false ∧ bitOf (u.nat O.storeState) 1 = false ∧
          logsOnly s u Ev.storeDone 0xFF [] ∧ frame [.now, .objs, .log, .dict, .nvm] s u)) ∧
      answers (.storeDone false t) s (fun u => ended u ∧ u.nvm = s.nvm ∧ bitOf (u.nat O.storeState) 0 = false ∧ bitOf (u.nat O.storeState) 1 = true ∧
        logsOnly s u Ev.storeFailed 0xFF [] ∧ frame [.now, .objs, .log, .dict] s u))


/-! ### What accepted commands, requests and security writes do when they take effect -/

/-- The writes of security objects (R412, R413, R415, R416): a blank key slot takes its hash and a programmed one keeps it, a key is revoked and
the inactive image that it alone verifies fails, a session key is replaced and closes its principal's live sessions, and a life-cycle
change of Table 21.11 is counted and asks for a full reset; the value of a key is not in the log.
Where the spec leaves a point open it follows the model's choice: log entry 118. -/
def Obligations.SecurityWritesTakeEffect : Prop :=
  ∀ (s : State) (t : Nat) (w : PendWrite),
    (w.key = O.keyHash0.key → (s.nvm.keyHash0 = none → (applyWrites t [w] s).nvm = { s.nvm with keyHash0 := some w.val.toBytes }) ∧
      (s.nvm.keyHash0.isSome = true → (applyWrites t [w] s).nvm = s.nvm) ∧ frame [.log, .nvm] s (applyWrites t [w] s)) ∧
    (w.key = O.keyHash1.key → (s.nvm.keyHash1 = none → (applyWrites t [w] s).nvm = { s.nvm with keyHash1 := some w.val.toBytes }) ∧
      (s.nvm.keyHash1.isSome = true → (applyWrites t [w] s).nvm = s.nvm) ∧ frame [.log, .nvm] s (applyWrites t [w] s)) ∧
    (w.key = O.revokeKey.key → let k := w.val.toInt.toNat
      let other := s.nvm.slot (1 - s.nvm.pointer.active)
      (applyWrites t [w] s).nvm.revoked k = true ∧ (applyWrites t [w] s).nvm.slot s.nvm.pointer.active = s.nvm.slot s.nvm.pointer.active ∧
      (s.nvm.pointer.active ≤ 1 → other.state ≠ 0 → s.nvm.verifiedBy other = some k →
        ((applyWrites t [w] s).nvm.slot (1 - s.nvm.pointer.active)).state = 2) ∧
      frame [.log, .nvm] s (applyWrites t [w] s)) ∧
    (w.key = O.kRoot.key → (applyWrites t [w] s).nvm = { s.nvm with kRoot := some w.val.toBytes } ∧
      (applyWrites t [w] s).dict = { s.dict with sessions := s.dict.sessions.filter (fun x => !(x.live && x.principal == .root)) } ∧
      frame [.log, .nvm, .dict] s (applyWrites t [w] s)) ∧
    (w.key = O.kShost.key → (applyWrites t [w] s).nvm = { s.nvm with kShost := some w.val.toBytes } ∧
      (applyWrites t [w] s).dict = { s.dict with sessions := s.dict.sessions.filter (fun x => !(x.live && x.principal == .sHost)) } ∧
      frame [.log, .nvm, .dict] s (applyWrites t [w] s)) ∧
    (∀ v, w.key = O.keyHash0.key ∨ w.key = O.keyHash1.key ∨ w.key = O.kRoot.key ∨ w.key = O.kShost.key →
      (applyWrites t [{ w with val := v }] s).log = (applyWrites t [w] s).log) ∧
    (∀ new, w.key = O.lcRequest.key → w.val.toInt.toNat % 256 = new → lcTransitions.any (fun x => x.1 = s.nvm.lc ∧ x.2.1 = new) = true →
      (new ≠ 4 → (applyWrites t [w] s).nvm = { s.nvm with lc := new, lcCount := s.nvm.lcCount + 1 }) ∧
      (new = 4 → (applyWrites t [w] s).nvm = { s.nvm with lc := new, lcCount := s.nvm.lcCount + 1, kRoot := none, kShost := none, copy0 := none, copy1 := none, deviceKey := false }) ∧
      (applyWrites t [w] s).pwr = { s.pwr with resetCause := some 6 } ∧ frame [.log, .pwr, .nvm] s (applyWrites t [w] s))

/-- Every change of the slot pointer writes the copy that was not in force, with its GENERATION one higher, and is in force from
then on; the copy that was in force stays as it was. -/
def Obligations.SlotPointerWritesTheOtherCopy : Prop :=
  ∀ (n : NvmState) (f : SlotPointer → SlotPointer),
    (n.writePointer f).pointer = { f n.pointer with gen := n.pointer.gen + 1 } ∧
    ((n.ptr0 = some n.pointer → (n.writePointer f).ptr0 = n.ptr0) ∧ (n.ptr0 ≠ some n.pointer → (n.writePointer f).ptr1 = n.ptr1)) ∧
    (n.writePointer f).slotA = n.slotA ∧ (n.writePointer f).slotB = n.slotB

/-- Commands of the hub as a whole, taking effect at `t` (R113, R148, R176, R348, R349, R366, R405, R408 to R410, R425, R429): FULL_RESET and
SLEEP_REQ ask for their reset and sleep, CORE_RESTART restarts the cores with the sampling path as it was, REEPOCH, SYNC_CMD, CAL_START and STORE
set their boundaries, SWITCH_OVER of the active unit starts a switch-over and sends its frame, RESTORE_DEFAULTS prepares its copy, UPD_CONFIRM ends the trial
and UPD_ABORT discards the update. UPD_ACTIVATE makes the other slot the active one, on trial, restarts the cores and stops sampling for an interrupting image;
UPD_REJECT during a trial returns to the slot before, marks the rejected one failed and restarts the cores, and outside a trial does nothing.
Where the spec leaves a point open it follows the model's choice: log entries 34, 38, 97, 117. -/
def Obligations.HubCommandsTakeEffect : Prop :=
  ∀ (s : State) (t : Nat) (w : PendWrite),
    let u := applyWrites t [w] s
    (w.key = O.fullReset.key → u.pwr = { s.pwr with resetCause := some 5 } ∧ frame [.log, .pwr] s u) ∧
    (w.key = O.coreRestart.key →
      (inRestart s = true → frame [.log] s u) ∧
      (inRestart s = false → inRestart u = true ∧ u.nat O.hubStatus = 2 ∧ u.dict.sessions = [] ∧ u.dict.pend = s.dict.pend ∧ u.spin.restarting = true ∧
        counts s u O.restartCount 0 ∧ frame [.objs, .log, .cal, .dict, .spin, .twine, .twin, .pwr, .upd, .root, .host] s u)) ∧
    (w.key = O.sleepReq.key → u.pwr = { s.pwr with sleepDue := some { ts := t, thermal := false } } ∧ frame [.log, .pwr] s u) ∧
    (w.key = O.reepoch.key → (w.timed = false → u.time = { s.time with reepochAt := some (nextFrame s.now) } ∧ frame [.log, .time] s u) ∧
      (w.timed = true → frame [.log] s u)) ∧
    (w.key = O.syncCmd.key → let ts := if w.timed then t else nextFrame t
      (∃ p ∈ u.draft.sync, p.ts = ts ∧ p.cmd = true) ∧ (∀ p ∈ s.draft.sync, p.ts ≠ ts → p ∈ u.draft.sync) ∧
      (∀ p ∈ u.draft.sync, p.ts ≠ ts → p ∈ s.draft.sync) ∧ frame [.log, .draft] s u) ∧
    (w.key = O.calStart.key → (s.cal.sweep = none → u.cal = { s.cal with request := some (if w.timed then t else nextFrame t, false) }) ∧
      (s.cal.sweep.isSome = true → u.cal = s.cal) ∧ frame [.log, .cal] s u) ∧
    (w.key = O.switchOver.key → (s.twin.active = true → u.twin = { s.twin with switch := some { t0 := t, giving := true }, counter := (s.twin.counter + 1) % 2 ^ 32 } ∧
        frame [.objs, .log, .ptp, .twin] s u) ∧ (s.twin.active = false → frame [.log] s u)) ∧
    (w.key = O.store.key → u.dict = { s.dict with storeAt := some (nextFrame t, false) } ∧ frame [.log, .dict] s u) ∧
    (w.key = O.restoreDefaults.key → u.dict = { s.dict with storeAt := some (t, true), storing := some (keptByRestore s.nvm) } ∧
      frame [.log, .dict] s u) ∧
    (w.key = O.updConfirm.key → u.nvm.pointer = { s.nvm.pointer with gen := s.nvm.pointer.gen + 1, trial := false, boots := 0 } ∧
      u.nvm.slotA = s.nvm.slotA ∧ u.nvm.slotB = s.nvm.slotB ∧ u.nat O.updState = 0 ∧ u.nat O.trialEnd = 0 ∧ u.upd.manifest = none ∧ u.upd.bytes = [] ∧
      frame [.objs, .log, .nvm, .upd] s u) ∧
    (w.key = O.updAbort.key → u.nat O.updState = 0 ∧ u.nat O.updProgress = 0 ∧
      u.upd = { gapFrom := s.upd.gapFrom, resumeAt := s.upd.resumeAt } ∧ frame [.objs, .log, .upd] s u) ∧
    (s.nvm.pointer.active ≤ 1 →
      (w.key = O.updActivate.key → u.nvm.pointer.active = 1 - s.nvm.pointer.active ∧ u.nvm.pointer.trial = true ∧ u.nvm.pointer.boots = 0 ∧
        u.nvm.slotA = s.nvm.slotA ∧ u.nvm.slotB = s.nvm.slotB ∧ u.nat O.actTime = t ∧ inRestart u = true ∧ u.dict.pend = s.dict.pend ∧
        (∀ m, s.upd.manifest = some m → m.interrupting = true → s.upd.gapFrom = none → u.upd.gapFrom = some t) ∧
        (∀ m, s.upd.manifest = some m → m.interrupting = false → u.upd.gapFrom = s.upd.gapFrom) ∧
        frame [.objs, .log, .samp, .cal, .dict, .ptp, .bob, .spin, .trig, .twine, .twin, .pwr, .nvm, .upd, .root, .host] s u) ∧
      (w.key = O.updReject.key → (s.nat O.updState ≠ 5 → frame [.log] s u) ∧
        (s.nat O.updState = 5 → u.nvm.pointer.active = 1 - s.nvm.pointer.active ∧ u.nvm.pointer.trial = false ∧ (u.nvm.slot s.nvm.pointer.active).state = 2 ∧
          u.nvm.slot (1 - s.nvm.pointer.active) = s.nvm.slot (1 - s.nvm.pointer.active) ∧ u.nat O.updState = 6 ∧ u.nat O.trialEnd = 0 ∧
          counts s u O.rollbackCount 0 ∧ inRestart u = true ∧ u.dict.pend = s.dict.pend ∧
          frame [.objs, .log, .samp, .cal, .dict, .ptp, .bob, .spin, .trig, .twine, .twin, .pwr, .nvm, .upd, .root, .host] s u)))

/-- Commands of one block, taking effect at `t`: REEL_ARM arms a single-shot reel that has room, REEL_RELEASE frees the oldest held capture,
BOBBIN_DISCARD frees its bobbin's doffed hanks and no other bobbin's, INJ_START starts a sequence or queues one, PORT_RESET restarts its lane,
mailbox or reel, LANE_STEP asks for the neighbouring rate. Settings that act when written read as written: DOMAIN_CTRL, DRAM_SPEED, MAX_SPEED, LANE_TEST with
cleared counters, and LANE_ADMIN, whose lane restarts, tests or is powered down.
Where the spec leaves a point open it follows the model's choice: log entries 76, 77, 126. -/
def Obligations.BlockCommandsAndSettingsTakeEffect : Prop :=
  (∀ (s : State) (t : Nat) (w : PendWrite),
      let u := applyWrites t [w] s
      (∀ r : Fin 16, w.key = O.reelArm.at r →
        (s.nat O.reelMode r = 1 → (s.reel r).arm = none → (s.reel r).capture = none → reelRoom s r = true → (u.reel r).arm = some t) ∧
        (∀ q : Fin 16, q ≠ r → u.reel q = s.reel q) ∧ frame [.log, .trig] s u) ∧
      (∀ (r : Fin 16) (c : HeldCapture) (l : List HeldCapture), w.key = O.reelRelease.at r → (s.reel r).held = c :: l →
        (s.bool O.reelSend r = false → (u.reel r).held = l.filter (fun x => !Nat.beq x.id c.id)) ∧
        (s.bool O.reelSend r = true → u.trig = s.trig) ∧ (∀ q : Fin 16, q ≠ r → u.reel q = s.reel q) ∧ frame [.log, .trig] s u) ∧
      (∀ ch : Fin 512, w.key = O.bobbinDiscard.at ch → (u.bobbin ch).discard = true ∧ (∀ h ∈ (u.bobbin ch).hanks, h.doffed = false) ∧
        (∀ h ∈ (s.bobbin ch).hanks, h.sealed = false → h.doffed = false → h ∈ (u.bobbin ch).hanks) ∧
        (∀ k, k ≠ ch.val → Map.find? u.bob.bobbins k = Map.find? s.bob.bobbins k) ∧ frame [.log, .bob] s u) ∧
      (∀ c : Fin 32, w.key = O.injStart.at c → (injOf s.objs c).2 ≠ [] → interleaved s.objs c = false →
        let st := if w.timed then InjStart.mk 3 0 false (slotAtOrAfterFine (t * 65536)) false else InjStart.mk 2 0 true (injBoundaryNow t) false
        ((s.injector c).run = none → (u.injector c).run = some { start := st, mode := (injOf s.objs c).1, entries := (injOf s.objs c).2 }) ∧
        ((s.injector c).run.isSome = true → (s.injector c).waiting = none → (u.injector c).run = (s.injector c).run ∧
          (u.injector c).waiting = some { st with queued := true }) ∧
        ((s.injector c).run.isSome = true → (s.injector c).waiting.isSome = true → u.injector c = s.injector c ∧ counts s u O.injOverrun c) ∧
        frame [.objs, .log, .samp] s u) ∧
      (∀ n : Fin 4, w.key = O.portReset.key → w.val.toInt.toNat = 512 + n.val →
        (u.mailbox n).outFull = false ∧ (u.mailbox n).inFull = false ∧ (u.mailbox n).responses = [] ∧ (u.mailbox n).part = none ∧
        (∀ x ∈ u.dict.sessions, x.path ≠ .mailbox n) ∧ (∀ m : Fin 4, m ≠ n → u.mailbox m = s.mailbox m) ∧ frame [.objs, .log, .dict, .host] s u) ∧
      (∀ l : Fin 24, w.key = O.portReset.key → w.val.toInt.toNat = 256 + l.val → s.nat O.laneAdmin l = 1 →
        (u.lane l).started = true ∧ (u.lane l).lock = false ∧ (u.lane l).service = false ∧ (¬(tapRole s.objs = true ∧ 22 ≤ l.val) → (u.lane l).code = 0) ∧
        ((s.lane l).lock = true → counts s u O.lockLossCount l) ∧ frame [.objs, .log, .ptp, .lanes, .twine] s u) ∧
      (∀ r : Fin 16, w.key = O.portReset.key → w.val.toInt.toNat = 768 + r.val → (u.reel r).capture = none ∧ (u.reel r).words = [] ∧ (u.reel r).later = [] ∧
        ((s.reel r).capture = none → ∀ x ∈ (s.reel r).held, x ∈ (u.reel r).held) ∧
        ((s.reel r).capture.isSome = true → counts s u O.captureCount r ∧
          ∃ b, (u.reel r).held.map (·.bytes) = (s.reel r).held.map (·.bytes) ++ [b] ∧ bitOf (field b 2 1) 2 = true) ∧ frame [.objs, .log, .ptp, .trig, .twine] s u) ∧
      (∀ l : Fin 24, w.key = O.laneStepObj.at l → (s.lane l).step = none → laneServes s l = true →
        (w.val.toInt.toNat = 1 → (s.lane l).code < commonMax s l → ∃ x, (u.lane l).step = some x ∧ x.new = (s.lane l).code + 1) ∧
        (w.val.toInt.toNat = 2 → 1 ≤ (s.lane l).code → ∃ x, (u.lane l).step = some x ∧ x.new = (s.lane l).code - 1) ∧
        frame [.now, .objs, .log, .ptp, .lanes] s u)) ∧
  (∀ (s : State) (t n : Nat) (w : PendWrite), w.val = .int n →
      let u := applyWrites t [w] s
      (w.key = O.domainCtrl.key → u.nat O.domainCtrl = n) ∧
      (w.key = O.dramSpeed.key → u.nat O.dramSpeed = n ∧ (n ≠ s.nat O.dramSpeedActive → s.dram.training = none → u.dram.training = some (1, n) ∧
        u.dram.ready = false ∧ u.dram.changing = true) ∧ (s.dram.training.isSome = true → u.dram.waiting = some n)) ∧
      (∀ l : Fin 24, w.key = O.maxSpeed.at l → u.nat O.maxSpeed l = n ∧
        (n < (s.lane l).code → laneServes s l = true → (s.lane l).step = none → ∃ x, (u.lane l).step = some x ∧ x.new = n) ∧
        ((s.lane l).code ≤ n → u.lanes = s.lanes)) ∧
      (∀ l : Fin 24, w.key = O.laneTest.at l → u.nat O.laneTest l = n ∧ u.nat O.testErrCount l = 0 ∧ u.nat O.testBits l = 0) ∧
      (∀ l : Fin 24, w.key = O.laneAdmin.at l → u.nat O.laneAdmin l = n ∧
        (s.nat O.laneAdmin l ≠ n → (u.lane l).lock = false ∧ (u.lane l).service = false ∧ ((u.lane l).started = true ↔ n = 1 ∨ n = 2) ∧
          (n = 2 → (u.lane l).code = s.nat O.testSpeed l) ∧ (n = 1 → ¬(tapRole s.objs = true ∧ 22 ≤ l.val) → (u.lane l).code = 0))))

/-- Requests, taking effect at `t`: WINDOW_REQ starts its answer, DIR_QUERY its scan, RETRO_JOB its job and the abort ends a running one after the
slice in progress, ACT_JOB takes its hubs, UPD_MANIFEST opens the payload's transfer, RELAY_ACK acknowledges for own channels and notes the others'.
Where the spec leaves a point open it follows the model's choice: log entries 58, 107. -/
def Obligations.RequestsTakeEffect : Prop :=
  ∀ (s : State) (t : Nat) (w : PendWrite),
    let u := applyWrites t [w] s
    let b := w.val.toBytes
    (w.key = O.windowReq.key → u.bob = { s.bob with window := some { request := b } } ∧ frame [.log, .bob] s u) ∧
    (w.key = O.dirQuery.key → u.root = { s.root with query := some (b, s.gridTime), result := none } ∧ frame [.log, .root] s u) ∧
    (w.key = O.retroJob.key → retroAborts b = false → u.nat O.retroState = 1 ∧ u.nat O.retroSent = 0 ∧
      (∃ j, u.root.retro = some j ∧ j.hubs = (retroFields b).hubs ∧ j.t2 = (retroFields b).t2 ∧ j.s = s.nat O.retroSlice ∧ j.ended = false ∧
        (retroFields b).slices.length ≤ j.slices.length ∧ j.slices.length ≤ max 2 (retroFields b).slices.length) ∧ frame [.objs, .log, .ptp, .root] s u) ∧
    (∀ j, w.key = O.retroJob.key → retroAborts b = true → s.nat O.retroState = 1 → s.root.retro = some j → u.nat O.retroState = 4 ∧
      (j.slices = [] → ∃ y, u.root.retro = some y ∧ y.ended = true) ∧
      (∀ x l, j.slices = x :: l → u.root.retro = some { j with slices := [x], closing := some x.index }) ∧ frame [.objs, .log, .ptp, .root] s u) ∧
    (w.key = O.actJob.key → ∃ a, u.root.act = some a ∧ a.t = field b 4 8 ∧ a.hubs.map (·.hub) = (List.range (field b 2 2)).map (fun i => field b (12 + 2 * i) 2) ∧
      a.armed = false ∧ a.cancelled = false ∧ frame [.free, .objs, .log, .ptp, .twine, .root] s u) ∧
    (w.key = O.updManifest.key → u.nat O.updState = 1 ∧ u.nat O.updProgress = 0 ∧ u.upd = { bytes := b, manifest := (manifestCheck s b).2 } ∧
      frame [.objs, .log, .upd] s u) ∧
    (w.key = O.relayAck.key → (∀ i, i < field b 2 2 → field b (4 + 12 * i) 2 = s.nat O.hubId → field b (8 + 12 * i) 8 ≤ s.gridTime →
        field b (8 + 12 * i) 8 ≤ u.nat O.ackTime (field b (6 + 12 * i) 2 % 512)) ∧
      (∀ i, i < field b 2 2 → field b (4 + 12 * i) 2 ≠ s.nat O.hubId → (Map.find? s.root.segment (field b (4 + 12 * i) 2)).isSome = true →
        field b (8 + 12 * i) 8 ≤ ackOf u (field b (4 + 12 * i) 2) (field b (6 + 12 * i) 2 % 512)) ∧
      frame [.objs, .log, .ptp, .bob, .twine, .root] s u)


/-! ### Supply, resets, sleep and thermal limits (chapter 22) -/

/-- The commands that put the hub through a full reset: power-on, a PG fault or loss, RESET_N held low for 1 µs, a second watchdog within
10 s, and the release of the buck stop; VIN outside its range wipes the logic side as well (R417, R420, R424, R425, R433). A watchdog's
first expiry restarts the cores, in a trial it rolls the update back; the restart's end serves again with the sampling path as it was, applies the held
acknowledgements and gives the spindles the missed span to recompute (R19, R241, R410, R425).
Completes: vinValid, vinInvalid, pgFault, pgLoss, resetNAssert, watchdog, fieldDieThermalReset, coreRestartEnd.
Where the spec leaves a point open it follows the model's choice: log entries 116, 120. -/
def Obligations.ResetsActAsTheirClass : Prop :=
  (∀ s : State,
      let boots := (s.nvm.bootCount + 1) % 2 ^ 32
      (∀ (mv : Nat) (kept : Bool), s.pwr.vin = false → 8600 ≤ mv → mv ≤ 64000 → answers (.vinValid mv kept) s (fun u =>
        resetLeaves s u (if kept then s.nat O.lastResetCause else 1) boots ∧ u.pwr = { vin := true, held := s.pwr.held } ∧ u.nat O.vin = mv)) ∧
      (∀ mv : Nat, s.pwr.vin = true → mv < 8200 ∨ 64000 < mv → answers (.vinInvalid mv) s (fun u =>
        resetLeaves s u 2 s.nvm.bootCount ∧ u.pwr = { held := s.pwr.held } ∧ u.nat O.vin = mv)) ∧
      (∀ g : Fin 3, s.pwr.enabled.contains g.val = true → s.pwr.good.contains g.val = false → s.pwr.sleep = none →
        answers (.pgFault g) s (fun u => resetLeaves s u 3 boots ∧ u.pwr = { vin := s.pwr.vin, v5 := s.pwr.v5, held := s.pwr.held, pgFaults := s.pwr.pgFaults + 1, pgOff := decide (3 ≤ s.pwr.pgFaults + 1), pgWait := decide (s.pwr.pgFaults + 1 < 3) })) ∧
      (∀ g : Fin 3, s.pwr.good.contains g.val = true →
        answers (.pgLoss g) s (fun u => resetLeaves s u 3 boots ∧ u.pwr = { vin := s.pwr.vin, v5 := s.pwr.v5, held := s.pwr.held, enabled := [0] })) ∧
      (∀ ns : Nat, 1000 ≤ ns → s.pwr.held = false → answers (.resetNAssert ns) s (fun u => resetLeaves s u 4 boots ∧ u.pwr.held = true ∧
        u.pwr.vin = s.pwr.vin ∧ u.pwr.v5 = s.pwr.v5 ∧ u.pwr.booted = false ∧ u.pwr.ready = false ∧ u.pwr.sleep = none ∧
        (s.pwr.sleep = none → u.pwr.enabled = s.pwr.enabled ∧ u.pwr.good = s.pwr.good) ∧
        (s.pwr.sleep.isSome = true → u.pwr.enabled = [0, 1] ∧ u.pwr.good = [0]))) ∧
      (∀ (t e : Nat), s.pwr.booted = true → inRestart s = false → s.pwr.sleep = none → s.nat O.updState ≠ 5 → s.pwr.wdEnd = some e →
        t ≤ e + 10 * secondTicks → answers (.watchdog t) s (fun u => resetLeaves s u 8 boots ∧
          u.pwr = { vin := s.pwr.vin, v5 := s.pwr.v5, enabled := s.pwr.enabled, good := s.pwr.good, held := s.pwr.held })) ∧
      (∀ field : Int, s.pwr.buckStop = true → field < 125 * 64 →
        answers (.fieldDieThermalReset field) s (fun u => resetLeaves s u 7 boots ∧ u.int O.fieldTemp = field ∧
          u.pwr = { vin := s.pwr.vin, held := s.pwr.held }))) ∧
  (∀ (s : State) (t : Nat),
      (s.pwr.booted = true → inRestart s = false → s.pwr.sleep = none → s.nat O.updState ≠ 5 →
        (s.pwr.wdEnd = none ∨ ∃ e, s.pwr.wdEnd = some e ∧ e + 10 * secondTicks < t) →
        answers (.watchdog t) s (fun u => u.now = max s.now t ∧ inRestart u = true ∧ u.nat O.hubStatus = 2 ∧ counts s u O.restartCount 0 ∧
          u.spin.restarting = true ∧ u.dict.pend = s.dict.pend ∧ u.dict.sessions = [] ∧
          frame [.now, .objs, .log, .cal, .dict, .spin, .twine, .pwr, .upd, .root, .host] s u)) ∧
      (s.pwr.booted = true → inRestart s = false → s.pwr.sleep = none → s.nat O.updState = 5 → s.nvm.pointer.active ≤ 1 →
        answers (.watchdog t) s (fun u => inRestart u = true ∧ u.nvm.pointer.active = 1 - s.nvm.pointer.active ∧ u.nvm.pointer.trial = false ∧
          (u.nvm.slot s.nvm.pointer.active).state = 2 ∧ u.nat O.updState = 6 ∧ counts s u O.rollbackCount 0)) ∧
      (∀ bad : List (Fin 2), inRestart s = true →
        let boots := (secureBoot (s.advance t) bad).2
        answers (.coreRestartEnd t bad) s (fun u => u.now = max s.now t ∧ inRestart u = false ∧
          (boots = true → s.pwr.ready = true → u.nat O.hubStatus = 1 ∧ u.nat O.readyTime = max s.now t) ∧
          (boots = true → s.pwr.ready = false → u.nat O.hubStatus = 0) ∧ (boots = false → u.nat O.hubStatus = 4 ∧ u.spin = s.spin) ∧
          (boots = true → s.spin.restarting = true → u.spin.restarting = false ∧
            u.spin.recompute = (List.range 16).map (fun k => (k, s.spin.downSince, max s.now t)) ∧
            (∀ k : Fin 16, u.nat O.recomputeBacklog k = ceilDiv (max s.now t - s.spin.downSince) frameTicks)) ∧
          (boots = true → u.twine.heldDoffs = [] ∧ ∀ port f, s.twine.heldDoffs = [(port, f)] → field (bodyOf f) 0 2 = 1 →
            field (bodyOf f) 4 2 / 16384 ≠ 1 → s.nat O.ackTime (field (bodyOf f) 4 2 % 512) < field (bodyOf f) 12 8 →
            field (bodyOf f) 12 8 ≤ (s.advance t).gridTime → u.nat O.ackTime (field (bodyOf f) 4 2 % 512) = field (bodyOf f) 12 8) ∧
          (boots = true → s.nvm.bootable bad s.nvm.pointer.active = true → s.nat O.updState = 4 → s.nvm.pointer.trial = true → u.nat O.updState = 5 ∧
            u.nat O.trialEnd = max s.now t + s.nat O.trialWindow * secondTicks) ∧
          (s.nvm.bootable bad s.nvm.pointer.active = true → u.nvm = s.nvm) ∧ (s.bool O.twinEnable = false → u.samp = s.samp) ∧
          frame [.now, .free, .objs, .log, .samp, .cal, .ptp, .bob, .spin, .trig, .twine, .twin, .pwr, .nvm, .host] s u)))

/-- The rails come up in the order B, A, C, each enabled by the power-good of the one before; RESET_N released, the host port's SRAM wiped
and VEXC above its declared maximum are taken as their rules say (R390, R419, R420, R424).
Completes: v5RailGood, pwrPgRise, pgRestartWait, resetNRelease, sramWipeEnd, vexcAboveDeclared.
Where the spec leaves a point open it follows the model's choice: log entries 120, 123. -/
def Obligations.RailsComeUpInOrder : Prop :=
  ∀ s : State,
    (s.pwr.vin = true → s.pwr.v5 = false → s.pwr.buckStop = false → answers .v5RailGood s (fun u =>
      u.pwr = { s.pwr with v5 := true, enabled := [0], good := [] } ∧ frame [.pwr] s u)) ∧
    (∀ (g : Fin 3) (t : Nat), s.pwr.enabled.contains g.val = true → s.pwr.good.contains g.val = false → s.pwr.sleep = none →
      answers (.pwrPgRise g t) s (fun u =>
        (g.val < 2 → u.pwr = { s.pwr with good := s.pwr.good ++ [g.val], enabled := s.pwr.enabled ++ [g.val + 1] } ∧ frame [.pwr] s u) ∧
        (g.val = 2 → u.pwr = { s.pwr with good := s.pwr.good ++ [2], pgFaults := 0 } ∧ u.now = max s.now t ∧ u.time = { s.time with p1On := t } ∧
          frame [.now, .time, .pwr] s u))) ∧
    (s.pwr.pgWait = true → answers .pgRestartWait s (fun u => u.pwr = { s.pwr with pgWait := false, enabled := [0], good := [] } ∧ frame [.pwr] s u)) ∧
    (s.pwr.held = true → answers .resetNRelease s (fun u => frame [.pwr] s u ∧
      (s.pwr.pgOff = true → u.pwr = { s.pwr with held := false, pgOff := false, pgFaults := 0, enabled := [0], good := [] }) ∧
      (s.pwr.pgOff = false → u.pwr = { s.pwr with held := false }))) ∧
    (logicRuns s.pwr = true → answers .sramWipeEnd s (fun u => u.pwr = { s.pwr with sram := true } ∧ (s.pwr.sleep = none → portOn u = true) ∧ frame [.pwr] s u)) ∧
    (∀ mv : Nat, s.nat O.vexcMax + 100 < mv → answers (.vexcAboveDeclared mv) s (fun u =>
      u.nat O.supplyState = 16 ∧ u.nat O.vexc = mv ∧ frame [.objs, .log] s u ∧
      (s.nat O.supplyState ≠ 16 → logsOnly s u Ev.vexcAboveDeclared 0xFF (be 4 mv)) ∧ (s.nat O.supplyState = 16 → u.log = s.log)))

/-- PMBUS_POLL and PMB_ALERT_FALL read each listed device, a poll its STATUS_WORD, voltage, current and temperature, an alert its STATUS_WORD
alone: one without an answer counts a failure, the third in a row is logged, and a device no longer listed is forgotten.
Completes: pmbusPoll, pmbAlertFall.
Where the spec leaves a point open it follows the model's choice: log entries 18, 123. -/
def Obligations.PmbusDevicesArePolled : Prop :=
  ∀ s : State, s.pwr.booted = true → s.pwr.sleep = none →
    let old := fun a => pmbDevice (pmbusListed s) a
    let lost := fun (u : State) (l : List Bool) => ∀ a, pmbusAddresses s = [a] → l = [true] → (old a).fails = 2 → logsOnly s u Ev.pmbusLost 0xFF (be 1 a)
    (∀ answers_ : List (Option PmbReading), answers (.pmbusPoll answers_) s (fun u => frame [.log, .pwr] s u ∧
      (∀ d ∈ u.pwr.pmbus, (pmbusAddresses s).contains d.addr = true) ∧ lost u [(answers_.getD 0 none).isNone] ∧
      ((pmbusAddresses s).Nodup → ∀ i a, (pmbusAddresses s)[i]? = some a →
        (answers_.getD i none = none → pmbDevice u a = { old a with answers := false, fails := (old a).fails + 1 }) ∧
        (∀ r, answers_.getD i none = some r → (pmbDevice u a).answers = true ∧ (pmbDevice u a).fails = 0 ∧ (pmbDevice u a).status = r.status.toNat ∧
          (pmbDevice u a).vout = linear16 ((old a).mode.getD (ofTwos 5 r.mode.toNat)) r.vout.toNat ∧
          (pmbDevice u a).iout = linear11 1000 r.iout.toNat ∧ (pmbDevice u a).temp = linear11 64 r.temp.toNat)))) ∧
    (∀ status : List (Option (BitVec 16)), answers (.pmbAlertFall status) s (fun u => frame [.log, .pwr] s u ∧
      (∀ d ∈ u.pwr.pmbus, (pmbusAddresses s).contains d.addr = true) ∧ lost u [(status.getD 0 none).isNone] ∧
      ((pmbusAddresses s).Nodup → ∀ i a, (pmbusAddresses s)[i]? = some a →
        (status.getD i none = none → pmbDevice u a = { old a with answers := false, fails := (old a).fails + 1 }) ∧
        (∀ w, status.getD i none = some w → pmbDevice u a = { old a with answers := true, fails := 0, status := w.toNat }))))

/-- THERMAL_EVALUATION while the grid runs: warnings from 100, 100 and 125 °C, throttling from 105 °C, each cleared 5 K below; the hub or a converter die at
115 °C forces sleep at the next frame boundary; the field die trips at 135 °C, with every driver that is on; at 150 °C the buck stops
and the logic side is wiped. Completes: thermalEvaluation.
Where the spec leaves a point open it follows the model's choice: log entry 122. -/
def Obligations.ThermalLimitsAct : Prop :=
  ∀ (s : State) (hub field : Int) (vin vexc : Nat), s.pwr.sleep = none → s.pwr.buckStop = false → logicRuns s.pwr = true → s.gridOn = true →
    answers (.thermalEvaluation hub field vin vexc) s (fun u =>
      (field < 150 * 64 → u.int O.hubTemp = hub ∧ u.int O.fieldTemp = field ∧ u.int O.convTemp = hottestPath s ∧ u.nat O.vin = vin ∧ u.nat O.vexc = vexc ∧
        (0 ∈ u.pwr.warm ↔ 100 * 64 ≤ hub ∨ 0 ∈ s.pwr.warm ∧ 95 * 64 < hub) ∧
        (1 ∈ u.pwr.warm ↔ 100 * 64 ≤ hottestPath s ∨ 1 ∈ s.pwr.warm ∧ 95 * 64 < hottestPath s) ∧
        (2 ∈ u.pwr.warm ↔ 125 * 64 ≤ field ∨ 2 ∈ s.pwr.warm ∧ 120 * 64 < field) ∧
        (u.pwr.throttled = true ↔ 105 * 64 ≤ hub ∨ s.pwr.throttled = true ∧ 100 * 64 < hub) ∧
        (u.pwr.fieldTrip = true ↔ 135 * 64 ≤ field ∨ s.pwr.fieldTrip = true ∧ 130 * 64 < field) ∧
        (115 * 64 ≤ hub ∨ 115 * 64 ≤ hottestPath s → ∃ d, u.pwr.sleepDue = some d ∧ d.thermal = true ∧
          (s.pwr.sleepDue = none → d.ts = nextFrame s.now)) ∧
        (hub < 115 * 64 → hottestPath s < 115 * 64 → u.pwr.sleepDue = s.pwr.sleepDue) ∧
        (s.pwr.fieldTrip = false → 135 * 64 ≤ field → u.trig.fio = [] ∧ ∀ k : Fin 32, excEnabled s k = true → (u.driver k).tripped = true) ∧
        (field < 135 * 64 → u.samp = s.samp ∧ u.trig = s.trig) ∧ frame [.objs, .log, .samp, .trig, .pwr] s u) ∧
      (150 * 64 ≤ field → resetLeaves s u (s.nat O.lastResetCause) s.nvm.bootCount ∧
        u.pwr = { vin := s.pwr.vin, held := s.pwr.held, buckStop := true } ∧ u.int O.fieldTemp = field))

/-- SLEEP_ENTRY: outputs, intervals, runs and captures end, sessions close, timed writes for later are discarded, lanes, drafting and the pipelines lose what
they hold, strand A goes on in HOLDOVER with B and C off, the grid stops, and only group B stays on. Completes: sleepEntry.
Where the spec leaves a point open it follows the model's choice: log entries 106, 124. -/
def Obligations.SleepWipesThePoweredDownBlocks : Prop :=
  ∀ (s : State) (d : Sleep), s.pwr.sleepDue = some d → s.gridOn = true → d.ts ≤ s.samp.lastFrame →
    answers .sleepEntry s (fun u =>
      u.pwr.sleep = some { d with cycles := s.time.crystal } ∧ u.pwr.sleepDue = none ∧ u.pwr.enabled = [0] ∧ u.pwr.good = [0] ∧ u.pwr.ready = false ∧
      u.nat O.hubStatus = 3 ∧ u.nat O.sleepEntry = d.ts ∧ counts s u O.sleepCount 0 ∧ u.gridOn = false ∧
      (s.nat O.strandState 0 = 2 ∨ s.nat O.strandState 0 = 4 → u.nat O.strandState 0 = 3) ∧ u.nat O.strandState 1 = 6 ∧ u.nat O.strandState 2 = 6 ∧
      u.dict.sessions = [] ∧ u.dict.pend = s.dict.pend.filter (fun w => !Nat.blt d.ts w.t) ∧ u.twin.active = false ∧
      (∀ r : Fin 16, (u.reel r).capture = none ∧ (u.reel r).arm = none) ∧ (∀ c : Fin 32, (u.injector c).run = none ∧ (u.creel c).wb.pending = []) ∧
      u.samp.holds = [] ∧ u.trig.fio = [] ∧ u.lanes = {} ∧ u.draft = {} ∧ u.spin = { restarting := s.spin.restarting, downSince := s.spin.downSince } ∧
      u.cal.sweep = none ∧ u.dram.ready = false ∧ u.dram.training = none ∧
      frame [.now, .free, .objs, .log, .samp, .draft, .cal, .dict, .time, .ptp, .lanes, .bob, .spin, .trig, .twine, .twin, .dram, .pwr, .upd, .host] s u)

/-- The three wakes: an enabled source, WAKE_AFTER, and after a thermal trip the cooled dies; the hub is READY again at the first frame boundary
16 ms after the wake, with every rail group on, the grid running with TIMEQ on strand A's time, and a SLEEP gap record owed by every recording
channel (R181, R182, R431, R432). Completes: wake, wakeAfterExpiry, thermalReleaseWake.
Where the spec leaves a point open it follows the model's choice: log entries 125, 173. -/
def Obligations.WakesReturnToReady : Prop :=
  ∀ (s : State) (d : Sleep), s.pwr.sleep = some d →
    let up := fun (cause : Nat) (n : SleepCount) (u : State) =>
      let w := (s.strand 0).time + sleepAdvance s d n
      u.now = max (nextFrame ((w / 65536).toNat + 16 * msTicks)) (nextFrame d.ts) ∧
      u.pwr = { s.pwr with
        sleep := none, enabled := [0, 1, 2], good := [0, 1, 2], ready := true,
        sleepGaps := (List.range 512).filter (fun ch => Nat.beq (s.nat O.bobbinMode ch) 1 || Nat.beq (s.nat O.bobbinMode ch) 2) } ∧
      u.nat O.hubStatus = 1 ∧ u.nat O.wakeCause = cause ∧ u.nat O.readyTime = u.now ∧ u.nat O.epochStart = u.now ∧ u.nat O.tAnchor = 0 ∧
      u.gridOn = true ∧ u.time.timeq = true ∧ u.samp.lastFrame = u.now ∧ u.samp.lastSlot = u.now ∧
      (∀ x : Fin 3, (u.strand x).time = (u.now : Int) * 65536) ∧
      (∀ l ∈ laneGroup 0, s.nat O.laneAdmin l = 1 → (u.lane l).started = true) ∧ u.dram.ready = !s.dram.broken ∧
      frame [.now, .free, .objs, .log, .samp, .draft, .cal, .time, .lanes, .spin, .trig, .twin, .dram, .pwr, .host] s u
    (∀ (src : WakeSource) (n : SleepCount), d.thermal = false → wakeEnabled s src = true → answers (.wake src n) s (up (wakeCode src) n)) ∧
    (d.thermal = false → bitOf (s.nat O.wakeEnable) 0 = true →
      answers .wakeAfterExpiry s (up 1 ⟨s.nat O.wakeAfter * 32768, s.freshNat.1⟩)) ∧
    (∀ (temps : DieTemps) (n : SleepCount), d.thermal = true → temps.hub ≤ 95 * 64 → temps.conv ≤ 95 * 64 → temps.field ≤ 115 * 64 →
      answers (.thermalReleaseWake temps n) s (fun u => up 6 n u ∧ u.int O.hubTemp = temps.hub ∧ u.int O.convTemp = temps.conv ∧ u.int O.fieldTemp = temps.field))

/-- Start-up after a full reset: the start-up part of the stored copy, item by item, each in force or refused and logged; secure boot, which starts
the first lanes and the DRAM's training and owes its wipe; and the wipe's progress, which makes the hanks of the wiped regions usable (R285, R350, R411,
Table 22.4). The three starts of the grid, by the vote of tracking strands, by one strand after START_WAIT, and free-running at
the grandmaster: the grid runs from the first frame boundary of the target, sampling begins there, and the hub is READY (R170, R172, R426).
Completes: startUpPartApply, bootPartsLoaded, dramWipeAdvance, gridStart, startWaitExpiry, freeRunningGrandmasterStart.
Where the spec leaves a point open it follows the model's choice: log entries 41, 96, 121. -/
def Obligations.StartUpReachesReady : Prop :=
  (∀ s : State,
      (∀ t : Nat, logicRuns s.pwr = true → s.pwr.sram = true → s.pwr.booted = false → s.pwr.copyRead = false → s.pwr.sleep = none →
        answers (.startUpPartApply t) s (fun u =>
          (∃ v, v = (s.advance t).each ((storedItems s).filter (fun x => startUpKey x.1)) startUpItem ∧
            u.log = v.log ∧ ∀ k, k ≠ O.gmIdentity.key → k ≠ O.gmClass.key → k ≠ O.isGm.key → Map.find? u.objs k = Map.find? v.objs k) ∧
          u.now = max s.now t ∧ u.pwr.copyRead = true ∧ u.pwr.booted = false ∧ u.pwr.enabled = s.pwr.enabled ∧ frame [.now, .objs, .log, .ptp, .pwr] s u)) ∧
      (∀ (k : Nat) (v : Val) (d : ObjDef), rowOf k = some d →
        (itemAbort s d (k, v) = 0 → startUpItem s (k, v) = s.putK k v) ∧
        (itemAbort s d (k, v) ≠ 0 → logsOnly s (startUpItem s (k, v)) Ev.configItemRefused 0xFF (be 3 k ++ be 4 (itemAbort s d (k, v))) ∧
          frame [.log] s (startUpItem s (k, v)))) ∧
      (∀ (t : Nat) (bad : List (Fin 2)) (osc : List Nat), logicRuns s.pwr = true → s.pwr.sram = true → s.pwr.copyRead = true → s.pwr.booted = false →
        s.pwr.sleep = none →
        answers (.bootPartsLoaded t bad osc) s (fun u => u.now = max s.now t ∧
          ((secureBoot (bootTrial (s.advance t)) bad).2 = true → u.pwr = { s.pwr with booted := true } ∧ u.dram.wiping = true ∧
            u.dram.training = some (1, s.nat O.dramSpeed) ∧ (∀ x : Fin 3, u.nat O.oscFreq x = nominalHz (osc.getD x 0)) ∧
            (∀ l ∈ laneGroup 0, s.nat O.laneAdmin l = 1 → (u.lane l).started = true) ∧
            (s.pwr.restart = none → s.nat O.hubStatus ≠ 4 → u.mbServed = true)) ∧
          ((secureBoot (bootTrial (s.advance t)) bad).2 = false → u.pwr = s.pwr ∧ u.nat O.hubStatus = 4) ∧
          frame [.now, .objs, .log, .samp, .time, .lanes, .dram, .pwr, .nvm, .host] s u)) ∧
      (∀ mib : Nat, s.dram.wiping = true → s.dram.ready = true → answers (.dramWipeAdvance mib) s (fun u =>
        let n := min (s.nat O.wipeDone + mib) (installedMiB s.objs)
        u.nat O.wipeDone = n ∧ u.bob = { s.bob with usable := min (storeHanks s.objs) ((n - 512) * 64) } ∧ u.nat O.storeUsable = u.bob.usable ∧
        u.dram = { s.dram with wiping := decide (n < installedMiB s.objs) } ∧ frame [.objs, .bob, .dram] s u))) ∧
  (∀ (s : State) (adv : StrandAdv), startReady s = true →
      let up := fun (target2 : Int) (u : State) => u.now = firstBoundary (target2 / 2) ∧ u.now % frameTicks = 0 ∧ u.gridOn = true ∧
        bitOf (u.nat O.gridState) 0 = true ∧ u.samp.lastFrame = u.now ∧ u.samp.lastSlot = u.now ∧ u.pwr.ready = true ∧ u.nat O.hubStatus = 1 ∧
        u.nat O.readyTime = u.now ∧ u.nat O.epochStart = u.now ∧ u.cal.intervalFrom = some u.now ∧ u.nvm = s.nvm
      (∀ t : Nat, let s1 := advanceStrands (s.advance t) adv
        let v := classify (s1.nat O.voteThreshold) (strandsIn s1 [2])
        v.set ≠ [] → answers (.gridStart t adv) s (up v.target2)) ∧
      (∀ t0 : Nat, s.time.firstTracking = some t0 → (classify (s.nat O.voteThreshold) (strandsIn s [2])).set = [] →
        List.contains [2, 3, 4] (s.nat O.strandState s.time.firstStrand) = true →
        let s1 := advanceStrands (s.advance (t0 + s.nat O.startWait * msTicks)) adv
        answers (.startWaitExpiry adv) s (fun u => up (2 * (s1.strand s.time.firstStrand).time) u ∧ u.time.refOsc = s.time.firstStrand ∧
          u.nat O.voteOutcome = 3 ∧ u.time.timeq = true)) ∧
      (s.bool O.gmEnable = true → s.bool O.isGm = true → noSourceYet s = true →
        let s1 := advanceStrands (s.advance (startWaitEnd s)) adv
        let s2 := s1.each [0, 1, 2] (freeRunStrand (s1.strand 0).time)
        ((voteOf s2).set ≠ [] → answers (.freeRunningGrandmasterStart adv) s (up (voteOf s2).target2)) ∧
        (∀ x : Fin 3, s1.nat O.strandState x = 0 → s2.nat O.strandState x = 3 ∧ (s2.strand x).time = (s1.strand 0).time ∧ s2.int O.rateCorr x = 0)))


/-! ### Time and network time (chapters 9 and 10) -/

/-- The source mode is the number of distinct sources among the strands that steer the grid in TRACKING state; it runs from 0 to 3 and is reported at
0x3000:03 SOURCE_MODE (R161). -/
def Obligations.SourceModeCountsSources : Prop :=
  O.sourceMode.key = 0x300003 ∧ ∀ (s : State) (t : Nat), (voteAt s t).nat O.sourceMode ≤ 3 ∧
    (voteAt s t).nat O.sourceMode =
      ((((voteOf s).set.filter (fun x => decide (s.nat O.strandState x = 2))).map (srcOf s.objs)).eraseDups).length

/-- The end of a slew clears GRID_STATE[3]; an absent source leaves its strand unlocked, or in HOLDOVER at its servo's last rate, and its port is SLAVE no
more; an edge on PPS_IN is stamped, and a valid ZDA sentence labels it; PPS_OUT rises at the TAI second for 100 ms, and its sentence
follows as it falls (Tables 9.1 and 9.4, R160, R165, R171, R179, R180).
Completes: gridSlewEnd, sourceAbsent, ppsInEdge, todRxSentence, ppsOutEdge, todTxSentence.
Where the spec leaves a point open it follows the model's choice: log entries 15, 17, 39, 45. -/
def Obligations.TimeEventsAct : Prop :=
  ∀ s : State,
    (∀ e : Nat, s.time.slewEnd = some e → s.gridOn = true → answers .gridSlewEnd s (fun u =>
      u.now = max s.now e ∧ u.time = { s.time with slewEnd := none } ∧ bitOf (u.nat O.gridState) 3 = false ∧
      (∀ i, i ≠ 3 → bitOf (u.nat O.gridState) i = bitOf (s.nat O.gridState) i) ∧ frame [.now, .objs, .time] s u)) ∧
    (∀ x : Fin 3, answers (.sourceAbsent x) s (fun u => (u.strand x).present = false ∧ (u.strand x).window = [] ∧
      (s.nat O.strandState x = 1 → u.nat O.strandState x = 0) ∧
      (s.nat O.strandState x = 2 ∨ s.nat O.strandState x = 4 → u.nat O.strandState x = 3 ∧ u.nat O.holdoverStart x = (s.advance u.now).gridTime ∧
        u.int O.rateCorr x = clampInt (-200000) 200000 (s.strand x).servo) ∧
      (s.nat O.strandState x ∉ [1, 2, 4] → u.objs = s.objs ∧ u.log = s.log) ∧
      (∀ p, sourcePort (srcOf s.objs x) = some p → portState u p ≠ 9) ∧ frame [.now, .objs, .log, .time] s u)) ∧
    (∀ (edge : Nat) (adv : StrandAdv), answers (.ppsInEdge edge adv) s (fun u => u.now = max s.now (edge / 65536) ∧
      (∃ stamps, u.time.ppsEdge = some ((s.tdc 39 edge).1.1 / 65536, stamps) ∧
        ∀ x : Fin 3, stamps.getD x 0 = (u.strand x).time - roundDiv (s.int O.ppsInDelay * 131072) 3125) ∧
      frame [.now, .time, .trig] s u)) ∧
    (∀ (m : TodRx) (t at_ : Nat) (stamps : List Int), s.time.ppsEdge = some (at_, stamps) →
      if m.zda = true ∧ m.checksum = true ∧ at_ + 10 * msTicks ≤ t ∧ t ≤ at_ + 900 * msTicks then
        answers (.todRxSentence m t) s (fun u => u.now = max s.now t ∧ u.time.labelOk = true ∧ u.time.ppsEdge = none ∧ u.time.ppsLast = some at_ ∧
          (∀ x : Fin 3, srcOf s.objs x = 3 → s.nat O.strandState x ≠ 5 → s.nat O.strandState x ≠ 6 → (u.strand x).present = true ∧
            u.int O.sourceError x = finePs (stamps.getD x 0 - ((m.utc : Int) + s.int O.taiUtcOffset) * (secondTicks : Int) * 65536)) ∧
          (∀ x : Fin 3, srcOf s.objs x ≠ 3 → u.strand x = s.strand x) ∧
          frame [.now, .free, .objs, .log, .time] s u)
      else answers (.todRxSentence m t) s (fun u => u.now = max s.now t ∧ u.time = { s.time with labelOk := false } ∧ frame [.now, .time] s u)) ∧
    (ppsDriven s = true → answers .ppsOutEdge s (fun u => u.time = { s.time with ppsOut := some (nextPps s), ppsFall := some (nextPps s + 64000000) } ∧
      u.now = nextPps s ∧ u.now % secondTicks = 0 ∧ ppsLevel u = true ∧ frame [.now, .time] s u)) ∧
    (∀ t f : Nat, s.time.ppsOut = some t → s.time.ppsFall = some f → ppsDriven s = true → answers .todTxSentence s (fun u =>
      u.time = { s.time with ppsFall := none, tod := some ⟨(t / secondTicks : Nat) - s.int O.taiUtcOffset, !s.time.timeq⟩ } ∧
      u.now = max s.now f ∧ ppsLevel u = false ∧ frame [.now, .time] s u))

/-- GRID_FRAME_BOUNDARY moves time to the boundary, applies every write due there in the order of acceptance (but during a core restart, when
they are discarded), and then votes with the strands' times; a requested full reset begins instead of what follows. A re-epoch at its T_e
pauses the grid with time counted on from T_e + D, and the epoch that follows has the next number, starts the sequences anew and
records itself on every enabled channel (R167, R168, R176 to R178, R338, R339, R423).
Completes: gridFrameBoundary, reepochExecute, epochStart.
Where the spec leaves a point open it follows the model's choice: log entries 42, 44, 127. -/
def Obligations.FrameBoundariesAndReepochs : Prop :=
  ∀ s : State,
    (∀ (e : FrameEnv), s.gridOn = true → s.pwr.sleep = none →
      let t := s.samp.lastFrame + frameTicks
      let paused := s.time.pause.isSome || s.upd.gapFrom.isSome
      let due := s.dict.pend.filter (fun w => Nat.ble w.t t)
      let s1 := s.elapse t e.adv
      let s2 : State := { s1 with samp := { s1.samp with lastFrame := t }, time := { s1.time with crystal := e.crystal } }
      let s3 := calBoundary (if paused then s2 else s2.each (List.range 33) (countSkipped t)) t e.temps
      let s4 := dueWrites s3 t
      let s5 := cancelReepoch (voteBoundary s4 t e.osc) t
      (paused = true ∨ t ≤ s.samp.lastSlot) →
      (inRestart s = false → s4 = applyWrites t due { s3 with dict := { s3.dict with pend := s.dict.pend.filter (fun w => Nat.blt t w.t) } }) ∧
      (inRestart s = true → s4.dict.pend = s.dict.pend.filter (fun w => !Nat.ble w.t t) ∧ s4.samp = s3.samp ∧ s4.draft = s3.draft) ∧
      answers (.gridFrameBoundary e) s (fun u =>
        (s5.pwr.resetCause = none → u.now = s5.now ∧ u.samp.lastFrame = s5.samp.lastFrame ∧ u.time = s5.time ∧ u.nvm = s5.nvm ∧ u.dram = s5.dram ∧
          u.twin = s5.twin ∧ u.lanes = s5.lanes ∧ u.dict.pend = s5.dict.pend) ∧
        (∀ c, s5.pwr.resetCause = some c → u.now = 0 ∧ u.gridOn = false ∧ u.pwr = railsKept s5.pwr ∧ u.nat O.lastResetCause = c ∧ u.log = {}))) ∧
    (∀ te : Nat, s.time.reepochAt = some te → s.gridOn = true → s.samp.lastFrame = te → s.time.pause = none →
      answers .reepochExecute s (fun u =>
        u.time.pause = some { te := te, d := reepochD s te, start := reepochStart te (reepochD s te) } ∧
        u.time.reepochAt = none ∧ u.time.slewEnd = none ∧ u.now = ((te : Int) + reepochD s te).toNat ∧
        (∀ x : Fin 3, (s.nat O.strandState x = 2 ∨ s.nat O.strandState x = 4 → (u.strand x).time = (s.strand x).time - (s.strand x).err) ∧
          (s.nat O.strandState x = 3 → (u.strand x).time = s.time.target2 / 2)) ∧
        u.draft.plans = [] ∧ (∀ c : Fin 32, (u.injector c).run = none ∧ (u.creel c).wb.pending = []) ∧ (∀ r : Fin 16, (u.reel r).capture = none) ∧
        u.nvm = s.nvm)) ∧
    (∀ p : Reepoch, s.time.pause = some p → p.start ≤ s.samp.lastFrame → answers .epochStart s (fun u =>
      let n := (s.nat O.timeEpoch + 1) % 65536
      u.time = { s.time with pause := none } ∧ u.nat O.timeEpoch = n ∧ u.nat O.epochStart = p.start ∧
      u.nat O.tAnchor = 0 ∧ u.samp.lastSlot = p.start ∧ u.draft.anchors = [] ∧
      (let s1 := ((s.put O.timeEpoch 0 n).put O.epochStart 0 p.start).put O.tAnchor 0 0
       let s2 : State := { s1 with time := u.time, samp := { s.samp with lastSlot := p.start }, draft := { s.draft with anchors := [] } }
       u.bob = (s2.each (enabledChannels s.objs) (fun v ch => commitRecord v ch p.start (epochRecord n ch p))).bob) ∧
      (∀ ch : Fin 512, Map.find? u.draft.plans ch = planOf u ch) ∧
      frame [.objs, .log, .samp, .draft, .time, .ptp, .bob, .spin, .twine] s u))

/-- Received PTP messages (R187, R188, R190 to R192, R194 to R198): one that breaks the settings is discarded and counted; a Sync of the grandmaster on a
qualified lane measures the strands of its port, and every new Sync and Announce is forwarded on the other enabled ports; an Announce enters its sender and the selection of the
grandmaster, and silent senders lose qualification; a Pdelay_Req is answered on its lane; a Pdelay_Resp gives its lane's next delay value unless it is an
outlier; a twin time message measures the strands mapped to TWIN.
Completes: ptpFrameDiscarded, syncReceived, announceReceived, announceTimeout, pdelayReqReceived, pdelayRespReceived, pdelayExchangeLost, twinTimeMessage.
Where the spec leaves a point open it follows the model's choice: log entries 15, 16, 39, 46. -/
def Obligations.PtpMessagesReceived : Prop :=
  ∀ (s : State) (rx : PtpRx) (m : PtpMsg),
    let t := rxTick rx
    let p := rx.port.val
    let s1 := s.elapse t rx.adv
    let fits := ptpBreaks s p m = false ∧ portDisabled s p = false
    let forwarded := fun (u : State) (fix : PtpFix) (old : List (Nat × Nat × Nat)) =>
      old.contains (m.clock, m.portNumber, m.seq) = false → ∀ q ∈ forwardPorts s p, (timingLane s q).isSome = true →
        ∃ f, (u.egress q).queue = (s.egress q).queue ++ [f] ∧ f.cls = 2 ∧ f.lane = none ∧ f.body = .ptp { m with src := portMac s q } fix
    (ptpBreaks s p m = true → answers (.ptpFrameDiscarded rx.port m) s (fun u => counts s u O.ptpDiscardCount p ∧ frame [.objs] s u)) ∧
    (fits → m.mtype = 0 → trunkPort p = true → answers (.syncReceived rx m) s (fun u => u.now = max s.now t ∧
      forwarded u (.residence (dPlusA s rx.lane) (rxBase s rx)) s.ptp.seenSync ∧
      (laneQualified s rx.lane = true → s.nat O.gmIdentity ≠ 0 → m.clock = s.nat O.gmIdentity →
        Map.find? u.ptp.syncOk p = some (t, logTicks m.logInterval) ∧ u.nat O.lastSync p = (if s.gridOn then rxArrival s rx else 0) ∧
        counts s u O.syncRxCount p ∧
        (∀ x : Fin 3, srcOf s.objs x = (if p = 1 then 0 else if p = 2 then 1 else 4) → s.nat O.strandState x ≠ 5 → s.nat O.strandState x ≠ 6 →
          (u.strand x).present = true ∧ u.int O.sourceError x = finePs (rxStamp s rx.lane (s1.strand x).time - sourceTime s rx.lane m))) ∧
      (¬(laneQualified s rx.lane = true ∧ s.nat O.gmIdentity ≠ 0 ∧ m.clock = s.nat O.gmIdentity) → u.ptp.syncOk = s.ptp.syncOk ∧
        (∀ x : Fin 3, (u.strand x) = s1.strand x)) ∧
      frame [.now, .free, .objs, .log, .time, .ptp, .lanes] s u)) ∧
    (∀ a, fits → m.mtype = 11 → trunkPort p = true → m.announce = some a → answers (.announceReceived rx m) s (fun u => u.now = max s.now t ∧
      let l := enterSender p t m a s.ptp.senders
      u.ptp.senders = l ∧ (∃ x ∈ l, x.port = p ∧ x.clock = m.clock ∧ x.portNumber = m.portNumber ∧ x.data = a ∧ x.times.head? = some t) ∧
      (let v : State := { s with ptp := { s.ptp with senders := l, quiet := s.ptp.quiet && !l.any (·.qualified) } }
       u.nat O.gmIdentity = (chooseGm v).nat O.gmIdentity ∧ u.nat O.gmClass = (chooseGm v).nat O.gmClass ∧ u.nat O.isGm = (chooseGm v).nat O.isGm) ∧
      forwarded u .asIs s.ptp.seenAnnounce ∧ frame [.now, .objs, .ptp, .lanes] s u)) ∧
    answers (.announceTimeout t) s (fun u => u.now = max s.now t ∧
      u.ptp.senders = s.ptp.senders.map (fun x => if Nat.ble (x.times.headD 0 + s.nat O.announceTimeout * x.interval) t then { x with qualified := false } else x) ∧
      u.ptp.quiet = (!u.ptp.senders.any (·.qualified) && Nat.ble (s.ptp.lastQualified + s.nat O.announceTimeout * logTicks (s.int O.announceLog)) t) ∧
      (let v : State := { s with ptp := { s.ptp with senders := u.ptp.senders, quiet := u.ptp.quiet } }
       u.nat O.gmIdentity = (chooseGm v).nat O.gmIdentity ∧ u.nat O.gmClass = (chooseGm v).nat O.gmClass ∧ u.nat O.isGm = (chooseGm v).nat O.isGm) ∧ frame [.now, .objs, .ptp] s u) ∧
    (fits → m.mtype = 2 → ((s.pdelay rx.lane).answered.filter (fun w => Nat.blt t (w + secondTicks))).length < 160 →
      answers (.pdelayReqReceived rx m) s (fun u => u.now = max s.now t ∧
        (u.egress (portOf rx.lane)).queue = (s.egress (portOf rx.lane)).queue ++
          [{ cls := 2, body := .ptp (ownMsg s p 3 m.seq) (.turnaround (rxBase s rx)), lane := some rx.lane.val }] ∧
        frame [.now, .ptp, .lanes] s u)) ∧
    (∀ (rate : Int) (t1 : Nat), fits → m.mtype = 3 → (s.pdelay rx.lane).asked = some (t1, m.seq) → rxBase s rx ≤ t1 + 10 * msTicks * 65536 →
      let v := pdelayValue t1 (rxBase s rx) rate m.corr
      let old := s.pdelay rx.lane
      let far := 16 ≤ old.held.length ∧ 10 * 1048576 * 2000000000 < (v - meanDelay { old with asked := none }).natAbs
      answers (.pdelayRespReceived rx m rate) s (fun u => u.now = max s.now t ∧ (u.pdelay rx.lane).asked = none ∧
        (¬far → (u.pdelay rx.lane).held = (v :: old.held).take 16 ∧ (u.pdelay rx.lane).valid = (old.valid || decide (7 ≤ old.held.length))) ∧
        (far → (u.pdelay rx.lane).held = old.held ∧ counts s u O.pdelayOutlierCount p) ∧
        (laneSide rx.lane = 0 → u.int O.neighborRate0 (portOf rx.lane) = rate ∧
          u.int O.linkDelay0 (portOf rx.lane) = (if (u.pdelay rx.lane).valid then delayPs (meanDelay (u.pdelay rx.lane)) else 0)) ∧
        (laneSide rx.lane ≠ 0 → u.int O.neighborRate1 (portOf rx.lane) = rate ∧
          u.int O.linkDelay1 (portOf rx.lane) = (if (u.pdelay rx.lane).valid then delayPs (meanDelay (u.pdelay rx.lane)) else 0)) ∧
        frame [.now, .objs, .ptp, .lanes] s u)) ∧
    answers (.pdelayExchangeLost rx.lane) s (fun u => u.pdelay rx.lane = { s.pdelay rx.lane with asked := none } ∧
      (∀ l : Fin 24, l ≠ rx.lane → u.pdelay l = s.pdelay l) ∧ frame [.ptp] s u) ∧
    (fits → laneQualified s rx.lane = true → m.mtype = 0 → p = 19 → answers (.twinTimeMessage rx m) s (fun u => u.now = max s.now t ∧
      (∀ x : Fin 3, srcOf s.objs x = 2 → s.nat O.strandState x ≠ 5 → s.nat O.strandState x ≠ 6 → (u.strand x).present = true ∧
        u.int O.sourceError x = finePs (rxStamp s rx.lane (s1.strand x).time - sourceTime s rx.lane m)) ∧
      (∀ x : Fin 3, srcOf s.objs x ≠ 2 → u.strand x = s1.strand x) ∧ frame [.now, .free, .objs, .log, .time, .lanes] s u))

/-- PTP messages the hub sends: Pdelay_Req on a lane that serves, Sync and Announce as grandmaster on every master port, the twin time message
on port 19; the transmit timebase moves by at most 0.01 ppm a step towards the reference strand's rate estimate and is kept in HOLDOVER (R192, R198 to R200). The egress ports: the end of a
transmission frees its lane's line, and the first eligible frame starts, with its times written on the fly; a trunk cycle moves waiting skeins into the launch
queue, loses none and holds at most 64; a launch starts at its time once the line is free, its owner learning the stamp, and one that comes too late is
returned and counted (R190, R201 to R204, R306, R329).
Completes: pdelayReqSend, gmSyncSend, gmAnnounceSend, twinTimeMessageSend, txTimebaseStep, frameTransmitEnd, trunkCycleStart, launchTimeReached.
Where the spec leaves a point open it follows the model's choice: log entries 16, 47, 48, 49. -/
def Obligations.PortsSendFrames : Prop :=
  (∀ s : State,
      let sent := fun (u : State) (p : Nat) (m : PtpMsg) (fix : PtpFix) (lane : Option Nat) =>
        (u.egress p).queue = (s.egress p).queue ++ [{ cls := 2, body := .ptp m fix, lane := lane }]
      (∀ l : Fin 24, laneServes s l = true → s.bool O.portEnable (portOf l) = true → answers (.pdelayReqSend l) s (fun u =>
        u.now = max s.now (s.pdelay l).nextReq ∧ sent u (portOf l) (ownMsg s (portOf l) 2 (s.pdelay l).seq) .departure (some l.val) ∧
        u.pdelay l = { s.pdelay l with seq := ((s.pdelay l).seq + 1) % 65536, nextReq := u.now + pdelayInterval s l } ∧ frame [.now, .ptp] s u)) ∧
      (s.bool O.isGm = true → s.gridOn = true → answers .gmSyncSend s (fun u => u.ptp.syncSeq = (s.ptp.syncSeq + 1) % 65536 ∧
        (∀ p ∈ masterPorts s, (timingLane s p).isSome = true →
          sent u p { ownMsg s p 0 s.ptp.syncSeq with logInterval := s.int O.syncLog } .gridTime none) ∧ frame [.ptp] s u)) ∧
      (s.bool O.isGm = true → answers .gmAnnounceSend s (fun u => u.ptp.announceSeq = (s.ptp.announceSeq + 1) % 65536 ∧
        (∀ p ∈ masterPorts s, (timingLane s p).isSome = true →
          sent u p { ownMsg s p 11 s.ptp.announceSeq with logInterval := s.int O.announceLog, announce := some (ownAnnounce s) } .asIs none) ∧
        frame [.ptp] s u)) ∧
      (portDisabled s 19 = false → answers .twinTimeMessageSend s (fun u => u.ptp.twinSeq = (s.ptp.twinSeq + 1) % 65536 ∧
        ((timingLane s 19).isSome = true →
          sent u 19 { ownMsg s 19 0 s.ptp.twinSeq with domain := s.nat O.twinDomain, logInterval := -6 } .strandA none) ∧ frame [.ptp] s u)) ∧
      (s.nat O.strandState s.time.refOsc ≠ 3 → answers .txTimebaseStep s (fun u => u.now = max s.now (s.time.txStepAt + secondTicks / 64) ∧
        u.time = { s.time with txRate := s.time.txRate + clampInt (-10) 10 ((s.strand s.time.refOsc).freq - s.time.txRate), txStepAt := u.now } ∧
        frame [.now, .time] s u)) ∧
      (s.nat O.strandState s.time.refOsc = 3 → answers .txTimebaseStep s (fun u => u = s))) ∧
  (∀ s : State,
      (∀ (l : Fin 24) (grid base : Nat) (adv : StrandAdv),
        let p := portOf l
        let t := grid / 65536
        let e := s.egress p
        let s1 := goAckSent ((s.elapse t adv).setEgress p { e with line := Map.erase e.line l }) l t (Map.find? e.line l)
        let first := if laneServes s1 l then nextFrameOn s1 p l t else none
        let started := fun (u : State) (f : TxFrame) => ∃ g, Map.find? (u.egress p).line l = some g ∧ g.cls = f.cls ∧
          g.body = (depart s1 l grid base (striped p (s1.egress p) f.body).1).1
        (¬(tapRole s.objs = true ∧ 22 ≤ l.val) →
          (first = none → nextStep s1 p l t = none → answers (.frameTransmitEnd l grid base adv) s (fun u => u = s1)) ∧
          (∀ f rest, first = some (f, rest) → (f.cls ≤ 2 ∨ nextStep s1 p l t = none) → answers (.frameTransmitEnd l grid base adv) s (fun u =>
            (u.egress p).queue = rest ∧ started u f ∧ (u.lane l).out = (s1.lane l).out ∧ frame [.now, .objs, .time, .ptp, .lanes] s u)) ∧
          (∀ f xs, nextStep s1 p l t = some (f, xs) → (first = none ∨ ∃ g rest, first = some (g, rest) ∧ 2 < g.cls) →
            answers (.frameTransmitEnd l grid base adv) s (fun u => (u.lane l).out = xs ∧ (u.egress p).queue = e.queue ∧ started u f ∧
              frame [.now, .objs, .time, .ptp, .lanes] s u))) ∧
        (∀ c rest, tapRole s.objs = true → 22 ≤ l.val → s.nat O.laneAdmin l = 1 → Map.getD s.lanes.taps l [] = c :: rest → t ≤ c.1 + 6400 →
          answers (.frameTransmitEnd l grid base adv) s (fun u => Map.find? u.lanes.tapLine l = some c.2 ∧ Map.getD u.lanes.taps l [] = rest ∧
            frame [.now, .objs, .time, .ptp, .lanes] s u))) ∧
      (cycleRuns s = true → let p := s.nat O.rootPort
        let e := s.egress p
        let r := fillCycle (ceilDiv s.now 80000 * 80000) (serviceLanes s p) (windowsOf s.objs p) e.waiting
        answers .trunkCycleStart s (fun u => u.now = ceilDiv s.now 80000 * 80000 ∧
          (u.egress p).launch = e.launch ++ r.1.take (64 - e.launch.length) ∧
          (u.egress p).waiting = (r.1.drop (64 - e.launch.length)).map (·.2) ++ r.2 ∧
          (e.launch.length ≤ 64 → (u.egress p).launch.length ≤ 64) ∧
          (u.egress p).launch.length + (u.egress p).waiting.length = e.launch.length + e.waiting.length ∧
          (u.egress p).queue = e.queue ∧ frame [.now, .objs, .ptp] s u)) ∧
      (∀ (p : Fin 21) (grid base at_ : Nat) (f : TxFrame) (rest : List (Nat × TxFrame)), (s.egress p).launch = (at_, f) :: rest →
        let l := f.lane.getD ((lanesOf p).headD 0)
        let stamp := (txStamp s l grid).toNat
        let late := (at_ + wordTicks (s.lane l).code) * 65536 < stamp
        let free := Map.find? (s.egress p).line l = none
        (stamp < at_ * 65536 ∨ ¬late ∧ ¬free → answers (.launchTimeReached p grid base) s (fun u => u = s.advance (grid / 65536))) ∧
        (at_ * 65536 ≤ stamp → ¬late → free → laneServes s l = true → answers (.launchTimeReached p grid base) s (fun u =>
          (u.egress p).launch = rest ∧ (u.egress p).stamp = some stamp ∧ (u.egress p).waiting = (s.egress p).waiting ∧
          (∃ g, Map.find? (u.egress p).line l = some g ∧ g.cls = f.cls ∧ g.body = (depart s l grid base (striped p (s.egress p) f.body).1).1) ∧
          frame [.now, .ptp] s u)) ∧
        (at_ * 65536 ≤ stamp → late ∨ free ∧ laneServes s l = false → answers (.launchTimeReached p grid base) s (fun u =>
          (u.egress p).launch = rest ∧ (u.egress p).line = (s.egress p).line ∧
          (u.egress p).waiting = { f with lane := none } :: (s.egress p).waiting ∧ counts s u O.launchLateCount 0 ∧ frame [.now, .objs, .ptp] s u))))


/-! ### Sampling, drafting and calibration (chapters 3 to 7) -/

/-- For entry i in period q of a frame the sample instant is T_F + 128 * (q * P + o_i + w_i): of a regular sequence whose period divides 5,000
and holds its entries, the hold at that instant is the entry's, at the period's end and at the frame's end too (R85). -/
def Obligations.SamplesHoldAtTheirInstants : Prop :=
  ∀ (f : Seq) (i q w tf : Nat), 1 ≤ f.p → 5000 % f.p = 0 → seqLoad f.entries ≤ f.p → f.entries[i]? = some w → entryIdle w = false →
    q < 5000 / f.p → tf % frameTicks = 0 →
    f.holdAt (tf + 128 * (q * f.p + seqLoad (f.entries.take i) + entryWidth w)) = some w

/-- Drafting applies a gain G and an offset O to a code as y = G * (CODE * 2^10 + O), rounded and saturated as the CAL stage does: to 25 bits before
the gain, convergently by 30 bits and to Q1.23 after it; a saturation sets CLIP, and under FILL the held value stands (R102, R127, R128). -/
def Obligations.CalAppliesCoefficients : Prop :=
  ∀ (c : Chain) (code : Int) (co : Coef) (f : Flags),
    let x0 := clampInt (-16777216) 16777215 (code * 1024 + co.o)
    let r := roundConv (co.g * x0) 30
    let y := clampInt (-8388608) 8388607 r
    (f.fill = false → c.cal code co f = (y, decide (x0 ≠ code * 1024 + co.o ∨ y ≠ r), { c with holdVal := y })) ∧
    (f.fill = true → c.cal code co f = (c.holdVal, false, c))

/-- The path of a sample: at a slot boundary, 128 ticks after the last, every converter whose entry ends holds its input and its code waits in the grid island, and
the clamp current, the driver's sense and current, its regulation and REFIN are judged; 512 ticks after its hold a raw word is formed and goes to its reel,
its bobbin and drafting; drafting takes the next sample, or a change, into its channel's chain and its words into the feed queue, a parity failure clearing the
channels it bears on; a feed queue that times out is emptied in order (R38, R46, R68, R73, R79, R80, R85, R124, R143, R242, R244).
Completes: slotBoundary, rawWordFormed, draftingInput, feedTimeout.
Where the spec leaves a point open it follows the model's choice: log entries 25, 36, 37, 67, 138, 142. -/
def Obligations.SamplesMoveOn : Prop :=
  ∀ s : State,
    (∀ e : SlotEnv, s.gridOn = true → s.time.pause = none → s.upd.gapFrom = none → answers (.slotBoundary e) s (fun u =>
      let t := s.samp.lastSlot + 128
      u.now = max s.now t ∧ u.samp.lastSlot = t ∧ u.samp.refinOut = (Nat.blt e.refin 2400000 || Nat.blt 4600000 e.refin) ∧
      (∀ c : Fin 32, let y := e.creels.getD c {}
        let out := excEnabled s c && outOfRegulation y.sense (s.nat O.excVoltage c)
        u.nat O.clampCurrent c = clampUnits y.clamp ∧ u.nat O.excSense c = y.sense.toNat / 1000 ∧
        u.nat O.excCurrent c = (if s.nat O.excMode c = 1 then y.current else 0) ∧
        (out = true → (s.driver c).lastSwitch = none → (s.driver c).oorSince = none → (u.driver c).oorSince = some t ∧ counts s u O.excFaultCount c) ∧
        (out = false → excEnabled s c = true → (s.driver c).lastSwitch = none → (u.driver c).oorSince = none)) ∧
      (∀ (c : Fin 32) (w : Nat), interleaved s.objs c = false → (s.injector c).run = none → (s.injector c).spans = [] →
        s.cal.stopped.contains c.val = false → (seqOf s.objs c).holdAt t = some w →
        let b := isB (16 * c + entryInput w)
        let y := e.creels.getD c {}
        ∃ h, GridItem.hold h ∈ u.samp.holds ∧ h.t = t ∧ h.ch = 16 * c + entryInput w ∧ h.path = pathOf s c ∧ h.inj = none ∧
          h.coef = (coefsOf s.objs (pathOf s c) (comboOf b (entryRef w) (entryGain w)) (s.bool O.userCalEnable h.ch)).1 ∧
          ∀ x, rawCode b (entryGain w) (fullScale b (entryRef w) (entryGain w) e.refin y.sense (s.nat O.excVoltage c)) y.vin = some x →
            h.code = (satCode x).1 ∧ ((satCode x).2 = true → h.flags.ovr = true)) ∧
      frame [.now, .free, .objs, .log, .samp] s u)) ∧
    (∀ (e : SlotEnv), s.gridOn = false ∨ s.time.pause.isSome = true ∨ s.upd.gapFrom.isSome = true → answers (.slotBoundary e) s (fun u => u = s)) ∧
    (∀ (h : Hold) (l : List GridItem), s.samp.holds = .hold h :: l →
      let full := s.samp.writerFault
      let f := finalFlags s h
      let raw := rawWord f.mark f.ovr h.code
      let s1 : State := { s with now := if s.time.pause.isNone then max s.now (h.t + 512) else s.now, samp := { s.samp with holds := l } }
      let s2 := if s.nat O.reelFormat (h.ch / 32) = 0 then reelWord s1 (h.ch / 32) h.ch h.t raw else s1
      answers .rawWordFormed s (fun u => u.now = s1.now ∧ (∃ a, l = a ++ u.samp.holds) ∧
        (h.inj = none → (∃ fe b, u.draft.queue = s.draft.queue ++ .sample h.t h.ch h.path h.code f fe h.coef :: b ∧ h.fillEnd ≤ fe) ∧
          (full = false → u.trig = s2.trig ∧
            u.bob = (if wordMode s2 h.ch h.t = 2 then commitWord s2 h.ch 2 h.t h.interval raw else s2).bob)) ∧
        (∀ c idx start, h.inj = some (c, idx, start) → full = false → (∃ b, u.draft.queue = s.draft.queue ++ b) ∧
          u.samp.injRecords = (injSample s1 c idx start raw h.t).samp.injRecords ∧ u.bob = (injSample s1 c idx start raw h.t).bob) ∧
        frame [.now, .free, .objs, .log, .samp, .draft, .cal, .ptp, .bob, .trig, .twine, .pwr] s u)) ∧
    (∀ (t ch p : Nat) (code : Int) (f : Flags) (fe : Nat) (co : Coef) (l : List DraftItem) (faults : FeedFaults) (parity : Option Bool),
      s.draft.queue = .sample t ch p code f fe co :: l → ((s.chain ch).clearedAt < t ∨ (s.chain ch).clearedAt = 0) →
      let r := (s.chain ch).sample ch t code f fe co
      answers (.draftingInput parity faults) s (fun u => u.draft.queue = l ∧
        (parity = none → u.chain ch = r.1 ∧
          (Map.getD s.draft.delay ch [] = [] → (s.feed (ch / 32)).entries.length + r.2.length < 32 →
            (∀ w ∈ r.2, (s.objsAt w.t).bool O.openHold ch = false) →
            (u.feed (ch / 32)).entries = (s.feed (ch / 32)).entries ++ r.2.map (fun w => ⟨ch, w.t, r.1.interval, w.word, false⟩))) ∧
        (∀ whole, parity = some whole → ∀ c ∈ parityChannels s ch whole, (u.chain c).clearedAt = t ∧ (u.chain c).hist = [] ∧
          (u.chain c).est = none ∧ (u.chain c).secs = [] ∧ (∃ y ∈ u.log.entries, y.code = Ev.draftParity ∧ y.unit = c ∧ y.time = t)) ∧
        frame [.free, .objs, .log, .samp, .draft, .ptp, .bob, .spin, .trig, .twine, .pwr] s u)) ∧
    (∀ (t0 ch : Nat) (plan : Option Plan) (act : DraftAct) (settle : Bool) (faults : FeedFaults) (parity : Option Bool),
      s.draft.queue = [.change t0 ch plan act settle] → answers (.draftingInput parity faults) s (fun u =>
        u.draft.queue = [] ∧ u.chain ch = ((s.chain ch).change ch t0 plan act settle).1 ∧
        frame [.free, .objs, .log, .samp, .draft, .ptp, .bob, .spin, .trig, .twine, .pwr] s u)) ∧
    (∀ (q : Fin 16) (faults : FeedFaults), (s.feed q).entries ≠ [] → faults.stalled = false → answers (.feedTimeout q faults) s (fun u =>
      u.now = max s.now ((s.feed q).lastWrite + s.nat O.feedTimeout q * usTicks) ∧ (u.feed q).entries = [] ∧
      (∀ e, (s.feed q).entries = [e] → (s.feed q).resync = none → (s.feed q).missing = [] → faults = {} →
        let v := (s.advance u.now).setFeed q { s.feed q with entries := [] }
        u.bob = (deliverWord v e false).bob ∧ u.spin = (deliverWord v e false).spin ∧ u.trig = (deliverWord v e false).trig) ∧
      frame [.now, .free, .objs, .log, .samp, .ptp, .bob, .spin, .trig, .twine, .pwr] s u))

/-- Wire-break runs and injected sequences: a run of the inputs with WB_ENABLE set begins at its due frame boundary, or is logged as late and delayed; a check
notes its window, and enters the verdict of its two conversions in the input's record and objects, or, void, counts and leaves the input to be checked again; an
injected entry begins at the first slot boundary after its start whose slots are free for it, and the start counts (R49, R51 to R53, R90, R91, R93).
Completes: wbRunStart, wbCheck, injectedEntryBegin.
Where the spec leaves a point open it follows the model's choice: log entries 24, 133, 134, 135. -/
def Obligations.RunsAndInjectionsProceed : Prop :=
  ∀ s : State,
    (∀ k : Fin 32, s.gridOn = true → s.samp.lastFrame / frameTicks % max (s.nat O.wbInterval k) 1 = 0 → wbInputs s.objs k ≠ [] →
      s.now ≤ s.samp.lastFrame + slotTicks →
      ((s.creel k).wb.pending = [] → answers (.wbRunStart k) s (fun u =>
        (u.creel k).wb = { pending := wbInputs s.objs k, nextPeriod := s.samp.lastFrame, delayed := false } ∧
        u.nat O.wbRunStart k = s.samp.lastFrame ∧ objsExcept [O.wbRunStart.at k] s u ∧ frame [.objs, .samp] s u)) ∧
      ((s.creel k).wb.pending ≠ [] → (s.creel k).wb.delayed = false → s.nat O.wbRunStart k ≠ s.samp.lastFrame → answers (.wbRunStart k) s (fun u =>
        (u.creel k).wb = { (s.creel k).wb with delayed := true } ∧ logsOnly s u Ev.wbRunLate k [] ∧ frame [.log, .samp] s u))) ∧
    (∀ (k : Fin 32) (e : WbEnv) (faults : FeedFaults) (j : Nat) (rest : List Nat) (w : Nat), (s.creel k).wb.pending = j :: rest →
      (seqOf s.objs k).window (s.nat O.wbSoak k) = some w →
      let h1 := (s.creel k).wb.nextPeriod + 128 * w + 128
      let th := (s.creel k).wb.nextPeriod + 128 * w + 128 * s.nat O.wbSoak k
      let next := (s.creel k).wb.nextPeriod + 128 * max (seqOf s.objs k).p 1
      let sc := wbScale s k j e.refin e.sense
      let b := Nat.beq j 16 || Nat.blt j 8
      answers (.wbCheck k e faults) s (fun u => u.now = max s.now (th + 80) ∧ (u.creel k).wbLast = some (j, h1, th) ∧
        (wbVoid s k sc.2 h1 th = true → counts s u O.wbVoidCount k ∧
          (u.creel k).wb = { (s.creel k).wb with nextPeriod := next } ∧ u.samp.inputOpen = s.samp.inputOpen) ∧
        (wbVoid s k sc.2 h1 th = false →
          (rest = [] → (s.creel k).wb.delayed = true → (u.creel k).wb.pending = wbInputs s.objs k ∧ (u.creel k).wb.delayed = false) ∧
          (¬(rest = [] ∧ (s.creel k).wb.delayed = true) → (u.creel k).wb = { (s.creel k).wb with pending := rest, nextPeriod := next }) ∧
          (∀ x y, rawCode b 0 sc.1 e.baseline = some x → rawCode b 0 sc.1 e.test = some y →
            let failed := wbFails s k j sc.1 (satCode x) (satCode y)
            (j = 16 → (u.creel k).sense = (s.creel k).sense.enter ⟨th, failed⟩) ∧
            (j < 16 → u.inputTrack (16 * k + j) = (s.inputTrack (16 * k + j)).enter ⟨th, failed⟩ ∧
              u.nat (if failed then O.wbLastFail else O.wbLastGood) (16 * k + j) = th))) ∧
        frame [.now, .free, .objs, .log, .samp, .draft, .ptp, .bob, .spin, .trig, .twine, .pwr] s u)) ∧
    (∀ (c : Fin 32) (r : InjRun), (s.injector c).run = some r → r.current = none → r.nextIdx < r.entries.length →
      r.start.start ≤ s.samp.lastSlot → r.lastHold ≤ s.samp.lastSlot → s.cal.stopped.contains c.val = false →
      (∀ i, i < entryWidth (r.entries.getD r.nextIdx 0) →
        if r.mode = 1 then reservedSlot s c (s.samp.lastSlot + 128 * i) = false else freeSlot s c (s.samp.lastSlot + 128 * i) = true) →
      answers (.injectedEntryBegin c) s (fun u =>
        (u.injector c).run = some { r with started := true, current := some (r.nextIdx, s.samp.lastSlot) } ∧
        (u.injector c).waiting = (s.injector c).waiting ∧ (r.started = false → counts s u O.injCount c) ∧
        (r.started = true → u.objs = s.objs) ∧ objsExcept [O.injCount.at c] s u ∧
        (∀ d : Fin 32, d ≠ c → u.injector d = s.injector d) ∧ frame [.objs, .samp] s u))

/-- Pins and drivers of the field side: a BLANK edge is stamped and logged and opens or closes an interval; a SYNC edge asks for the frame boundary at or after its
T + 384 ticks, joins a SYNC that waits for that boundary, or, with another waiting, is logged and ignored; a driver 10 ms out of regulation is switched off; EXC_SETTLE
after its last switching event a driver has settled and a drill is judged; a settled reference buffer shows in REF_STATE (R57, R69, R71, R75, R148, R367).
Completes: blankEdge, syncPinEdge, excTripped, excSettleElapsed, refBufferSettled.
Where the spec leaves a point open it follows the model's choice: log entries 30, 141. -/
def Obligations.FieldSideEventsAct : Prop :=
  ∀ s : State,
    (∀ (i : Fin 4) (high : Bool) (edge : Nat),
      let stamp := (s.tdc (32 + i) edge).1.1
      let old := (Map.getD s.samp.blank i []).filter (fun v => v.2.all (fun r => Nat.ble (s.now * 65536) (r + 641000000 * 65536)))
      answers (.blankEdge i high edge) s (fun u =>
        (high = true → (∀ a l, old ≠ (a, none) :: l) → Map.find? u.samp.blank i = some ((stamp, none) :: old)) ∧
        (∀ a l, old = (a, none) :: l → Map.find? u.samp.blank i = some ((a, if high then none else some stamp) :: l)) ∧
        (high = false → (∀ a l, old ≠ (a, none) :: l) → Map.find? u.samp.blank i = some old) ∧
        (∀ j : Fin 4, j ≠ i → Map.find? u.samp.blank j = Map.find? s.samp.blank j) ∧ Map.find? u.trig.tdc (32 + i) = some edge ∧
        (∃ y : Event, y.code = Ev.blankEdge ∧ y.unit = 0xFF ∧ y.time = stamp / 65536 ∧ y.frac = stamp % 65536 ∧
          y.param = fit 12 [BitVec.ofNat 8 i.val, BitVec.ofNat 8 (b2n high)] ∧ u.log = s.log.push y) ∧
        frame [.log, .samp, .trig] s u)) ∧
    (∀ edge : Nat,
      let ts := frameAtOrAfter (ceilDiv ((s.tdc 38 edge).1.1 + 384 * 65536) 65536)
      let on := s.bool O.syncPinEnable = true ∧ s.gridOn = true
      answers (.syncPinEdge edge) s (fun u => Map.find? u.trig.tdc 38 = some edge ∧
        (on → syncBoundaries s = [] → u.draft.sync = [⟨ts, true, false⟩] ∧ u.log = s.log) ∧
        (on → ∀ p, s.draft.sync = [p] → p.ts = ts → u.draft.sync = [⟨ts, true, p.cmd⟩] ∧ u.log = s.log) ∧
        (on → syncBoundaries s ≠ [] → ts ∉ syncBoundaries s → u.draft = s.draft ∧ logsOnly s u Ev.sync 0xFF (be 8 ts ++ [0xFF#8])) ∧
        (¬on → u.draft = s.draft ∧ u.log = s.log) ∧ frame [.log, .draft, .trig] s u)) ∧
    (∀ (k : Fin 32) (t : Nat), (s.driver k).oorSince = some t → excEnabled s k = true → s.twin.stages = true → answers (.excTripped k) s (fun u =>
      u.now = max s.now (t + 10 * msTicks) ∧ u.driver k = { s.driver k with tripped := true, settling := false } ∧
      (∀ j : Fin 32, j ≠ k → u.driver j = s.driver j) ∧ logsOnly s u Ev.excTripped k [] ∧ frame [.now, .log, .samp] s u)) ∧
    (∀ (k : Fin 32) (sense : Int), (s.driver k).settling = true →
      let late := (s.driver k).drill = true ∧ excEnabled s k = true ∧ outOfRegulation sense (s.nat O.excVoltage k) = true
      answers (.excSettleElapsed k sense) s (fun u =>
        u.now = max s.now (s.driver k).settleAt ∧ u.driver k = { s.driver k with settling := false, drill := false } ∧
        (∀ j : Fin 32, j ≠ k → u.driver j = s.driver j) ∧
        (late → logsOnly s u Ev.twinDrillFault k []) ∧ (¬late → u.log = s.log) ∧ frame [.now, .log, .samp] s u)) ∧
    (∀ (c : Fin 33) (src : Fin 3) (e : Nat), settledFrom s c src = some e → answers (.refBufferSettled c src) s (fun u =>
      u.now = max s.now e ∧ bufSettled u c src u.now = true ∧
      u.objs.intK O.refState (O.refState.conv c) = (refState { s with now := max s.now e } c : Nat) ∧
      objsExcept [O.refState.conv c] s u ∧ frame [.now, .objs] s u))

/-- Calibration: an interval's end asks for an automatic sweep, or reports a missing reference; a sweep starts with its measured CALREF or is refused;
C32 serves the creels in turn, one every 42 frames: it connects at offset 0, delivers from offset 1 unless the compared difference exceeds HANDOVER_LIMIT, Ck's coefficients are
formed at offset 41, and stand from offset 42, the next creel's offset 0, unless the second difference exceeds it; C32's own coefficients stand from frame 42; the compatibility method
stops a converter, or an even pair, every 40 frames and takes the coefficients of those just stopped (R112 to R114, R116, R117, R119, R120, Table 6.6).
Completes: calIntervalExpiry, calSweepStart, handoverStep, compatStop.
Where the spec leaves a point open it follows the model's choice: log entries 34, 35, 146. -/
def Obligations.CalibrationProceeds : Prop :=
  ∀ s : State,
    (∀ t0 : Nat, s.cal.intervalFrom = some t0 → s.bool O.calAuto = true → s.nat O.calInterval ≠ 0 →
      let t := t0 + s.nat O.calInterval * secondTicks
      answers .calIntervalExpiry s (fun u => u.now = max s.now t ∧ u.cal.intervalFrom = some t ∧
        (s.cal.sweep = none → s.cal.request = none → s.nat O.calrefCert ≠ 0 → u.cal.request = some (nextFrame (max s.now t), true) ∧ u.log = s.log) ∧
        (s.cal.sweep = none → s.nat O.calrefCert = 0 → u.cal.request = none ∧ u.cal.noRef = true ∧ logsOnly s u Ev.calNoRef 32 []) ∧
        (s.cal.sweep.isSome = true → u.cal = { s.cal with intervalFrom := some t } ∧ u.log = s.log) ∧ frame [.now, .log, .cal] s u)) ∧
    (∀ (codeSum : Int) (t : Nat) (auto : Bool), s.cal.request = some (t, auto) → t ≤ s.samp.lastFrame → s.cal.sweep = none →
      let m := calrefUv s.objs codeSum
      let plausible := s.nat O.calrefCert ≠ 0 ∧ 1000 * ((m : Int) - s.nat O.calrefCert).natAbs ≤ 2 * s.nat O.calrefCert
      answers (.calSweepStart codeSum) s (fun u => u.nat O.calrefMeasured = m ∧ u.cal.request = none ∧
        (plausible → u.cal.sweep = some { start := s.samp.lastFrame, method := s.nat O.calMethod } ∧ u.nat O.sweepStart = s.samp.lastFrame ∧
          u.cal.noRef = false ∧ u.cal.rejection = false ∧ u.log = s.log) ∧
        (¬plausible → u.cal.sweep = none ∧ u.cal.noRef = true ∧ u.samp = s.samp ∧
          (auto = true → logsOnly s u Ev.calNoRef 32 []) ∧ (auto = false → u.log = s.log)) ∧
        objsExcept [O.calrefMeasured.key, O.sweepStart.key] s u ∧ frame [.objs, .log, .samp, .cal] s u)) ∧
    (∀ (relief : Option CalRun) (runs : List CalRun) (w : Sweep) (c n : Nat), s.cal.sweep = some w → w.method = 0 → n < 42 →
      (s.samp.lastFrame - w.start) / frameTicks = 42 + 42 * c + n →
      let d := (takeDev s).1
      let over_ := s.nat O.handoverLimit < d
      let stands := fun (u : State) (x : FormedRun) => u.objs.bytesK O.userSet (O.userSet.conv x.path + x.slot) = x.content ∧
        u.objs.intK O.skewTrim (O.skewTrim.conv x.path) = x.skew ∧ u.objs.intK O.calTime (O.calTime.conv x.path) = x.stop ∧
        u.nat O.calSetId = (s.nat O.calSetId + 1) % 2 ^ 32
      answers (.handoverStep relief runs) s (fun u =>
        (n = 0 → c = 0 → ∀ r, relief = some r → r.path = 32 →
          stands u (formRun s s.samp.lastFrame (Map.getD w.refs 32 []) r).1) ∧
        (n = 0 → 0 < c → w.refused.contains (c - 1) = false → u.objs.intK O.handoverDev (O.handoverDev.conv (c - 1)) = d ∧ u.cal.dev = 0 ∧
          (over_ → u.cal.rejection = true ∧ u.nat O.calSetId = s.nat O.calSetId) ∧
          (¬over_ → ∀ x, w.formed = some x → stands u x)) ∧
        (n = 0 → w.aborting = true ∨ 32 ≤ c → u.cal.sweep = none ∧ u.cal.connected = none ∧ u.cal.serving = none) ∧
        (n = 0 → w.aborting = false → 32 ≤ c → u.nat O.sweepEnd = s.samp.lastFrame ∧ u.cal.intervalFrom = some s.samp.lastFrame) ∧
        (n = 0 → w.aborting = false → c < 32 → u.cal.connected = some c ∧ u.cal.serving = none ∧ u.cal.sweep.isSome = true) ∧
        (n = 1 → u.objs.intK O.handoverDev (O.handoverDev.conv c) = d ∧ u.cal.dev = 0 ∧
          (¬over_ → u.cal.serving = some c ∧ u.cal.connected = s.cal.connected ∧ u.log = s.log ∧ ∃ l, u.cal.sweep = some { w with refs := l }) ∧
          (over_ → u.cal.connected = none ∧ u.cal.serving = none ∧ u.cal.sweep = some { w with refused := c :: w.refused } ∧
            logsOnly s u Ev.calHandoverRefused c (be 4 d))) ∧
        (n = 41 → w.refused.contains c = false → ∀ r, runs.find? (fun y => Nat.beq y.path c) = some r →
          u.cal.sweep = some { w with formed := some (formRun s s.samp.lastFrame (Map.getD w.refs c []) r).1 } ∧ u.objs = s.objs ∧ u.samp = s.samp) ∧
        (n ≠ 0 → n ≠ 1 → n ≠ 41 → u = s) ∧
        frame [.free, .objs, .log, .samp, .cal] s u)) ∧
    (∀ (relief : Option CalRun) (runs : List CalRun) (w : Sweep), s.cal.sweep = some w → w.method = 0 → (s.samp.lastFrame - w.start) / frameTicks < 42 →
      answers (.handoverStep relief runs) s (fun u => u = s)) ∧
    (∀ (runs : List CalRun) (w : Sweep) (c : Nat), s.cal.sweep = some w → w.method = 1 → (s.samp.lastFrame - w.start) / frameTicks = 40 * c →
      let done := s.cal.stopped ++ (if c = 1 then [32] else [])
      let goes := c < 32 ∧ (w.aborting = false ∨ c = 0)
      answers (.compatStop runs) s (fun u =>
        (¬goes → u.cal.sweep = none ∧ u.cal.stopped = []) ∧
        (32 ≤ c → w.aborting = false → u.nat O.sweepEnd = s.samp.lastFrame ∧ u.cal.intervalFrom = some s.samp.lastFrame) ∧
        (goes → u.cal.sweep.isSome = true ∧
          u.cal.stopped = (if interleaved s.objs c = false then [c] else if c % 2 = 0 then [c, c + 1] else [])) ∧
        (∀ r, runs = [r] → done.contains r.path = true →
          let x := (formRun s s.samp.lastFrame (Map.getD w.refs r.path []) r).1
          u.objs.bytesK O.userSet (O.userSet.conv x.path + x.slot) = x.content ∧ u.objs.intK O.skewTrim (O.skewTrim.conv x.path) = x.skew ∧
            u.nat O.calSetId = (s.nat O.calSetId + 1) % 2 ^ 32) ∧
        (runs = [] → u.free = s.free ∧ objsExcept [O.sweepEnd.key] s u) ∧
        frame [.free, .objs, .log, .samp, .cal] s u)) ∧
    (∀ (runs : List CalRun) (w : Sweep), s.cal.sweep = some w → w.method = 1 → (s.samp.lastFrame - w.start) / frameTicks % 40 ≠ 0 →
      answers (.compatStop runs) s (fun u => u = s))


/-! ### Triggers, reels, spindles, bobbins and DRAM (chapters 11 to 14) -/

/-- A TDC stamp is a fine time in 1/65,536 tick with a resolution of 1/128 tick, so the low 9 bits of its fraction are 0, and it lies less than 1/128 tick
before its edge unless it is COARSE, when its fraction is 0; an edge that is logged is logged with its stamp (R174, R207). -/
def Obligations.TdcStampsAreFtime : Prop :=
  (∀ (s : State) (c edge : Nat), (s.tdc c edge).1.1 % 512 = 0 ∧ (s.tdc c edge).1.1 ≤ edge ∧
    ((s.tdc c edge).1.2 = false → edge < (s.tdc c edge).1.1 + 512) ∧ ((s.tdc c edge).1.2 = true → (s.tdc c edge).1.1 = edge / 65536 * 65536) ∧
    (s.tdc c edge).1.2 = (match Map.find? s.trig.tdc c with | some p => decide (edge < p + 32 * 65536) | none => false)) ∧
  (∀ (s : State) (i : Fin 4) (high : Bool) (edge : Nat), answers (.blankEdge i high edge) s (fun u =>
    ∃ e : Event, u.log = s.log.push e ∧ e.code = Ev.blankEdge ∧ e.time * 65536 + e.frac = (s.tdc (32 + i.val) edge).1.1))

/-- Trigger sources, reels and mask sets: a comparator's edge counts where the tap crossed the threshold and had been beyond the hysteresis on the other side since the last edge, a
masked one is only counted; an edge taken is stamped on its TDC channel and fires every unit that selects it and is not held off, with its fine time; a TRIG
pin starts its injected sequences; a grid-time unit fires at its instant. A reel arms again at its time, unless a new segment set finds no room; an interval-mode
set's span begins at the next multiple of its interval; a pulse ends at its time (R89, R207 to R211, R214, R215, R220, R223, R226).
Completes: watchComparatorEdge, trigPinEdge, fieldInputEdge, gridTimeTrigger, reelRearm, maskSpanStart, maskPulseEnd.
Where the spec leaves a point open it follows the model's choice: log entries 29, 53, 55. -/
def Obligations.TriggersReelsAndMasksAct : Prop :=
  (∀ s : State,
      let touched := [Part.now, .free, .objs, .log, .samp, .ptp, .bob, .spin, .trig, .twine]
      let fires := fun (u : State) (st : Store) (v : Fin 64) (fine : Nat) =>
        (heldOff st (s.unit v) v fine = false → (u.unit v).last = some fine ∧ u.nat O.lastTime v = fine ∧ counts s u O.fireCount v) ∧
        (heldOff st (s.unit v) v fine = true → (u.unit v).last = (s.unit v).last ∧ counts s u O.holdoffCount v)
      (∀ (k : Fin 32) (rising : Bool) (edge : Nat) (tap : Int) (reach : TapReach),
        let st := s.objsAt (edge / 65536)
        let x := compThreshold st k
        let w := (Map.getD s.trig.watch k {}).seen x (compHysteresis st k) (edge / 65536) reach.low reach.high
        let reported := if rising then x < tap ∧ w.rise = true else tap < x ∧ w.fall = true
        let stamp := (s.tdc k edge).1.1
        let masked := edgeMasked s k stamp = true
        answers (.watchComparatorEdge k rising edge tap reach) s (fun u =>
          (¬reported → Map.getD u.trig.watch k {} = w ∧ Map.find? u.trig.tdc k = Map.find? s.trig.tdc k ∧ frame [.trig] s u) ∧
          (reported → u.now = max s.now (edge / 65536) ∧ Map.find? u.trig.tdc k = some edge ∧
            Map.getD u.trig.watch k {} = (if rising then { w with rise := false } else { w with fall := false })) ∧
          (reported → masked → counts s u O.compMasked k ∧ frame [.now, .objs, .trig] s u) ∧
          (reported → ¬masked → ∀ v : Fin 64, trigSrc st v = 1 → trigSel st v = k → edgeSelected st v rising = true → fires u st v stamp) ∧
          frame touched s u)) ∧
      (∀ (i : Fin 4) (rising : Bool) (edge : Nat),
        let st := s.objsAt (edge / 65536)
        let stamp := (s.tdc (32 + i) edge).1.1
        answers (.trigPinEdge i rising edge) s (fun u => u.now = max s.now (edge / 65536) ∧ Map.find? u.trig.tdc (32 + i.val) = some edge ∧
          (∀ v : Fin 64, trigSrc st v = 2 → trigSel st v = i → edgeSelected st v rising = true → fires u st v stamp) ∧
          (∀ c : Fin 32, rising = true → st.nat O.injSource c = 512 + i → (injOf s.objs c).2 ≠ [] → interleaved s.objs c = false →
            (s.injector c).run = none → (u.injector c).run = some
              { start := ⟨1, i, false, injBoundaryFine stamp, false⟩, mode := (injOf s.objs c).1, entries := (injOf s.objs c).2 }) ∧
          frame touched s u)) ∧
      (∀ (i : Fin 4) (rising : Bool) (edge : Nat),
        let st := s.objsAt (edge / 65536)
        let stamp := (s.tdc (36 + i) edge).1.1
        answers (.fieldInputEdge i rising edge) s (fun u => u.now = max s.now (edge / 65536) ∧ Map.find? u.trig.tdc (36 + i.val) = some edge ∧
          (∀ v : Fin 64, trigSrc st v = 3 → trigSel st v = i → edgeSelected st v rising = true → fires u st v stamp) ∧
          frame touched s u)) ∧
      (∀ (v : Fin 64) (t : Nat), s.gridOn = true → trigSrc s.objs v = 5 → nextDue s v = some t → trigSrc (s.objsAt t) v = 5 →
        answers (.gridTimeTrigger v) s (fun u => u.now = max s.now t ∧ (u.unit v).lastDue = some t ∧
          fires u (s.objsAt t) v (t * 65536) ∧ frame touched s u))) ∧
  (∀ s : State,
      (∀ (r : Fin 16) (a w : Nat), (s.reel r).rearmAt = some (a, w) → s.spin.restarting = false → (s.reel r).restartDue = false →
        answers (.reelRearm r) s (fun u => u.now = max s.now a ∧
          (∀ q : Fin 16, q ≠ r → u.reel q = s.reel q) ∧ (∀ v : Fin 64, u.unit v = s.unit v) ∧
          ((s.reel r).later = [] → (u.reel r).rearmAt = none ∧ (u.reel r).capture = (s.reel r).capture ∧
            (w ≠ 2 ∨ reelRoom s r = true → (u.reel r).arm = some a ∧ (u.reel r).noSpace = false) ∧
            (w = 2 → reelRoom s r = false → (u.reel r).arm = none ∧ (u.reel r).noSpace = true) ∧ (u.reel r).held = (s.reel r).held ∧
            frame [.now, .trig] s u) ∧
          frame [.now, .free, .objs, .ptp, .trig, .twine] s u)) ∧
      (∀ m : Fin 16, s.gridOn = true → s.nat O.maskMode m = 2 → 1 ≤ s.nat O.maskInterval m →
        let p := s.nat O.maskInterval m * frameTicks
        let t := ceilDiv s.now p * p
        answers (.maskSpanStart m) s (fun u => u.mask m = { s.mask m with spans := [t * 65536] } ∧ u.now = max s.now t ∧ s.now ≤ t ∧ t < s.now + p ∧
          (∀ n : Fin 16, n ≠ m → u.mask n = s.mask n) ∧ frame [.now, .trig] s u)) ∧
      (∀ (o : Fin 4) (e : Nat), Map.find? s.trig.fio (4 + o.val) = some e → answers (.maskPulseEnd o) s (fun u =>
        u.now = max s.now e ∧ u.trig = { s.trig with fio := Map.erase s.trig.fio (4 + o.val) } ∧ frame [.now, .trig] s u)))

/-- Spindles and bobbins: a reduction interval that ends with no word to come emits its record, or, with a word lost, counts the loss, and the next interval begins there,
under the last selection accepted by then; a spindle's recomputation ends with nothing left to recompute or held back; a tail timeout seals the open hanks that hold
anything; a standby doffs the sealed hanks older than STANDBY_HOLD; a window's answer is formed from what the bobbin holds (R233, R238, R239, R241, R252,
R262 to R264, R364). Completes: reductionIntervalEnd, recomputationComplete, tailTimeout, standbyAgeDoff, windowAnswerReady.
Where the spec leaves a point open it follows the model's choice: log entries 58, 63, 66. -/
def Obligations.SpindlesAndBobbinsProceed : Prop :=
  ∀ s : State,
    (∀ (ch : Fin 512) (a : RedAcc), (s.red ch).acc = some a → channelPending s ch a.stop = false →
      (∀ p, Map.find? s.draft.plans ch = some p → hasInstant p (max a.start a.next) a.stop = false) →
      let b := redRecord ch (a.takeGone (s.red ch).gone a.stop) false
      let due := ((s.red ch).pend.filter (fun d => Nat.ble d.t0 a.stop)).getLast?
      answers (.reductionIntervalEnd ch) s (fun u => u.now = max s.now a.stop ∧
        (a.lost = false → s.spin.late = [] → u.bytes O.redLast ch = b ∧ u.bob = (commitRecord (s.advance a.stop) ch a.stop b).bob) ∧
        (a.lost = true → counts s u O.redLostCount (ch / 32) ∧ u.bytes O.redLast ch = s.bytes O.redLast ch) ∧
        (due = none → (u.red ch).acc = some (openAcc a.profIdx a.prof a.stop) ∧ u.nat O.redEffective ch = s.nat O.redEffective ch) ∧
        (∀ d, due = some d → d.sel ≠ 255 → (u.red ch).acc = some (openAcc d.sel d.prof a.stop) ∧ u.nat O.redEffective ch = a.stop) ∧
        (∀ d, due = some d → d.sel = 255 → (∀ e ∈ (s.red ch).pend, e.t0 ≤ a.stop) → (u.red ch).acc = none ∧ u.nat O.redEffective ch = 0) ∧
        (∀ c : Fin 512, c ≠ ch → u.red c = s.red c) ∧ frame [.now, .objs, .log, .ptp, .bob, .spin, .twine] s u)) ∧
    (∀ k : Fin 16, s.pwr.throttled = false → s.spin.restarting = false → s.spin.recompute.any (fun r => Nat.beq r.1 k.val) = true →
      answers (.recomputationComplete k) s (fun u => u.nat O.recomputeBacklog k = 0 ∧ (∀ r ∈ u.spin.recompute, r.1 ≠ k.val) ∧
        (∀ ch : Fin 512, ch.val / 32 = k.val → (u.red ch).redo = none ∧ ((s.red ch).redo.isSome = true → (u.red ch).live = [])) ∧
        (∀ ch : Fin 512, ch.val / 32 ≠ k.val → u.red ch = s.red ch) ∧
        (∀ x ∈ u.spin.late, x.spindle ≠ k.val) ∧ frame [.objs, .log, .ptp, .bob, .spin, .twine] s u)) ∧
    (∀ k : Fin 16, s.pwr.throttled = true ∨ s.spin.restarting = true → answers (.recomputationComplete k) s (fun u => u = s)) ∧
    (∀ (ch : Fin 512) (b : Bobbin), Map.find? s.bob.bobbins ch = some b → answers (.tailTimeout ch) s (fun u =>
      u.now = max s.now (b.lastItem + s.nat O.tailTimeout * msTicks) ∧ u.bobbin ch = b.seal (fun _ => true) (doffTime s ch) ∧
      (∀ h ∈ (u.bobbin ch).hanks, h.sealed = true ∨ h.words = [] ∧ h.recs = []) ∧
      (∀ k, k ≠ ch.val → Map.find? u.bob.bobbins k = Map.find? s.bob.bobbins k) ∧ frame [.now, .bob] s u)) ∧
    (∀ (ch : Fin 512) (b : Bobbin), Map.find? s.bob.bobbins ch = some b → s.twin.active = false → s.spin.restarting = false →
      let old := fun (h : Hank) => h.sealed = true ∧ h.last < s.now - s.nat O.standbyHold * secondTicks
      answers (.standbyAgeDoff ch) s (fun u => u.bobbin ch = b.doff (s.now - s.nat O.standbyHold * secondTicks) ∧
        (∀ h ∈ (u.bobbin ch).hanks, old h → h.doffed = true) ∧
        (b.discard = false → ∀ h ∈ b.hanks, (old h → { h with doffed := true } ∈ (u.bobbin ch).hanks) ∧ (¬old h → h ∈ (u.bobbin ch).hanks)) ∧
        (∀ k, k ≠ ch.val → Map.find? u.bob.bobbins k = Map.find? s.bob.bobbins k) ∧ frame [.bob] s u)) ∧
    (∀ w : WindowAnswer, s.bob.window = some w → w.data = none →
      let f := windowFields w.request
      let items := answerItems (s.bobbin f.2.2.1) f.2.2.1 f.1 f.2.1 f.2.2.2.1 f.2.2.2.2 s.now
      answers .windowAnswerReady s (fun u => u.bob = { s.bob with window := some { w with data := some (answerBytes f.2.2.1 items.length items) } } ∧
        frame [.bob] s u))

/-- The DRAM controllers: each tREFI a rank's debt rises by one, of which what it must or may is refreshed, and a real-time port enters and leaves panic by its fill;
temperature, or three failed readings, set the regime; training steps run to the rate in force, a waiting change or a failed step begins it anew, a failure at the lowest rate ends
it; ZQCS falls due in each rank; the read gate is updated; patrol scrub reads the burst that is due, counts what it found and moves on; idle ranks power down and rows
kept by the timer close (R274 to R281, R283, R284).
Completes: refreshInterval, dramTempEval, trainingStepEnd, zqcsPeriodic, readGateUpdate, patrolScrub, powerDownIdle, bankIdleTimer.
Where the spec leaves a point open it follows the model's choice: log entries 67, 68, 70. -/
def Obligations.DramControllersProceed : Prop :=
  ∀ s : State,
    let retrained := fun (u : State) (rate : Nat) =>
      (∀ r, lowerRate rate = some r → u.dram.training = some (1, r) ∧ u.dram.waiting = none ∧ u.dram.ready = false ∧
        ∀ k ∈ rankList s.objs, u.rank k = {}) ∧
      (lowerRate rate = none → u.dram.training = none ∧ u.dram.ready = false ∧ u.dram.broken = true ∧ logsOnly s u Ev.dramTrainFail 0xFF [])
    (∀ (k : Fin 4) (reqs : List (List DramReq)) (fill : List Nat) (slots : Nat), (rankList s.objs).contains k.val = true → (s.rank k).sr = false →
      answers (.refreshInterval k reqs fill slots) s (fun u =>
        (u.rank k).debt = (if 7 ≤ (s.rank k).debt then 7 else if u.dram.panic = [] then (s.rank k).debt + 1 - slots else (s.rank k).debt + 1) ∧
        (∀ j : Fin 4, j ≠ k → (u.rank j).debt = (s.rank j).debt) ∧
        (∀ p x, p < 3 → fill[p]? = some x →
          (p ∈ u.dram.panic ↔ if p ∈ s.dram.panic then ¬x ≤ s.nat O.panicLevel - 10 else s.nat O.panicLevel < x)) ∧ frame [.objs, .dram] s u)) ∧
    (∀ (mpr : Option Bool) (t : Int), s.nat O.tempSource = 1 → answers (.dramTempEval mpr (some t)) s (fun u => u.int O.dramTemp = t ∧
      u.dram.failed = 0 ∧ u.dram.lost = false ∧ (85 * 64 < t → u.dram.hot = true) ∧ (t < 83 * 64 → u.dram.hot = false) ∧
      (83 * 64 ≤ t → t ≤ 85 * 64 → u.dram.hot = s.dram.hot) ∧ frame [.objs, .log, .dram] s u)) ∧
    (∀ (h : Bool) (pm : Option Int), s.nat O.tempSource ≠ 1 → answers (.dramTempEval (some h) pm) s (fun u => u.nat O.dramTemp = 0x7FFF ∧
      u.dram.failed = 0 ∧ u.dram.lost = false ∧ (h = true → u.dram.hot = true) ∧
      (h = false → u.dram.hot = (s.dram.hot && s.dram.cool = 0) ∧ (s.dram.hot = true → s.dram.cool = 0 → u.dram.cool = 1)) ∧
      frame [.objs, .log, .dram] s u)) ∧
    (∀ (mpr : Option Bool) (pm : Option Int), (if s.nat O.tempSource = 1 then pm = none else mpr = none) →
      answers (.dramTempEval mpr pm) s (fun u => u.dram.failed = s.dram.failed + 1 ∧
        (s.dram.failed = 2 → u.dram.lost = true ∧ u.dram.hot = true) ∧
        (s.dram.failed ≠ 2 → u.dram = { s.dram with failed := s.dram.failed + 1 } ∧ u.log = s.log) ∧ frame [.objs, .log, .dram] s u)) ∧
    (∀ n rate : Nat, s.dram.training = some (n, rate) →
      (s.dram.waiting = none → answers (.trainingStepEnd true) s (fun u =>
        (8 ≤ n → u.dram = { s.dram with training := none, ready := true, changing := false } ∧ u.nat O.dramSpeedActive = rate ∧
          u.nat O.rtBudget = rtBudgetOf rate) ∧
        (n < 8 → u.dram = { s.dram with training := some (n + 1, rate) } ∧ u.objs = s.objs) ∧ frame [.objs, .dram] s u)) ∧
      (∀ r, s.dram.waiting = some r → answers (.trainingStepEnd true) s (fun u => u.dram.training = some (1, r) ∧ u.dram.waiting = none ∧
        u.dram.ready = false ∧ (∀ k ∈ rankList s.objs, u.rank k = {}) ∧ frame [.dram] s u)) ∧
      answers (.trainingStepEnd false) s (fun u => retrained u rate ∧ frame [.log, .dram] s u)) ∧
    (∀ ok : Bool, answers (.zqcsPeriodic ok) s (fun u =>
      (ok = true ∨ s.dram.training.isSome = true → u.log = s.log ∧ u.dram = { s.dram with ranks := u.dram.ranks } ∧
        ∀ k, u.rank k = if (rankList s.objs).contains k then { s.rank k with zq := true } else s.rank k) ∧
      (ok = false → s.dram.training = none → retrained u (s.nat O.dramSpeedActive)) ∧ frame [.log, .dram] s u)) ∧
    (∀ ok : Bool, answers (.readGateUpdate ok) s (fun u => (ok = true ∨ s.dram.training.isSome = true → u = s) ∧
      (ok = false → s.dram.training = none → retrained u (s.nat O.dramSpeedActive)) ∧ frame [.log, .dram] s u)) ∧
    (∀ found : ScrubRead, s.dram.panic = [] → s.pwr.throttled = false → s.dram.ready = true →
      let due := s.dram.scrubDue.getD (s.now * 65536)
      let t := max due (s.dram.scrubLast + scrubStep s.objs / 4)
      let last := installedMiB s.objs * 1048576 ≤ s.dram.scrub + 64
      answers (.patrolScrub found) s (fun u => u.now = max s.now (t / 65536) ∧
        u.dram.scrubDue = some (due + scrubStep s.objs) ∧ u.dram.scrubLast = t ∧
        u.dram.scrub = (if last then 0 else s.dram.scrub + 64) ∧ (last → u.nat O.scrubPassEnd = u.gridTime) ∧
        (found = .clean → objsExcept [O.scrubPassEnd.key] s u ∧ frame [.now, .objs, .dram] s u) ∧
        (found = .corrected 1 → counts s u O.ceCount 0 ∧ u.bob = s.bob) ∧
        (∀ hit, found = .uncorrectable hit → counts s u O.ueCount 0 ∧ u.nat O.lastUeAddr = s.dram.scrub ∧
          (hit = none → logsOnly s u Ev.dramUe 0xFF (be 8 s.dram.scrub) ∧ u.bob = s.bob)) ∧
        frame [.now, .objs, .log, .bob, .twine, .dram] s u)) ∧
    (∀ found : ScrubRead, s.dram.panic ≠ [] ∨ s.pwr.throttled = true ∨ s.dram.ready = false → answers (.patrolScrub found) s (fun u => u = s)) ∧
    (∀ k : Fin 4, 1 ≤ s.nat O.pdIdle → s.dram.rows.any (fun x => Nat.beq (x.1 / 16) k.val) = false → (s.rank k).debt = 0 → (s.rank k).sr = false →
      (rankList s.objs).contains k.val = true → answers (.powerDownIdle k) s (fun u => u.rank k = { s.rank k with pd := true } ∧
        (∀ j : Fin 4, j ≠ k → u.rank j = s.rank j) ∧ frame [.dram] s u)) ∧
    (∀ (k : Fin 4) (bank : Fin 16) (row hint : Nat), Map.find? s.dram.rows (16 * k.val + bank.val) = some (row, hint) →
      answers (.bankIdleTimer k bank) s (fun u => (hint = 0 → u.dram = { s.dram with rows := Map.erase s.dram.rows (16 * k.val + bank.val) }) ∧
        (hint ≠ 0 → u = s) ∧ frame [.dram] s u))


/-! ### Lanes (chapter 15) -/

/-- Lanes start, lock and are lost: a group's lanes start 20 ms behind the one before, at 1.25 GBd with TAP_FIXED; a locked lane enters service, or goes on with its
step; a loss is counted and logged, the lane's frame is lost, and it retries every 100 ms, or within 100 ms of a new rate falls back to the old one;
the DFE converges 1 ms after lock and adaptation begins; the periodic FoM is reported; a STEP_RETRY wait ends (R291, R293, R294, R297 to R300, R303, R304).
Completes: laneGroupStart, laneLock, laneLockLost, dfeConverged, fomPeriodic, stepRetryExpiry, laneRetryAttempt.
Where the spec leaves a point open it follows the model's choice: log entry 74. -/
def Obligations.LanesStartLockAndRetry : Prop :=
  ∀ s : State,
    let tapLane := fun (l : Fin 24) => tapRole s.objs = true ∧ 22 ≤ l.val
    let others := fun (u : State) (l : Fin 24) => ∀ j : Fin 24, j ≠ l → u.lane j = s.lane j
    (∀ g : Fin 4, s.pwr.booted = true → s.pwr.sleep = none → answers (.laneGroupStart g) s (fun u =>
      u.now = max s.now (s.lanes.startAt + 20 * g.val * msTicks) ∧
      (∀ l : Fin 24, (laneGroup g).contains l.val = true → s.nat O.laneAdmin l = 1 → (s.lane l).started = false →
        u.nat O.txTaps l = s.nat O.tapFixed l ∧ ((tapLane l → u.lane l = { started := true, code := s.nat O.tapSpeed l }) ∧
          (¬tapLane l → u.lane l = { started := true }))) ∧
      (∀ l : Fin 24, (laneGroup g).contains l.val = false ∨ s.nat O.laneAdmin l ≠ 1 ∨ (s.lane l).started = true → u.lane l = s.lane l) ∧
      frame [.now, .objs, .lanes] s u)) ∧
    (∀ (l : Fin 24) (t : Nat) (found : LockFound), (s.lane l).started = true → (s.lane l).lock = false → ¬tapLane l →
      let v := { s.lane l with align := found.align % alignSteps (s.lane l).code, lock := true, lockAt := t }
      ((s.lane l).step = none → (s.lane l).retrying = false → s.nat O.laneAdmin l = 1 → answers (.laneLock l t found) s (fun u =>
        u.lane l = { v with offerAt := t, service := true, adapt := none, fails := 0, dropped := false,
                            noStepUntil := if v.dropped then u.now + s.nat O.stepRetry l * secondTicks else v.noStepUntil } ∧
        u.nat O.lastLock l = (if s.gridOn then u.now else 0) ∧ u.now = max s.now t ∧
        u.nat O.ctleCode l = bestCtle found.foms ∧ others u l ∧ frame [.now, .objs, .ptp, .lanes, .trig, .twine, .root] s u)) ∧
      ((s.lane l).step = none → (s.lane l).retrying = true ∨ s.nat O.laneAdmin l ≠ 1 → answers (.laneLock l t found) s (fun u =>
        u.lane l = { v with offerAt := t } ∧ u.nat O.ctleCode l = bestCtle found.foms ∧ others u l ∧ frame [.now, .objs, .lanes] s u)) ∧
      (∀ x a, (s.lane l).step = some x → x.ack = some a → x.switched = true → x.dead = false → t ≤ a + lockDeadline →
        answers (.laneLock l t found) s (fun u => u.lane l = { v with step := some { x with locked := some t } } ∧
          u.nat O.ctleCode l = bestCtle found.foms ∧ others u l ∧ frame [.now, .objs, .lanes] s u))) ∧
    (∀ (l : Fin 24) (t : Nat), (s.lane l).started = true → (s.lane l).lock = true → ¬tapLane l → s.nat O.laneAdmin l = 1 →
      answers (.laneLockLost l t) s (fun u => u.now = max s.now t ∧ (u.lane l).lock = false ∧ (u.lane l).service = false ∧ (u.lane l).dfe = false ∧
        counts s u O.lockLossCount l ∧ Map.find? (u.egress (portOf l)).line l = none ∧ others u l ∧
        ((s.lane l).step = none → (∀ x, (s.lane l).entered = some x → x.1 + 100 * msTicks ≤ t) →
          (u.lane l).retrying = true ∧ (u.lane l).fails = 0 ∧ (u.lane l).retryAt = t + 100 * msTicks ∧ (u.lane l).code = (s.lane l).code ∧
            logsOnly s u Ev.laneLockLost l []) ∧
        (∀ t0 old, (s.lane l).step = none → (s.lane l).entered = some (t0, old) → t < t0 + 100 * msTicks →
          (u.lane l).code = old ∧ (u.lane l).step = none ∧ (u.lane l).entered = none ∧ (u.lane l).retrying = (s.lane l).retrying ∧
            counts s u O.fallbackCount l) ∧
        (∀ x, (s.lane l).step = some x → (u.lane l).step = some { x with locked := none } ∧ (u.lane l).retrying = (s.lane l).retrying) ∧
        frame [.now, .objs, .log, .ptp, .lanes, .twine] s u)) ∧
    (∀ l : Fin 24, (s.lane l).lock = true → 2 ≤ (s.lane l).code → (s.lane l).dfe = false → answers (.dfeConverged l) s (fun u =>
      u.now = max s.now ((s.lane l).lockAt + msTicks) ∧
      ((s.lane l).step = none → u.lane l = { s.lane l with dfe := true }) ∧
      (∀ x, (s.lane l).step = some x →
        u.lane l = { s.lane l with dfe := true, adapt := if x.dead then none else some { taps := s.nat O.tapFixed l } }) ∧
      others u l ∧ frame [.now, .lanes] s u)) ∧
    (∀ (l : Fin 24) (h w : Nat), laneServes s l = true → (s.lane l).dfe = true ∨ (s.lane l).code < 2 → answers (.fomPeriodic l h w) s (fun u =>
      u.nat O.fom l = fomOf h w ∧ u.nat O.eye l = w % 256 * 256 + h % 256 ∧ objsExcept [O.fom.at l, O.eye.at l] s u ∧ frame [.objs] s u)) ∧
    (∀ l : Fin 24, 0 < (s.lane l).noStepUntil → answers (.stepRetryExpiry l) s (fun u =>
      u.now = max s.now (s.lane l).noStepUntil ∧ u.lane l = { s.lane l with noStepUntil := 0 } ∧ others u l ∧ frame [.now, .lanes] s u)) ∧
    (∀ (l : Fin 24) (t0 : Nat), (s.lane l).retrying = true → answers (.laneRetryAttempt l t0) s (fun u =>
      let t := max t0 (s.lane l).retryAt
      let c := (u.lane l).code
      u.now = max s.now t ∧
      (u.lane l).step = some { old := c, new := c, ack := some (t - msTicks), retry := true, switched := true } ∧
      (u.lane l).lock = false ∧ (u.lane l).service = false ∧ (u.lane l).dfe = false ∧ (u.lane l).adapt = none ∧ (u.lane l).retryAt = (s.lane l).retryAt + 100 * msTicks ∧
      u.nat O.txTaps l = s.nat O.tapFixed l ∧ others u l ∧
      ((s.lane l).step = none → c = (s.lane l).code ∧ u.log = s.log ∧ u.ptp = s.ptp) ∧ frame [.now, .objs, .log, .ptp, .lanes] s u))

/-- A lane's step: each 1 ms a lane in lock offers, and begins the step that it wants; 1 ms after GO_ACK the rate switches; an end not in lock by 11 ms sends nothing
further; at 51 ms the step or attempt fails; a measurement is reported and leads to CONFIRM, or in an adaptation to the next trial, the undoing of one that did not gain,
or the CONFIRM that ends it; with both CONFIRMs known the lane enters service or falls back (R292 to R295, R298 to R300, R304).
Completes: stepOfferSend, stepRateSwitch, stepLockTimeout, stepExchangeTimeout, fomMeasurementEnd.
Where the spec leaves a point open it follows the model's choice: log entry 71. -/
def Obligations.StepsRunTheirCourse : Prop :=
  ∀ (s : State) (l : Fin 24),
    let v := s.lane l
    let others := fun (u : State) => ∀ j : Fin 24, j ≠ l → u.lane j = s.lane j
    let sends := fun (u : State) (stype off len x : Nat) => ∃ b, (u.lane l).out = v.out ++ [b] ∧ hKind b = 10 ∧ field b 16 1 = stype ∧ field b off len = x
    let confirms := fun (u : State) (x : LaneStep) (g : Nat) =>
      (x.peer = none → (u.lane l).step = some { x with own := some g } ∧ (u.lane l).adapt = none ∧ sends u 4 32 1 (g % 256) ∧ u.log = s.log) ∧
      (∀ b, x.peer = some b → s.nat O.fomThreshold l ≤ g → s.nat O.fomThreshold l ≤ b → (u.lane l).step = none ∧ (u.lane l).service = true ∧
        (x.retry = false → (u.lane l).entered = some (u.now, x.old))) ∧
      (∀ b, x.peer = some b → g < s.nat O.fomThreshold l ∨ b < s.nat O.fomThreshold l → (u.lane l).step = none ∧
        (x.retry = false → counts s u O.fallbackCount l ∧ (x.switched = true → (u.lane l).code = x.old ∧ (u.lane l).lock = false)))
    let tries := fun (u : State) (x : LaneStep) (a : Adapt) =>
      (∀ w b, nextMove 12 a = some (w, b) → (u.lane l).adapt = some b ∧ (u.lane l).step = some x ∧ sends u 6 36 4 (w % 2 ^ 32)) ∧
      (nextMove 12 a = none → confirms u x (a.best.getD 0))
    (∀ t : Nat, laneLocked s l = true → v.step = none →
      let a := s.advance (max t v.offerAt)
      let b := sendStep (a.setLane l { v with offerAt := a.now + msTicks }) l 1
      answers (.stepOfferSend l t) s (fun u => u.now = max s.now (max t v.offerAt) ∧ (u.lane l).offerAt = u.now + msTicks ∧
        (∃ o, (b.lane l).out = v.out ++ [o] ∧ hKind o = 10 ∧ field o 16 1 = 1 ∧ field o 20 8 = s.nat O.baseMac % 2 ^ 64 ∧
          field o 28 1 = s.nat O.maxSpeed l % 256 ∧ field o 29 1 = s.nat O.tapMode l % 256 ∧ field o 30 1 = v.code % 256) ∧
        (wantedStep b l = none → u = b) ∧
        (∀ c, wantedStep b l = some c → (u.lane l).step = some { old := v.code, new := c } ∧ (u.lane l).service = false ∧
          ∃ g, (u.lane l).out = (b.lane l).out ++ [g] ∧ field g 16 1 = 2 ∧ field g 31 1 = c % 256) ∧
        others u ∧ frame [.now, .lanes] s u)) ∧
    (∀ (x : LaneStep) (a : Nat), v.step = some x → x.ack = some a → x.switched = false → answers (.stepRateSwitch l) s (fun u =>
      u.now = max s.now (a + msTicks) ∧
      u.lane l = { v with step := some { x with switched := true }, code := x.new, lock := false, dfe := false, adapt := none } ∧
      u.nat O.txTaps l = s.nat O.tapFixed l ∧ (u.pdelay l).held = [] ∧ (u.pdelay l).valid = false ∧ others u ∧
      frame [.now, .objs, .ptp, .lanes, .twine] s u)) ∧
    (∀ (x : LaneStep) (a : Nat), v.step = some x → x.ack = some a → x.switched = true → x.dead = false → v.lock = false →
      answers (.stepLockTimeout l) s (fun u => u.now = max s.now (a + lockDeadline) ∧
        u.lane l = { v with step := some { x with dead := true }, out := [] } ∧ others u ∧ frame [.now, .lanes] s u)) ∧
    (∀ (x : LaneStep) (t : Nat), v.step = some x → answers (.stepExchangeTimeout l t) s (fun u =>
      u.now = max s.now (match x.ack with | some a => a + stepDeadline | none => t) ∧ (u.lane l).step = none ∧ (u.lane l).adapt = none ∧
      (x.retry = false → counts s u O.fallbackCount l ∧ logsOnly s u Ev.laneFallback l (be 1 x.new ++ be 1 x.old) ∧
        (u.lane l).code = (if x.switched then x.old else v.code) ∧ (x.switched = true → (u.lane l).lock = false) ∧
        (v.leader = true → (u.lane l).noStepUntil = u.now + s.nat O.stepRetry l * secondTicks)) ∧
      (x.retry = true → (u.lane l).service = false ∧ u.nat O.fallbackCount l = s.nat O.fallbackCount l ∧
        (2 ≤ v.fails → 0 < v.code → (u.lane l).code = v.code - 1 ∧ (u.lane l).fails = 0 ∧ counts s u O.stepDownCount l) ∧
        (v.fails < 2 ∨ v.code = 0 → (u.lane l).code = v.code ∧ (u.lane l).fails = v.fails + 1)) ∧
      others u ∧ frame [.now, .objs, .log, .ptp, .lanes] s u)) ∧
    (∀ t h w : Nat, v.code < 2 ∨ v.dfe = true →
      let f := fomOf h w
      answers (.fomMeasurementEnd l t h w) s (fun u => max s.now t ≤ u.now ∧ u.nat O.fom l = f ∧ u.nat O.eye l = w % 256 * 256 + h % 256 ∧
        ((∀ x, v.step = some x → x.dead = true ∨ v.lock = false ∨ x.own.isSome = true) → u.lane l = v ∧ frame [.now, .objs] s u) ∧
        (∀ x, v.step = some x → x.dead = false → v.lock = true → x.own = none →
          (v.adapt = none → v.code < 2 → confirms u x f) ∧
          (∀ a, v.adapt = some a → a.best = none → v.partnerTapMode = 1 → confirms u x f) ∧
          (∀ a, v.adapt = some a → a.best = none → v.partnerTapMode ≠ 1 → tries u x { a with best := some f }) ∧
          (∀ a best taps, v.adapt = some a → a.best = some best → a.asked = some (taps, false) → a.acked = true → v.held = none →
            (best + 2 ≤ f → tries u x { a with trials := a.trials + 1, best := some f, improved := true, asked := none, taps := taps }) ∧
            (f < best + 2 → (u.lane l).adapt = some { a with trials := a.trials + 1, asked := some (a.taps, true), acked := false } ∧
              (u.lane l).step = some x ∧ sends u 6 36 4 (a.taps % 2 ^ 32)))) ∧
        others u ∧ frame [.now, .objs, .log, .ptp, .lanes, .trig, .twine, .root] s u))

/-- Received STEP frames: OFFER tells of the partner; GO is answered with GO_ACK and stops the lane's traffic, where it may step; GO_ACK starts the leader's
offsets; CONFIRM gives the partner's figure, on which, with the own one known, the lane enters service or falls back; FALLBACK returns to the old rate 1 ms later; TAP sets the
transmit taps, or is refused, and answered; TAP_ACK lets the trial's measurement begin, goes on after an undone trial, or, refused, ends the adaptation; loopback requests follow
LOOP_PERMIT (R292 to R294, R300, R307).
Completes: stepOffer, stepGo, stepGoAck, stepConfirm, stepFallback, stepTap, stepTapAck, stepLoopReq, stepLoopAck, stepLoopEnd.
Where the spec leaves a point open it follows the model's choice: log entry 72. -/
def Obligations.StepFramesAct : Prop :=
  ∀ (s : State) (l : Fin 24) (t : Nat) (f : Bytes),
    let b := bodyOf f
    let v := s.lane l
    let others := fun (u : State) => u.now = max s.now t ∧ (∀ j : Fin 24, j ≠ l → u.lane j = s.lane j) ∧ frame [.now, .lanes] s u
    let sends := fun (u : State) (stype off len x : Nat) => ∃ c, (u.lane l).out = v.out ++ [c] ∧ hKind c = 10 ∧ field c 16 1 = stype ∧ field c off len = x
    (stepFrame s l f 1 → answers (.stepOffer l t f) s (fun u =>
      u.lane l = { v with partnerMax := some (field b 12 1), partnerTapMode := field b 13 1, leader := decide (s.nat O.baseMac < field b 4 8) } ∧
      u.nat O.partnerMac l = field b 4 8 ∧ objsExcept [O.partnerMac.at l] s u ∧ frame [.now, .objs, .lanes] s u)) ∧
    (stepFrame s l f 2 → answers (.stepGo l t f) s (fun u => others u ∧
      (mayStep s l = true → field b 15 1 ≤ s.nat O.maxSpeed l → (u.lane l).step = some { old := v.code, new := field b 15 1 } ∧
        (u.lane l).service = false ∧ sends u 3 31 1 (field b 15 1)) ∧
      (mayStep s l = false ∨ s.nat O.maxSpeed l < field b 15 1 → u.lane l = v))) ∧
    (∀ x, stepFrame s l f 3 → v.step = some x → answers (.stepGoAck l t f) s (fun u => others u ∧
      (x.new = field b 15 1 → x.ack = none → u.lane l = { v with step := some { x with ack := some t } }) ∧
      (x.new ≠ field b 15 1 ∨ x.ack.isSome = true → u.lane l = v))) ∧
    (∀ x, stepFrame s l f 4 → v.step = some x → x.dead = false →
      let thr := s.nat O.fomThreshold l
      answers (.stepConfirm l t f) s (fun u =>
        (x.own = none → u.lane l = { v with step := some { x with peer := some (field b 16 1) } } ∧ others u) ∧
        (∀ a, x.own = some a → thr ≤ a → thr ≤ field b 16 1 →
          (u.lane l).step = none ∧ (u.lane l).service = true ∧ (u.lane l).retrying = false ∧ u.nat O.lastLock l = (if s.gridOn then u.now else 0) ∧
            (x.retry = false → (u.lane l).entered = some (u.now, x.old)) ∧ u.log = s.log) ∧
        (∀ a, x.own = some a → a < thr ∨ field b 16 1 < thr → (u.lane l).step = none ∧
          (x.retry = false → sends u 5 32 1 0 ∧ u.now = max s.now t + msTicks ∧ counts s u O.fallbackCount l ∧
            (x.switched = true → (u.lane l).code = x.old ∧ (u.lane l).lock = false)) ∧
          (x.retry = true → (u.lane l).service = false)) ∧
        (∀ j : Fin 24, j ≠ l → u.lane j = s.lane j) ∧ frame [.now, .objs, .log, .ptp, .lanes, .trig, .twine, .root] s u)) ∧
    (∀ x, stepFrame s l f 5 → v.step = some x → answers (.stepFallback l t f) s (fun u => (u.lane l).step = none ∧
      u.now = max (max s.now t) (t + msTicks) ∧
      (x.retry = false → counts s u O.fallbackCount l ∧ (x.switched = true → (u.lane l).code = x.old ∧ (u.lane l).lock = false) ∧
        logsOnly s u Ev.laneFallback l (be 1 x.new ++ be 1 x.old)) ∧
      (∀ j : Fin 24, j ≠ l → u.lane j = s.lane j) ∧ frame [.now, .objs, .log, .ptp, .lanes] s u)) ∧
    (stepFrame s l f 5 → v.step = none → answers (.stepFallback l t f) s (fun u => u.lane l = v ∧ others u)) ∧
    (stepFrame s l f 6 → answers (.stepTap l t f) s (fun u =>
      (s.nat O.tapMode l ≠ 1 → tapsOk (field b 20 4) = true → u.nat O.txTaps l = field b 20 4 ∧ sends u 7 33 1 0 ∧ sends u 7 36 4 (field b 20 4)) ∧
      (s.nat O.tapMode l = 1 ∨ tapsOk (field b 20 4) = false → sends u 7 33 1 1 ∧ u.objs = s.objs) ∧
      (∀ j : Fin 24, j ≠ l → u.lane j = s.lane j) ∧ objsExcept [O.txTaps.at l] s u ∧ frame [.now, .objs, .lanes] s u)) ∧
    (∀ a w undo, stepFrame s l f 7 → v.adapt = some a → a.asked = some (w, undo) →
      answers (.stepTapAck l t f) s (fun u =>
        let refused := bitOf (field b 17 1) 0
        (refused = false → undo = false → u.lane l = { v with adapt := some { a with acked := true } } ∧ others u) ∧
        (refused = false → undo = true → v.held = none →
          (∀ x c, nextMove 12 { a with asked := none } = some (x, c) → (u.lane l).adapt = some c ∧ sends u 6 36 4 (x % 2 ^ 32)) ∧
          (nextMove 12 { a with asked := none } = none → ∀ x, v.step = some x → x.peer = none →
            (u.lane l).step = some { x with own := some (a.best.getD 0) } ∧ (u.lane l).adapt = none)) ∧
        (refused = true → ∀ x, v.step = some x → x.peer = none → (u.lane l).step = some { x with own := some (a.best.getD 0) } ∧
          (u.lane l).adapt = none ∧ sends u 4 32 1 (a.best.getD 0 % 256)) ∧
        (∀ j : Fin 24, j ≠ l → u.lane j = s.lane j) ∧ frame [.now, .objs, .log, .ptp, .lanes, .trig, .twine, .root] s u)) ∧
    (stepFrame s l f 8 → answers (.stepLoopReq l t f) s (fun u => others u ∧ sends u 9 33 1 (if s.bool O.loopPermit l then 0 else 1) ∧
      (u.lane l).looping = (if s.bool O.loopPermit l then true else v.looping))) ∧
    (stepFrame s l f 9 ∨ hKind f = 10 ∧ frameCheck f = 0 ∧ field f 16 1 = 9 ∧ s.nat O.laneAdmin l = 2 → answers (.stepLoopAck l t f) s (fun u =>
      u.lane l = { v with loopRefused := bitOf (field b 17 1) 0 } ∧ others u)) ∧
    (stepFrame s l f 10 → answers (.stepLoopEnd l t f) s (fun u => u.lane l = { v with looping := false } ∧ others u))

/-- Reception: a bad frame is counted; another EtherType is counted; PTP, STEP and Twine frames go to their users, those of a doubled port in the order of their stripe
numbers, a late one being dropped and counted; tap lanes take their copies; a missing stripe number awaited for 32 µs is skipped and counted; a tap copy that could not start
in 10 µs is dropped and counted (R290, R302, R306). Completes: ethernetFrameReceived, reorderWaitExpiry, tapCopyDrop.
Where the spec leaves a point open it follows the model's choice: log entries 75, 78. -/
def Obligations.LanesReceiveFrames : Prop :=
  ∀ s : State,
    (∀ (l : Fin 24) (t : Nat) (f : EthFrame), laneLocked s l = true →
      let good := f.good = true ∧ 64 ≤ f.length ∧ f.length ≤ 9216
      let p := portOf l
      let r := Map.getD s.lanes.reorder p {}
      answers (.ethernetFrameReceived l t f) s (fun u => u.now = max s.now t ∧
        (¬good → counts s u O.rxFrameErrCount l ∧ (s.nat O.fwdAbortCount + f.started < 2 ^ 32 → u.nat O.fwdAbortCount = s.nat O.fwdAbortCount + f.started) ∧
          u.lanes = { s.lanes with taps := u.lanes.taps }) ∧
        (good → f.body = .other → counts s u O.rxOtherCount l ∧ u.lanes = { s.lanes with taps := u.lanes.taps }) ∧
        (∀ rx m, good → f.body = .ptp rx m → u.lanes = { s.lanes with ptp := s.lanes.ptp ++ [(rx, m)], taps := u.lanes.taps } ∧ u.objs = s.objs) ∧
        (∀ b, good → f.body = .twine b → f.etherType ≠ s.nat O.ethertype → counts s u O.rxOtherCount l ∧
          u.lanes = { s.lanes with taps := u.lanes.taps }) ∧
        (∀ b, good → f.body = .twine b → f.etherType = s.nat O.ethertype → hKind b = 10 →
          u.lanes = { s.lanes with steps := s.lanes.steps ++ [(l.val, b)], taps := u.lanes.taps } ∧ u.objs = s.objs) ∧
        (∀ b, good → f.body = .twine b → f.etherType = s.nat O.ethertype → hKind b ≠ 10 → doubled p = false →
          u.lanes = { s.lanes with delivered := s.lanes.delivered ++ [(p, b)], taps := u.lanes.taps } ∧ u.objs = s.objs) ∧
        (∀ b, good → f.body = .twine b → f.etherType = s.nat O.ethertype → hKind b ≠ 10 → doubled p = true →
          let d := (hStripe b + 65536 - r.next.getD (hStripe b)) % 65536
          (32768 ≤ d → counts s u O.reorderSkipCount ((lanesOf p).headD 0) ∧ u.lanes = { s.lanes with taps := u.lanes.taps }) ∧
          (d = 0 → u.objs = s.objs ∧ ∃ a, u.lanes.delivered = s.lanes.delivered ++ (p, b) :: a) ∧
          (0 < d → d < 32768 → (r.held.map (·.2.2.length)).sum + b.length ≤ 131072 → u.objs = s.objs ∧ u.lanes.delivered = s.lanes.delivered ∧
            ∃ q, Map.find? u.lanes.reorder p = some q ∧ q.next = r.next ∧ (hStripe b, u.now, b) ∈ q.held ∧ q.held.length = r.held.length + 1)) ∧
        (tapRole s.objs = false → u.lanes.taps = s.lanes.taps) ∧
        (∀ k, k = 22 ∨ k = 23 → tapRole s.objs = true → s.nat O.laneAdmin k = 1 →
          (s.objs.val (O.tapSource.at k) (.int (if k = 23 then 2 else 0))).toInt.toNat = l.val →
          Map.getD u.lanes.taps k [] = Map.getD s.lanes.taps k [] ++ [(t, f)]) ∧ frame [.now, .objs, .lanes] s u)) ∧
    (∀ (l : Fin 24) (t : Nat) (f : EthFrame), laneLocked s l = false → answers (.ethernetFrameReceived l t f) s (fun u => u = s.advance t)) ∧
    (∀ (p : Fin 21) (r : Reorder) (n : Nat) (x : Nat × Nat × Bytes) (rest : List (Nat × Nat × Bytes)), Map.find? s.lanes.reorder p = some r →
      r.next = some n → r.held = x :: rest →
      let skipped := s.nat O.reorderSkipCount ((lanesOf p).headD 0) + (x.1 + 65536 - n) % 65536
      answers (.reorderWaitExpiry p) s (fun u => u.now = max s.now ((r.held.map (·.2.1)).foldl min x.2.1 + 32 * usTicks) ∧
        (∃ q, Map.find? u.lanes.reorder p = some q ∧ q.next.isSome = true ∧ q.held.length ≤ rest.length) ∧
        (∃ l, u.lanes.delivered = s.lanes.delivered ++ (p.val, x.2.2) :: l) ∧
        (skipped < 2 ^ 32 → u.nat O.reorderSkipCount ((lanesOf p).headD 0) = skipped) ∧ frame [.now, .objs, .lanes] s u)) ∧
    (∀ (l : Fin 24) (x : Nat × EthFrame) (rest : List (Nat × EthFrame)), Map.getD s.lanes.taps l [] = x :: rest →
      answers (.tapCopyDrop l) s (fun u => u.now = max s.now (x.1 + 10 * usTicks) ∧ Map.getD u.lanes.taps l [] = rest ∧
        counts s u O.tapDropCount l ∧ objsExcept [O.tapDropCount.at l] s u ∧ frame [.now, .objs, .lanes] s u))


/-! ### Twine and the root (chapters 16 and 19) -/

/-- Frames the hub does not consume are learnt and forwarded with HOPS - 1 on the ports of R312, dropped and counted at HOPS 1 or when they came from this hub, or refused where no
hub may send them; a learnt sender is forgotten after 60 s. What a hub sends on its own: the unsent events go to the root; the entries of its channels go to the root, or
into its own directory, and are noted anew; an aged stream's skein closes and goes out with the next SEQ; a skein that ran dry goes again, store-and-forward, with the same SEQ
(R312, R314, R319, R320, R328, R330, R375).
Completes: twineForward, learningEntryExpiry, eventSend, summarySend, skeinAgeExpiry, transmitUnderrun.
Where the spec leaves a point open it follows the model's choice: log entries 79, 82, 85. -/
def Obligations.TwineFramesAreForwardedAndSent : Prop :=
  (∀ s : State,
      (∀ (port : Fin 21) (t : Nat) (f : Bytes), port ≠ 19 → hKind f ≠ 10 → ownFrame s f = true →
        answers (.twineForward port t f) s (fun u => u.now = max s.now t ∧ counts s u O.loopRxCount 0 ∧
          u.lanes.delivered = s.lanes.delivered.erase (port.val, f) ∧ frame [.now, .objs, .lanes] s u)) ∧
      (∀ (port : Fin 21) (t : Nat) (f : Bytes) (s1 : State), port ≠ 19 → hKind f ≠ 10 → ownFrame s f = false →
        s1 = learnSrc (tookFrame (s.advance t) port f) port f →
        (addressedHere s f = false → hBcast f = false → answers (.twineForward port t f) s (fun u => u.now = max s.now t ∧ u.twine = s1.twine ∧
          u.lanes = s1.lanes ∧ (hHops f ≤ 1 → counts s u O.hopDropCount 0 ∧ u.ptp = s.ptp) ∧
          (2 ≤ hHops f → ∀ p ∈ routePorts s1 (hMac f) (hDest f) port,
            let g : TxFrame := { cls := beClass (hClass f), body := .twine (patch f 8 2 (hHops f - 1)), cut := true }
            (portUp s p = true → hasRoom p (s.egress p) g = true → (u.egress p).queue = (s.egress p).queue ++ [g]) ∧
            (portUp s p = false ∨ hasRoom p (s.egress p) g = false → (u.egress p).queue = (s.egress p).queue)) ∧
          (2 ≤ hHops f → ∀ p, p ∉ routePorts s1 (hMac f) (hDest f) port → u.egress p = s.egress p) ∧
          frame [.now, .objs, .ptp, .lanes, .twine] s u)) ∧
        (addressedHere s f = true → hKind f = 9 → frameCheck f = 0 → answers (.twineForward port t f) s (fun u => refusedAs s1 u port f 5 ∧
          frame [.now, .objs, .ptp, .lanes, .twine] s u))) ∧
      (∀ (src : Fin 16384) (p t0 : Nat), Map.find? s.twine.learned src = some (p, t0) → answers (.learningEntryExpiry src) s (fun u =>
        u.now = max s.now (t0 + 60 * secondTicks) ∧ u.twine = { s.twine with learned := Map.erase s.twine.learned src } ∧ frame [.now, .twine] s u))) ∧
  (∀ s : State,
      let p := s.nat O.rootPort
      let out := fun (u : State) (g : TxFrame) => portUp s p = true → hasRoom p (s.egress p) g = true → g ∈ (u.egress p).queue
      let clean := fun (e : Bytes) => e.take 4 ++ be 1 (field e 4 1 / 2 * 2) ++ e.drop 5
      (∀ (t : Nat) (e : Event) (l : List Event), unsentEvents s = e :: l → s.bool O.eventSend = true → hasRoot s = true →
        let sent := (e :: l).take 256
        let b := twineBytes (ownId s) { kind := 5, dest := s.nat O.rootId, cls := 3, hops := s.nat O.hopsInit, storeFwd := storeFwdPort s p }
          (be 2 sent.length ++ be 2 0 ++ be 4 e.seq ++ sent.flatMap eventBytes)
        answers (.eventSend t) s (fun u => u.now = max s.now t ∧ (p ≠ 0 → p ≠ 19 → out u { cls := beClass 3, body := .twine b }) ∧
          u.twine = { s.twine with eventSent := ((sent.getLastD e).seq + 1) % 2 ^ 32 } ∧ frame [.now, .objs, .ptp, .twine] s u)) ∧
      (∀ t : Nat, unsentEvents s = [] ∨ s.bool O.eventSend = false ∨ hasRoot s = false → answers (.eventSend t) s (fun u => u = s.advance t)) ∧
      (∀ t : Nat, s.gridOn = true → distaffServes s = true → t % (s.nat O.summaryInterval * frameTicks) = 0 → summaryChannels s ≠ [] →
        let es := (summaryChannels s).map (dirEntry (s.advance t))
        let b := twineBytes (ownId s) { kind := 8, dest := s.nat O.rootId, cls := 3, hops := s.nat O.hopsInit, storeFwd := storeFwdPort s p }
          (be 2 (es.take 128).length ++ be 2 0 ++ be 8 t ++ be 4 (s.nat O.summaryInterval) ++ (es.take 128).flatten)
        let anew := fun (u : State) => ∀ ch ∈ summaryChannels s, (Map.getD u.twine.notes ch {}).flagged = 0 ∧ (Map.getD u.twine.notes ch {}).bad = false
        (rootServes s = true → answers (.summarySend t) s (fun u => u.now = max s.now t ∧
          Map.find? u.root.receipts (s.nat O.hubId) = some (max s.now t) ∧ anew u ∧
          (∀ ch ∈ summaryChannels s, s.nat O.bobbinMode ch < 4 → Map.find? s.root.dir (s.nat O.hubId % 65536 * 512 + ch) = none →
            Map.find? u.root.dir (s.nat O.hubId % 65536 * 512 + ch) = some (clean (dirEntry (s.advance t) ch))) ∧
          frame [.now, .objs, .twine, .root] s u)) ∧
        (rootServes s = false → hasRoot s = true → answers (.summarySend t) s (fun u => u.now = max s.now t ∧ anew u ∧
          (p ≠ 0 → p ≠ 19 → out u { cls := beClass 3, body := .twine b }) ∧ frame [.now, .objs, .ptp, .twine] s u))) ∧
      (∀ (id : Fin 1024) (t0 : Nat), (s.stream id).since = some t0 → liveAllowed s = true →
        let ch := id.val / 2
        let sends := fun (u : State) (content count seq : Nat) =>
          ∃ g b, g.body = .twine b ∧ hKind b = 1 ∧ field b 16 2 = ch ∧ field b 18 1 = content ∧ field b 20 4 = seq % 2 ^ 32 ∧ field b 28 2 = count % 65536 ∧
            (s.bool O.trunkCycleEnable = true → g.cls = 0 ∧ (u.egress p).waiting = (s.egress p).waiting ++ [g]) ∧
            (s.bool O.trunkCycleEnable = false → g.cls = 4 ∧ out u g)
        (∀ x ws, id.val % 2 = 0 → nextWords s ch true = x :: ws → answers (.skeinAgeExpiry id) s (fun u =>
          u.now = max s.now (t0 + s.nat O.skeinAge * msTicks) ∧ u.nat O.liveSentTo ch = x.1 + (ws.length + 1) * x.2.1 ∧
          sends u (if x.2.2.2 then 2 else 1) (ws.length + 1) (s.stream id).seq ∧
          (u.stream id).pos = x.1 + (ws.length + 1) * x.2.1 ∧ (u.stream id).seq = ((s.stream id).seq + 1) % 2 ^ 32 ∧
          frame [.now, .objs, .ptp, .twine] s u)) ∧
        (∀ x rs, id.val % 2 = 1 → nextRecords s ch true = x :: rs → answers (.skeinAgeExpiry id) s (fun u =>
          u.now = max s.now (t0 + s.nat O.skeinAge * msTicks) ∧ (u.stream id).pos = ((x :: rs).getLastD x).serial + 1 ∧
          sends u 3 ((x :: rs).flatMap (·.bytes)).length (s.stream id).seq ∧
          (u.stream id).seq = ((s.stream id).seq + 1) % 2 ^ 32 ∧ frame [.now, .objs, .ptp, .twine] s u))) ∧
      (∀ (l : Fin 24) (f : TxFrame) (b : Bytes), Map.find? (s.egress (portOf l)).line l = some f → f.body = .twine b → f.cut = true → hKind b = 1 →
        16 ≤ b.length → s.nat O.ctThreshold < f.body.frameBytes →
        answers (.transmitUnderrun l) s (fun u => counts s u O.underrunCount 0 ∧
          (u.egress (portOf l)).line = Map.erase (s.egress (portOf l)).line l ∧
          (∃ (g : TxFrame) (c : Bytes), g = { f with cut := false, lane := none, body := .twine c } ∧ c.length = b.length ∧
            field c 10 1 = 128 + field b 10 1 % 128 ∧ (∀ i, i ≠ 10 → i < b.length - 4 → c.getD i 0 = b.getD i 0) ∧
            (f.cls = 0 → (u.egress (portOf l)).waiting = g :: (s.egress (portOf l)).waiting) ∧
            (f.cls ≠ 0 → (u.egress (portOf l)).queue = g :: (s.egress (portOf l)).queue)) ∧
          (∀ q, q ≠ portOf l → u.egress q = s.egress q) ∧ frame [.objs, .ptp] s u)))

/-- Frames from the root and from hubs: a DOFF acknowledges channels, captures or, from the uplink station, the root's stream, is held during a core restart, and is NOT_ROOT from any
other; RETX and RETRO draw NOT_ROOT, OUT_OF_WINDOW, TOO_LARGE and BUSY in that order, else they are held and answered in turn; a TRIGGER is taken once and fires the remote units
that select it (R214, R222, R255, R256, R321 to R324, R328, R383, Table 16.10).
Completes: doffReceived, retxReceived, retroReceived, requestAnswerComplete, triggerReceived.
Where the spec leaves a point open it follows the model's choice: log entries 79, 80, 81. -/
def Obligations.HubFramesAct : Prop :=
  ∀ (s s1 : State) (port : Fin 21) (t : Nat) (f : Bytes),
    let b := bodyOf f
    let serves := isReady s = true ∧ inRestart s = false
    (arrivesHere s port t f 2 s1 → acksJob s1 f = false →
      (fromRoot s f = false → answers (.doffReceived port t f) s (fun u => refusedAs s1 u port f 6 ∧ u.bob = s.bob ∧ u.trig = s.trig)) ∧
      (fromRoot s f = true → inRestart s = true → answers (.doffReceived port t f) s (fun u =>
        u.twine.heldDoffs = s.twine.heldDoffs ++ [(port.val, f)] ∧ u.bob = s.bob ∧ u.trig = s.trig)) ∧
      (fromRoot s f = true → isReady s = false → inRestart s = false → addressedHere s f = true → answers (.doffReceived port t f) s (fun u => u = s1)) ∧
      (fromRoot s f = true → serves → field b 0 2 = 1 →
        let target := field b 4 2
        let ch := target % 512
        let upto := field b 12 8
        let r := target % 16
        answers (.doffReceived port t f) s (fun u =>
          (target / 16384 ≠ 1 → s.nat O.ackTime ch < upto → upto ≤ s1.gridTime → u.nat O.ackTime ch = upto ∧ u.trig = s.trig ∧
            (∀ x, Map.find? s.bob.bobbins ch = some x → u.bobbin ch = x.doff (if s.twin.active && !s.spin.restarting then upto else 0)) ∧
            (∀ k, k ≠ ch → Map.find? u.bob.bobbins k = Map.find? s.bob.bobbins k)) ∧
          (target / 16384 ≠ 1 → upto ≤ s.nat O.ackTime ch → upto ≤ s1.gridTime → u.bob = s.bob ∧ u.trig = s.trig ∧ u.nat O.ackTime ch = s.nat O.ackTime ch) ∧
          (target / 16384 ≠ 1 → s1.gridTime < upto → refusedAs s1 u port f 7 ∧ u.bob = s.bob ∧ u.nat O.ackTime ch = s.nat O.ackTime ch) ∧
          (∀ c, target / 16384 = 1 → (s.reel r).held.find? (fun c => Nat.beq c.id (field b 8 4)) = some c → u.bob = s.bob ∧
            (upto ≤ c.acked → u.trig = s.trig) ∧
            (c.acked < upto → upto < c.bytes.length → (u.reel r).held =
              (s.reel r).held.map (fun d => if Nat.beq d.id c.id then { d with acked := upto } else d)) ∧
            (c.acked < upto → c.bytes.length ≤ upto → (u.reel r).held = (s.reel r).held.filter (fun d => !Nat.beq d.id c.id))) ∧
          frame [.now, .objs, .ptp, .lanes, .bob, .trig, .twine] s u))) ∧
    (∀ j : RetroJob, arrivesHere s port t f 2 s1 → acksJob s1 f = true → distaffServes s = true → s.root.retro = some j → field b 0 2 = 1 →
      let a := min (field b 12 8) j.sent
      j.acked < a → answers (.doffReceived port t f) s (fun u =>
        (j.ended = true → (j.stream.drop (a - j.acked)).isEmpty = true → u.root.retro = none ∧ (s.nat O.retroState = 1 → u.nat O.retroState = 2)) ∧
        (¬(j.ended = true ∧ (j.stream.drop (a - j.acked)).isEmpty = true) → ∃ k, u.root.retro = some k ∧ k.id = j.id ∧ k.acked = a) ∧
        u.bob = s.bob ∧ u.trig = s.trig)) ∧
    (∀ (retro : Bool) (ue : List (Nat × UeHit)), arrivesHere s port t f (if retro then 7 else 3) s1 →
      let r : HeldRequest := { src := hSrc f, retro := retro, body := b }
      let w := requestWindow r
      let c : Instr := if retro then .retroReceived port t f ue else .retxReceived port t f ue
      let inWindow := retro = true ∨ w.2.2.2.1 < w.2.2.2.2 ∧ w.2.2.2.2 ≤ s1.gridTime
      let large := w.1.any (fun ch => answerTooLarge s ch w.2.2.2.1 w.2.2.2.2 w.2.1) = true
      answers c s (fun u => (fromRoot s f = false → refusedAs s1 u port f 6) ∧ (fromRoot s f = true → ¬inWindow → refusedAs s1 u port f 7) ∧
        (fromRoot s f = true → inWindow → large → refusedAs s1 u port f 9) ∧
        (fromRoot s f = true → inWindow → ¬large → ¬(serves ∧ s.twine.requests.length < 64) →
          u.twine.requests = s.twine.requests ∧ counts s u O.busyCount 0 ∧ u.twine.violations = s.twine.violations) ∧
        (fromRoot s f = true → inWindow → ¬large → serves → s.twine.requests.length < 64 → u.twine.requests = s.twine.requests ++ [r] ∧
          (addressedHere s f = true → ue = [] →
            let s2 : State := { s1 with twine := { s1.twine with requests := s1.twine.requests ++ [r] } }
            u = if s.twine.requests.isEmpty then answerFront s2 else s2)) ∧
        frame [.now, .objs, .log, .ptp, .lanes, .bob, .twine] s u)) ∧
    (∀ (r : HeldRequest) (rest : List HeldRequest) (ue : List (Nat × UeHit)), s.twine.requests = r :: rest →
      answers (.requestAnswerComplete ue) s (fun u => u.twine.requests = rest ∧
        (ue = [] → u = answerFront { s with twine := { s.twine with requests := rest } }) ∧
        (rest = [] → ue = [] → u.ptp = s.ptp ∧ u.objs = s.objs) ∧ frame [.objs, .log, .ptp, .bob, .twine] s u)) ∧
    (arrivesHere s port t f 6 s1 →
      let key := (hSrc f, field b 4 4)
      let fine := field b 8 8 * 65536 + field b 16 2
      let st := s.objsAt (field b 8 8)
      (s.trig.seen.contains key = false → answers (.triggerReceived port t f) s (fun u => u.trig.seen = (key :: s.trig.seen).take 64 ∧
        (∀ v : Fin 64, serves → s.spin.restarting = false → trigSrc st v = 6 → st.nat O.remoteId v / 65536 % 16384 = hSrc f →
          st.nat O.remoteId v % 64 = field b 0 1 % 64 →
          (heldOff st (s.unit v) v fine = false → (u.unit v).last = some fine ∧ u.nat O.lastTime v = fine ∧ counts s u O.fireCount v) ∧
          (heldOff st (s.unit v) v fine = true → (u.unit v).last = (s.unit v).last ∧ counts s u O.holdoffCount v)) ∧
        (¬serves → u.trig = { s.trig with seen := u.trig.seen }) ∧
        frame [.now, .free, .objs, .log, .samp, .ptp, .lanes, .bob, .spin, .trig, .twine] s u)) ∧
      (s.trig.seen.contains key = true → answers (.triggerReceived port t f) s (fun u => u = s1 ∧ frame [.now, .lanes, .twine] s u)))

/-- Frames to a root: a live or repeated SKEIN goes out on port 20 with HOPS_INIT, a WINDOW skein enters its slice; an EVENT is consumed; a SUMMARY enters its entries into the directory and
its hub into the segment and notes the receipt; a BUSY puts its request off, TOO_LARGE halves a job's slices; elsewhere than at a root they are unexpected (R328, R330,
R331, R370, R371, R373, R375, R376, R381, R384). Completes: skeinReceived, eventReceived, summaryReceived, nakReceived.
Where the spec leaves a point open it follows the model's choice: log entries 79, 107, 110. -/
def Obligations.RootFramesAct : Prop :=
  ∀ (s s1 : State) (port : Fin 21) (t : Nat) (f : Bytes),
    let b := bodyOf f
    let fl := field b 3 1
    let clean := fun (e : Bytes) => e.take 4 ++ be 1 (field e 4 1 / 2 * 2) ++ e.drop 5
    (arrivesHere s port t f 1 s1 →
      (rootServes s = false → answers (.skeinReceived port t f) s (fun u => refusedAs s1 u port f 5 ∧ u.root = s.root)) ∧
      (rootServes s = true → distaffServes s = false → addressedHere s f = true → answers (.skeinReceived port t f) s (fun u => u = s1)) ∧
      (rootServes s = true → distaffServes s = true → bitOf fl 6 = false →
        let g : TxFrame := { cls := beClass (hClass f), body := .twine (patch (f.take (hLength f)) 8 2 (s.nat O.hopsInit)) }
        answers (.skeinReceived port t f) s (fun u =>
          (portUp s 20 = true → hasRoom 20 (s.egress 20) g = true → g ∈ (u.egress 20).queue) ∧
          (addressedHere s f = true → fl < 16 → portUp s 20 = true → hasRoom 20 (s.egress 20) g = true →
            (u.egress 20).queue = (s.egress 20).queue ++ [g] ∧ frame [.now, .objs, .ptp, .lanes, .twine] s u) ∧
          (bitOf fl 7 = true → bitOf fl 5 = true → ∀ o ∈ u.twine.outstanding, ¬(o.job = 4 ∧ o.reqId = field b 8 4 ∧ o.hub = hSrc f)) ∧
          u.root = s.root)) ∧
      (∀ (j : RetroJob) (x : RetroSlice), rootServes s = true → distaffServes s = true → bitOf fl 6 = true → s.root.retro = some j → field b 8 4 = j.id →
        let mine := fun (c : SliceChannel) => Nat.beq c.hub (hSrc f) && Nat.beq c.ch (field b 0 2 % 512) && !c.done
        j.slices.find? (fun x => x.holds b && x.chans.any mine) = some x → x.bytes + (b.length - 40) ≤ 33554432 → addressedHere s f = true →
        let y := { x with chans := changeFirst mine (·.take f) x.chans, bytes := x.bytes + (b.length - 40),
                          asked := Map.set x.asked (hSrc f) (s1.now, 0) }
        answers (.skeinReceived port t f) s (fun u =>
          u = { s1 with root := { s1.root with retro := some { j with slices := j.slices.map (fun z => if Nat.beq z.index x.index then y else z) } } }))) ∧
    (arrivesHere s port t f 5 s1 →
      (rootServes s = false → answers (.eventReceived port t f) s (fun u => refusedAs s1 u port f 5)) ∧
      (rootServes s = true → answers (.eventReceived port t f) s (fun u => (addressedHere s f = true → u = s1) ∧
        frame [.now, .objs, .ptp, .lanes, .twine] s u))) ∧
    (arrivesHere s port t f 8 s1 →
      let fed := (fedRootList s.objs).contains (hSrc f)
      let own := ∀ i, i < field b 0 2 → field (slice b (16 + 64 * i) 64) 0 2 = hSrc f
      let known := (Map.find? s.root.segment (hSrc f)).isSome
      (rootServes s = false → answers (.summaryReceived port t f) s (fun u => refusedAs s1 u port f 5 ∧ u.root = s.root)) ∧
      (rootServes s = true → fed = false → ¬own → answers (.summaryReceived port t f) s (fun u => refusedAs s1 u port f 5 ∧ u.root = s.root)) ∧
      (rootServes s = true → distaffServes s = true → fed = true ∨ own →
        (fed = false → known = false → 256 ≤ s.root.segment.length → answers (.summaryReceived port t f) s (fun u => u.root = s.root ∧
          logsOnly s u Ev.segmentFull 0xFF (be 2 (hSrc f)))) ∧
        (fed = true ∨ known = true ∨ s.root.segment.length < 256 → answers (.summaryReceived port t f) s (fun u =>
          (fed = false → Map.find? u.root.segment (hSrc f) = some ⟨s1.now, field b 12 4⟩) ∧ (fed = true → u.root.segment = s.root.segment) ∧
          (∀ i, i < field b 0 2 → Map.find? u.root.receipts (field (slice b (16 + 64 * i) 64) 0 2) = some s1.now) ∧
          (field b 0 2 = 1 →
            let e := slice b 16 64
            let k := field e 0 2 * 512 + field e 2 2 % 512
            field e 5 1 / 4 % 4 ≠ 0 → (∀ r, Map.find? s.root.dir k = some r → field r 8 8 ≤ field e 8 8) → Map.find? u.root.dir k = some (clean e)) ∧
          frame [.now, .objs, .ptp, .lanes, .twine, .root] s u)))) ∧
    (arrivesHere s port t f 11 s1 → distaffServes s = true → addressedHere s f = true →
      let due := s1.now + field b 6 2 * msTicks
      let retroHub := ∃ j, s.root.retro = some j ∧ field b 4 1 = 7 ∧ field b 0 4 = j.id ∧ j.hubs.any (fun h => Nat.beq h.1 (hSrc f)) = true
      (∀ o : Outstanding, ¬retroHub → field b 5 1 = 10 →
        s.twine.outstanding.find? (fun o => Nat.beq o.reqId (field b 0 4) && Nat.beq o.hub (hSrc f)) = some o →
        answers (.nakReceived port t f) s (fun u => u = { s1 with twine := { s1.twine with
          retry := s1.twine.retry ++ [(due, o.hub, be 1 (if Nat.beq o.job 4 then 3 else 4) ++ o.body)] } })) ∧
      (∀ k : Nat, retroHub → field b 5 1 = 10 → busySlice s1 (hSrc f) = some k → answers (.nakReceived port t f) s (fun u =>
        u.twine.retry = s.twine.retry ++ [(due, hSrc f, be 1 7 ++ be 4 k)] ∧ u.root = (answered s1 k (hSrc f) due).root ∧
        frame [.now, .lanes, .twine, .root] s u)) ∧
      (retroHub → field b 5 1 = 9 → answers (.nakReceived port t f) s (fun u => u = halveSlices s1)) ∧
      (¬retroHub → field b 5 1 ≠ 10 → answers (.nakReceived port t f) s (fun u => u = s1)))

/-- MGMT frames for the hub: a request that the dictionary serves is carried out and answered with its REQ_ID; one that cannot be read, or is not authentic, draws its NAK, and during a
core restart, behind 64 others, or writing before READY, BUSY; a response is matched to its request, or counted as stray, and moves the activation job's hub on: its refusal
is noted, an opened session proves itself and then asks for the activation, an accepted one counts, a cancel is confirmed (R327, R330, R385, Table 16.12).
Completes: mgmtRequest, mgmtResponse.
Where the spec leaves a point open it follows the model's choice: log entries 79, 84, 102, 109. -/
def Obligations.ManagementFramesAct : Prop :=
  ∀ (s s1 : State) (port : Fin 21) (t : Nat) (f : Bytes),
    arrivesHere s port t f 4 s1 ∧ addressedHere s f = true ∨ port = 19 ∧ arrivesAtTwinPort s t f 4 s1 →
    let b := bodyOf f
    (∀ held : Fin 65, field f (hBody f + 4) 1 ≠ 1 →
      let s2 := s1.put O.mgmtQueued 0 held
      let src := if hSrcUnset f then 16384 + hSrc f else hSrc f
      (parseAsk (.twine port (hSrc f)) b = none → answers (.mgmtRequest port t f held) s (fun u => refusedAs s1 u port f 1 ∧ u.dict = s.dict)) ∧
      (∀ (a : Ask) (k : Nat) (x : Option Session), parseAsk (.twine port (hSrc f)) b = some a → twineAuth s2 port a = (k, x) →
        let full := inRestart s = true ∨ 64 ≤ held + mailboxHeld s ∨ isBooting s = true ∧ a.writes = true
        (twineServed s = false → answers (.mgmtRequest port t f held) s (fun u => u = s2)) ∧
        (twineServed s = true → a.tooLong = true → inRestart s = false → answers (.mgmtRequest port t f held) s (fun u =>
          u = sendResponse s2 port src (askAnswer s2 a none { abort := 0x07000006 }))) ∧
        (twineServed s = true → a.tooLong = false ∨ inRestart s = true →
          (k ≠ 0 → answers (.mgmtRequest port t f held) s (fun u => refusedAs s1 u port f k ∧ u.dict = s.dict)) ∧
          (k = 0 → full → answers (.mgmtRequest port t f held) s (fun u => u.nat O.mgmtQueued = held ∧ counts s u O.busyCount 0 ∧
            u.dict = s.dict ∧ frame [.now, .objs, .ptp, .lanes, .twine] s u)) ∧
          (k = 0 → ¬full → answers (.mgmtRequest port t f held) s (fun u =>
            u = sendResponse (serveAsk s2 a x).1 port src (serveAsk s2 a x).2))))) ∧
    (field f (hBody f + 4) 1 = 1 → inRestart s = true → answers (.mgmtResponse port t f) s (fun u => u = s1)) ∧
    (field f (hBody f + 4) 1 = 1 → inRestart s = false →
      let mine := s.twine.outstanding.find? (fun o => Nat.ble o.job 3 && Nat.beq o.reqId (field b 0 4) && Nat.beq o.hub (hSrc f))
      (mine = none ∨ (∃ o, mine = some o ∧ responseTagOk s o b = false) → answers (.mgmtResponse port t f) s (fun u =>
        counts s u O.mgmtStrayCount 0 ∧ u.root = s.root ∧ u.twine.outstanding = s.twine.outstanding ∧ frame [.now, .objs, .lanes, .twine] s u)) ∧
      (∀ (o : Outstanding) (a : ActJob) (h : ActHub), mine = some o →
        responseTagOk s o b = true → s.root.act = some a → a.hubs.find? (fun h => Nat.beq h.hub o.hub) = some h →
        let r := b.drop 28
        let abort := field r 8 4
        let becomes := fun (u : State) (p : ActHub → Prop) => ∃ c, u.root.act = some c ∧ c.t = a.t ∧
          (∀ y ∈ c.hubs, y.hub = h.hub → p y) ∧ (∀ y ∈ a.hubs, y.hub ≠ h.hub → y ∈ c.hubs)
        let asks := fun (u : State) (job : Nat) => ∃ w, u.twine.outstanding = s.twine.outstanding.filter
          (fun x => !(Nat.beq x.reqId o.reqId && Nat.beq x.hub o.hub)) ++ [w] ∧ w.job = job ∧ w.hub = h.hub
        answers (.mgmtResponse port t f) s (fun u =>
          (o.job = 3 → h.outcome ≠ 5 → becomes u (fun y => y.cancelling = false ∧ y.outcome = (if abort = 0 then 4 else 5) ∧ y.abort = abort)) ∧
          (o.job = 3 → h.outcome = 5 → u.root = s.root) ∧
          (o.job ≠ 3 → abort ≠ 0 → becomes u (fun y => y.outcome = 2 ∧ y.abort = abort)) ∧
          (o.job ≤ 1 → abort = 0 → a.cancelled = true → u.root = s.root) ∧
          (o.job = 0 → abort = 0 → a.cancelled = false → asks u 1 ∧ becomes u (fun y => y.stage = 1 ∧ y.session = field r 24 4 ∧
            y.key = hmac (s.nvm.kRoot.getD []) (h.nonce ++ slice r 28 16 ++ slice r 24 4))) ∧
          (o.job = 1 → abort = 0 → a.cancelled = false → asks u 2 ∧ becomes u (fun y => y.stage = 2)) ∧
          (o.job = 2 → abort = 0 → becomes u (fun y => y.outcome = 1)) ∧
          (2 ≤ o.job ∨ abort ≠ 0 ∨ a.cancelled = true →
            u.twine.outstanding = s.twine.outstanding.filter (fun x => !(Nat.beq x.reqId o.reqId && Nat.beq x.hub o.hub))) ∧
          frame [.now, .objs, .log, .ptp, .lanes, .twine, .root] s u)))

/-- The root's own work: a scan ends in its result; a complete slice enters the stream, the last one ending it, and the next is asked for; a hub silent for RETRO_TIMEOUT is asked again
and the third time given up; a hub without SUMMARY leaves; federation sends clear what changed; an incomplete activation is cancelled at its margin, the cancel repeated, and
given up; a deferred request goes again (R331, R370, R376 to R379, R381 to R385).
Completes: dirScanDone, retroSliceComplete, retroTimeout, segmentLeave, fedIntervalSend, actMarginExpiry, actCancelRepeat, actLastCancel, busyRetry.
Where the spec leaves a point open it follows the model's choice: log entries 107, 108, 109. -/
def Obligations.RootServicesProceed : Prop :=
  ∀ s : State,
    (∀ (t t0 : Nat) (q : Bytes), s.root.query = some (q, t0) →
      let s1 := s.advance t
      let rs := (s.root.dir.map (fun x => returned s1 s1.gridTime x.2)).filter (matchesQuery q)
      let out := rs.take (field q 12 4)
      let res := be 4 rs.length ++ be 4 out.length ++ be 8 t0 ++ be 8 s1.gridTime ++ out.flatten
      answers (.dirScanDone t) s (fun u => u.now = max s.now t ∧ u.root = { s.root with query := none, result := some { bytes := res } } ∧
        frame [.now, .root] s u)) ∧
    (∀ (t : Nat) (j : RetroJob) (x : RetroSlice) (rest : List RetroSlice), s.root.retro = some j → j.slices = x :: rest → x.complete = true →
      rootServes s = true →
      let last := j.t2 ≤ x.stop ∨ j.closing = some x.index
      answers (.retroSliceComplete t) s (fun u => u.now = max s.now t ∧
        (last → ∃ y, u.root.retro = some y ∧ y.ended = true ∧ y.slices = [] ∧ y.stream = j.stream ++ sliceBytes x true ++ [0#8]) ∧
        (¬last → ∃ y l, u.root.retro = some y ∧ y.slices.map (·.index) = rest.map (·.index) ++ l ∧ y.ended = j.ended ∧
          y.stream = j.stream ++ sliceBytes x false ∧
          (j.ended = false → j.closing = none → rest = [] → j.nextStart < j.t2 → l.head? = some j.nextIndex)) ∧
        frame [.now, .objs, .ptp, .root] s u)) ∧
    (∀ (hub : Fin 16384) (t : Nat) (j : RetroJob) (x : RetroSlice), s.root.retro = some j →
      j.slices.find? (fun x => x.chans.any (fun c => Nat.beq c.hub hub && !c.done)
        && Nat.ble ((Map.getD x.asked hub.val (0, 0)).1 + s.nat O.retroTimeout * msTicks) t) = some x →
      let n := (Map.getD x.asked hub.val (0, 0)).2 + 1
      answers (.retroTimeout hub t) s (fun u => u.now = max s.now t ∧
        (n < 3 → u.log = s.log ∧ ∃ y, u.root.retro = some y ∧ ∀ z ∈ y.slices, z.index = x.index → (Map.getD z.asked hub.val (0, 0)).2 = n) ∧
        (3 ≤ n → logsOnly s u Ev.retroHubLost 0xFF (be 2 hub) ∧ u.ptp = s.ptp ∧ ∃ y, u.root.retro = some y ∧
          ∀ z ∈ y.slices, z.index = x.index → ∀ c ∈ z.chans, c.hub = hub → c.done = true) ∧
        frame [.now, .objs, .log, .ptp, .root] s u)) ∧
    (∀ (hub : Fin 16384) (t : Nat) (h : SegHub), Map.find? s.root.segment hub = some h →
      let left := h.last + max (60 * secondTicks) (3 * h.interval * msTicks) ≤ t
      answers (.segmentLeave hub t) s (fun u => (left → u.now = max s.now t ∧
        u.root = { s.root with segment := Map.erase s.root.segment hub }) ∧ (¬left → u = s) ∧ frame [.now, .root] s u)) ∧
    (∀ t : Nat, rootServes s = true → distaffServes s = true →
      let es := s.root.changed.filterMap (Map.find? s.root.dir)
      answers (.fedIntervalSend t) s (fun u => u.now = max s.now t ∧ u.root = { s.root with changed := [] } ∧
        (∀ d p, fedRootList s.objs = [d] → es ≠ [] → es.length ≤ 128 → p ∈ routePorts s false d 0 →
          let g : TxFrame := { cls := beClass 3, body := .twine (twineBytes (ownId s)
            { kind := 8, dest := d, cls := 3, hops := s.nat O.hopsInit, storeFwd := storeFwdPort s p }
            (be 2 es.length ++ be 2 0 ++ be 8 t ++ be 4 (s.nat O.fedInterval) ++ es.flatten)) }
          portUp s p = true → hasRoom p (s.egress p) g = true → g ∈ (u.egress p).queue) ∧
        frame [.now, .objs, .ptp, .root] s u)) ∧
    (∀ a : ActJob, s.root.act = some a →
      (a.armed = false → a.cancelled = false →
        let out := a.hubs.filter (fun h => Nat.beq h.stage 2 && !Nat.beq h.outcome 2)
        answers .actMarginExpiry s (fun u => u.now = max s.now (a.t - actMarginTicks s.objs) ∧
          (∃ b, u.root.act = some b ∧ b.cancelled = true ∧ b.t = a.t ∧ ∀ h ∈ out, ∀ y ∈ b.hubs, y.hub = h.hub → y.cancelling = true) ∧
          u.twine.outstanding.length = s.twine.outstanding.length + out.length ∧ logsOnly s u Ev.actCancelled 0xFF (be 8 a.t) ∧
          frame [.now, .objs, .log, .ptp, .twine, .root] s u)) ∧
      (∀ t : Nat, a.cancelled = true → answers (.actCancelRepeat t) s (fun u => u.now = max s.now t ∧
        u.twine.outstanding.length = s.twine.outstanding.length + (a.hubs.filter (·.cancelling)).length ∧
        (∃ b, u.root.act = some b ∧ b.hubs.map (·.cancelling) = a.hubs.map (fun h => a.hubs.any (fun g => Nat.beq g.hub h.hub && g.cancelling) || h.cancelling)) ∧
        frame [.now, .objs, .ptp, .twine, .root] s u)) ∧
      (a.cancelled = true → answers .actLastCancel s (fun u => u.now = max s.now (a.t - 1280000) ∧
        u.twine.outstanding.length = s.twine.outstanding.length + (a.hubs.filter (·.cancelling)).length ∧
        (∃ b, u.root.act = some b ∧ (∀ h ∈ b.hubs, h.cancelling = false) ∧
          (∀ h ∈ a.hubs, h.cancelling = true → ∃ g ∈ b.hubs, g.hub = h.hub ∧ g.outcome = 5)) ∧
        frame [.now, .objs, .ptp, .twine, .root] s u))) ∧
    (∀ (t hub : Nat) (b : Bytes) (rest : List (Nat × Nat × Bytes)), s.twine.retry = (t, hub, b) :: rest →
      let s1 : State := { s.advance t with twine := { s.twine with retry := rest } }
      let owed := ∃ j, s.root.retro = some j ∧
        j.slices.any (fun x => Nat.beq x.index (field b 1 4) && x.chans.any (fun c => Nat.beq c.hub hub && !c.done)) = true
      answers .busyRetry s (fun u => u.now = max s.now t ∧ u.twine = { s.twine with retry := rest } ∧
        (field b 0 1 = 7 → owed → u = askHub s1 (field b 1 4) hub) ∧ (field b 0 1 = 7 → ¬owed → u = s1) ∧
        (field b 0 1 ≠ 7 → u = sendTwine s1 { kind := field b 0 1, dest := hub, cls := 1 } (b.drop 1)) ∧
        frame [.now, .objs, .ptp, .twine, .root] s u))


/-! ### Twin operation (chapter 18) -/

/-- The twin's claims, heartbeats and frames: every 20 µs the own claim goes out with its parity; a partner claim with right coding and parity is taken and ends an alarm, another is counted; without
one for 60 µs the alarm is raised; after each the stages are judged anew; HB_OUT toggles while its distaff runs, or for the hand-over; HB_IN and the link are noted; a TWIN
frame carries type, ACTIVE, claim and the next COUNTER; one received with a rising COUNTER keeps the link alive (R354, R356 to R358, R361, R363).
Completes: claimFrameSend, claimFrameReceived, twinClaimLost, hbOutToggle, hbInEdge, twinFrameSend, twinHeartbeat.
Where the spec leaves a point open it follows the model's choice: log entries 105, 106. -/
def Obligations.TwinSignsOfLife : Prop :=
  ∀ s : State,
    let judged := fun (u : State) => u.twin.stages = stagesAllowed u ∧
      (u.twin.stages ≠ s.twin.stages → ∀ k : Fin 32, s.nat O.excMode k ≠ 0 → (u.driver k).lastSwitch = some (ceilDiv u.now 128 * 128))
    answers .claimFrameSend s (fun u => u.now = max s.now s.twin.claimNext ∧
      u.twin = { s.twin with claimSent := ownClaim s, claimParity := claimParity (ownClaim s), claimNext := u.now + 20 * usTicks } ∧
      frame [.now, .twin] s u) ∧
    (∀ (t : Nat) (coded : Bool) (bits : ClaimBits),
      let c := bits.claim
      let valid := coded = true ∧ bits.parity = claimParity c.toNat
      answers (.claimFrameReceived t coded bits) s (fun u => u.now = max s.now t ∧
        (valid → u.twin.partner = some c.toNat ∧ u.twin.partnerAt = t ∧ u.twin.claimLost = false ∧ u.twin.active = s.twin.active ∧
          (u.twin.dualSince.isSome = true ↔ s.twin.active = true ∧ 128 ≤ c.toNat ∧ ownClaim s < c.toNat) ∧ judged u ∧
          u.nat O.claimErrCount = s.nat O.claimErrCount) ∧
        (¬valid → counts s u O.claimErrCount 0 ∧ frame [.now, .objs] s u) ∧ frame [.now, .objs, .samp, .twin] s u)) ∧
    (∀ t : Nat, s.twin.claimLost = false → (s.twin.partner = none ∨ s.twin.partnerAt + 60 * usTicks ≤ t) → answers (.twinClaimLost t) s (fun u =>
      u.now = max s.now t ∧ u.twin.claimLost = true ∧ u.twin.active = s.twin.active ∧ judged u ∧
      (s.bool O.twinEnable = true → logsOnly s u Ev.twinClaimLost 0xFF []) ∧
      (s.bool O.twinEnable = false → u.log = s.log) ∧ frame [.now, .objs, .log, .samp, .twin] s u)) ∧
    (∀ t : Nat, s.twin.claimLost = true ∨ (∃ p, s.twin.partner = some p ∧ t < s.twin.partnerAt + 60 * usTicks) →
      answers (.twinClaimLost t) s (fun u => u = s.advance t)) ∧
    (∀ t : Nat,
      let may := s.bool O.twinEnable = true ∧ s.pwr.sleep = none ∧ (inRestart s = false ∨ ∃ e, s.twin.hbHanded = some e ∧ t ≤ e)
      answers (.hbOutToggle t) s (fun u => u.now = max s.now t ∧ (may → u.twin = { s.twin with hbOut := !s.twin.hbOut, hbOutAt := t }) ∧
        (¬may → u.twin = s.twin) ∧ frame [.now, .twin] s u)) ∧
    (∀ t : Nat, answers (.hbInEdge t) s (fun u => u.twin = { s.twin with hbInAt := t, hbSilent := false } ∧ u.now = max s.now t ∧
      frame [.now, .twin] s u)) ∧
    (∀ t : Nat, s.bool O.twinEnable = true → inRestart s = false → s.pwr.sleep = none →
      let g := (s.advance t).gridTime
      let b := twineBytes (ownId s) { kind := 9, cls := 1, hops := s.nat O.hopsInit, storeFwd := storeFwdPort s 19 }
        (be 1 1 ++ be 1 (b2n s.twin.active) ++ be 1 s.twin.claimSent ++ be 1 0 ++ be 4 s.twin.counter ++ be 4 (s.nat O.restartCount) ++ be 8 g)
      let x : TxFrame := { cls := beClass 1, body := .twine b }
      answers (.twinFrameSend t) s (fun u => u.now = max s.now t ∧ u.twin = { s.twin with counter := (s.twin.counter + 1) % 2 ^ 32 } ∧
        (portUp s 19 = true → hasRoom 19 (s.egress 19) x = true → (u.egress 19).queue = (s.egress 19).queue ++ [x]) ∧
        frame [.now, .objs, .ptp, .twin] s u)) ∧
    (∀ (t : Nat) (f : Bytes) (s1 : State), arrivesAtTwinPort s t f 9 s1 → field f 16 1 ≠ 2 → field f 16 1 ≠ 3 →
      let n := field (bodyOf f) 4 4
      answers (.twinHeartbeat t f) s (fun u => u.now = max s.now t ∧ u.twin.lastCounter = some n ∧ u.nat O.partnerEpoch = field (bodyOf f) 8 4 ∧
        ((∀ q, s.twin.lastCounter = some q → q < n) → u.twin.frameAt = max s.now t ∧ u.twin.linkSilent = false) ∧
        (∀ q, s.twin.lastCounter = some q → n ≤ q → u.twin.frameAt = s.twin.frameAt ∧ u.twin.linkSilent = s.twin.linkSilent) ∧
        u.twin.active = s.twin.active ∧ frame [.now, .objs, .lanes, .twin] s u))

/-- Roles: a lapsed lease and a dual claim make a unit standby, whose live skeins stop; a unit that listened takes its role by the partner's claim; with both paths silent a ready standby
takes over; a switch-over is answered, fails without its ACK by 1 ms, and hands over at T0 + 2 ms; each gain or loss of the claim is a switching event of the drivers
(R77, R357, R358, R360 to R363, R365, R366, Table 18.3).
Completes: twinLeaseLapsed, twinDualActive, twinRoleListenEnd, twinPathSilent, twinSwitchOver, twinSwitchOverAck, twinSwitchFailed, switchOverHandover.
Where the spec leaves a point open it follows the model's choice: log entries 105, 106. -/
def Obligations.TwinRolesChange : Prop :=
  ∀ s : State,
    let judged := fun (u : State) => u.twin.stages = stagesAllowed u
    let stops := fun (u : State) => (u.egress (s.nat O.rootPort)).waiting = [] ∧ (u.egress (s.nat O.rootPort)).launch = [] ∧
      (∀ f ∈ (u.egress (s.nat O.rootPort)).queue, liveSkein s f.body = false)
    (∀ t : Nat, s.bool O.twinEnable = true → s.twin.active = true → s.twin.hbOutAt + 1500 * usTicks ≤ t → answers (.twinLeaseLapsed t) s (fun u =>
      u.now = max s.now t ∧ u.twin.active = false ∧ judged u ∧ logsOnly s u Ev.twinLeaseLapsed 0xFF [] ∧ stops u ∧
      frame [.now, .objs, .log, .samp, .ptp, .twin] s u)) ∧
    (∀ t0 : Nat, s.twin.dualSince = some t0 → s.twin.active = true → answers .twinDualActive s (fun u => u.now = max s.now (t0 + msTicks) ∧
      u.twin.active = false ∧ u.twin.dualSince = none ∧ judged u ∧ logsOnly s u Ev.twinDualActive 0xFF [] ∧ stops u ∧
      frame [.now, .objs, .log, .samp, .ptp, .twin] s u)) ∧
    (∀ t : Nat, s.twin.listenUntil = some t →
      let own := ownClaim s % 128
      let takes := s.bool O.twinEnable = true ∧ s.twin.hbSilent = true ∧ s.twin.linkSilent = true ∧ s.twin.active = false ∧ isReady s = true ∧ inRestart s = false
      answers .twinRoleListenEnd s (fun u => u.now = max s.now t ∧ u.twin.listenUntil = none ∧
        (partnerClaim s = none → u.twin.active = true ∧ u.twin.claimLost = true ∧ judged u) ∧
        (∀ p, partnerClaim s = some p → p < 128 → p < own → u.twin.active = true ∧ u.twin.unresolved = false ∧ judged u) ∧
        (∀ p, partnerClaim s = some p → 128 ≤ p ∨ own ≤ p → ¬takes →
          let clash := s.twin.unresolved || (decide (p < 128) && decide (p = own))
          u.twin = { s.twin with listenUntil := none, unresolved := clash } ∧ frame [.now, .twin] s u) ∧
        (∀ p, partnerClaim s = some p → 128 ≤ p ∨ own ≤ p → takes → u.twin.active = true ∧ u.nat O.takeoverTime = u.now ∧ counts s u O.takeoverCount 0) ∧
        frame [.now, .objs, .log, .samp, .bob, .trig, .twine, .twin] s u)) ∧
    (∀ (link : Bool) (t : Nat), s.bool O.twinEnable = true → (if link then s.twin.linkSilent else s.twin.hbSilent) = false →
      (if link then s.twin.frameAt else s.twin.hbInAt) + s.nat O.hbTimeout * msTicks ≤ t →
      let both := if link then s.twin.hbSilent else s.twin.linkSilent
      let takes := both = true ∧ s.twin.active = false ∧ isReady s = true ∧ inRestart s = false ∧ s.twin.listenUntil = none
      answers (.twinPathSilent link t) s (fun u => u.now = max s.now t ∧ (if link then u.twin.linkSilent else u.twin.hbSilent) = true ∧
        (¬takes → u.twin.active = s.twin.active ∧ logsOnly s u Ev.twinPathSilent 0xFF (be 1 (b2n link)) ∧ frame [.now, .log, .twin] s u) ∧
        (takes → u.twin.active = true ∧ u.nat O.takeoverTime = max s.now t ∧ counts s u O.takeoverCount 0 ∧ judged u) ∧
        frame [.now, .objs, .log, .samp, .bob, .trig, .twine, .twin] s u)) ∧
    (∀ (t : Nat) (f : Bytes) (s1 : State), arrivesAtTwinPort s t f 9 s1 → field f 16 1 = 2 → answers (.twinSwitchOver t f) s (fun u => u.now = max s.now t ∧
      (s.twin.active = false → s.bool O.twinEnable = true → u.twin.switch = some { t0 := field (bodyOf f) 12 8, giving := false } ∧
        u.twin.counter = (s.twin.counter + 1) % 2 ^ 32 ∧
        (portUp s 19 = true → queuedBytes (s.egress 19) (fun c => !Nat.beq c 2) ≤ 200000 →
          ∃ g b, (u.egress 19).queue = (s.egress 19).queue ++ [g] ∧ g.body = .twine b ∧ hKind b = 9 ∧ field b 16 1 = 3)) ∧
      (s.twin.active = true ∨ s.bool O.twinEnable = false → u.twin.switch = s.twin.switch ∧ u.twin.counter = s.twin.counter ∧ u.ptp = s.ptp) ∧
      u.twin.active = s.twin.active ∧ frame [.now, .objs, .ptp, .lanes, .twin] s u)) ∧
    (∀ (t : Nat) (f : Bytes) (s1 : State) (x : SwitchOver), arrivesAtTwinPort s t f 9 s1 → field f 16 1 = 3 → s.twin.switch = some x →
      answers (.twinSwitchOverAck t f) s (fun u => u.now = max s.now t ∧
        u.twin.switch = some (if x.giving = true ∧ u.now ≤ x.t0 + msTicks then { x with acked := true } else x) ∧
        u.twin.active = s.twin.active ∧ frame [.now, .objs, .lanes, .twin] s u)) ∧
    (∀ x : SwitchOver, s.twin.switch = some x →
      (x.giving = true → x.acked = false → answers .twinSwitchFailed s (fun u => u.now = max s.now (x.t0 + msTicks) ∧
        u.twin = { s.twin with switch := none } ∧ logsOnly s u Ev.twinSwitchFailed 0xFF [] ∧ frame [.now, .log, .twin] s u)) ∧
      (x.giving = true → x.acked = true → answers .switchOverHandover s (fun u => u.now = max s.now (x.t0 + 2 * msTicks) ∧ u.twin.active = false ∧
        u.twin.switch = none ∧ judged u ∧ counts s u O.switchCount 0 ∧ logsOnly s u Ev.twinSwitchOver 0xFF [0#8] ∧ stops u ∧
        (∀ k : Fin 32, s.nat O.excMode k ≠ 0 → (u.driver k).lastSwitch.isSome = true) ∧ frame [.now, .objs, .log, .samp, .ptp, .twin] s u)) ∧
      (x.giving = false → answers .switchOverHandover s (fun u => u.now = max s.now (x.t0 + 2 * msTicks) ∧ u.twin.active = true ∧
        u.twin.switch = none ∧ judged u ∧ counts s u O.switchCount 0 ∧ u.nat O.takeoverTime = x.t0 + 2 * msTicks ∧ logsOnly s u Ev.twinSwitchOver 0xFF [1#8] ∧
        (∀ k : Fin 32, s.nat O.excMode k ≠ 0 → (u.driver k).drill = true) ∧ frame [.now, .objs, .log, .samp, .bob, .trig, .twine, .twin] s u)))


/-! ### Updates (chapter 21) -/

/-- An update's own course: the build fills the inactive slot with every part of the manifest, or fails; sampling resumes at the boundary after interrupting parts have loaded; conditions
that hold for HEALTH_HOLD confirm; the trial's end rolls back to the other slot, the failed one marked, by a core restart, with sampling stopped where an interrupting part differs
(R402, R407, R409, R410, Tables 21.8, 21.9).
Completes: updBuilt, interruptingPartsLoaded, healthHoldExpiry, trialWindowExpiry.
Where the spec leaves a point open it follows the model's choice: log entries 117, 119, 162. -/
def Obligations.UpdatesProceed : Prop :=
  ∀ s : State,
    (∀ (t : Nat) (m : Manifest), s.nat O.updState = 2 → s.upd.manifest = some m → s.nvm.pointer.active ≤ 1 →
      let a := s.nvm.pointer.active
      answers (.updBuilt t) s (fun u => u.now = max s.now t ∧ u.nvm.pointer = s.nvm.pointer ∧ u.nvm.slot a = s.nvm.slot a ∧
        (∀ ps, buildParts m (s.nvm.slot a) (payloadHeld s) = some ps → u.nat O.updState = 3 ∧ u.nat O.updProgress = (resultSizes m (s.nvm.slot a)).sum ∧
          u.nvm.slot (1 - a) = { manifest := s.upd.bytes, parts := ps, seq := m.seq, keySlot := m.keySlot, state := 1 } ∧
          logsOnly s u Ev.updBuilt 0xFF []) ∧
        (buildParts m (s.nvm.slot a) (payloadHeld s) = none → u.nat O.updState = 6 ∧ u.nvm = s.nvm ∧
          logsOnly s u Ev.updBuildFailed 0xFF []) ∧
        objsExcept [O.updState.key, O.updProgress.key] s u ∧ frame [.now, .objs, .log, .nvm] s u)) ∧
    (∀ (t g : Nat), s.upd.gapFrom = some g → answers (.interruptingPartsLoaded t) s (fun u => u.now = max s.now t ∧
      u.upd = { s.upd with resumeAt := some (nextFrame t) } ∧ frame [.now, .upd] s u)) ∧
    (∀ t0 : Nat, s.upd.healthSince = some t0 → s.nat O.updState = 5 → healthy s = true → answers .healthHoldExpiry s (fun u =>
      u.now = max s.now (t0 + s.nat O.healthHold * secondTicks) ∧ u.nat O.updState = 0 ∧ u.nat O.trialEnd = 0 ∧
      u.nvm.pointer.trial = false ∧ u.nvm.pointer.boots = 0 ∧ u.nvm.pointer.active = s.nvm.pointer.active ∧
      u.upd = { gapFrom := s.upd.gapFrom, resumeAt := s.upd.resumeAt } ∧
      logsOnly s u Ev.updConfirmed 0xFF [] ∧ objsExcept [O.updState.key, O.trialEnd.key] s u ∧ frame [.now, .objs, .log, .nvm, .upd] s u)) ∧
    (s.nat O.updState = 5 → s.nvm.pointer.active ≤ 1 →
      let t := frameAtOrAfter (s.nat O.trialEnd)
      answers .trialWindowExpiry s (fun u => u.now = max s.now t ∧
        u.nvm.pointer.active = 1 - s.nvm.pointer.active ∧ u.nvm.pointer.trial = false ∧
        (u.nvm.slot s.nvm.pointer.active).state = 2 ∧ u.nvm.slot (1 - s.nvm.pointer.active) = s.nvm.slot (1 - s.nvm.pointer.active) ∧
        u.nat O.updState = 6 ∧ counts s u O.rollbackCount 0 ∧ counts s u O.restartCount 0 ∧ inRestart u = true ∧ u.nat O.hubStatus = 2 ∧
        (interruptingDiffers s.nvm = true → u.upd.gapFrom = some (s.upd.gapFrom.getD t)) ∧
        (interruptingDiffers s.nvm = false → u.upd.gapFrom = s.upd.gapFrom) ∧ u.dram = s.dram ∧ u.time = s.time))


/-! ### The host port and the mailboxes (chapter 20) -/

/-- SPI transactions: a write or a read under the select of its page carries its words out in order, one word as the register's own command does; under the other page's select it is
counted, a write does nothing else and a read gives zeros; outside the window, or with no or both selects, a write does nothing; the quad forms do the same; before the SRAM
wipe has ended, and asleep, the port does not answer. Register accesses: scratch and the interrupt enables store what is written; GRID_HI latches GRID_LO;
a written 1 clears its interrupt or status bit and no other (R387 to R391, R398, Tables 20.2 to 20.5).
Completes: spiWrite, spiRead, spiQuadWrite, spiQuadRead, hostRegisterWrite, gridHiRead, irqStatusClear, mbStatusClear.
Where the spec leaves a point open it follows the model's choice: log entries 112, 113. -/
def Obligations.HostPortCarriesOutAccesses : Prop :=
  (∀ (s : State) (cs scs : Bool) (addr : BitVec 16) (words : List (BitVec 32)) (n t : Nat) (c : Instr), portOn s = true →
      (c = .spiWrite cs scs addr words t ∨ c = .spiQuadWrite cs scs addr words t →
        (∀ sec off, spiTarget cs scs addr = some (sec, off) →
          (sec = scs → answers c s (fun u => u.now = max s.now t ∧ u = writeWords sec t off words (s.advance t) ∧
            (∀ v, words = [v] → off = 8 → (u.page sec).scratch = v.toNat) ∧
            (∀ v, words = [v] → off = 20 → (u.page sec).irqEnable = v.toNat &&& 0x177) ∧ frame [.now, .objs, .log, .dict, .host] s u)) ∧
          (sec ≠ scs → answers c s (fun u => u.now = max s.now t ∧ counts s u O.wrongPageCount 0 ∧ frame [.now, .objs] s u))) ∧
        (spiTarget cs scs addr = none → answers c s (fun u => u = s.advance t))) ∧
      (c = .spiRead cs scs addr n t ∨ c = .spiQuadRead cs scs addr n t →
        (∀ sec off, spiTarget cs scs addr = some (sec, off) →
          let r := readWords sec off n (s.advance t)
          (sec = scs → answers c s (fun u => u.now = max s.now t ∧ u = r.1.setHost (fun h => { h with data := r.2 }) ∧
            u.host.data.length = n ∧ frame [.now, .host] s u)) ∧
          (sec ≠ scs → answers c s (fun u => u.now = max s.now t ∧ u.host = { s.host with data := List.replicate n 0 } ∧
            counts s u O.wrongPageCount 0 ∧ frame [.now, .objs, .host] s u))) ∧
        (spiTarget cs scs addr = none → answers c s (fun u => u.now = max s.now t ∧
          u.host = (if cs = scs then s.host else { s.host with data := List.replicate n 0 }) ∧ frame [.now, .host] s u)))) ∧
  (∀ (s : State) (t : Nat), portOn s = true →
      (∀ (sec : Bool) (off : Fin 2048) (v : BitVec 32), answers (.hostRegisterWrite sec off v t) s (fun u => u.now = max s.now t ∧
        (off.val = 8 → u.page sec = { s.page sec with scratch := v.toNat }) ∧
        (off.val = 20 → u.page sec = { s.page sec with irqEnable := v.toNat &&& 0x177 }) ∧
        (off.val ≠ 8 → off.val ≠ 20 → u.host = s.host) ∧ u.page (!sec) = s.page (!sec) ∧ u.host.mb = s.host.mb ∧ frame [.now, .host] s u)) ∧
      (∀ sec : Bool, answers (.gridHiRead sec t) s (fun u => u.now = max s.now t ∧
        u.host.data = [u.gridTime / 2 ^ 32 % 2 ^ 32] ∧ u.page sec = { s.page sec with gridLo := u.gridTime % 2 ^ 32 } ∧
        u.page (!sec) = s.page (!sec) ∧ u.host.mb = s.host.mb ∧ frame [.now, .host] s u)) ∧
      (∀ (sec : Bool) (v : BitVec 32), answers (.irqStatusClear sec v t) s (fun u => u.now = max s.now t ∧
        (∀ i, i < 32 → bitOf (u.page sec).irqStatus i = (bitOf (s.page sec).irqStatus i && !bitOf v.toNat i)) ∧
        u.page sec = { s.page sec with irqStatus := (u.page sec).irqStatus } ∧
        u.page (!sec) = s.page (!sec) ∧ u.host.mb = s.host.mb ∧ frame [.now, .host] s u)) ∧
      (∀ (n : Fin 4) (v : BitVec 32), answers (.mbStatusClear n v t) s (fun u => u.now = max s.now t ∧ u.mailbox n = { s.mailbox n with
          collision := (s.mailbox n).collision && !bitOf v.toNat 5, discarded := (s.mailbox n).discarded && !bitOf v.toNat 4,
          crossed := (s.mailbox n).crossed && !bitOf v.toNat 3, oldEpoch := (s.mailbox n).oldEpoch && !bitOf v.toNat 2 } ∧
        (∀ m : Fin 4, m ≠ n → u.mailbox m = s.mailbox m) ∧ frame [.now, .host] s u))) ∧
  (∀ (s : State) (cs scs sec : Bool) (addr : BitVec 16) (words : List (BitVec 32)) (n t : Nat) (off : Fin 2048) (v : BitVec 32), portOn s = false →
    ∀ c ∈ [Instr.spiWrite cs scs addr words t, .spiQuadWrite cs scs addr words t, .spiRead cs scs addr n t, .spiQuadRead cs scs addr n t,
      .hostRegisterWrite sec off v t, .gridHiRead sec t, .irqStatusClear sec v t], answers c s (fun u => u = s))

/-- Mailboxes: a word into an empty outbound queue is stored and the last of its LEN posts it, into a full one it collides; the last inbound word read frees the queue; a flush and a reset give
up what waits; the distaff reads a message, joins its fragments to a body and carries out the whole one, or refuses a collision, a fragment out of order or of
another epoch; it posts a response in fragments of 28 bytes, and takes a message aside when both queues have been full for 50 ms (R392 to R398, Tables 20.5 to 20.9).
Completes: outWWrite, inWRead, flushIn, portResetMailbox, mailboxService, responseFragmentPost, mailboxCrossed.
Where the spec leaves a point open it follows the model's choice: log entries 114, 126. -/
def Obligations.MailboxesCarryMessages : Prop :=
  ∀ (s : State) (n : Fin 4) (t : Nat),
    let m := s.mailbox n
    let others := fun (u : State) => ∀ k : Fin 4, k ≠ n → u.mailbox k = s.mailbox k
    (portOn s = true →
      (∀ (k : Fin 8) (v : BitVec 32),
        let out := m.out.set k v.toNat
        let full := decide (k.val = mbLen (mbWord out 0) - 1)
        (m.outFull = false → answers (.outWWrite n k v t) s (fun u => u.now = max s.now t ∧
          u.mailbox n = { m with out := out, outFull := full, fullSince := if full && m.inFull then some t else m.fullSince } ∧
          others u ∧ frame [.now, .host] s u)) ∧
        (m.outFull = true → answers (.outWWrite n k v t) s (fun u => u.now = max s.now t ∧ u.mailbox n = { m with out := out, collision := true } ∧
          counts s u O.collisionCount n ∧
          (m.collision = false → logsOnly s u Ev.mbCollision 0xFF []) ∧ (m.collision = true → u.log = s.log) ∧
          others u ∧ frame [.now, .objs, .log, .host] s u))) ∧
      (∀ k : Fin 8, answers (.inWRead n k t) s (fun u => u.now = max s.now t ∧ u.host.data = [mbWord m.inn k] ∧ (u.mailbox n).inn = m.inn ∧
        (u.mailbox n).inFull = (m.inFull && !decide (k.val = mbLen (mbWord m.inn 0) - 1)) ∧
        (u.mailbox n).oldEpoch = (m.oldEpoch || (m.inFull && decide (k.val = 0) && !decide (mbEpochOf (mbWord m.inn 0) = s.hubEpoch))) ∧
        (u.mailbox n).out = m.out ∧ (u.mailbox n).outFull = m.outFull ∧ others u ∧ frame [.now, .host] s u)) ∧
      answers (.flushIn n t) s (fun u => u.now = max s.now t ∧ (m.inFull = false → u.host = s.host ∧ u.objs = s.objs) ∧
        (m.inFull = true → counts s u O.discardCount n ∧
          (∃ l, l = (if m.posted = 0 then m.responses else m.responses.drop 1) ∧
            u.mailbox n = { m with inFull := false, fullSince := none, posted := 0, seq := 0, responses := l })) ∧
        others u ∧ frame [.now, .objs, .host] s u)) ∧
    (s.pwr.sram = true → answers (.portResetMailbox n t none) s (fun u => u.now = max s.now t ∧
      u.mailbox n = { hostEpoch := m.hostEpoch, out := m.out, inn := m.inn } ∧ others u ∧ (∀ x ∈ u.dict.sessions, x.path ≠ .mailbox n) ∧
      logsOnly s u Ev.mbPortReset 0xFF [] ∧ frame [.now, .objs, .log, .dict, .host] s u)) ∧
    (∀ (words : List Nat) (collided : Bool), s.mbServed = true → m.responses.length < 4 →
      (m.reserve = some (words, collided) ∨ m.reserve = none ∧ m.outFull = true ∧ words = m.out ∧ collided = m.collision) →
      let w0 := mbWord words 0
      let old := partBytes m
      let b := (if mbFirst w0 then [] else old) ++ mbPayload words
      let inOrder := (mbFirst w0 = true ∧ mbSeqOf w0 = 0) ∨ (mbFirst w0 = false ∧ ∃ p, m.part = some p ∧ mbSeqOf w0 = p.next ∧ mbEpochOf w0 = p.epoch)
      let read := fun (u : State) => (m.reserve = none → (u.mailbox n).outFull = false) ∧ (m.reserve ≠ none → (u.mailbox n).reserve = none)
      answers (.mailboxService n t) s (fun u =>
        (collided = true ∨ ¬inOrder → read u ∧ (u.mailbox n).part = none ∧ (∃ r, (u.mailbox n).responses = m.responses ++ [r]) ∧
          (collided = false → counts s u O.fragErrCount n ∨ m.part.isSome = true ∧ mbFirst w0 = true) ∧ u.dict = s.dict) ∧
        (collided = false → mbFirst w0 = false → ¬inOrder → counts s u O.fragErrCount n ∧ logsOnly s u Ev.mbFragError 0xFF (be 1 n)) ∧
        (collided = false → inOrder → mbLast w0 = false → b.length ≤ 8220 → read u ∧ (u.mailbox n).responses = m.responses ∧
          (u.mailbox n).part = some { next := (mbSeqOf w0 + 1) % 256, epoch := mbEpochOf w0, bytes := b } ∧ u.dict = s.dict) ∧
        (collided = false → inOrder → mbLast w0 = true → b.length ≤ 8220 → (mbFirst w0 = true → m.part = none) →
          let freed := if m.reserve.isSome then s.advance t else (s.advance t).mbIrq n 1
          u = bodyComplete (freed.setMailbox n { m with
            outFull := m.outFull && m.reserve.isSome, fullSince := if m.reserve.isSome then m.fullSince else none, reserve := none,
            hostEpoch := mbEpochOf w0, part := none }) n b))) ∧
    (∀ b rest, s.mbServed = true → m.inFull = false → m.responses = b :: rest → answers (.responseFragmentPost n t) s (fun u => u.now = max s.now t ∧
      (u.mailbox n).inFull = true ∧ (u.mailbox n).inn.take (1 + ceilDiv (min 28 (b.length - m.posted)) 4)
          = fragmentWords s.hubEpoch m.seq (Nat.beq m.posted 0) (b.drop m.posted) ∧
      (b.length - m.posted ≤ 28 → (u.mailbox n).responses = rest ∧ (u.mailbox n).posted = 0 ∧ (u.mailbox n).seq = 0) ∧
      (28 < b.length - m.posted → (u.mailbox n).responses = m.responses ∧ (u.mailbox n).posted = m.posted + 28 ∧
        (u.mailbox n).seq = (m.seq + 1) % 256) ∧ others u ∧ frame [.now, .host] s u)) ∧
    (∀ t0, m.fullSince = some t0 → m.outFull = true → m.inFull = true → m.reserve = none → s.mbServed = true → answers (.mailboxCrossed n) s (fun u =>
      u.now = max s.now (t0 + 50 * msTicks) ∧
      u.mailbox n = { m with crossed := true, outFull := false, fullSince := none, reserve := some (m.out, m.collision) } ∧ counts s u O.crossedCount n ∧
      logsOnly s u Ev.mailboxCrossed 0xFF (be 1 n) ∧ others u ∧ frame [.now, .objs, .log, .host] s u))
end

