-- ==== Sys2Proof/Laws/Store.lean ====
section
/-! SUPPORT. Sparse arrays and the object store: what a write leaves to be read, and that every write keeps the canonical form. -/

namespace Sys2Proof.Machine

set_option linter.all false

/-! ### Sparse arrays -/

theorem Map.wf_cons {β : Type} (i : Nat) (w : β) (m : Map β) :
    Map.wf ((i, w) :: m) = true ↔ (∀ p ∈ m.head?, i < p.1) ∧ Map.wf m = true := by
  cases m with
  | nil => simp [Map.wf]
  | cons p m => obtain ⟨j, x⟩ := p; simp [Map.wf]

theorem Map.set_wf_head {β : Type} (m : Map β) (k : Nat) (v : β) (h : Map.wf m = true) :
    Map.wf (Map.set m k v) = true ∧ (∀ p ∈ (Map.set m k v).head?, p.1 = k ∨ ∃ q ∈ m.head?, p.1 = q.1) := by
  induction m with
  | nil => simp [Map.set, Map.wf]
  | cons p m ih =>
    obtain ⟨i, w⟩ := p
    rw [Map.wf_cons] at h
    obtain ⟨h1, h2⟩ := h
    obtain ⟨h3, h4⟩ := ih h2
    unfold Map.set
    split
    · rename_i e; simp at e; subst e; exact ⟨(Map.wf_cons _ _ _).2 ⟨h1, h2⟩, by simp⟩
    · rename_i e
      split
      · rename_i l; simp at l
        exact ⟨(Map.wf_cons _ _ _).2 ⟨by simp [l], (Map.wf_cons _ _ _).2 ⟨h1, h2⟩⟩, by simp⟩
      · rename_i l; simp at e l
        refine ⟨(Map.wf_cons _ _ _).2 ⟨?_, h3⟩, by simp⟩
        intro p hp
        rcases h4 p hp with h | ⟨q, hq, h⟩
        · omega
        · have := h1 q hq; omega

/-- Writing an entry keeps the canonical form. -/
theorem Map.set_wf {β : Type} (m : Map β) (k : Nat) (v : β) (h : Map.wf m = true) : Map.wf (Map.set m k v) = true :=
  (Map.set_wf_head m k v h).1

/-- What was written is read. -/
@[simp] theorem Map.find?_set_same {β : Type} (m : Map β) (k : Nat) (v : β) : Map.find? (Map.set m k v) k = some v := by
  induction m with
  | nil => simp [Map.set, Map.find?]
  | cons p m ih =>
    obtain ⟨i, w⟩ := p
    unfold Map.set
    split
    · simp [Map.find?]
    · rename_i e
      split
      · simp [Map.find?]
      · rename_i l; simp at e l; simp [Map.find?, e, ih]; omega

/-- Every other entry reads as before. -/
theorem Map.find?_set_other {β : Type} (m : Map β) (k j : Nat) (v : β) (h : j ≠ k) : Map.find? (Map.set m k v) j = Map.find? m j := by
  induction m with
  | nil => simp only [Map.set, Map.find?]; split; · rename_i e; simp at e; omega
           · split <;> rfl
  | cons p m ih =>
    obtain ⟨i, w⟩ := p
    unfold Map.set
    split
    · rename_i e; simp at e; subst e; simp only [Map.find?]; split
      · rename_i e; simp at e; omega
      · rfl
    · rename_i e
      split
      · rename_i l; simp at e l
        simp only [Map.find?]
        split
        · rename_i e; simp at e; omega
        · split
          · rename_i f; simp at f
            split
            · rename_i e; simp at e; omega
            · split
              · rfl
              · rename_i g; simp at g; omega
          · rfl
      · simp only [Map.find?, ih]

@[simp] theorem Map.getD_set_same {β : Type} (m : Map β) (k : Nat) (v d : β) : Map.getD (Map.set m k v) k d = v := by
  simp [Map.getD]

theorem Map.getD_set_other {β : Type} (m : Map β) (k j : Nat) (v d : β) (h : j ≠ k) : Map.getD (Map.set m k v) j d = Map.getD m j d := by
  simp [Map.getD, Map.find?_set_other m k j v h]

/-! ### The object store -/

theorem Store.put_wf (st : Store) (k : Nat) (v : Val) (h : Map.wf st = true) : Map.wf (st.put k v) = true := Map.set_wf st k v h

@[simp] theorem Store.val_put_same (st : Store) (k : Nat) (v d : Val) : (st.put k v).val k d = v := by
  simp [Store.val, Store.put]

theorem Store.val_put_other (st : Store) (k j : Nat) (v d : Val) (h : j ≠ k) : (st.put k v).val j d = st.val j d := by
  simp [Store.val, Store.put, Map.getD_set_other st k j v d h]

@[simp] theorem Store.int_put_same (st : Store) (r : Ref) (u : Nat) (v : Int) : (st.put (r.at u) (.int v)).int r u = v := by
  simp [Store.int, Val.toInt]

theorem Store.int_put_other (st : Store) (r : Ref) (u k : Nat) (v : Val) (h : r.at u ≠ k) : (st.put k v).int r u = st.int r u := by
  simp [Store.int, Store.val_put_other st k (r.at u) v r.dflt h]

@[simp] theorem Store.nat_put_same (st : Store) (r : Ref) (u v : Nat) : (st.put (r.at u) (.int v)).nat r u = v := by
  simp [Store.nat]

theorem Store.nat_put_other (st : Store) (r : Ref) (u k : Nat) (v : Val) (h : r.at u ≠ k) : (st.put k v).nat r u = st.nat r u := by
  simp [Store.nat, Store.int_put_other st r u k v h]

@[simp] theorem Store.bytes_put_same (st : Store) (r : Ref) (u : Nat) (v : Bytes) : (st.put (r.at u) (.bytes v)).bytes r u = v := by
  simp [Store.bytes, Val.toBytes]

theorem Store.bytes_put_other (st : Store) (r : Ref) (u k : Nat) (v : Val) (h : r.at u ≠ k) : (st.put k v).bytes r u = st.bytes r u := by
  simp [Store.bytes, Store.val_put_other st k (r.at u) v r.dflt h]

theorem Store.bool_put_other (st : Store) (r : Ref) (u k : Nat) (v : Val) (h : r.at u ≠ k) : (st.put k v).bool r u = st.bool r u := by
  simp [Store.bool, Store.int_put_other st r u k v h]

/-! ### The event log -/

theorem seqsFrom_append (n : Nat) (l : List Event) (e : Event) :
    seqsFrom n (l ++ [e]) ↔ seqsFrom n l ∧ e.seq = (n + l.length) % 2 ^ 32 := by
  induction l generalizing n with
  | nil => simp [seqsFrom]
  | cons a l ih => simp [seqsFrom, ih, and_assoc, Nat.add_assoc, Nat.add_comm 1]

/-- Appending an entry with the next SEQ keeps the log's form; the oldest of 16,384 goes. -/
theorem EventLog.push_wf (l : EventLog) (e : Event) (he : e.seq = l.nextSeq) (h : l.entries.length ≤ 16384)
    (hn : ∃ n, seqsFrom n l.entries ∧ l.nextSeq = (n + l.entries.length) % 2 ^ 32) :
    (l.push e).entries.length ≤ 16384 ∧
      ∃ n, seqsFrom n (l.push e).entries ∧ (l.push e).nextSeq = (n + (l.push e).entries.length) % 2 ^ 32 := by
  obtain ⟨n, h1, h2⟩ := hn
  have h3 : seqsFrom n (l.entries ++ [e]) := (seqsFrom_append _ _ _).2 ⟨h1, he.trans h2⟩
  unfold EventLog.push
  dsimp only
  split
  · rename_i g
    refine ⟨by simpa [Nat.ble_eq] using g, n, h3, ?_⟩
    simp only [List.length_append, List.length_cons, List.length_nil]; omega
  · refine ⟨by simp; omega, n + 1, ?_, ?_⟩
    · cases hl : l.entries ++ [e] with
      | nil => simp at hl
      | cons a m => rw [hl] at h3; exact h3.2
    · simp only [List.length_drop, List.length_append, List.length_cons, List.length_nil]; omega

end Sys2Proof.Machine
end

