-- ==== Sys2Proof/Laws/State.lean ====
section
/-! SUPPORT. One lemma per part and per update of the state: what each basic update leaves of every part, and what is read back
after it. -/

namespace Sys2Proof.Machine

/-! ### `State.putI` -/

@[simp] theorem State.putI_pending (s : State) (r : Ref) (u : Nat) (v : Int) : (s.putI r u v).pending = s.pending := rfl
@[simp] theorem State.putI_now (s : State) (r : Ref) (u : Nat) (v : Int) : (s.putI r u v).now = s.now := rfl
@[simp] theorem State.putI_free (s : State) (r : Ref) (u : Nat) (v : Int) : (s.putI r u v).free = s.free := rfl
@[simp] theorem State.putI_objs (s : State) (r : Ref) (u : Nat) (v : Int) : (s.putI r u v).objs = s.objs.put (r.at u) (.int v) := rfl
@[simp] theorem State.putI_log (s : State) (r : Ref) (u : Nat) (v : Int) : (s.putI r u v).log = s.log := rfl
@[simp] theorem State.putI_samp (s : State) (r : Ref) (u : Nat) (v : Int) : (s.putI r u v).samp = s.samp := rfl
@[simp] theorem State.putI_draft (s : State) (r : Ref) (u : Nat) (v : Int) : (s.putI r u v).draft = s.draft := rfl
@[simp] theorem State.putI_cal (s : State) (r : Ref) (u : Nat) (v : Int) : (s.putI r u v).cal = s.cal := rfl
@[simp] theorem State.putI_dict (s : State) (r : Ref) (u : Nat) (v : Int) : (s.putI r u v).dict = s.dict := rfl
@[simp] theorem State.putI_time (s : State) (r : Ref) (u : Nat) (v : Int) : (s.putI r u v).time = s.time := rfl
@[simp] theorem State.putI_ptp (s : State) (r : Ref) (u : Nat) (v : Int) : (s.putI r u v).ptp = s.ptp := rfl
@[simp] theorem State.putI_lanes (s : State) (r : Ref) (u : Nat) (v : Int) : (s.putI r u v).lanes = s.lanes := rfl
@[simp] theorem State.putI_bob (s : State) (r : Ref) (u : Nat) (v : Int) : (s.putI r u v).bob = s.bob := rfl
@[simp] theorem State.putI_spin (s : State) (r : Ref) (u : Nat) (v : Int) : (s.putI r u v).spin = s.spin := rfl
@[simp] theorem State.putI_trig (s : State) (r : Ref) (u : Nat) (v : Int) : (s.putI r u v).trig = s.trig := rfl
@[simp] theorem State.putI_twine (s : State) (r : Ref) (u : Nat) (v : Int) : (s.putI r u v).twine = s.twine := rfl
@[simp] theorem State.putI_twin (s : State) (r : Ref) (u : Nat) (v : Int) : (s.putI r u v).twin = s.twin := rfl
@[simp] theorem State.putI_dram (s : State) (r : Ref) (u : Nat) (v : Int) : (s.putI r u v).dram = s.dram := rfl
@[simp] theorem State.putI_pwr (s : State) (r : Ref) (u : Nat) (v : Int) : (s.putI r u v).pwr = s.pwr := rfl
@[simp] theorem State.putI_nvm (s : State) (r : Ref) (u : Nat) (v : Int) : (s.putI r u v).nvm = s.nvm := rfl
@[simp] theorem State.putI_upd (s : State) (r : Ref) (u : Nat) (v : Int) : (s.putI r u v).upd = s.upd := rfl
@[simp] theorem State.putI_root (s : State) (r : Ref) (u : Nat) (v : Int) : (s.putI r u v).root = s.root := rfl
@[simp] theorem State.putI_host (s : State) (r : Ref) (u : Nat) (v : Int) : (s.putI r u v).host = s.host := rfl

/-! ### `State.put` -/

@[simp] theorem State.put_pending (s : State) (r : Ref) (u v : Nat) : (s.put r u v).pending = s.pending := rfl
@[simp] theorem State.put_now (s : State) (r : Ref) (u v : Nat) : (s.put r u v).now = s.now := rfl
@[simp] theorem State.put_free (s : State) (r : Ref) (u v : Nat) : (s.put r u v).free = s.free := rfl
@[simp] theorem State.put_objs (s : State) (r : Ref) (u v : Nat) : (s.put r u v).objs = s.objs.put (r.at u) (.int v) := rfl
@[simp] theorem State.put_log (s : State) (r : Ref) (u v : Nat) : (s.put r u v).log = s.log := rfl
@[simp] theorem State.put_samp (s : State) (r : Ref) (u v : Nat) : (s.put r u v).samp = s.samp := rfl
@[simp] theorem State.put_draft (s : State) (r : Ref) (u v : Nat) : (s.put r u v).draft = s.draft := rfl
@[simp] theorem State.put_cal (s : State) (r : Ref) (u v : Nat) : (s.put r u v).cal = s.cal := rfl
@[simp] theorem State.put_dict (s : State) (r : Ref) (u v : Nat) : (s.put r u v).dict = s.dict := rfl
@[simp] theorem State.put_time (s : State) (r : Ref) (u v : Nat) : (s.put r u v).time = s.time := rfl
@[simp] theorem State.put_ptp (s : State) (r : Ref) (u v : Nat) : (s.put r u v).ptp = s.ptp := rfl
@[simp] theorem State.put_lanes (s : State) (r : Ref) (u v : Nat) : (s.put r u v).lanes = s.lanes := rfl
@[simp] theorem State.put_bob (s : State) (r : Ref) (u v : Nat) : (s.put r u v).bob = s.bob := rfl
@[simp] theorem State.put_spin (s : State) (r : Ref) (u v : Nat) : (s.put r u v).spin = s.spin := rfl
@[simp] theorem State.put_trig (s : State) (r : Ref) (u v : Nat) : (s.put r u v).trig = s.trig := rfl
@[simp] theorem State.put_twine (s : State) (r : Ref) (u v : Nat) : (s.put r u v).twine = s.twine := rfl
@[simp] theorem State.put_twin (s : State) (r : Ref) (u v : Nat) : (s.put r u v).twin = s.twin := rfl
@[simp] theorem State.put_dram (s : State) (r : Ref) (u v : Nat) : (s.put r u v).dram = s.dram := rfl
@[simp] theorem State.put_pwr (s : State) (r : Ref) (u v : Nat) : (s.put r u v).pwr = s.pwr := rfl
@[simp] theorem State.put_nvm (s : State) (r : Ref) (u v : Nat) : (s.put r u v).nvm = s.nvm := rfl
@[simp] theorem State.put_upd (s : State) (r : Ref) (u v : Nat) : (s.put r u v).upd = s.upd := rfl
@[simp] theorem State.put_root (s : State) (r : Ref) (u v : Nat) : (s.put r u v).root = s.root := rfl
@[simp] theorem State.put_host (s : State) (r : Ref) (u v : Nat) : (s.put r u v).host = s.host := rfl

/-! ### `State.putB` -/

@[simp] theorem State.putB_pending (s : State) (r : Ref) (u : Nat) (v : Bytes) : (s.putB r u v).pending = s.pending := rfl
@[simp] theorem State.putB_now (s : State) (r : Ref) (u : Nat) (v : Bytes) : (s.putB r u v).now = s.now := rfl
@[simp] theorem State.putB_free (s : State) (r : Ref) (u : Nat) (v : Bytes) : (s.putB r u v).free = s.free := rfl
@[simp] theorem State.putB_objs (s : State) (r : Ref) (u : Nat) (v : Bytes) : (s.putB r u v).objs = s.objs.put (r.at u) (.bytes v) := rfl
@[simp] theorem State.putB_log (s : State) (r : Ref) (u : Nat) (v : Bytes) : (s.putB r u v).log = s.log := rfl
@[simp] theorem State.putB_samp (s : State) (r : Ref) (u : Nat) (v : Bytes) : (s.putB r u v).samp = s.samp := rfl
@[simp] theorem State.putB_draft (s : State) (r : Ref) (u : Nat) (v : Bytes) : (s.putB r u v).draft = s.draft := rfl
@[simp] theorem State.putB_cal (s : State) (r : Ref) (u : Nat) (v : Bytes) : (s.putB r u v).cal = s.cal := rfl
@[simp] theorem State.putB_dict (s : State) (r : Ref) (u : Nat) (v : Bytes) : (s.putB r u v).dict = s.dict := rfl
@[simp] theorem State.putB_time (s : State) (r : Ref) (u : Nat) (v : Bytes) : (s.putB r u v).time = s.time := rfl
@[simp] theorem State.putB_ptp (s : State) (r : Ref) (u : Nat) (v : Bytes) : (s.putB r u v).ptp = s.ptp := rfl
@[simp] theorem State.putB_lanes (s : State) (r : Ref) (u : Nat) (v : Bytes) : (s.putB r u v).lanes = s.lanes := rfl
@[simp] theorem State.putB_bob (s : State) (r : Ref) (u : Nat) (v : Bytes) : (s.putB r u v).bob = s.bob := rfl
@[simp] theorem State.putB_spin (s : State) (r : Ref) (u : Nat) (v : Bytes) : (s.putB r u v).spin = s.spin := rfl
@[simp] theorem State.putB_trig (s : State) (r : Ref) (u : Nat) (v : Bytes) : (s.putB r u v).trig = s.trig := rfl
@[simp] theorem State.putB_twine (s : State) (r : Ref) (u : Nat) (v : Bytes) : (s.putB r u v).twine = s.twine := rfl
@[simp] theorem State.putB_twin (s : State) (r : Ref) (u : Nat) (v : Bytes) : (s.putB r u v).twin = s.twin := rfl
@[simp] theorem State.putB_dram (s : State) (r : Ref) (u : Nat) (v : Bytes) : (s.putB r u v).dram = s.dram := rfl
@[simp] theorem State.putB_pwr (s : State) (r : Ref) (u : Nat) (v : Bytes) : (s.putB r u v).pwr = s.pwr := rfl
@[simp] theorem State.putB_nvm (s : State) (r : Ref) (u : Nat) (v : Bytes) : (s.putB r u v).nvm = s.nvm := rfl
@[simp] theorem State.putB_upd (s : State) (r : Ref) (u : Nat) (v : Bytes) : (s.putB r u v).upd = s.upd := rfl
@[simp] theorem State.putB_root (s : State) (r : Ref) (u : Nat) (v : Bytes) : (s.putB r u v).root = s.root := rfl
@[simp] theorem State.putB_host (s : State) (r : Ref) (u : Nat) (v : Bytes) : (s.putB r u v).host = s.host := rfl

/-! ### `State.putK` -/

@[simp] theorem State.putK_pending (s : State) (k : Nat) (v : Val) : (s.putK k v).pending = s.pending := rfl
@[simp] theorem State.putK_now (s : State) (k : Nat) (v : Val) : (s.putK k v).now = s.now := rfl
@[simp] theorem State.putK_free (s : State) (k : Nat) (v : Val) : (s.putK k v).free = s.free := rfl
@[simp] theorem State.putK_objs (s : State) (k : Nat) (v : Val) : (s.putK k v).objs = s.objs.put k v := rfl
@[simp] theorem State.putK_log (s : State) (k : Nat) (v : Val) : (s.putK k v).log = s.log := rfl
@[simp] theorem State.putK_samp (s : State) (k : Nat) (v : Val) : (s.putK k v).samp = s.samp := rfl
@[simp] theorem State.putK_draft (s : State) (k : Nat) (v : Val) : (s.putK k v).draft = s.draft := rfl
@[simp] theorem State.putK_cal (s : State) (k : Nat) (v : Val) : (s.putK k v).cal = s.cal := rfl
@[simp] theorem State.putK_dict (s : State) (k : Nat) (v : Val) : (s.putK k v).dict = s.dict := rfl
@[simp] theorem State.putK_time (s : State) (k : Nat) (v : Val) : (s.putK k v).time = s.time := rfl
@[simp] theorem State.putK_ptp (s : State) (k : Nat) (v : Val) : (s.putK k v).ptp = s.ptp := rfl
@[simp] theorem State.putK_lanes (s : State) (k : Nat) (v : Val) : (s.putK k v).lanes = s.lanes := rfl
@[simp] theorem State.putK_bob (s : State) (k : Nat) (v : Val) : (s.putK k v).bob = s.bob := rfl
@[simp] theorem State.putK_spin (s : State) (k : Nat) (v : Val) : (s.putK k v).spin = s.spin := rfl
@[simp] theorem State.putK_trig (s : State) (k : Nat) (v : Val) : (s.putK k v).trig = s.trig := rfl
@[simp] theorem State.putK_twine (s : State) (k : Nat) (v : Val) : (s.putK k v).twine = s.twine := rfl
@[simp] theorem State.putK_twin (s : State) (k : Nat) (v : Val) : (s.putK k v).twin = s.twin := rfl
@[simp] theorem State.putK_dram (s : State) (k : Nat) (v : Val) : (s.putK k v).dram = s.dram := rfl
@[simp] theorem State.putK_pwr (s : State) (k : Nat) (v : Val) : (s.putK k v).pwr = s.pwr := rfl
@[simp] theorem State.putK_nvm (s : State) (k : Nat) (v : Val) : (s.putK k v).nvm = s.nvm := rfl
@[simp] theorem State.putK_upd (s : State) (k : Nat) (v : Val) : (s.putK k v).upd = s.upd := rfl
@[simp] theorem State.putK_root (s : State) (k : Nat) (v : Val) : (s.putK k v).root = s.root := rfl
@[simp] theorem State.putK_host (s : State) (k : Nat) (v : Val) : (s.putK k v).host = s.host := rfl

/-! ### `State.addK` -/

@[simp] theorem State.addK_pending (s : State) (r : Ref) (k n : Nat) : (s.addK r k n).pending = s.pending := rfl
@[simp] theorem State.addK_now (s : State) (r : Ref) (k n : Nat) : (s.addK r k n).now = s.now := rfl
@[simp] theorem State.addK_free (s : State) (r : Ref) (k n : Nat) : (s.addK r k n).free = s.free := rfl
@[simp] theorem State.addK_log (s : State) (r : Ref) (k n : Nat) : (s.addK r k n).log = s.log := rfl
@[simp] theorem State.addK_samp (s : State) (r : Ref) (k n : Nat) : (s.addK r k n).samp = s.samp := rfl
@[simp] theorem State.addK_draft (s : State) (r : Ref) (k n : Nat) : (s.addK r k n).draft = s.draft := rfl
@[simp] theorem State.addK_cal (s : State) (r : Ref) (k n : Nat) : (s.addK r k n).cal = s.cal := rfl
@[simp] theorem State.addK_dict (s : State) (r : Ref) (k n : Nat) : (s.addK r k n).dict = s.dict := rfl
@[simp] theorem State.addK_time (s : State) (r : Ref) (k n : Nat) : (s.addK r k n).time = s.time := rfl
@[simp] theorem State.addK_ptp (s : State) (r : Ref) (k n : Nat) : (s.addK r k n).ptp = s.ptp := rfl
@[simp] theorem State.addK_lanes (s : State) (r : Ref) (k n : Nat) : (s.addK r k n).lanes = s.lanes := rfl
@[simp] theorem State.addK_bob (s : State) (r : Ref) (k n : Nat) : (s.addK r k n).bob = s.bob := rfl
@[simp] theorem State.addK_spin (s : State) (r : Ref) (k n : Nat) : (s.addK r k n).spin = s.spin := rfl
@[simp] theorem State.addK_trig (s : State) (r : Ref) (k n : Nat) : (s.addK r k n).trig = s.trig := rfl
@[simp] theorem State.addK_twine (s : State) (r : Ref) (k n : Nat) : (s.addK r k n).twine = s.twine := rfl
@[simp] theorem State.addK_twin (s : State) (r : Ref) (k n : Nat) : (s.addK r k n).twin = s.twin := rfl
@[simp] theorem State.addK_dram (s : State) (r : Ref) (k n : Nat) : (s.addK r k n).dram = s.dram := rfl
@[simp] theorem State.addK_pwr (s : State) (r : Ref) (k n : Nat) : (s.addK r k n).pwr = s.pwr := rfl
@[simp] theorem State.addK_nvm (s : State) (r : Ref) (k n : Nat) : (s.addK r k n).nvm = s.nvm := rfl
@[simp] theorem State.addK_upd (s : State) (r : Ref) (k n : Nat) : (s.addK r k n).upd = s.upd := rfl
@[simp] theorem State.addK_root (s : State) (r : Ref) (k n : Nat) : (s.addK r k n).root = s.root := rfl
@[simp] theorem State.addK_host (s : State) (r : Ref) (k n : Nat) : (s.addK r k n).host = s.host := rfl

/-! ### `State.add` -/

@[simp] theorem State.add_pending (s : State) (r : Ref) (u n : Nat) : (s.add r u n).pending = s.pending := rfl
@[simp] theorem State.add_now (s : State) (r : Ref) (u n : Nat) : (s.add r u n).now = s.now := rfl
@[simp] theorem State.add_free (s : State) (r : Ref) (u n : Nat) : (s.add r u n).free = s.free := rfl
@[simp] theorem State.add_log (s : State) (r : Ref) (u n : Nat) : (s.add r u n).log = s.log := rfl
@[simp] theorem State.add_samp (s : State) (r : Ref) (u n : Nat) : (s.add r u n).samp = s.samp := rfl
@[simp] theorem State.add_draft (s : State) (r : Ref) (u n : Nat) : (s.add r u n).draft = s.draft := rfl
@[simp] theorem State.add_cal (s : State) (r : Ref) (u n : Nat) : (s.add r u n).cal = s.cal := rfl
@[simp] theorem State.add_dict (s : State) (r : Ref) (u n : Nat) : (s.add r u n).dict = s.dict := rfl
@[simp] theorem State.add_time (s : State) (r : Ref) (u n : Nat) : (s.add r u n).time = s.time := rfl
@[simp] theorem State.add_ptp (s : State) (r : Ref) (u n : Nat) : (s.add r u n).ptp = s.ptp := rfl
@[simp] theorem State.add_lanes (s : State) (r : Ref) (u n : Nat) : (s.add r u n).lanes = s.lanes := rfl
@[simp] theorem State.add_bob (s : State) (r : Ref) (u n : Nat) : (s.add r u n).bob = s.bob := rfl
@[simp] theorem State.add_spin (s : State) (r : Ref) (u n : Nat) : (s.add r u n).spin = s.spin := rfl
@[simp] theorem State.add_trig (s : State) (r : Ref) (u n : Nat) : (s.add r u n).trig = s.trig := rfl
@[simp] theorem State.add_twine (s : State) (r : Ref) (u n : Nat) : (s.add r u n).twine = s.twine := rfl
@[simp] theorem State.add_twin (s : State) (r : Ref) (u n : Nat) : (s.add r u n).twin = s.twin := rfl
@[simp] theorem State.add_dram (s : State) (r : Ref) (u n : Nat) : (s.add r u n).dram = s.dram := rfl
@[simp] theorem State.add_pwr (s : State) (r : Ref) (u n : Nat) : (s.add r u n).pwr = s.pwr := rfl
@[simp] theorem State.add_nvm (s : State) (r : Ref) (u n : Nat) : (s.add r u n).nvm = s.nvm := rfl
@[simp] theorem State.add_upd (s : State) (r : Ref) (u n : Nat) : (s.add r u n).upd = s.upd := rfl
@[simp] theorem State.add_root (s : State) (r : Ref) (u n : Nat) : (s.add r u n).root = s.root := rfl
@[simp] theorem State.add_host (s : State) (r : Ref) (u n : Nat) : (s.add r u n).host = s.host := rfl

/-! ### `State.bump` -/

@[simp] theorem State.bump_pending (s : State) (r : Ref) (u : Nat) : (s.bump r u).pending = s.pending := rfl
@[simp] theorem State.bump_now (s : State) (r : Ref) (u : Nat) : (s.bump r u).now = s.now := rfl
@[simp] theorem State.bump_free (s : State) (r : Ref) (u : Nat) : (s.bump r u).free = s.free := rfl
@[simp] theorem State.bump_log (s : State) (r : Ref) (u : Nat) : (s.bump r u).log = s.log := rfl
@[simp] theorem State.bump_samp (s : State) (r : Ref) (u : Nat) : (s.bump r u).samp = s.samp := rfl
@[simp] theorem State.bump_draft (s : State) (r : Ref) (u : Nat) : (s.bump r u).draft = s.draft := rfl
@[simp] theorem State.bump_cal (s : State) (r : Ref) (u : Nat) : (s.bump r u).cal = s.cal := rfl
@[simp] theorem State.bump_dict (s : State) (r : Ref) (u : Nat) : (s.bump r u).dict = s.dict := rfl
@[simp] theorem State.bump_time (s : State) (r : Ref) (u : Nat) : (s.bump r u).time = s.time := rfl
@[simp] theorem State.bump_ptp (s : State) (r : Ref) (u : Nat) : (s.bump r u).ptp = s.ptp := rfl
@[simp] theorem State.bump_lanes (s : State) (r : Ref) (u : Nat) : (s.bump r u).lanes = s.lanes := rfl
@[simp] theorem State.bump_bob (s : State) (r : Ref) (u : Nat) : (s.bump r u).bob = s.bob := rfl
@[simp] theorem State.bump_spin (s : State) (r : Ref) (u : Nat) : (s.bump r u).spin = s.spin := rfl
@[simp] theorem State.bump_trig (s : State) (r : Ref) (u : Nat) : (s.bump r u).trig = s.trig := rfl
@[simp] theorem State.bump_twine (s : State) (r : Ref) (u : Nat) : (s.bump r u).twine = s.twine := rfl
@[simp] theorem State.bump_twin (s : State) (r : Ref) (u : Nat) : (s.bump r u).twin = s.twin := rfl
@[simp] theorem State.bump_dram (s : State) (r : Ref) (u : Nat) : (s.bump r u).dram = s.dram := rfl
@[simp] theorem State.bump_pwr (s : State) (r : Ref) (u : Nat) : (s.bump r u).pwr = s.pwr := rfl
@[simp] theorem State.bump_nvm (s : State) (r : Ref) (u : Nat) : (s.bump r u).nvm = s.nvm := rfl
@[simp] theorem State.bump_upd (s : State) (r : Ref) (u : Nat) : (s.bump r u).upd = s.upd := rfl
@[simp] theorem State.bump_root (s : State) (r : Ref) (u : Nat) : (s.bump r u).root = s.root := rfl
@[simp] theorem State.bump_host (s : State) (r : Ref) (u : Nat) : (s.bump r u).host = s.host := rfl

/-! ### `State.advance` -/

@[simp] theorem State.advance_pending (s : State) (t : Nat) : (s.advance t).pending = s.pending := rfl
@[simp] theorem State.advance_now (s : State) (t : Nat) : (s.advance t).now = max s.now t := rfl
@[simp] theorem State.advance_free (s : State) (t : Nat) : (s.advance t).free = s.free := rfl
@[simp] theorem State.advance_objs (s : State) (t : Nat) : (s.advance t).objs = s.objs := rfl
@[simp] theorem State.advance_log (s : State) (t : Nat) : (s.advance t).log = s.log := rfl
@[simp] theorem State.advance_samp (s : State) (t : Nat) : (s.advance t).samp = s.samp := rfl
@[simp] theorem State.advance_draft (s : State) (t : Nat) : (s.advance t).draft = s.draft := rfl
@[simp] theorem State.advance_cal (s : State) (t : Nat) : (s.advance t).cal = s.cal := rfl
@[simp] theorem State.advance_dict (s : State) (t : Nat) : (s.advance t).dict = s.dict := rfl
@[simp] theorem State.advance_time (s : State) (t : Nat) : (s.advance t).time = s.time := rfl
@[simp] theorem State.advance_ptp (s : State) (t : Nat) : (s.advance t).ptp = s.ptp := rfl
@[simp] theorem State.advance_lanes (s : State) (t : Nat) : (s.advance t).lanes = s.lanes := rfl
@[simp] theorem State.advance_bob (s : State) (t : Nat) : (s.advance t).bob = s.bob := rfl
@[simp] theorem State.advance_spin (s : State) (t : Nat) : (s.advance t).spin = s.spin := rfl
@[simp] theorem State.advance_trig (s : State) (t : Nat) : (s.advance t).trig = s.trig := rfl
@[simp] theorem State.advance_twine (s : State) (t : Nat) : (s.advance t).twine = s.twine := rfl
@[simp] theorem State.advance_twin (s : State) (t : Nat) : (s.advance t).twin = s.twin := rfl
@[simp] theorem State.advance_dram (s : State) (t : Nat) : (s.advance t).dram = s.dram := rfl
@[simp] theorem State.advance_pwr (s : State) (t : Nat) : (s.advance t).pwr = s.pwr := rfl
@[simp] theorem State.advance_nvm (s : State) (t : Nat) : (s.advance t).nvm = s.nvm := rfl
@[simp] theorem State.advance_upd (s : State) (t : Nat) : (s.advance t).upd = s.upd := rfl
@[simp] theorem State.advance_root (s : State) (t : Nat) : (s.advance t).root = s.root := rfl
@[simp] theorem State.advance_host (s : State) (t : Nat) : (s.advance t).host = s.host := rfl

/-! ### `State.evAt` -/

@[simp] theorem State.evAt_pending (s : State) (c u t f : Nat) (p : Bytes) : (s.evAt c u t f p).pending = s.pending := rfl
@[simp] theorem State.evAt_now (s : State) (c u t f : Nat) (p : Bytes) : (s.evAt c u t f p).now = s.now := rfl
@[simp] theorem State.evAt_free (s : State) (c u t f : Nat) (p : Bytes) : (s.evAt c u t f p).free = s.free := rfl
@[simp] theorem State.evAt_objs (s : State) (c u t f : Nat) (p : Bytes) : (s.evAt c u t f p).objs = s.objs := rfl
@[simp] theorem State.evAt_log (s : State) (c u t f : Nat) (p : Bytes) : (s.evAt c u t f p).log = s.log.push ⟨s.log.nextSeq, c, u, !s.gridOn, t, f, fit 12 p⟩ := rfl
@[simp] theorem State.evAt_samp (s : State) (c u t f : Nat) (p : Bytes) : (s.evAt c u t f p).samp = s.samp := rfl
@[simp] theorem State.evAt_draft (s : State) (c u t f : Nat) (p : Bytes) : (s.evAt c u t f p).draft = s.draft := rfl
@[simp] theorem State.evAt_cal (s : State) (c u t f : Nat) (p : Bytes) : (s.evAt c u t f p).cal = s.cal := rfl
@[simp] theorem State.evAt_dict (s : State) (c u t f : Nat) (p : Bytes) : (s.evAt c u t f p).dict = s.dict := rfl
@[simp] theorem State.evAt_time (s : State) (c u t f : Nat) (p : Bytes) : (s.evAt c u t f p).time = s.time := rfl
@[simp] theorem State.evAt_ptp (s : State) (c u t f : Nat) (p : Bytes) : (s.evAt c u t f p).ptp = s.ptp := rfl
@[simp] theorem State.evAt_lanes (s : State) (c u t f : Nat) (p : Bytes) : (s.evAt c u t f p).lanes = s.lanes := rfl
@[simp] theorem State.evAt_bob (s : State) (c u t f : Nat) (p : Bytes) : (s.evAt c u t f p).bob = s.bob := rfl
@[simp] theorem State.evAt_spin (s : State) (c u t f : Nat) (p : Bytes) : (s.evAt c u t f p).spin = s.spin := rfl
@[simp] theorem State.evAt_trig (s : State) (c u t f : Nat) (p : Bytes) : (s.evAt c u t f p).trig = s.trig := rfl
@[simp] theorem State.evAt_twine (s : State) (c u t f : Nat) (p : Bytes) : (s.evAt c u t f p).twine = s.twine := rfl
@[simp] theorem State.evAt_twin (s : State) (c u t f : Nat) (p : Bytes) : (s.evAt c u t f p).twin = s.twin := rfl
@[simp] theorem State.evAt_dram (s : State) (c u t f : Nat) (p : Bytes) : (s.evAt c u t f p).dram = s.dram := rfl
@[simp] theorem State.evAt_pwr (s : State) (c u t f : Nat) (p : Bytes) : (s.evAt c u t f p).pwr = s.pwr := rfl
@[simp] theorem State.evAt_nvm (s : State) (c u t f : Nat) (p : Bytes) : (s.evAt c u t f p).nvm = s.nvm := rfl
@[simp] theorem State.evAt_upd (s : State) (c u t f : Nat) (p : Bytes) : (s.evAt c u t f p).upd = s.upd := rfl
@[simp] theorem State.evAt_root (s : State) (c u t f : Nat) (p : Bytes) : (s.evAt c u t f p).root = s.root := rfl
@[simp] theorem State.evAt_host (s : State) (c u t f : Nat) (p : Bytes) : (s.evAt c u t f p).host = s.host := rfl

/-! ### `State.ev` -/

@[simp] theorem State.ev_pending (s : State) (c u : Nat) (p : Bytes) : (s.ev c u p).pending = s.pending := rfl
@[simp] theorem State.ev_now (s : State) (c u : Nat) (p : Bytes) : (s.ev c u p).now = s.now := rfl
@[simp] theorem State.ev_free (s : State) (c u : Nat) (p : Bytes) : (s.ev c u p).free = s.free := rfl
@[simp] theorem State.ev_objs (s : State) (c u : Nat) (p : Bytes) : (s.ev c u p).objs = s.objs := rfl
@[simp] theorem State.ev_log (s : State) (c u : Nat) (p : Bytes) : (s.ev c u p).log = s.log.push ⟨s.log.nextSeq, c, u, !s.gridOn, s.gridTime, 0, fit 12 p⟩ := rfl
@[simp] theorem State.ev_samp (s : State) (c u : Nat) (p : Bytes) : (s.ev c u p).samp = s.samp := rfl
@[simp] theorem State.ev_draft (s : State) (c u : Nat) (p : Bytes) : (s.ev c u p).draft = s.draft := rfl
@[simp] theorem State.ev_cal (s : State) (c u : Nat) (p : Bytes) : (s.ev c u p).cal = s.cal := rfl
@[simp] theorem State.ev_dict (s : State) (c u : Nat) (p : Bytes) : (s.ev c u p).dict = s.dict := rfl
@[simp] theorem State.ev_time (s : State) (c u : Nat) (p : Bytes) : (s.ev c u p).time = s.time := rfl
@[simp] theorem State.ev_ptp (s : State) (c u : Nat) (p : Bytes) : (s.ev c u p).ptp = s.ptp := rfl
@[simp] theorem State.ev_lanes (s : State) (c u : Nat) (p : Bytes) : (s.ev c u p).lanes = s.lanes := rfl
@[simp] theorem State.ev_bob (s : State) (c u : Nat) (p : Bytes) : (s.ev c u p).bob = s.bob := rfl
@[simp] theorem State.ev_spin (s : State) (c u : Nat) (p : Bytes) : (s.ev c u p).spin = s.spin := rfl
@[simp] theorem State.ev_trig (s : State) (c u : Nat) (p : Bytes) : (s.ev c u p).trig = s.trig := rfl
@[simp] theorem State.ev_twine (s : State) (c u : Nat) (p : Bytes) : (s.ev c u p).twine = s.twine := rfl
@[simp] theorem State.ev_twin (s : State) (c u : Nat) (p : Bytes) : (s.ev c u p).twin = s.twin := rfl
@[simp] theorem State.ev_dram (s : State) (c u : Nat) (p : Bytes) : (s.ev c u p).dram = s.dram := rfl
@[simp] theorem State.ev_pwr (s : State) (c u : Nat) (p : Bytes) : (s.ev c u p).pwr = s.pwr := rfl
@[simp] theorem State.ev_nvm (s : State) (c u : Nat) (p : Bytes) : (s.ev c u p).nvm = s.nvm := rfl
@[simp] theorem State.ev_upd (s : State) (c u : Nat) (p : Bytes) : (s.ev c u p).upd = s.upd := rfl
@[simp] theorem State.ev_root (s : State) (c u : Nat) (p : Bytes) : (s.ev c u p).root = s.root := rfl
@[simp] theorem State.ev_host (s : State) (c u : Nat) (p : Bytes) : (s.ev c u p).host = s.host := rfl

/-! ### `State.setHost` -/

@[simp] theorem State.setHost_pending (s : State) (f : HostState → HostState) : (s.setHost f).pending = s.pending := rfl
@[simp] theorem State.setHost_now (s : State) (f : HostState → HostState) : (s.setHost f).now = s.now := rfl
@[simp] theorem State.setHost_free (s : State) (f : HostState → HostState) : (s.setHost f).free = s.free := rfl
@[simp] theorem State.setHost_objs (s : State) (f : HostState → HostState) : (s.setHost f).objs = s.objs := rfl
@[simp] theorem State.setHost_log (s : State) (f : HostState → HostState) : (s.setHost f).log = s.log := rfl
@[simp] theorem State.setHost_samp (s : State) (f : HostState → HostState) : (s.setHost f).samp = s.samp := rfl
@[simp] theorem State.setHost_draft (s : State) (f : HostState → HostState) : (s.setHost f).draft = s.draft := rfl
@[simp] theorem State.setHost_cal (s : State) (f : HostState → HostState) : (s.setHost f).cal = s.cal := rfl
@[simp] theorem State.setHost_dict (s : State) (f : HostState → HostState) : (s.setHost f).dict = s.dict := rfl
@[simp] theorem State.setHost_time (s : State) (f : HostState → HostState) : (s.setHost f).time = s.time := rfl
@[simp] theorem State.setHost_ptp (s : State) (f : HostState → HostState) : (s.setHost f).ptp = s.ptp := rfl
@[simp] theorem State.setHost_lanes (s : State) (f : HostState → HostState) : (s.setHost f).lanes = s.lanes := rfl
@[simp] theorem State.setHost_bob (s : State) (f : HostState → HostState) : (s.setHost f).bob = s.bob := rfl
@[simp] theorem State.setHost_spin (s : State) (f : HostState → HostState) : (s.setHost f).spin = s.spin := rfl
@[simp] theorem State.setHost_trig (s : State) (f : HostState → HostState) : (s.setHost f).trig = s.trig := rfl
@[simp] theorem State.setHost_twine (s : State) (f : HostState → HostState) : (s.setHost f).twine = s.twine := rfl
@[simp] theorem State.setHost_twin (s : State) (f : HostState → HostState) : (s.setHost f).twin = s.twin := rfl
@[simp] theorem State.setHost_dram (s : State) (f : HostState → HostState) : (s.setHost f).dram = s.dram := rfl
@[simp] theorem State.setHost_pwr (s : State) (f : HostState → HostState) : (s.setHost f).pwr = s.pwr := rfl
@[simp] theorem State.setHost_nvm (s : State) (f : HostState → HostState) : (s.setHost f).nvm = s.nvm := rfl
@[simp] theorem State.setHost_upd (s : State) (f : HostState → HostState) : (s.setHost f).upd = s.upd := rfl
@[simp] theorem State.setHost_root (s : State) (f : HostState → HostState) : (s.setHost f).root = s.root := rfl
@[simp] theorem State.setHost_host (s : State) (f : HostState → HostState) : (s.setHost f).host = f s.host := rfl

/-! ### `State.setMailbox` -/

@[simp] theorem State.setMailbox_pending (s : State) (n : Nat) (m : Mailbox) : (s.setMailbox n m).pending = s.pending := rfl
@[simp] theorem State.setMailbox_now (s : State) (n : Nat) (m : Mailbox) : (s.setMailbox n m).now = s.now := rfl
@[simp] theorem State.setMailbox_free (s : State) (n : Nat) (m : Mailbox) : (s.setMailbox n m).free = s.free := rfl
@[simp] theorem State.setMailbox_objs (s : State) (n : Nat) (m : Mailbox) : (s.setMailbox n m).objs = s.objs := rfl
@[simp] theorem State.setMailbox_log (s : State) (n : Nat) (m : Mailbox) : (s.setMailbox n m).log = s.log := rfl
@[simp] theorem State.setMailbox_samp (s : State) (n : Nat) (m : Mailbox) : (s.setMailbox n m).samp = s.samp := rfl
@[simp] theorem State.setMailbox_draft (s : State) (n : Nat) (m : Mailbox) : (s.setMailbox n m).draft = s.draft := rfl
@[simp] theorem State.setMailbox_cal (s : State) (n : Nat) (m : Mailbox) : (s.setMailbox n m).cal = s.cal := rfl
@[simp] theorem State.setMailbox_dict (s : State) (n : Nat) (m : Mailbox) : (s.setMailbox n m).dict = s.dict := rfl
@[simp] theorem State.setMailbox_time (s : State) (n : Nat) (m : Mailbox) : (s.setMailbox n m).time = s.time := rfl
@[simp] theorem State.setMailbox_ptp (s : State) (n : Nat) (m : Mailbox) : (s.setMailbox n m).ptp = s.ptp := rfl
@[simp] theorem State.setMailbox_lanes (s : State) (n : Nat) (m : Mailbox) : (s.setMailbox n m).lanes = s.lanes := rfl
@[simp] theorem State.setMailbox_bob (s : State) (n : Nat) (m : Mailbox) : (s.setMailbox n m).bob = s.bob := rfl
@[simp] theorem State.setMailbox_spin (s : State) (n : Nat) (m : Mailbox) : (s.setMailbox n m).spin = s.spin := rfl
@[simp] theorem State.setMailbox_trig (s : State) (n : Nat) (m : Mailbox) : (s.setMailbox n m).trig = s.trig := rfl
@[simp] theorem State.setMailbox_twine (s : State) (n : Nat) (m : Mailbox) : (s.setMailbox n m).twine = s.twine := rfl
@[simp] theorem State.setMailbox_twin (s : State) (n : Nat) (m : Mailbox) : (s.setMailbox n m).twin = s.twin := rfl
@[simp] theorem State.setMailbox_dram (s : State) (n : Nat) (m : Mailbox) : (s.setMailbox n m).dram = s.dram := rfl
@[simp] theorem State.setMailbox_pwr (s : State) (n : Nat) (m : Mailbox) : (s.setMailbox n m).pwr = s.pwr := rfl
@[simp] theorem State.setMailbox_nvm (s : State) (n : Nat) (m : Mailbox) : (s.setMailbox n m).nvm = s.nvm := rfl
@[simp] theorem State.setMailbox_upd (s : State) (n : Nat) (m : Mailbox) : (s.setMailbox n m).upd = s.upd := rfl
@[simp] theorem State.setMailbox_root (s : State) (n : Nat) (m : Mailbox) : (s.setMailbox n m).root = s.root := rfl
@[simp] theorem State.setMailbox_host (s : State) (n : Nat) (m : Mailbox) : (s.setMailbox n m).host = { s.host with mb := Map.set s.host.mb n m } := rfl

/-! ### `State.setIrq` -/

@[simp] theorem State.setIrq_pending (s : State) (sec : Bool) (b : Nat) : (s.setIrq sec b).pending = s.pending := rfl
@[simp] theorem State.setIrq_now (s : State) (sec : Bool) (b : Nat) : (s.setIrq sec b).now = s.now := rfl
@[simp] theorem State.setIrq_free (s : State) (sec : Bool) (b : Nat) : (s.setIrq sec b).free = s.free := rfl
@[simp] theorem State.setIrq_objs (s : State) (sec : Bool) (b : Nat) : (s.setIrq sec b).objs = s.objs := rfl
@[simp] theorem State.setIrq_log (s : State) (sec : Bool) (b : Nat) : (s.setIrq sec b).log = s.log := rfl
@[simp] theorem State.setIrq_samp (s : State) (sec : Bool) (b : Nat) : (s.setIrq sec b).samp = s.samp := rfl
@[simp] theorem State.setIrq_draft (s : State) (sec : Bool) (b : Nat) : (s.setIrq sec b).draft = s.draft := rfl
@[simp] theorem State.setIrq_cal (s : State) (sec : Bool) (b : Nat) : (s.setIrq sec b).cal = s.cal := rfl
@[simp] theorem State.setIrq_dict (s : State) (sec : Bool) (b : Nat) : (s.setIrq sec b).dict = s.dict := rfl
@[simp] theorem State.setIrq_time (s : State) (sec : Bool) (b : Nat) : (s.setIrq sec b).time = s.time := rfl
@[simp] theorem State.setIrq_ptp (s : State) (sec : Bool) (b : Nat) : (s.setIrq sec b).ptp = s.ptp := rfl
@[simp] theorem State.setIrq_lanes (s : State) (sec : Bool) (b : Nat) : (s.setIrq sec b).lanes = s.lanes := rfl
@[simp] theorem State.setIrq_bob (s : State) (sec : Bool) (b : Nat) : (s.setIrq sec b).bob = s.bob := rfl
@[simp] theorem State.setIrq_spin (s : State) (sec : Bool) (b : Nat) : (s.setIrq sec b).spin = s.spin := rfl
@[simp] theorem State.setIrq_trig (s : State) (sec : Bool) (b : Nat) : (s.setIrq sec b).trig = s.trig := rfl
@[simp] theorem State.setIrq_twine (s : State) (sec : Bool) (b : Nat) : (s.setIrq sec b).twine = s.twine := rfl
@[simp] theorem State.setIrq_twin (s : State) (sec : Bool) (b : Nat) : (s.setIrq sec b).twin = s.twin := rfl
@[simp] theorem State.setIrq_dram (s : State) (sec : Bool) (b : Nat) : (s.setIrq sec b).dram = s.dram := rfl
@[simp] theorem State.setIrq_pwr (s : State) (sec : Bool) (b : Nat) : (s.setIrq sec b).pwr = s.pwr := rfl
@[simp] theorem State.setIrq_nvm (s : State) (sec : Bool) (b : Nat) : (s.setIrq sec b).nvm = s.nvm := rfl
@[simp] theorem State.setIrq_upd (s : State) (sec : Bool) (b : Nat) : (s.setIrq sec b).upd = s.upd := rfl
@[simp] theorem State.setIrq_root (s : State) (sec : Bool) (b : Nat) : (s.setIrq sec b).root = s.root := rfl

/-! ### `State.mbIrq` -/

@[simp] theorem State.mbIrq_pending (s : State) (n b : Nat) : (s.mbIrq n b).pending = s.pending := rfl
@[simp] theorem State.mbIrq_now (s : State) (n b : Nat) : (s.mbIrq n b).now = s.now := rfl
@[simp] theorem State.mbIrq_free (s : State) (n b : Nat) : (s.mbIrq n b).free = s.free := rfl
@[simp] theorem State.mbIrq_objs (s : State) (n b : Nat) : (s.mbIrq n b).objs = s.objs := rfl
@[simp] theorem State.mbIrq_log (s : State) (n b : Nat) : (s.mbIrq n b).log = s.log := rfl
@[simp] theorem State.mbIrq_samp (s : State) (n b : Nat) : (s.mbIrq n b).samp = s.samp := rfl
@[simp] theorem State.mbIrq_draft (s : State) (n b : Nat) : (s.mbIrq n b).draft = s.draft := rfl
@[simp] theorem State.mbIrq_cal (s : State) (n b : Nat) : (s.mbIrq n b).cal = s.cal := rfl
@[simp] theorem State.mbIrq_dict (s : State) (n b : Nat) : (s.mbIrq n b).dict = s.dict := rfl
@[simp] theorem State.mbIrq_time (s : State) (n b : Nat) : (s.mbIrq n b).time = s.time := rfl
@[simp] theorem State.mbIrq_ptp (s : State) (n b : Nat) : (s.mbIrq n b).ptp = s.ptp := rfl
@[simp] theorem State.mbIrq_lanes (s : State) (n b : Nat) : (s.mbIrq n b).lanes = s.lanes := rfl
@[simp] theorem State.mbIrq_bob (s : State) (n b : Nat) : (s.mbIrq n b).bob = s.bob := rfl
@[simp] theorem State.mbIrq_spin (s : State) (n b : Nat) : (s.mbIrq n b).spin = s.spin := rfl
@[simp] theorem State.mbIrq_trig (s : State) (n b : Nat) : (s.mbIrq n b).trig = s.trig := rfl
@[simp] theorem State.mbIrq_twine (s : State) (n b : Nat) : (s.mbIrq n b).twine = s.twine := rfl
@[simp] theorem State.mbIrq_twin (s : State) (n b : Nat) : (s.mbIrq n b).twin = s.twin := rfl
@[simp] theorem State.mbIrq_dram (s : State) (n b : Nat) : (s.mbIrq n b).dram = s.dram := rfl
@[simp] theorem State.mbIrq_pwr (s : State) (n b : Nat) : (s.mbIrq n b).pwr = s.pwr := rfl
@[simp] theorem State.mbIrq_nvm (s : State) (n b : Nat) : (s.mbIrq n b).nvm = s.nvm := rfl
@[simp] theorem State.mbIrq_upd (s : State) (n b : Nat) : (s.mbIrq n b).upd = s.upd := rfl
@[simp] theorem State.mbIrq_root (s : State) (n b : Nat) : (s.mbIrq n b).root = s.root := rfl

/-! ### `State.setPage` -/

@[simp] theorem State.setPage_pending (s : State) (sec : Bool) (f : Page → Page) : (s.setPage sec f).pending = s.pending := rfl
@[simp] theorem State.setPage_now (s : State) (sec : Bool) (f : Page → Page) : (s.setPage sec f).now = s.now := rfl
@[simp] theorem State.setPage_free (s : State) (sec : Bool) (f : Page → Page) : (s.setPage sec f).free = s.free := rfl
@[simp] theorem State.setPage_objs (s : State) (sec : Bool) (f : Page → Page) : (s.setPage sec f).objs = s.objs := rfl
@[simp] theorem State.setPage_log (s : State) (sec : Bool) (f : Page → Page) : (s.setPage sec f).log = s.log := rfl
@[simp] theorem State.setPage_samp (s : State) (sec : Bool) (f : Page → Page) : (s.setPage sec f).samp = s.samp := rfl
@[simp] theorem State.setPage_draft (s : State) (sec : Bool) (f : Page → Page) : (s.setPage sec f).draft = s.draft := rfl
@[simp] theorem State.setPage_cal (s : State) (sec : Bool) (f : Page → Page) : (s.setPage sec f).cal = s.cal := rfl
@[simp] theorem State.setPage_dict (s : State) (sec : Bool) (f : Page → Page) : (s.setPage sec f).dict = s.dict := rfl
@[simp] theorem State.setPage_time (s : State) (sec : Bool) (f : Page → Page) : (s.setPage sec f).time = s.time := rfl
@[simp] theorem State.setPage_ptp (s : State) (sec : Bool) (f : Page → Page) : (s.setPage sec f).ptp = s.ptp := rfl
@[simp] theorem State.setPage_lanes (s : State) (sec : Bool) (f : Page → Page) : (s.setPage sec f).lanes = s.lanes := rfl
@[simp] theorem State.setPage_bob (s : State) (sec : Bool) (f : Page → Page) : (s.setPage sec f).bob = s.bob := rfl
@[simp] theorem State.setPage_spin (s : State) (sec : Bool) (f : Page → Page) : (s.setPage sec f).spin = s.spin := rfl
@[simp] theorem State.setPage_trig (s : State) (sec : Bool) (f : Page → Page) : (s.setPage sec f).trig = s.trig := rfl
@[simp] theorem State.setPage_twine (s : State) (sec : Bool) (f : Page → Page) : (s.setPage sec f).twine = s.twine := rfl
@[simp] theorem State.setPage_twin (s : State) (sec : Bool) (f : Page → Page) : (s.setPage sec f).twin = s.twin := rfl
@[simp] theorem State.setPage_dram (s : State) (sec : Bool) (f : Page → Page) : (s.setPage sec f).dram = s.dram := rfl
@[simp] theorem State.setPage_pwr (s : State) (sec : Bool) (f : Page → Page) : (s.setPage sec f).pwr = s.pwr := rfl
@[simp] theorem State.setPage_nvm (s : State) (sec : Bool) (f : Page → Page) : (s.setPage sec f).nvm = s.nvm := rfl
@[simp] theorem State.setPage_upd (s : State) (sec : Bool) (f : Page → Page) : (s.setPage sec f).upd = s.upd := rfl
@[simp] theorem State.setPage_root (s : State) (sec : Bool) (f : Page → Page) : (s.setPage sec f).root = s.root := rfl

/-! ### `State.setPwr` -/

@[simp] theorem State.setPwr_pending (s : State) (f : PowerState → PowerState) : (s.setPwr f).pending = s.pending := rfl
@[simp] theorem State.setPwr_now (s : State) (f : PowerState → PowerState) : (s.setPwr f).now = s.now := rfl
@[simp] theorem State.setPwr_free (s : State) (f : PowerState → PowerState) : (s.setPwr f).free = s.free := rfl
@[simp] theorem State.setPwr_objs (s : State) (f : PowerState → PowerState) : (s.setPwr f).objs = s.objs := rfl
@[simp] theorem State.setPwr_log (s : State) (f : PowerState → PowerState) : (s.setPwr f).log = s.log := rfl
@[simp] theorem State.setPwr_samp (s : State) (f : PowerState → PowerState) : (s.setPwr f).samp = s.samp := rfl
@[simp] theorem State.setPwr_draft (s : State) (f : PowerState → PowerState) : (s.setPwr f).draft = s.draft := rfl
@[simp] theorem State.setPwr_cal (s : State) (f : PowerState → PowerState) : (s.setPwr f).cal = s.cal := rfl
@[simp] theorem State.setPwr_dict (s : State) (f : PowerState → PowerState) : (s.setPwr f).dict = s.dict := rfl
@[simp] theorem State.setPwr_time (s : State) (f : PowerState → PowerState) : (s.setPwr f).time = s.time := rfl
@[simp] theorem State.setPwr_ptp (s : State) (f : PowerState → PowerState) : (s.setPwr f).ptp = s.ptp := rfl
@[simp] theorem State.setPwr_lanes (s : State) (f : PowerState → PowerState) : (s.setPwr f).lanes = s.lanes := rfl
@[simp] theorem State.setPwr_bob (s : State) (f : PowerState → PowerState) : (s.setPwr f).bob = s.bob := rfl
@[simp] theorem State.setPwr_spin (s : State) (f : PowerState → PowerState) : (s.setPwr f).spin = s.spin := rfl
@[simp] theorem State.setPwr_trig (s : State) (f : PowerState → PowerState) : (s.setPwr f).trig = s.trig := rfl
@[simp] theorem State.setPwr_twine (s : State) (f : PowerState → PowerState) : (s.setPwr f).twine = s.twine := rfl
@[simp] theorem State.setPwr_twin (s : State) (f : PowerState → PowerState) : (s.setPwr f).twin = s.twin := rfl
@[simp] theorem State.setPwr_dram (s : State) (f : PowerState → PowerState) : (s.setPwr f).dram = s.dram := rfl
@[simp] theorem State.setPwr_pwr (s : State) (f : PowerState → PowerState) : (s.setPwr f).pwr = f s.pwr := rfl
@[simp] theorem State.setPwr_nvm (s : State) (f : PowerState → PowerState) : (s.setPwr f).nvm = s.nvm := rfl
@[simp] theorem State.setPwr_upd (s : State) (f : PowerState → PowerState) : (s.setPwr f).upd = s.upd := rfl
@[simp] theorem State.setPwr_root (s : State) (f : PowerState → PowerState) : (s.setPwr f).root = s.root := rfl
@[simp] theorem State.setPwr_host (s : State) (f : PowerState → PowerState) : (s.setPwr f).host = s.host := rfl

/-! ### `State.setTwin` -/

@[simp] theorem State.setTwin_pending (s : State) (f : TwinState → TwinState) : (s.setTwin f).pending = s.pending := rfl
@[simp] theorem State.setTwin_now (s : State) (f : TwinState → TwinState) : (s.setTwin f).now = s.now := rfl
@[simp] theorem State.setTwin_free (s : State) (f : TwinState → TwinState) : (s.setTwin f).free = s.free := rfl
@[simp] theorem State.setTwin_objs (s : State) (f : TwinState → TwinState) : (s.setTwin f).objs = s.objs := rfl
@[simp] theorem State.setTwin_log (s : State) (f : TwinState → TwinState) : (s.setTwin f).log = s.log := rfl
@[simp] theorem State.setTwin_samp (s : State) (f : TwinState → TwinState) : (s.setTwin f).samp = s.samp := rfl
@[simp] theorem State.setTwin_draft (s : State) (f : TwinState → TwinState) : (s.setTwin f).draft = s.draft := rfl
@[simp] theorem State.setTwin_cal (s : State) (f : TwinState → TwinState) : (s.setTwin f).cal = s.cal := rfl
@[simp] theorem State.setTwin_dict (s : State) (f : TwinState → TwinState) : (s.setTwin f).dict = s.dict := rfl
@[simp] theorem State.setTwin_time (s : State) (f : TwinState → TwinState) : (s.setTwin f).time = s.time := rfl
@[simp] theorem State.setTwin_ptp (s : State) (f : TwinState → TwinState) : (s.setTwin f).ptp = s.ptp := rfl
@[simp] theorem State.setTwin_lanes (s : State) (f : TwinState → TwinState) : (s.setTwin f).lanes = s.lanes := rfl
@[simp] theorem State.setTwin_bob (s : State) (f : TwinState → TwinState) : (s.setTwin f).bob = s.bob := rfl
@[simp] theorem State.setTwin_spin (s : State) (f : TwinState → TwinState) : (s.setTwin f).spin = s.spin := rfl
@[simp] theorem State.setTwin_trig (s : State) (f : TwinState → TwinState) : (s.setTwin f).trig = s.trig := rfl
@[simp] theorem State.setTwin_twine (s : State) (f : TwinState → TwinState) : (s.setTwin f).twine = s.twine := rfl
@[simp] theorem State.setTwin_twin (s : State) (f : TwinState → TwinState) : (s.setTwin f).twin = f s.twin := rfl
@[simp] theorem State.setTwin_dram (s : State) (f : TwinState → TwinState) : (s.setTwin f).dram = s.dram := rfl
@[simp] theorem State.setTwin_pwr (s : State) (f : TwinState → TwinState) : (s.setTwin f).pwr = s.pwr := rfl
@[simp] theorem State.setTwin_nvm (s : State) (f : TwinState → TwinState) : (s.setTwin f).nvm = s.nvm := rfl
@[simp] theorem State.setTwin_upd (s : State) (f : TwinState → TwinState) : (s.setTwin f).upd = s.upd := rfl
@[simp] theorem State.setTwin_root (s : State) (f : TwinState → TwinState) : (s.setTwin f).root = s.root := rfl
@[simp] theorem State.setTwin_host (s : State) (f : TwinState → TwinState) : (s.setTwin f).host = s.host := rfl

/-! ### `State.setUpd` -/

@[simp] theorem State.setUpd_pending (s : State) (f : UpdState → UpdState) : (s.setUpd f).pending = s.pending := rfl
@[simp] theorem State.setUpd_now (s : State) (f : UpdState → UpdState) : (s.setUpd f).now = s.now := rfl
@[simp] theorem State.setUpd_free (s : State) (f : UpdState → UpdState) : (s.setUpd f).free = s.free := rfl
@[simp] theorem State.setUpd_objs (s : State) (f : UpdState → UpdState) : (s.setUpd f).objs = s.objs := rfl
@[simp] theorem State.setUpd_log (s : State) (f : UpdState → UpdState) : (s.setUpd f).log = s.log := rfl
@[simp] theorem State.setUpd_samp (s : State) (f : UpdState → UpdState) : (s.setUpd f).samp = s.samp := rfl
@[simp] theorem State.setUpd_draft (s : State) (f : UpdState → UpdState) : (s.setUpd f).draft = s.draft := rfl
@[simp] theorem State.setUpd_cal (s : State) (f : UpdState → UpdState) : (s.setUpd f).cal = s.cal := rfl
@[simp] theorem State.setUpd_dict (s : State) (f : UpdState → UpdState) : (s.setUpd f).dict = s.dict := rfl
@[simp] theorem State.setUpd_time (s : State) (f : UpdState → UpdState) : (s.setUpd f).time = s.time := rfl
@[simp] theorem State.setUpd_ptp (s : State) (f : UpdState → UpdState) : (s.setUpd f).ptp = s.ptp := rfl
@[simp] theorem State.setUpd_lanes (s : State) (f : UpdState → UpdState) : (s.setUpd f).lanes = s.lanes := rfl
@[simp] theorem State.setUpd_bob (s : State) (f : UpdState → UpdState) : (s.setUpd f).bob = s.bob := rfl
@[simp] theorem State.setUpd_spin (s : State) (f : UpdState → UpdState) : (s.setUpd f).spin = s.spin := rfl
@[simp] theorem State.setUpd_trig (s : State) (f : UpdState → UpdState) : (s.setUpd f).trig = s.trig := rfl
@[simp] theorem State.setUpd_twine (s : State) (f : UpdState → UpdState) : (s.setUpd f).twine = s.twine := rfl
@[simp] theorem State.setUpd_twin (s : State) (f : UpdState → UpdState) : (s.setUpd f).twin = s.twin := rfl
@[simp] theorem State.setUpd_dram (s : State) (f : UpdState → UpdState) : (s.setUpd f).dram = s.dram := rfl
@[simp] theorem State.setUpd_pwr (s : State) (f : UpdState → UpdState) : (s.setUpd f).pwr = s.pwr := rfl
@[simp] theorem State.setUpd_nvm (s : State) (f : UpdState → UpdState) : (s.setUpd f).nvm = s.nvm := rfl
@[simp] theorem State.setUpd_upd (s : State) (f : UpdState → UpdState) : (s.setUpd f).upd = f s.upd := rfl
@[simp] theorem State.setUpd_root (s : State) (f : UpdState → UpdState) : (s.setUpd f).root = s.root := rfl
@[simp] theorem State.setUpd_host (s : State) (f : UpdState → UpdState) : (s.setUpd f).host = s.host := rfl

/-! ### `State.setNvm` -/

@[simp] theorem State.setNvm_pending (s : State) (f : NvmState → NvmState) : (s.setNvm f).pending = s.pending := rfl
@[simp] theorem State.setNvm_now (s : State) (f : NvmState → NvmState) : (s.setNvm f).now = s.now := rfl
@[simp] theorem State.setNvm_free (s : State) (f : NvmState → NvmState) : (s.setNvm f).free = s.free := rfl
@[simp] theorem State.setNvm_objs (s : State) (f : NvmState → NvmState) : (s.setNvm f).objs = s.objs := rfl
@[simp] theorem State.setNvm_log (s : State) (f : NvmState → NvmState) : (s.setNvm f).log = s.log := rfl
@[simp] theorem State.setNvm_samp (s : State) (f : NvmState → NvmState) : (s.setNvm f).samp = s.samp := rfl
@[simp] theorem State.setNvm_draft (s : State) (f : NvmState → NvmState) : (s.setNvm f).draft = s.draft := rfl
@[simp] theorem State.setNvm_cal (s : State) (f : NvmState → NvmState) : (s.setNvm f).cal = s.cal := rfl
@[simp] theorem State.setNvm_dict (s : State) (f : NvmState → NvmState) : (s.setNvm f).dict = s.dict := rfl
@[simp] theorem State.setNvm_time (s : State) (f : NvmState → NvmState) : (s.setNvm f).time = s.time := rfl
@[simp] theorem State.setNvm_ptp (s : State) (f : NvmState → NvmState) : (s.setNvm f).ptp = s.ptp := rfl
@[simp] theorem State.setNvm_lanes (s : State) (f : NvmState → NvmState) : (s.setNvm f).lanes = s.lanes := rfl
@[simp] theorem State.setNvm_bob (s : State) (f : NvmState → NvmState) : (s.setNvm f).bob = s.bob := rfl
@[simp] theorem State.setNvm_spin (s : State) (f : NvmState → NvmState) : (s.setNvm f).spin = s.spin := rfl
@[simp] theorem State.setNvm_trig (s : State) (f : NvmState → NvmState) : (s.setNvm f).trig = s.trig := rfl
@[simp] theorem State.setNvm_twine (s : State) (f : NvmState → NvmState) : (s.setNvm f).twine = s.twine := rfl
@[simp] theorem State.setNvm_twin (s : State) (f : NvmState → NvmState) : (s.setNvm f).twin = s.twin := rfl
@[simp] theorem State.setNvm_dram (s : State) (f : NvmState → NvmState) : (s.setNvm f).dram = s.dram := rfl
@[simp] theorem State.setNvm_pwr (s : State) (f : NvmState → NvmState) : (s.setNvm f).pwr = s.pwr := rfl
@[simp] theorem State.setNvm_nvm (s : State) (f : NvmState → NvmState) : (s.setNvm f).nvm = f s.nvm := rfl
@[simp] theorem State.setNvm_upd (s : State) (f : NvmState → NvmState) : (s.setNvm f).upd = s.upd := rfl
@[simp] theorem State.setNvm_root (s : State) (f : NvmState → NvmState) : (s.setNvm f).root = s.root := rfl
@[simp] theorem State.setNvm_host (s : State) (f : NvmState → NvmState) : (s.setNvm f).host = s.host := rfl

/-! ### `State.setRoot` -/

@[simp] theorem State.setRoot_pending (s : State) (f : RootState → RootState) : (s.setRoot f).pending = s.pending := rfl
@[simp] theorem State.setRoot_now (s : State) (f : RootState → RootState) : (s.setRoot f).now = s.now := rfl
@[simp] theorem State.setRoot_free (s : State) (f : RootState → RootState) : (s.setRoot f).free = s.free := rfl
@[simp] theorem State.setRoot_objs (s : State) (f : RootState → RootState) : (s.setRoot f).objs = s.objs := rfl
@[simp] theorem State.setRoot_log (s : State) (f : RootState → RootState) : (s.setRoot f).log = s.log := rfl
@[simp] theorem State.setRoot_samp (s : State) (f : RootState → RootState) : (s.setRoot f).samp = s.samp := rfl
@[simp] theorem State.setRoot_draft (s : State) (f : RootState → RootState) : (s.setRoot f).draft = s.draft := rfl
@[simp] theorem State.setRoot_cal (s : State) (f : RootState → RootState) : (s.setRoot f).cal = s.cal := rfl
@[simp] theorem State.setRoot_dict (s : State) (f : RootState → RootState) : (s.setRoot f).dict = s.dict := rfl
@[simp] theorem State.setRoot_time (s : State) (f : RootState → RootState) : (s.setRoot f).time = s.time := rfl
@[simp] theorem State.setRoot_ptp (s : State) (f : RootState → RootState) : (s.setRoot f).ptp = s.ptp := rfl
@[simp] theorem State.setRoot_lanes (s : State) (f : RootState → RootState) : (s.setRoot f).lanes = s.lanes := rfl
@[simp] theorem State.setRoot_bob (s : State) (f : RootState → RootState) : (s.setRoot f).bob = s.bob := rfl
@[simp] theorem State.setRoot_spin (s : State) (f : RootState → RootState) : (s.setRoot f).spin = s.spin := rfl
@[simp] theorem State.setRoot_trig (s : State) (f : RootState → RootState) : (s.setRoot f).trig = s.trig := rfl
@[simp] theorem State.setRoot_twine (s : State) (f : RootState → RootState) : (s.setRoot f).twine = s.twine := rfl
@[simp] theorem State.setRoot_twin (s : State) (f : RootState → RootState) : (s.setRoot f).twin = s.twin := rfl
@[simp] theorem State.setRoot_dram (s : State) (f : RootState → RootState) : (s.setRoot f).dram = s.dram := rfl
@[simp] theorem State.setRoot_pwr (s : State) (f : RootState → RootState) : (s.setRoot f).pwr = s.pwr := rfl
@[simp] theorem State.setRoot_nvm (s : State) (f : RootState → RootState) : (s.setRoot f).nvm = s.nvm := rfl
@[simp] theorem State.setRoot_upd (s : State) (f : RootState → RootState) : (s.setRoot f).upd = s.upd := rfl
@[simp] theorem State.setRoot_root (s : State) (f : RootState → RootState) : (s.setRoot f).root = f s.root := rfl
@[simp] theorem State.setRoot_host (s : State) (f : RootState → RootState) : (s.setRoot f).host = s.host := rfl

/-! ### `State.setCreel` -/

@[simp] theorem State.setCreel_pending (s : State) (k : Nat) (v : Creel) : (s.setCreel k v).pending = s.pending := rfl
@[simp] theorem State.setCreel_now (s : State) (k : Nat) (v : Creel) : (s.setCreel k v).now = s.now := rfl
@[simp] theorem State.setCreel_free (s : State) (k : Nat) (v : Creel) : (s.setCreel k v).free = s.free := rfl
@[simp] theorem State.setCreel_objs (s : State) (k : Nat) (v : Creel) : (s.setCreel k v).objs = s.objs := rfl
@[simp] theorem State.setCreel_log (s : State) (k : Nat) (v : Creel) : (s.setCreel k v).log = s.log := rfl
@[simp] theorem State.setCreel_samp (s : State) (k : Nat) (v : Creel) : (s.setCreel k v).samp = { s.samp with creels := Map.set s.samp.creels k v } := rfl
@[simp] theorem State.setCreel_draft (s : State) (k : Nat) (v : Creel) : (s.setCreel k v).draft = s.draft := rfl
@[simp] theorem State.setCreel_cal (s : State) (k : Nat) (v : Creel) : (s.setCreel k v).cal = s.cal := rfl
@[simp] theorem State.setCreel_dict (s : State) (k : Nat) (v : Creel) : (s.setCreel k v).dict = s.dict := rfl
@[simp] theorem State.setCreel_time (s : State) (k : Nat) (v : Creel) : (s.setCreel k v).time = s.time := rfl
@[simp] theorem State.setCreel_ptp (s : State) (k : Nat) (v : Creel) : (s.setCreel k v).ptp = s.ptp := rfl
@[simp] theorem State.setCreel_lanes (s : State) (k : Nat) (v : Creel) : (s.setCreel k v).lanes = s.lanes := rfl
@[simp] theorem State.setCreel_bob (s : State) (k : Nat) (v : Creel) : (s.setCreel k v).bob = s.bob := rfl
@[simp] theorem State.setCreel_spin (s : State) (k : Nat) (v : Creel) : (s.setCreel k v).spin = s.spin := rfl
@[simp] theorem State.setCreel_trig (s : State) (k : Nat) (v : Creel) : (s.setCreel k v).trig = s.trig := rfl
@[simp] theorem State.setCreel_twine (s : State) (k : Nat) (v : Creel) : (s.setCreel k v).twine = s.twine := rfl
@[simp] theorem State.setCreel_twin (s : State) (k : Nat) (v : Creel) : (s.setCreel k v).twin = s.twin := rfl
@[simp] theorem State.setCreel_dram (s : State) (k : Nat) (v : Creel) : (s.setCreel k v).dram = s.dram := rfl
@[simp] theorem State.setCreel_pwr (s : State) (k : Nat) (v : Creel) : (s.setCreel k v).pwr = s.pwr := rfl
@[simp] theorem State.setCreel_nvm (s : State) (k : Nat) (v : Creel) : (s.setCreel k v).nvm = s.nvm := rfl
@[simp] theorem State.setCreel_upd (s : State) (k : Nat) (v : Creel) : (s.setCreel k v).upd = s.upd := rfl
@[simp] theorem State.setCreel_root (s : State) (k : Nat) (v : Creel) : (s.setCreel k v).root = s.root := rfl
@[simp] theorem State.setCreel_host (s : State) (k : Nat) (v : Creel) : (s.setCreel k v).host = s.host := rfl

/-! ### `State.setDriver` -/

@[simp] theorem State.setDriver_pending (s : State) (k : Nat) (v : Driver) : (s.setDriver k v).pending = s.pending := rfl
@[simp] theorem State.setDriver_now (s : State) (k : Nat) (v : Driver) : (s.setDriver k v).now = s.now := rfl
@[simp] theorem State.setDriver_free (s : State) (k : Nat) (v : Driver) : (s.setDriver k v).free = s.free := rfl
@[simp] theorem State.setDriver_objs (s : State) (k : Nat) (v : Driver) : (s.setDriver k v).objs = s.objs := rfl
@[simp] theorem State.setDriver_log (s : State) (k : Nat) (v : Driver) : (s.setDriver k v).log = s.log := rfl
@[simp] theorem State.setDriver_samp (s : State) (k : Nat) (v : Driver) : (s.setDriver k v).samp = { s.samp with drivers := Map.set s.samp.drivers k v } := rfl
@[simp] theorem State.setDriver_draft (s : State) (k : Nat) (v : Driver) : (s.setDriver k v).draft = s.draft := rfl
@[simp] theorem State.setDriver_cal (s : State) (k : Nat) (v : Driver) : (s.setDriver k v).cal = s.cal := rfl
@[simp] theorem State.setDriver_dict (s : State) (k : Nat) (v : Driver) : (s.setDriver k v).dict = s.dict := rfl
@[simp] theorem State.setDriver_time (s : State) (k : Nat) (v : Driver) : (s.setDriver k v).time = s.time := rfl
@[simp] theorem State.setDriver_ptp (s : State) (k : Nat) (v : Driver) : (s.setDriver k v).ptp = s.ptp := rfl
@[simp] theorem State.setDriver_lanes (s : State) (k : Nat) (v : Driver) : (s.setDriver k v).lanes = s.lanes := rfl
@[simp] theorem State.setDriver_bob (s : State) (k : Nat) (v : Driver) : (s.setDriver k v).bob = s.bob := rfl
@[simp] theorem State.setDriver_spin (s : State) (k : Nat) (v : Driver) : (s.setDriver k v).spin = s.spin := rfl
@[simp] theorem State.setDriver_trig (s : State) (k : Nat) (v : Driver) : (s.setDriver k v).trig = s.trig := rfl
@[simp] theorem State.setDriver_twine (s : State) (k : Nat) (v : Driver) : (s.setDriver k v).twine = s.twine := rfl
@[simp] theorem State.setDriver_twin (s : State) (k : Nat) (v : Driver) : (s.setDriver k v).twin = s.twin := rfl
@[simp] theorem State.setDriver_dram (s : State) (k : Nat) (v : Driver) : (s.setDriver k v).dram = s.dram := rfl
@[simp] theorem State.setDriver_pwr (s : State) (k : Nat) (v : Driver) : (s.setDriver k v).pwr = s.pwr := rfl
@[simp] theorem State.setDriver_nvm (s : State) (k : Nat) (v : Driver) : (s.setDriver k v).nvm = s.nvm := rfl
@[simp] theorem State.setDriver_upd (s : State) (k : Nat) (v : Driver) : (s.setDriver k v).upd = s.upd := rfl
@[simp] theorem State.setDriver_root (s : State) (k : Nat) (v : Driver) : (s.setDriver k v).root = s.root := rfl
@[simp] theorem State.setDriver_host (s : State) (k : Nat) (v : Driver) : (s.setDriver k v).host = s.host := rfl

/-! ### `State.setConv` -/

@[simp] theorem State.setConv_pending (s : State) (k : Nat) (v : Converter) : (s.setConv k v).pending = s.pending := rfl
@[simp] theorem State.setConv_now (s : State) (k : Nat) (v : Converter) : (s.setConv k v).now = s.now := rfl
@[simp] theorem State.setConv_free (s : State) (k : Nat) (v : Converter) : (s.setConv k v).free = s.free := rfl
@[simp] theorem State.setConv_objs (s : State) (k : Nat) (v : Converter) : (s.setConv k v).objs = s.objs := rfl
@[simp] theorem State.setConv_log (s : State) (k : Nat) (v : Converter) : (s.setConv k v).log = s.log := rfl
@[simp] theorem State.setConv_samp (s : State) (k : Nat) (v : Converter) : (s.setConv k v).samp = { s.samp with convs := Map.set s.samp.convs k v } := rfl
@[simp] theorem State.setConv_draft (s : State) (k : Nat) (v : Converter) : (s.setConv k v).draft = s.draft := rfl
@[simp] theorem State.setConv_cal (s : State) (k : Nat) (v : Converter) : (s.setConv k v).cal = s.cal := rfl
@[simp] theorem State.setConv_dict (s : State) (k : Nat) (v : Converter) : (s.setConv k v).dict = s.dict := rfl
@[simp] theorem State.setConv_time (s : State) (k : Nat) (v : Converter) : (s.setConv k v).time = s.time := rfl
@[simp] theorem State.setConv_ptp (s : State) (k : Nat) (v : Converter) : (s.setConv k v).ptp = s.ptp := rfl
@[simp] theorem State.setConv_lanes (s : State) (k : Nat) (v : Converter) : (s.setConv k v).lanes = s.lanes := rfl
@[simp] theorem State.setConv_bob (s : State) (k : Nat) (v : Converter) : (s.setConv k v).bob = s.bob := rfl
@[simp] theorem State.setConv_spin (s : State) (k : Nat) (v : Converter) : (s.setConv k v).spin = s.spin := rfl
@[simp] theorem State.setConv_trig (s : State) (k : Nat) (v : Converter) : (s.setConv k v).trig = s.trig := rfl
@[simp] theorem State.setConv_twine (s : State) (k : Nat) (v : Converter) : (s.setConv k v).twine = s.twine := rfl
@[simp] theorem State.setConv_twin (s : State) (k : Nat) (v : Converter) : (s.setConv k v).twin = s.twin := rfl
@[simp] theorem State.setConv_dram (s : State) (k : Nat) (v : Converter) : (s.setConv k v).dram = s.dram := rfl
@[simp] theorem State.setConv_pwr (s : State) (k : Nat) (v : Converter) : (s.setConv k v).pwr = s.pwr := rfl
@[simp] theorem State.setConv_nvm (s : State) (k : Nat) (v : Converter) : (s.setConv k v).nvm = s.nvm := rfl
@[simp] theorem State.setConv_upd (s : State) (k : Nat) (v : Converter) : (s.setConv k v).upd = s.upd := rfl
@[simp] theorem State.setConv_root (s : State) (k : Nat) (v : Converter) : (s.setConv k v).root = s.root := rfl
@[simp] theorem State.setConv_host (s : State) (k : Nat) (v : Converter) : (s.setConv k v).host = s.host := rfl

/-! ### `State.setInjector` -/

@[simp] theorem State.setInjector_pending (s : State) (k : Nat) (v : Injector) : (s.setInjector k v).pending = s.pending := rfl
@[simp] theorem State.setInjector_now (s : State) (k : Nat) (v : Injector) : (s.setInjector k v).now = s.now := rfl
@[simp] theorem State.setInjector_free (s : State) (k : Nat) (v : Injector) : (s.setInjector k v).free = s.free := rfl
@[simp] theorem State.setInjector_objs (s : State) (k : Nat) (v : Injector) : (s.setInjector k v).objs = s.objs := rfl
@[simp] theorem State.setInjector_log (s : State) (k : Nat) (v : Injector) : (s.setInjector k v).log = s.log := rfl
@[simp] theorem State.setInjector_samp (s : State) (k : Nat) (v : Injector) : (s.setInjector k v).samp = { s.samp with injectors := Map.set s.samp.injectors k v } := rfl
@[simp] theorem State.setInjector_draft (s : State) (k : Nat) (v : Injector) : (s.setInjector k v).draft = s.draft := rfl
@[simp] theorem State.setInjector_cal (s : State) (k : Nat) (v : Injector) : (s.setInjector k v).cal = s.cal := rfl
@[simp] theorem State.setInjector_dict (s : State) (k : Nat) (v : Injector) : (s.setInjector k v).dict = s.dict := rfl
@[simp] theorem State.setInjector_time (s : State) (k : Nat) (v : Injector) : (s.setInjector k v).time = s.time := rfl
@[simp] theorem State.setInjector_ptp (s : State) (k : Nat) (v : Injector) : (s.setInjector k v).ptp = s.ptp := rfl
@[simp] theorem State.setInjector_lanes (s : State) (k : Nat) (v : Injector) : (s.setInjector k v).lanes = s.lanes := rfl
@[simp] theorem State.setInjector_bob (s : State) (k : Nat) (v : Injector) : (s.setInjector k v).bob = s.bob := rfl
@[simp] theorem State.setInjector_spin (s : State) (k : Nat) (v : Injector) : (s.setInjector k v).spin = s.spin := rfl
@[simp] theorem State.setInjector_trig (s : State) (k : Nat) (v : Injector) : (s.setInjector k v).trig = s.trig := rfl
@[simp] theorem State.setInjector_twine (s : State) (k : Nat) (v : Injector) : (s.setInjector k v).twine = s.twine := rfl
@[simp] theorem State.setInjector_twin (s : State) (k : Nat) (v : Injector) : (s.setInjector k v).twin = s.twin := rfl
@[simp] theorem State.setInjector_dram (s : State) (k : Nat) (v : Injector) : (s.setInjector k v).dram = s.dram := rfl
@[simp] theorem State.setInjector_pwr (s : State) (k : Nat) (v : Injector) : (s.setInjector k v).pwr = s.pwr := rfl
@[simp] theorem State.setInjector_nvm (s : State) (k : Nat) (v : Injector) : (s.setInjector k v).nvm = s.nvm := rfl
@[simp] theorem State.setInjector_upd (s : State) (k : Nat) (v : Injector) : (s.setInjector k v).upd = s.upd := rfl
@[simp] theorem State.setInjector_root (s : State) (k : Nat) (v : Injector) : (s.setInjector k v).root = s.root := rfl
@[simp] theorem State.setInjector_host (s : State) (k : Nat) (v : Injector) : (s.setInjector k v).host = s.host := rfl

/-! ### `State.setStrand` -/

@[simp] theorem State.setStrand_pending (s : State) (x : Nat) (v : Strand) : (s.setStrand x v).pending = s.pending := rfl
@[simp] theorem State.setStrand_now (s : State) (x : Nat) (v : Strand) : (s.setStrand x v).now = s.now := rfl
@[simp] theorem State.setStrand_free (s : State) (x : Nat) (v : Strand) : (s.setStrand x v).free = s.free := rfl
@[simp] theorem State.setStrand_objs (s : State) (x : Nat) (v : Strand) : (s.setStrand x v).objs = s.objs := rfl
@[simp] theorem State.setStrand_log (s : State) (x : Nat) (v : Strand) : (s.setStrand x v).log = s.log := rfl
@[simp] theorem State.setStrand_samp (s : State) (x : Nat) (v : Strand) : (s.setStrand x v).samp = s.samp := rfl
@[simp] theorem State.setStrand_draft (s : State) (x : Nat) (v : Strand) : (s.setStrand x v).draft = s.draft := rfl
@[simp] theorem State.setStrand_cal (s : State) (x : Nat) (v : Strand) : (s.setStrand x v).cal = s.cal := rfl
@[simp] theorem State.setStrand_dict (s : State) (x : Nat) (v : Strand) : (s.setStrand x v).dict = s.dict := rfl
@[simp] theorem State.setStrand_time (s : State) (x : Nat) (v : Strand) : (s.setStrand x v).time = { s.time with strands := Map.set s.time.strands x v } := rfl
@[simp] theorem State.setStrand_ptp (s : State) (x : Nat) (v : Strand) : (s.setStrand x v).ptp = s.ptp := rfl
@[simp] theorem State.setStrand_lanes (s : State) (x : Nat) (v : Strand) : (s.setStrand x v).lanes = s.lanes := rfl
@[simp] theorem State.setStrand_bob (s : State) (x : Nat) (v : Strand) : (s.setStrand x v).bob = s.bob := rfl
@[simp] theorem State.setStrand_spin (s : State) (x : Nat) (v : Strand) : (s.setStrand x v).spin = s.spin := rfl
@[simp] theorem State.setStrand_trig (s : State) (x : Nat) (v : Strand) : (s.setStrand x v).trig = s.trig := rfl
@[simp] theorem State.setStrand_twine (s : State) (x : Nat) (v : Strand) : (s.setStrand x v).twine = s.twine := rfl
@[simp] theorem State.setStrand_twin (s : State) (x : Nat) (v : Strand) : (s.setStrand x v).twin = s.twin := rfl
@[simp] theorem State.setStrand_dram (s : State) (x : Nat) (v : Strand) : (s.setStrand x v).dram = s.dram := rfl
@[simp] theorem State.setStrand_pwr (s : State) (x : Nat) (v : Strand) : (s.setStrand x v).pwr = s.pwr := rfl
@[simp] theorem State.setStrand_nvm (s : State) (x : Nat) (v : Strand) : (s.setStrand x v).nvm = s.nvm := rfl
@[simp] theorem State.setStrand_upd (s : State) (x : Nat) (v : Strand) : (s.setStrand x v).upd = s.upd := rfl
@[simp] theorem State.setStrand_root (s : State) (x : Nat) (v : Strand) : (s.setStrand x v).root = s.root := rfl
@[simp] theorem State.setStrand_host (s : State) (x : Nat) (v : Strand) : (s.setStrand x v).host = s.host := rfl

/-! ### `State.setPdelay` -/

@[simp] theorem State.setPdelay_pending (s : State) (l : Nat) (v : PeerDelay) : (s.setPdelay l v).pending = s.pending := rfl
@[simp] theorem State.setPdelay_now (s : State) (l : Nat) (v : PeerDelay) : (s.setPdelay l v).now = s.now := rfl
@[simp] theorem State.setPdelay_free (s : State) (l : Nat) (v : PeerDelay) : (s.setPdelay l v).free = s.free := rfl
@[simp] theorem State.setPdelay_objs (s : State) (l : Nat) (v : PeerDelay) : (s.setPdelay l v).objs = s.objs := rfl
@[simp] theorem State.setPdelay_log (s : State) (l : Nat) (v : PeerDelay) : (s.setPdelay l v).log = s.log := rfl
@[simp] theorem State.setPdelay_samp (s : State) (l : Nat) (v : PeerDelay) : (s.setPdelay l v).samp = s.samp := rfl
@[simp] theorem State.setPdelay_draft (s : State) (l : Nat) (v : PeerDelay) : (s.setPdelay l v).draft = s.draft := rfl
@[simp] theorem State.setPdelay_cal (s : State) (l : Nat) (v : PeerDelay) : (s.setPdelay l v).cal = s.cal := rfl
@[simp] theorem State.setPdelay_dict (s : State) (l : Nat) (v : PeerDelay) : (s.setPdelay l v).dict = s.dict := rfl
@[simp] theorem State.setPdelay_time (s : State) (l : Nat) (v : PeerDelay) : (s.setPdelay l v).time = s.time := rfl
@[simp] theorem State.setPdelay_ptp (s : State) (l : Nat) (v : PeerDelay) : (s.setPdelay l v).ptp = { s.ptp with lanes := Map.set s.ptp.lanes l v } := rfl
@[simp] theorem State.setPdelay_lanes (s : State) (l : Nat) (v : PeerDelay) : (s.setPdelay l v).lanes = s.lanes := rfl
@[simp] theorem State.setPdelay_bob (s : State) (l : Nat) (v : PeerDelay) : (s.setPdelay l v).bob = s.bob := rfl
@[simp] theorem State.setPdelay_spin (s : State) (l : Nat) (v : PeerDelay) : (s.setPdelay l v).spin = s.spin := rfl
@[simp] theorem State.setPdelay_trig (s : State) (l : Nat) (v : PeerDelay) : (s.setPdelay l v).trig = s.trig := rfl
@[simp] theorem State.setPdelay_twine (s : State) (l : Nat) (v : PeerDelay) : (s.setPdelay l v).twine = s.twine := rfl
@[simp] theorem State.setPdelay_twin (s : State) (l : Nat) (v : PeerDelay) : (s.setPdelay l v).twin = s.twin := rfl
@[simp] theorem State.setPdelay_dram (s : State) (l : Nat) (v : PeerDelay) : (s.setPdelay l v).dram = s.dram := rfl
@[simp] theorem State.setPdelay_pwr (s : State) (l : Nat) (v : PeerDelay) : (s.setPdelay l v).pwr = s.pwr := rfl
@[simp] theorem State.setPdelay_nvm (s : State) (l : Nat) (v : PeerDelay) : (s.setPdelay l v).nvm = s.nvm := rfl
@[simp] theorem State.setPdelay_upd (s : State) (l : Nat) (v : PeerDelay) : (s.setPdelay l v).upd = s.upd := rfl
@[simp] theorem State.setPdelay_root (s : State) (l : Nat) (v : PeerDelay) : (s.setPdelay l v).root = s.root := rfl
@[simp] theorem State.setPdelay_host (s : State) (l : Nat) (v : PeerDelay) : (s.setPdelay l v).host = s.host := rfl

/-! ### `State.setEgress` -/

@[simp] theorem State.setEgress_pending (s : State) (p : Nat) (v : Egress) : (s.setEgress p v).pending = s.pending := rfl
@[simp] theorem State.setEgress_now (s : State) (p : Nat) (v : Egress) : (s.setEgress p v).now = s.now := rfl
@[simp] theorem State.setEgress_free (s : State) (p : Nat) (v : Egress) : (s.setEgress p v).free = s.free := rfl
@[simp] theorem State.setEgress_objs (s : State) (p : Nat) (v : Egress) : (s.setEgress p v).objs = s.objs := rfl
@[simp] theorem State.setEgress_log (s : State) (p : Nat) (v : Egress) : (s.setEgress p v).log = s.log := rfl
@[simp] theorem State.setEgress_samp (s : State) (p : Nat) (v : Egress) : (s.setEgress p v).samp = s.samp := rfl
@[simp] theorem State.setEgress_draft (s : State) (p : Nat) (v : Egress) : (s.setEgress p v).draft = s.draft := rfl
@[simp] theorem State.setEgress_cal (s : State) (p : Nat) (v : Egress) : (s.setEgress p v).cal = s.cal := rfl
@[simp] theorem State.setEgress_dict (s : State) (p : Nat) (v : Egress) : (s.setEgress p v).dict = s.dict := rfl
@[simp] theorem State.setEgress_time (s : State) (p : Nat) (v : Egress) : (s.setEgress p v).time = s.time := rfl
@[simp] theorem State.setEgress_ptp (s : State) (p : Nat) (v : Egress) : (s.setEgress p v).ptp = { s.ptp with egress := Map.set s.ptp.egress p v } := rfl
@[simp] theorem State.setEgress_lanes (s : State) (p : Nat) (v : Egress) : (s.setEgress p v).lanes = s.lanes := rfl
@[simp] theorem State.setEgress_bob (s : State) (p : Nat) (v : Egress) : (s.setEgress p v).bob = s.bob := rfl
@[simp] theorem State.setEgress_spin (s : State) (p : Nat) (v : Egress) : (s.setEgress p v).spin = s.spin := rfl
@[simp] theorem State.setEgress_trig (s : State) (p : Nat) (v : Egress) : (s.setEgress p v).trig = s.trig := rfl
@[simp] theorem State.setEgress_twine (s : State) (p : Nat) (v : Egress) : (s.setEgress p v).twine = s.twine := rfl
@[simp] theorem State.setEgress_twin (s : State) (p : Nat) (v : Egress) : (s.setEgress p v).twin = s.twin := rfl
@[simp] theorem State.setEgress_dram (s : State) (p : Nat) (v : Egress) : (s.setEgress p v).dram = s.dram := rfl
@[simp] theorem State.setEgress_pwr (s : State) (p : Nat) (v : Egress) : (s.setEgress p v).pwr = s.pwr := rfl
@[simp] theorem State.setEgress_nvm (s : State) (p : Nat) (v : Egress) : (s.setEgress p v).nvm = s.nvm := rfl
@[simp] theorem State.setEgress_upd (s : State) (p : Nat) (v : Egress) : (s.setEgress p v).upd = s.upd := rfl
@[simp] theorem State.setEgress_root (s : State) (p : Nat) (v : Egress) : (s.setEgress p v).root = s.root := rfl
@[simp] theorem State.setEgress_host (s : State) (p : Nat) (v : Egress) : (s.setEgress p v).host = s.host := rfl

/-! ### `State.setLane` -/

@[simp] theorem State.setLane_pending (s : State) (l : Nat) (v : Lane) : (s.setLane l v).pending = s.pending := rfl
@[simp] theorem State.setLane_now (s : State) (l : Nat) (v : Lane) : (s.setLane l v).now = s.now := rfl
@[simp] theorem State.setLane_free (s : State) (l : Nat) (v : Lane) : (s.setLane l v).free = s.free := rfl
@[simp] theorem State.setLane_objs (s : State) (l : Nat) (v : Lane) : (s.setLane l v).objs = s.objs := rfl
@[simp] theorem State.setLane_log (s : State) (l : Nat) (v : Lane) : (s.setLane l v).log = s.log := rfl
@[simp] theorem State.setLane_samp (s : State) (l : Nat) (v : Lane) : (s.setLane l v).samp = s.samp := rfl
@[simp] theorem State.setLane_draft (s : State) (l : Nat) (v : Lane) : (s.setLane l v).draft = s.draft := rfl
@[simp] theorem State.setLane_cal (s : State) (l : Nat) (v : Lane) : (s.setLane l v).cal = s.cal := rfl
@[simp] theorem State.setLane_dict (s : State) (l : Nat) (v : Lane) : (s.setLane l v).dict = s.dict := rfl
@[simp] theorem State.setLane_time (s : State) (l : Nat) (v : Lane) : (s.setLane l v).time = s.time := rfl
@[simp] theorem State.setLane_ptp (s : State) (l : Nat) (v : Lane) : (s.setLane l v).ptp = s.ptp := rfl
@[simp] theorem State.setLane_lanes (s : State) (l : Nat) (v : Lane) : (s.setLane l v).lanes = { s.lanes with lanes := Map.set s.lanes.lanes l v } := rfl
@[simp] theorem State.setLane_bob (s : State) (l : Nat) (v : Lane) : (s.setLane l v).bob = s.bob := rfl
@[simp] theorem State.setLane_spin (s : State) (l : Nat) (v : Lane) : (s.setLane l v).spin = s.spin := rfl
@[simp] theorem State.setLane_trig (s : State) (l : Nat) (v : Lane) : (s.setLane l v).trig = s.trig := rfl
@[simp] theorem State.setLane_twine (s : State) (l : Nat) (v : Lane) : (s.setLane l v).twine = s.twine := rfl
@[simp] theorem State.setLane_twin (s : State) (l : Nat) (v : Lane) : (s.setLane l v).twin = s.twin := rfl
@[simp] theorem State.setLane_dram (s : State) (l : Nat) (v : Lane) : (s.setLane l v).dram = s.dram := rfl
@[simp] theorem State.setLane_pwr (s : State) (l : Nat) (v : Lane) : (s.setLane l v).pwr = s.pwr := rfl
@[simp] theorem State.setLane_nvm (s : State) (l : Nat) (v : Lane) : (s.setLane l v).nvm = s.nvm := rfl
@[simp] theorem State.setLane_upd (s : State) (l : Nat) (v : Lane) : (s.setLane l v).upd = s.upd := rfl
@[simp] theorem State.setLane_root (s : State) (l : Nat) (v : Lane) : (s.setLane l v).root = s.root := rfl
@[simp] theorem State.setLane_host (s : State) (l : Nat) (v : Lane) : (s.setLane l v).host = s.host := rfl

/-! ### `State.setBobbin` -/

@[simp] theorem State.setBobbin_pending (s : State) (c : Nat) (v : Bobbin) : (s.setBobbin c v).pending = s.pending := rfl
@[simp] theorem State.setBobbin_now (s : State) (c : Nat) (v : Bobbin) : (s.setBobbin c v).now = s.now := rfl
@[simp] theorem State.setBobbin_free (s : State) (c : Nat) (v : Bobbin) : (s.setBobbin c v).free = s.free := rfl
@[simp] theorem State.setBobbin_objs (s : State) (c : Nat) (v : Bobbin) : (s.setBobbin c v).objs = s.objs := rfl
@[simp] theorem State.setBobbin_log (s : State) (c : Nat) (v : Bobbin) : (s.setBobbin c v).log = s.log := rfl
@[simp] theorem State.setBobbin_samp (s : State) (c : Nat) (v : Bobbin) : (s.setBobbin c v).samp = s.samp := rfl
@[simp] theorem State.setBobbin_draft (s : State) (c : Nat) (v : Bobbin) : (s.setBobbin c v).draft = s.draft := rfl
@[simp] theorem State.setBobbin_cal (s : State) (c : Nat) (v : Bobbin) : (s.setBobbin c v).cal = s.cal := rfl
@[simp] theorem State.setBobbin_dict (s : State) (c : Nat) (v : Bobbin) : (s.setBobbin c v).dict = s.dict := rfl
@[simp] theorem State.setBobbin_time (s : State) (c : Nat) (v : Bobbin) : (s.setBobbin c v).time = s.time := rfl
@[simp] theorem State.setBobbin_ptp (s : State) (c : Nat) (v : Bobbin) : (s.setBobbin c v).ptp = s.ptp := rfl
@[simp] theorem State.setBobbin_lanes (s : State) (c : Nat) (v : Bobbin) : (s.setBobbin c v).lanes = s.lanes := rfl
@[simp] theorem State.setBobbin_bob (s : State) (c : Nat) (v : Bobbin) : (s.setBobbin c v).bob = { s.bob with bobbins := Map.set s.bob.bobbins c v } := rfl
@[simp] theorem State.setBobbin_spin (s : State) (c : Nat) (v : Bobbin) : (s.setBobbin c v).spin = s.spin := rfl
@[simp] theorem State.setBobbin_trig (s : State) (c : Nat) (v : Bobbin) : (s.setBobbin c v).trig = s.trig := rfl
@[simp] theorem State.setBobbin_twine (s : State) (c : Nat) (v : Bobbin) : (s.setBobbin c v).twine = s.twine := rfl
@[simp] theorem State.setBobbin_twin (s : State) (c : Nat) (v : Bobbin) : (s.setBobbin c v).twin = s.twin := rfl
@[simp] theorem State.setBobbin_dram (s : State) (c : Nat) (v : Bobbin) : (s.setBobbin c v).dram = s.dram := rfl
@[simp] theorem State.setBobbin_pwr (s : State) (c : Nat) (v : Bobbin) : (s.setBobbin c v).pwr = s.pwr := rfl
@[simp] theorem State.setBobbin_nvm (s : State) (c : Nat) (v : Bobbin) : (s.setBobbin c v).nvm = s.nvm := rfl
@[simp] theorem State.setBobbin_upd (s : State) (c : Nat) (v : Bobbin) : (s.setBobbin c v).upd = s.upd := rfl
@[simp] theorem State.setBobbin_root (s : State) (c : Nat) (v : Bobbin) : (s.setBobbin c v).root = s.root := rfl
@[simp] theorem State.setBobbin_host (s : State) (c : Nat) (v : Bobbin) : (s.setBobbin c v).host = s.host := rfl

/-! ### `State.setRed` -/

@[simp] theorem State.setRed_pending (s : State) (c : Nat) (v : RedChan) : (s.setRed c v).pending = s.pending := rfl
@[simp] theorem State.setRed_now (s : State) (c : Nat) (v : RedChan) : (s.setRed c v).now = s.now := rfl
@[simp] theorem State.setRed_free (s : State) (c : Nat) (v : RedChan) : (s.setRed c v).free = s.free := rfl
@[simp] theorem State.setRed_objs (s : State) (c : Nat) (v : RedChan) : (s.setRed c v).objs = s.objs := rfl
@[simp] theorem State.setRed_log (s : State) (c : Nat) (v : RedChan) : (s.setRed c v).log = s.log := rfl
@[simp] theorem State.setRed_samp (s : State) (c : Nat) (v : RedChan) : (s.setRed c v).samp = s.samp := rfl
@[simp] theorem State.setRed_draft (s : State) (c : Nat) (v : RedChan) : (s.setRed c v).draft = s.draft := rfl
@[simp] theorem State.setRed_cal (s : State) (c : Nat) (v : RedChan) : (s.setRed c v).cal = s.cal := rfl
@[simp] theorem State.setRed_dict (s : State) (c : Nat) (v : RedChan) : (s.setRed c v).dict = s.dict := rfl
@[simp] theorem State.setRed_time (s : State) (c : Nat) (v : RedChan) : (s.setRed c v).time = s.time := rfl
@[simp] theorem State.setRed_ptp (s : State) (c : Nat) (v : RedChan) : (s.setRed c v).ptp = s.ptp := rfl
@[simp] theorem State.setRed_lanes (s : State) (c : Nat) (v : RedChan) : (s.setRed c v).lanes = s.lanes := rfl
@[simp] theorem State.setRed_bob (s : State) (c : Nat) (v : RedChan) : (s.setRed c v).bob = s.bob := rfl
@[simp] theorem State.setRed_spin (s : State) (c : Nat) (v : RedChan) : (s.setRed c v).spin = { s.spin with red := Map.set s.spin.red c v } := rfl
@[simp] theorem State.setRed_trig (s : State) (c : Nat) (v : RedChan) : (s.setRed c v).trig = s.trig := rfl
@[simp] theorem State.setRed_twine (s : State) (c : Nat) (v : RedChan) : (s.setRed c v).twine = s.twine := rfl
@[simp] theorem State.setRed_twin (s : State) (c : Nat) (v : RedChan) : (s.setRed c v).twin = s.twin := rfl
@[simp] theorem State.setRed_dram (s : State) (c : Nat) (v : RedChan) : (s.setRed c v).dram = s.dram := rfl
@[simp] theorem State.setRed_pwr (s : State) (c : Nat) (v : RedChan) : (s.setRed c v).pwr = s.pwr := rfl
@[simp] theorem State.setRed_nvm (s : State) (c : Nat) (v : RedChan) : (s.setRed c v).nvm = s.nvm := rfl
@[simp] theorem State.setRed_upd (s : State) (c : Nat) (v : RedChan) : (s.setRed c v).upd = s.upd := rfl
@[simp] theorem State.setRed_root (s : State) (c : Nat) (v : RedChan) : (s.setRed c v).root = s.root := rfl
@[simp] theorem State.setRed_host (s : State) (c : Nat) (v : RedChan) : (s.setRed c v).host = s.host := rfl

/-! ### `State.setFeed` -/

@[simp] theorem State.setFeed_pending (s : State) (q : Nat) (v : Feed) : (s.setFeed q v).pending = s.pending := rfl
@[simp] theorem State.setFeed_now (s : State) (q : Nat) (v : Feed) : (s.setFeed q v).now = s.now := rfl
@[simp] theorem State.setFeed_free (s : State) (q : Nat) (v : Feed) : (s.setFeed q v).free = s.free := rfl
@[simp] theorem State.setFeed_objs (s : State) (q : Nat) (v : Feed) : (s.setFeed q v).objs = s.objs := rfl
@[simp] theorem State.setFeed_log (s : State) (q : Nat) (v : Feed) : (s.setFeed q v).log = s.log := rfl
@[simp] theorem State.setFeed_samp (s : State) (q : Nat) (v : Feed) : (s.setFeed q v).samp = s.samp := rfl
@[simp] theorem State.setFeed_draft (s : State) (q : Nat) (v : Feed) : (s.setFeed q v).draft = s.draft := rfl
@[simp] theorem State.setFeed_cal (s : State) (q : Nat) (v : Feed) : (s.setFeed q v).cal = s.cal := rfl
@[simp] theorem State.setFeed_dict (s : State) (q : Nat) (v : Feed) : (s.setFeed q v).dict = s.dict := rfl
@[simp] theorem State.setFeed_time (s : State) (q : Nat) (v : Feed) : (s.setFeed q v).time = s.time := rfl
@[simp] theorem State.setFeed_ptp (s : State) (q : Nat) (v : Feed) : (s.setFeed q v).ptp = s.ptp := rfl
@[simp] theorem State.setFeed_lanes (s : State) (q : Nat) (v : Feed) : (s.setFeed q v).lanes = s.lanes := rfl
@[simp] theorem State.setFeed_bob (s : State) (q : Nat) (v : Feed) : (s.setFeed q v).bob = s.bob := rfl
@[simp] theorem State.setFeed_spin (s : State) (q : Nat) (v : Feed) : (s.setFeed q v).spin = { s.spin with feeds := Map.set s.spin.feeds q v } := rfl
@[simp] theorem State.setFeed_trig (s : State) (q : Nat) (v : Feed) : (s.setFeed q v).trig = s.trig := rfl
@[simp] theorem State.setFeed_twine (s : State) (q : Nat) (v : Feed) : (s.setFeed q v).twine = s.twine := rfl
@[simp] theorem State.setFeed_twin (s : State) (q : Nat) (v : Feed) : (s.setFeed q v).twin = s.twin := rfl
@[simp] theorem State.setFeed_dram (s : State) (q : Nat) (v : Feed) : (s.setFeed q v).dram = s.dram := rfl
@[simp] theorem State.setFeed_pwr (s : State) (q : Nat) (v : Feed) : (s.setFeed q v).pwr = s.pwr := rfl
@[simp] theorem State.setFeed_nvm (s : State) (q : Nat) (v : Feed) : (s.setFeed q v).nvm = s.nvm := rfl
@[simp] theorem State.setFeed_upd (s : State) (q : Nat) (v : Feed) : (s.setFeed q v).upd = s.upd := rfl
@[simp] theorem State.setFeed_root (s : State) (q : Nat) (v : Feed) : (s.setFeed q v).root = s.root := rfl
@[simp] theorem State.setFeed_host (s : State) (q : Nat) (v : Feed) : (s.setFeed q v).host = s.host := rfl

/-! ### `State.setUnit` -/

@[simp] theorem State.setUnit_pending (s : State) (u : Nat) (v : TrigUnit) : (s.setUnit u v).pending = s.pending := rfl
@[simp] theorem State.setUnit_now (s : State) (u : Nat) (v : TrigUnit) : (s.setUnit u v).now = s.now := rfl
@[simp] theorem State.setUnit_free (s : State) (u : Nat) (v : TrigUnit) : (s.setUnit u v).free = s.free := rfl
@[simp] theorem State.setUnit_objs (s : State) (u : Nat) (v : TrigUnit) : (s.setUnit u v).objs = s.objs := rfl
@[simp] theorem State.setUnit_log (s : State) (u : Nat) (v : TrigUnit) : (s.setUnit u v).log = s.log := rfl
@[simp] theorem State.setUnit_samp (s : State) (u : Nat) (v : TrigUnit) : (s.setUnit u v).samp = s.samp := rfl
@[simp] theorem State.setUnit_draft (s : State) (u : Nat) (v : TrigUnit) : (s.setUnit u v).draft = s.draft := rfl
@[simp] theorem State.setUnit_cal (s : State) (u : Nat) (v : TrigUnit) : (s.setUnit u v).cal = s.cal := rfl
@[simp] theorem State.setUnit_dict (s : State) (u : Nat) (v : TrigUnit) : (s.setUnit u v).dict = s.dict := rfl
@[simp] theorem State.setUnit_time (s : State) (u : Nat) (v : TrigUnit) : (s.setUnit u v).time = s.time := rfl
@[simp] theorem State.setUnit_ptp (s : State) (u : Nat) (v : TrigUnit) : (s.setUnit u v).ptp = s.ptp := rfl
@[simp] theorem State.setUnit_lanes (s : State) (u : Nat) (v : TrigUnit) : (s.setUnit u v).lanes = s.lanes := rfl
@[simp] theorem State.setUnit_bob (s : State) (u : Nat) (v : TrigUnit) : (s.setUnit u v).bob = s.bob := rfl
@[simp] theorem State.setUnit_spin (s : State) (u : Nat) (v : TrigUnit) : (s.setUnit u v).spin = s.spin := rfl
@[simp] theorem State.setUnit_trig (s : State) (u : Nat) (v : TrigUnit) : (s.setUnit u v).trig = { s.trig with units := Map.set s.trig.units u v } := rfl
@[simp] theorem State.setUnit_twine (s : State) (u : Nat) (v : TrigUnit) : (s.setUnit u v).twine = s.twine := rfl
@[simp] theorem State.setUnit_twin (s : State) (u : Nat) (v : TrigUnit) : (s.setUnit u v).twin = s.twin := rfl
@[simp] theorem State.setUnit_dram (s : State) (u : Nat) (v : TrigUnit) : (s.setUnit u v).dram = s.dram := rfl
@[simp] theorem State.setUnit_pwr (s : State) (u : Nat) (v : TrigUnit) : (s.setUnit u v).pwr = s.pwr := rfl
@[simp] theorem State.setUnit_nvm (s : State) (u : Nat) (v : TrigUnit) : (s.setUnit u v).nvm = s.nvm := rfl
@[simp] theorem State.setUnit_upd (s : State) (u : Nat) (v : TrigUnit) : (s.setUnit u v).upd = s.upd := rfl
@[simp] theorem State.setUnit_root (s : State) (u : Nat) (v : TrigUnit) : (s.setUnit u v).root = s.root := rfl
@[simp] theorem State.setUnit_host (s : State) (u : Nat) (v : TrigUnit) : (s.setUnit u v).host = s.host := rfl

/-! ### `State.setMask` -/

@[simp] theorem State.setMask_pending (s : State) (m : Nat) (v : MaskSet) : (s.setMask m v).pending = s.pending := rfl
@[simp] theorem State.setMask_now (s : State) (m : Nat) (v : MaskSet) : (s.setMask m v).now = s.now := rfl
@[simp] theorem State.setMask_free (s : State) (m : Nat) (v : MaskSet) : (s.setMask m v).free = s.free := rfl
@[simp] theorem State.setMask_objs (s : State) (m : Nat) (v : MaskSet) : (s.setMask m v).objs = s.objs := rfl
@[simp] theorem State.setMask_log (s : State) (m : Nat) (v : MaskSet) : (s.setMask m v).log = s.log := rfl
@[simp] theorem State.setMask_samp (s : State) (m : Nat) (v : MaskSet) : (s.setMask m v).samp = s.samp := rfl
@[simp] theorem State.setMask_draft (s : State) (m : Nat) (v : MaskSet) : (s.setMask m v).draft = s.draft := rfl
@[simp] theorem State.setMask_cal (s : State) (m : Nat) (v : MaskSet) : (s.setMask m v).cal = s.cal := rfl
@[simp] theorem State.setMask_dict (s : State) (m : Nat) (v : MaskSet) : (s.setMask m v).dict = s.dict := rfl
@[simp] theorem State.setMask_time (s : State) (m : Nat) (v : MaskSet) : (s.setMask m v).time = s.time := rfl
@[simp] theorem State.setMask_ptp (s : State) (m : Nat) (v : MaskSet) : (s.setMask m v).ptp = s.ptp := rfl
@[simp] theorem State.setMask_lanes (s : State) (m : Nat) (v : MaskSet) : (s.setMask m v).lanes = s.lanes := rfl
@[simp] theorem State.setMask_bob (s : State) (m : Nat) (v : MaskSet) : (s.setMask m v).bob = s.bob := rfl
@[simp] theorem State.setMask_spin (s : State) (m : Nat) (v : MaskSet) : (s.setMask m v).spin = s.spin := rfl
@[simp] theorem State.setMask_trig (s : State) (m : Nat) (v : MaskSet) : (s.setMask m v).trig = { s.trig with masks := Map.set s.trig.masks m v } := rfl
@[simp] theorem State.setMask_twine (s : State) (m : Nat) (v : MaskSet) : (s.setMask m v).twine = s.twine := rfl
@[simp] theorem State.setMask_twin (s : State) (m : Nat) (v : MaskSet) : (s.setMask m v).twin = s.twin := rfl
@[simp] theorem State.setMask_dram (s : State) (m : Nat) (v : MaskSet) : (s.setMask m v).dram = s.dram := rfl
@[simp] theorem State.setMask_pwr (s : State) (m : Nat) (v : MaskSet) : (s.setMask m v).pwr = s.pwr := rfl
@[simp] theorem State.setMask_nvm (s : State) (m : Nat) (v : MaskSet) : (s.setMask m v).nvm = s.nvm := rfl
@[simp] theorem State.setMask_upd (s : State) (m : Nat) (v : MaskSet) : (s.setMask m v).upd = s.upd := rfl
@[simp] theorem State.setMask_root (s : State) (m : Nat) (v : MaskSet) : (s.setMask m v).root = s.root := rfl
@[simp] theorem State.setMask_host (s : State) (m : Nat) (v : MaskSet) : (s.setMask m v).host = s.host := rfl

/-! ### `State.setReel` -/

@[simp] theorem State.setReel_pending (s : State) (r : Nat) (v : Reel) : (s.setReel r v).pending = s.pending := rfl
@[simp] theorem State.setReel_now (s : State) (r : Nat) (v : Reel) : (s.setReel r v).now = s.now := rfl
@[simp] theorem State.setReel_free (s : State) (r : Nat) (v : Reel) : (s.setReel r v).free = s.free := rfl
@[simp] theorem State.setReel_objs (s : State) (r : Nat) (v : Reel) : (s.setReel r v).objs = s.objs := rfl
@[simp] theorem State.setReel_log (s : State) (r : Nat) (v : Reel) : (s.setReel r v).log = s.log := rfl
@[simp] theorem State.setReel_samp (s : State) (r : Nat) (v : Reel) : (s.setReel r v).samp = s.samp := rfl
@[simp] theorem State.setReel_draft (s : State) (r : Nat) (v : Reel) : (s.setReel r v).draft = s.draft := rfl
@[simp] theorem State.setReel_cal (s : State) (r : Nat) (v : Reel) : (s.setReel r v).cal = s.cal := rfl
@[simp] theorem State.setReel_dict (s : State) (r : Nat) (v : Reel) : (s.setReel r v).dict = s.dict := rfl
@[simp] theorem State.setReel_time (s : State) (r : Nat) (v : Reel) : (s.setReel r v).time = s.time := rfl
@[simp] theorem State.setReel_ptp (s : State) (r : Nat) (v : Reel) : (s.setReel r v).ptp = s.ptp := rfl
@[simp] theorem State.setReel_lanes (s : State) (r : Nat) (v : Reel) : (s.setReel r v).lanes = s.lanes := rfl
@[simp] theorem State.setReel_bob (s : State) (r : Nat) (v : Reel) : (s.setReel r v).bob = s.bob := rfl
@[simp] theorem State.setReel_spin (s : State) (r : Nat) (v : Reel) : (s.setReel r v).spin = s.spin := rfl
@[simp] theorem State.setReel_trig (s : State) (r : Nat) (v : Reel) : (s.setReel r v).trig = { s.trig with reels := Map.set s.trig.reels r v } := rfl
@[simp] theorem State.setReel_twine (s : State) (r : Nat) (v : Reel) : (s.setReel r v).twine = s.twine := rfl
@[simp] theorem State.setReel_twin (s : State) (r : Nat) (v : Reel) : (s.setReel r v).twin = s.twin := rfl
@[simp] theorem State.setReel_dram (s : State) (r : Nat) (v : Reel) : (s.setReel r v).dram = s.dram := rfl
@[simp] theorem State.setReel_pwr (s : State) (r : Nat) (v : Reel) : (s.setReel r v).pwr = s.pwr := rfl
@[simp] theorem State.setReel_nvm (s : State) (r : Nat) (v : Reel) : (s.setReel r v).nvm = s.nvm := rfl
@[simp] theorem State.setReel_upd (s : State) (r : Nat) (v : Reel) : (s.setReel r v).upd = s.upd := rfl
@[simp] theorem State.setReel_root (s : State) (r : Nat) (v : Reel) : (s.setReel r v).root = s.root := rfl
@[simp] theorem State.setReel_host (s : State) (r : Nat) (v : Reel) : (s.setReel r v).host = s.host := rfl

/-! ### `State.setStream` -/

@[simp] theorem State.setStream_pending (s : State) (i : Nat) (v : Stream) : (s.setStream i v).pending = s.pending := rfl
@[simp] theorem State.setStream_now (s : State) (i : Nat) (v : Stream) : (s.setStream i v).now = s.now := rfl
@[simp] theorem State.setStream_free (s : State) (i : Nat) (v : Stream) : (s.setStream i v).free = s.free := rfl
@[simp] theorem State.setStream_objs (s : State) (i : Nat) (v : Stream) : (s.setStream i v).objs = s.objs := rfl
@[simp] theorem State.setStream_log (s : State) (i : Nat) (v : Stream) : (s.setStream i v).log = s.log := rfl
@[simp] theorem State.setStream_samp (s : State) (i : Nat) (v : Stream) : (s.setStream i v).samp = s.samp := rfl
@[simp] theorem State.setStream_draft (s : State) (i : Nat) (v : Stream) : (s.setStream i v).draft = s.draft := rfl
@[simp] theorem State.setStream_cal (s : State) (i : Nat) (v : Stream) : (s.setStream i v).cal = s.cal := rfl
@[simp] theorem State.setStream_dict (s : State) (i : Nat) (v : Stream) : (s.setStream i v).dict = s.dict := rfl
@[simp] theorem State.setStream_time (s : State) (i : Nat) (v : Stream) : (s.setStream i v).time = s.time := rfl
@[simp] theorem State.setStream_ptp (s : State) (i : Nat) (v : Stream) : (s.setStream i v).ptp = s.ptp := rfl
@[simp] theorem State.setStream_lanes (s : State) (i : Nat) (v : Stream) : (s.setStream i v).lanes = s.lanes := rfl
@[simp] theorem State.setStream_bob (s : State) (i : Nat) (v : Stream) : (s.setStream i v).bob = s.bob := rfl
@[simp] theorem State.setStream_spin (s : State) (i : Nat) (v : Stream) : (s.setStream i v).spin = s.spin := rfl
@[simp] theorem State.setStream_trig (s : State) (i : Nat) (v : Stream) : (s.setStream i v).trig = s.trig := rfl
@[simp] theorem State.setStream_twine (s : State) (i : Nat) (v : Stream) : (s.setStream i v).twine = { s.twine with streams := Map.set s.twine.streams i v } := rfl
@[simp] theorem State.setStream_twin (s : State) (i : Nat) (v : Stream) : (s.setStream i v).twin = s.twin := rfl
@[simp] theorem State.setStream_dram (s : State) (i : Nat) (v : Stream) : (s.setStream i v).dram = s.dram := rfl
@[simp] theorem State.setStream_pwr (s : State) (i : Nat) (v : Stream) : (s.setStream i v).pwr = s.pwr := rfl
@[simp] theorem State.setStream_nvm (s : State) (i : Nat) (v : Stream) : (s.setStream i v).nvm = s.nvm := rfl
@[simp] theorem State.setStream_upd (s : State) (i : Nat) (v : Stream) : (s.setStream i v).upd = s.upd := rfl
@[simp] theorem State.setStream_root (s : State) (i : Nat) (v : Stream) : (s.setStream i v).root = s.root := rfl
@[simp] theorem State.setStream_host (s : State) (i : Nat) (v : Stream) : (s.setStream i v).host = s.host := rfl

/-! ### `State.setRank` -/

@[simp] theorem State.setRank_pending (s : State) (k : Nat) (v : Rank) : (s.setRank k v).pending = s.pending := rfl
@[simp] theorem State.setRank_now (s : State) (k : Nat) (v : Rank) : (s.setRank k v).now = s.now := rfl
@[simp] theorem State.setRank_free (s : State) (k : Nat) (v : Rank) : (s.setRank k v).free = s.free := rfl
@[simp] theorem State.setRank_objs (s : State) (k : Nat) (v : Rank) : (s.setRank k v).objs = s.objs := rfl
@[simp] theorem State.setRank_log (s : State) (k : Nat) (v : Rank) : (s.setRank k v).log = s.log := rfl
@[simp] theorem State.setRank_samp (s : State) (k : Nat) (v : Rank) : (s.setRank k v).samp = s.samp := rfl
@[simp] theorem State.setRank_draft (s : State) (k : Nat) (v : Rank) : (s.setRank k v).draft = s.draft := rfl
@[simp] theorem State.setRank_cal (s : State) (k : Nat) (v : Rank) : (s.setRank k v).cal = s.cal := rfl
@[simp] theorem State.setRank_dict (s : State) (k : Nat) (v : Rank) : (s.setRank k v).dict = s.dict := rfl
@[simp] theorem State.setRank_time (s : State) (k : Nat) (v : Rank) : (s.setRank k v).time = s.time := rfl
@[simp] theorem State.setRank_ptp (s : State) (k : Nat) (v : Rank) : (s.setRank k v).ptp = s.ptp := rfl
@[simp] theorem State.setRank_lanes (s : State) (k : Nat) (v : Rank) : (s.setRank k v).lanes = s.lanes := rfl
@[simp] theorem State.setRank_bob (s : State) (k : Nat) (v : Rank) : (s.setRank k v).bob = s.bob := rfl
@[simp] theorem State.setRank_spin (s : State) (k : Nat) (v : Rank) : (s.setRank k v).spin = s.spin := rfl
@[simp] theorem State.setRank_trig (s : State) (k : Nat) (v : Rank) : (s.setRank k v).trig = s.trig := rfl
@[simp] theorem State.setRank_twine (s : State) (k : Nat) (v : Rank) : (s.setRank k v).twine = s.twine := rfl
@[simp] theorem State.setRank_twin (s : State) (k : Nat) (v : Rank) : (s.setRank k v).twin = s.twin := rfl
@[simp] theorem State.setRank_dram (s : State) (k : Nat) (v : Rank) : (s.setRank k v).dram = { s.dram with ranks := Map.set s.dram.ranks k v } := rfl
@[simp] theorem State.setRank_pwr (s : State) (k : Nat) (v : Rank) : (s.setRank k v).pwr = s.pwr := rfl
@[simp] theorem State.setRank_nvm (s : State) (k : Nat) (v : Rank) : (s.setRank k v).nvm = s.nvm := rfl
@[simp] theorem State.setRank_upd (s : State) (k : Nat) (v : Rank) : (s.setRank k v).upd = s.upd := rfl
@[simp] theorem State.setRank_root (s : State) (k : Nat) (v : Rank) : (s.setRank k v).root = s.root := rfl
@[simp] theorem State.setRank_host (s : State) (k : Nat) (v : Rank) : (s.setRank k v).host = s.host := rfl

/-! ### `State.setChain` -/

@[simp] theorem State.setChain_pending (s : State) (c : Nat) (v : Chain) : (s.setChain c v).pending = s.pending := rfl
@[simp] theorem State.setChain_now (s : State) (c : Nat) (v : Chain) : (s.setChain c v).now = s.now := rfl
@[simp] theorem State.setChain_free (s : State) (c : Nat) (v : Chain) : (s.setChain c v).free = s.free := rfl
@[simp] theorem State.setChain_objs (s : State) (c : Nat) (v : Chain) : (s.setChain c v).objs = s.objs := rfl
@[simp] theorem State.setChain_log (s : State) (c : Nat) (v : Chain) : (s.setChain c v).log = s.log := rfl
@[simp] theorem State.setChain_samp (s : State) (c : Nat) (v : Chain) : (s.setChain c v).samp = s.samp := rfl
@[simp] theorem State.setChain_draft (s : State) (c : Nat) (v : Chain) : (s.setChain c v).draft = { s.draft with chains := Map.set s.draft.chains c v } := rfl
@[simp] theorem State.setChain_cal (s : State) (c : Nat) (v : Chain) : (s.setChain c v).cal = s.cal := rfl
@[simp] theorem State.setChain_dict (s : State) (c : Nat) (v : Chain) : (s.setChain c v).dict = s.dict := rfl
@[simp] theorem State.setChain_time (s : State) (c : Nat) (v : Chain) : (s.setChain c v).time = s.time := rfl
@[simp] theorem State.setChain_ptp (s : State) (c : Nat) (v : Chain) : (s.setChain c v).ptp = s.ptp := rfl
@[simp] theorem State.setChain_lanes (s : State) (c : Nat) (v : Chain) : (s.setChain c v).lanes = s.lanes := rfl
@[simp] theorem State.setChain_bob (s : State) (c : Nat) (v : Chain) : (s.setChain c v).bob = s.bob := rfl
@[simp] theorem State.setChain_spin (s : State) (c : Nat) (v : Chain) : (s.setChain c v).spin = s.spin := rfl
@[simp] theorem State.setChain_trig (s : State) (c : Nat) (v : Chain) : (s.setChain c v).trig = s.trig := rfl
@[simp] theorem State.setChain_twine (s : State) (c : Nat) (v : Chain) : (s.setChain c v).twine = s.twine := rfl
@[simp] theorem State.setChain_twin (s : State) (c : Nat) (v : Chain) : (s.setChain c v).twin = s.twin := rfl
@[simp] theorem State.setChain_dram (s : State) (c : Nat) (v : Chain) : (s.setChain c v).dram = s.dram := rfl
@[simp] theorem State.setChain_pwr (s : State) (c : Nat) (v : Chain) : (s.setChain c v).pwr = s.pwr := rfl
@[simp] theorem State.setChain_nvm (s : State) (c : Nat) (v : Chain) : (s.setChain c v).nvm = s.nvm := rfl
@[simp] theorem State.setChain_upd (s : State) (c : Nat) (v : Chain) : (s.setChain c v).upd = s.upd := rfl
@[simp] theorem State.setChain_root (s : State) (c : Nat) (v : Chain) : (s.setChain c v).root = s.root := rfl
@[simp] theorem State.setChain_host (s : State) (c : Nat) (v : Chain) : (s.setChain c v).host = s.host := rfl

/-! ### `State.setNow` -/

@[simp] theorem State.setNow_pending (s : State) (t : Nat) : (s.setNow t).pending = s.pending := rfl
@[simp] theorem State.setNow_now (s : State) (t : Nat) : (s.setNow t).now = t := rfl
@[simp] theorem State.setNow_free (s : State) (t : Nat) : (s.setNow t).free = s.free := rfl
@[simp] theorem State.setNow_objs (s : State) (t : Nat) : (s.setNow t).objs = s.objs := rfl
@[simp] theorem State.setNow_log (s : State) (t : Nat) : (s.setNow t).log = s.log := rfl
@[simp] theorem State.setNow_samp (s : State) (t : Nat) : (s.setNow t).samp = s.samp := rfl
@[simp] theorem State.setNow_draft (s : State) (t : Nat) : (s.setNow t).draft = s.draft := rfl
@[simp] theorem State.setNow_cal (s : State) (t : Nat) : (s.setNow t).cal = s.cal := rfl
@[simp] theorem State.setNow_dict (s : State) (t : Nat) : (s.setNow t).dict = s.dict := rfl
@[simp] theorem State.setNow_time (s : State) (t : Nat) : (s.setNow t).time = s.time := rfl
@[simp] theorem State.setNow_ptp (s : State) (t : Nat) : (s.setNow t).ptp = s.ptp := rfl
@[simp] theorem State.setNow_lanes (s : State) (t : Nat) : (s.setNow t).lanes = s.lanes := rfl
@[simp] theorem State.setNow_bob (s : State) (t : Nat) : (s.setNow t).bob = s.bob := rfl
@[simp] theorem State.setNow_spin (s : State) (t : Nat) : (s.setNow t).spin = s.spin := rfl
@[simp] theorem State.setNow_trig (s : State) (t : Nat) : (s.setNow t).trig = s.trig := rfl
@[simp] theorem State.setNow_twine (s : State) (t : Nat) : (s.setNow t).twine = s.twine := rfl
@[simp] theorem State.setNow_twin (s : State) (t : Nat) : (s.setNow t).twin = s.twin := rfl
@[simp] theorem State.setNow_dram (s : State) (t : Nat) : (s.setNow t).dram = s.dram := rfl
@[simp] theorem State.setNow_pwr (s : State) (t : Nat) : (s.setNow t).pwr = s.pwr := rfl
@[simp] theorem State.setNow_nvm (s : State) (t : Nat) : (s.setNow t).nvm = s.nvm := rfl
@[simp] theorem State.setNow_upd (s : State) (t : Nat) : (s.setNow t).upd = s.upd := rfl
@[simp] theorem State.setNow_root (s : State) (t : Nat) : (s.setNow t).root = s.root := rfl
@[simp] theorem State.setNow_host (s : State) (t : Nat) : (s.setNow t).host = s.host := rfl

/-! ### `State.setSessions` -/

@[simp] theorem State.setSessions_pending (s : State) (l : List Session) : (s.setSessions l).pending = s.pending := rfl
@[simp] theorem State.setSessions_now (s : State) (l : List Session) : (s.setSessions l).now = s.now := rfl
@[simp] theorem State.setSessions_free (s : State) (l : List Session) : (s.setSessions l).free = s.free := rfl
@[simp] theorem State.setSessions_objs (s : State) (l : List Session) : (s.setSessions l).objs = s.objs := rfl
@[simp] theorem State.setSessions_log (s : State) (l : List Session) : (s.setSessions l).log = s.log := rfl
@[simp] theorem State.setSessions_samp (s : State) (l : List Session) : (s.setSessions l).samp = s.samp := rfl
@[simp] theorem State.setSessions_draft (s : State) (l : List Session) : (s.setSessions l).draft = s.draft := rfl
@[simp] theorem State.setSessions_cal (s : State) (l : List Session) : (s.setSessions l).cal = s.cal := rfl
@[simp] theorem State.setSessions_dict (s : State) (l : List Session) : (s.setSessions l).dict = { s.dict with sessions := l } := rfl
@[simp] theorem State.setSessions_time (s : State) (l : List Session) : (s.setSessions l).time = s.time := rfl
@[simp] theorem State.setSessions_ptp (s : State) (l : List Session) : (s.setSessions l).ptp = s.ptp := rfl
@[simp] theorem State.setSessions_lanes (s : State) (l : List Session) : (s.setSessions l).lanes = s.lanes := rfl
@[simp] theorem State.setSessions_bob (s : State) (l : List Session) : (s.setSessions l).bob = s.bob := rfl
@[simp] theorem State.setSessions_spin (s : State) (l : List Session) : (s.setSessions l).spin = s.spin := rfl
@[simp] theorem State.setSessions_trig (s : State) (l : List Session) : (s.setSessions l).trig = s.trig := rfl
@[simp] theorem State.setSessions_twine (s : State) (l : List Session) : (s.setSessions l).twine = s.twine := rfl
@[simp] theorem State.setSessions_twin (s : State) (l : List Session) : (s.setSessions l).twin = s.twin := rfl
@[simp] theorem State.setSessions_dram (s : State) (l : List Session) : (s.setSessions l).dram = s.dram := rfl
@[simp] theorem State.setSessions_pwr (s : State) (l : List Session) : (s.setSessions l).pwr = s.pwr := rfl
@[simp] theorem State.setSessions_nvm (s : State) (l : List Session) : (s.setSessions l).nvm = s.nvm := rfl
@[simp] theorem State.setSessions_upd (s : State) (l : List Session) : (s.setSessions l).upd = s.upd := rfl
@[simp] theorem State.setSessions_root (s : State) (l : List Session) : (s.setSessions l).root = s.root := rfl
@[simp] theorem State.setSessions_host (s : State) (l : List Session) : (s.setSessions l).host = s.host := rfl

/-! ### `State.setSegs` -/

@[simp] theorem State.setSegs_pending (s : State) (l : List SegWrite) : (s.setSegs l).pending = s.pending := rfl
@[simp] theorem State.setSegs_now (s : State) (l : List SegWrite) : (s.setSegs l).now = s.now := rfl
@[simp] theorem State.setSegs_free (s : State) (l : List SegWrite) : (s.setSegs l).free = s.free := rfl
@[simp] theorem State.setSegs_objs (s : State) (l : List SegWrite) : (s.setSegs l).objs = s.objs := rfl
@[simp] theorem State.setSegs_log (s : State) (l : List SegWrite) : (s.setSegs l).log = s.log := rfl
@[simp] theorem State.setSegs_samp (s : State) (l : List SegWrite) : (s.setSegs l).samp = s.samp := rfl
@[simp] theorem State.setSegs_draft (s : State) (l : List SegWrite) : (s.setSegs l).draft = s.draft := rfl
@[simp] theorem State.setSegs_cal (s : State) (l : List SegWrite) : (s.setSegs l).cal = s.cal := rfl
@[simp] theorem State.setSegs_dict (s : State) (l : List SegWrite) : (s.setSegs l).dict = { s.dict with segs := l } := rfl
@[simp] theorem State.setSegs_time (s : State) (l : List SegWrite) : (s.setSegs l).time = s.time := rfl
@[simp] theorem State.setSegs_ptp (s : State) (l : List SegWrite) : (s.setSegs l).ptp = s.ptp := rfl
@[simp] theorem State.setSegs_lanes (s : State) (l : List SegWrite) : (s.setSegs l).lanes = s.lanes := rfl
@[simp] theorem State.setSegs_bob (s : State) (l : List SegWrite) : (s.setSegs l).bob = s.bob := rfl
@[simp] theorem State.setSegs_spin (s : State) (l : List SegWrite) : (s.setSegs l).spin = s.spin := rfl
@[simp] theorem State.setSegs_trig (s : State) (l : List SegWrite) : (s.setSegs l).trig = s.trig := rfl
@[simp] theorem State.setSegs_twine (s : State) (l : List SegWrite) : (s.setSegs l).twine = s.twine := rfl
@[simp] theorem State.setSegs_twin (s : State) (l : List SegWrite) : (s.setSegs l).twin = s.twin := rfl
@[simp] theorem State.setSegs_dram (s : State) (l : List SegWrite) : (s.setSegs l).dram = s.dram := rfl
@[simp] theorem State.setSegs_pwr (s : State) (l : List SegWrite) : (s.setSegs l).pwr = s.pwr := rfl
@[simp] theorem State.setSegs_nvm (s : State) (l : List SegWrite) : (s.setSegs l).nvm = s.nvm := rfl
@[simp] theorem State.setSegs_upd (s : State) (l : List SegWrite) : (s.setSegs l).upd = s.upd := rfl
@[simp] theorem State.setSegs_root (s : State) (l : List SegWrite) : (s.setSegs l).root = s.root := rfl
@[simp] theorem State.setSegs_host (s : State) (l : List SegWrite) : (s.setSegs l).host = s.host := rfl

/-! ### Reading -/

@[simp] theorem State.int_objs (s : State) (r : Ref) (u : Nat) : s.int r u = s.objs.int r u := rfl
@[simp] theorem State.nat_objs (s : State) (r : Ref) (u : Nat) : s.nat r u = s.objs.nat r u := rfl
@[simp] theorem State.bool_objs (s : State) (r : Ref) (u : Nat) : s.bool r u = s.objs.bool r u := rfl
@[simp] theorem State.bytes_objs (s : State) (r : Ref) (u : Nat) : s.bytes r u = s.objs.bytes r u := rfl

@[simp] theorem State.chain_setChain_same (s : State) (k : Nat) (v : Chain) : (s.setChain k v).chain k = v := Map.getD_set_same _ _ _ _
theorem State.chain_setChain_other (s : State) (k j : Nat) (v : Chain) (h : j ≠ k) : (s.setChain k v).chain j = s.chain j := Map.getD_set_other _ _ _ _ _ h
@[simp] theorem State.creel_setCreel_same (s : State) (k : Nat) (v : Creel) : (s.setCreel k v).creel k = v := Map.getD_set_same _ _ _ _
theorem State.creel_setCreel_other (s : State) (k j : Nat) (v : Creel) (h : j ≠ k) : (s.setCreel k v).creel j = s.creel j := Map.getD_set_other _ _ _ _ _ h
@[simp] theorem State.driver_setDriver_same (s : State) (k : Nat) (v : Driver) : (s.setDriver k v).driver k = v := Map.getD_set_same _ _ _ _
theorem State.driver_setDriver_other (s : State) (k j : Nat) (v : Driver) (h : j ≠ k) : (s.setDriver k v).driver j = s.driver j := Map.getD_set_other _ _ _ _ _ h
@[simp] theorem State.conv_setConv_same (s : State) (k : Nat) (v : Converter) : (s.setConv k v).conv k = v := Map.getD_set_same _ _ _ _
theorem State.conv_setConv_other (s : State) (k j : Nat) (v : Converter) (h : j ≠ k) : (s.setConv k v).conv j = s.conv j := Map.getD_set_other _ _ _ _ _ h
@[simp] theorem State.injector_setInjector_same (s : State) (k : Nat) (v : Injector) : (s.setInjector k v).injector k = v := Map.getD_set_same _ _ _ _
theorem State.injector_setInjector_other (s : State) (k j : Nat) (v : Injector) (h : j ≠ k) : (s.setInjector k v).injector j = s.injector j := Map.getD_set_other _ _ _ _ _ h
@[simp] theorem State.strand_setStrand_same (s : State) (k : Nat) (v : Strand) : (s.setStrand k v).strand k = v := Map.getD_set_same _ _ _ _
theorem State.strand_setStrand_other (s : State) (k j : Nat) (v : Strand) (h : j ≠ k) : (s.setStrand k v).strand j = s.strand j := Map.getD_set_other _ _ _ _ _ h
@[simp] theorem State.pdelay_setPdelay_same (s : State) (k : Nat) (v : PeerDelay) : (s.setPdelay k v).pdelay k = v := Map.getD_set_same _ _ _ _
theorem State.pdelay_setPdelay_other (s : State) (k j : Nat) (v : PeerDelay) (h : j ≠ k) : (s.setPdelay k v).pdelay j = s.pdelay j := Map.getD_set_other _ _ _ _ _ h
@[simp] theorem State.egress_setEgress_same (s : State) (k : Nat) (v : Egress) : (s.setEgress k v).egress k = v := Map.getD_set_same _ _ _ _
theorem State.egress_setEgress_other (s : State) (k j : Nat) (v : Egress) (h : j ≠ k) : (s.setEgress k v).egress j = s.egress j := Map.getD_set_other _ _ _ _ _ h
@[simp] theorem State.lane_setLane_same (s : State) (k : Nat) (v : Lane) : (s.setLane k v).lane k = v := Map.getD_set_same _ _ _ _
theorem State.lane_setLane_other (s : State) (k j : Nat) (v : Lane) (h : j ≠ k) : (s.setLane k v).lane j = s.lane j := Map.getD_set_other _ _ _ _ _ h
@[simp] theorem State.bobbin_setBobbin_same (s : State) (k : Nat) (v : Bobbin) : (s.setBobbin k v).bobbin k = v := Map.getD_set_same _ _ _ _
theorem State.bobbin_setBobbin_other (s : State) (k j : Nat) (v : Bobbin) (h : j ≠ k) : (s.setBobbin k v).bobbin j = s.bobbin j := Map.getD_set_other _ _ _ _ _ h
@[simp] theorem State.red_setRed_same (s : State) (k : Nat) (v : RedChan) : (s.setRed k v).red k = v := Map.getD_set_same _ _ _ _
theorem State.red_setRed_other (s : State) (k j : Nat) (v : RedChan) (h : j ≠ k) : (s.setRed k v).red j = s.red j := Map.getD_set_other _ _ _ _ _ h
@[simp] theorem State.feed_setFeed_same (s : State) (k : Nat) (v : Feed) : (s.setFeed k v).feed k = v := Map.getD_set_same _ _ _ _
theorem State.feed_setFeed_other (s : State) (k j : Nat) (v : Feed) (h : j ≠ k) : (s.setFeed k v).feed j = s.feed j := Map.getD_set_other _ _ _ _ _ h
@[simp] theorem State.unit_setUnit_same (s : State) (k : Nat) (v : TrigUnit) : (s.setUnit k v).unit k = v := Map.getD_set_same _ _ _ _
theorem State.unit_setUnit_other (s : State) (k j : Nat) (v : TrigUnit) (h : j ≠ k) : (s.setUnit k v).unit j = s.unit j := Map.getD_set_other _ _ _ _ _ h
@[simp] theorem State.mask_setMask_same (s : State) (k : Nat) (v : MaskSet) : (s.setMask k v).mask k = v := Map.getD_set_same _ _ _ _
theorem State.mask_setMask_other (s : State) (k j : Nat) (v : MaskSet) (h : j ≠ k) : (s.setMask k v).mask j = s.mask j := Map.getD_set_other _ _ _ _ _ h
@[simp] theorem State.reel_setReel_same (s : State) (k : Nat) (v : Reel) : (s.setReel k v).reel k = v := Map.getD_set_same _ _ _ _
theorem State.reel_setReel_other (s : State) (k j : Nat) (v : Reel) (h : j ≠ k) : (s.setReel k v).reel j = s.reel j := Map.getD_set_other _ _ _ _ _ h
@[simp] theorem State.stream_setStream_same (s : State) (k : Nat) (v : Stream) : (s.setStream k v).stream k = v := Map.getD_set_same _ _ _ _
theorem State.stream_setStream_other (s : State) (k j : Nat) (v : Stream) (h : j ≠ k) : (s.setStream k v).stream j = s.stream j := Map.getD_set_other _ _ _ _ _ h
@[simp] theorem State.rank_setRank_same (s : State) (k : Nat) (v : Rank) : (s.setRank k v).rank k = v := Map.getD_set_same _ _ _ _
theorem State.rank_setRank_other (s : State) (k j : Nat) (v : Rank) (h : j ≠ k) : (s.setRank k v).rank j = s.rank j := Map.getD_set_other _ _ _ _ _ h
@[simp] theorem State.mailbox_setMailbox_same (s : State) (k : Nat) (v : Mailbox) : (s.setMailbox k v).mailbox k = v := Map.getD_set_same _ _ _ _
theorem State.mailbox_setMailbox_other (s : State) (k j : Nat) (v : Mailbox) (h : j ≠ k) : (s.setMailbox k v).mailbox j = s.mailbox j := Map.getD_set_other _ _ _ _ _ h

end Sys2Proof.Machine
end

