-- ==== Sys2Proof/Laws/Does.lean ====
section
/-! SUPPORT. What every operation of the model does at most: it leaves the queue, keeps the invariants of Safety.lean, adds to the
one-time-programmable store only, and changes no part of the state outside a list.  `Does cs s t` says it of the way from `s` to
`t`; one lemma per operation stands in the files of this folder named after the chapters. -/

namespace Sys2Proof.Machine

set_option linter.all false

/-- From `s` to `t` only the parts `cs` change, and what is kept is kept. -/
structure Does (cs : List Part) (s t : State) : Prop where
  pending : t.pending = s.pending
  objs : objsWf s → objsWf t
  log : logWf s → logWf t
  pend : pendWf s → pendWf t
  viol : violWf s → violWf t
  otp : OtpLe s.nvm t.nvm
  frame : frame cs s t

/-- The same of an outcome. -/
structure OutDoes (cs : List Part) (s : State) (o : Out) : Prop where
  next : ∀ t, o = Host.Outcome.next t → Does cs s t

theorem OtpLe.refl (a : NvmState) : OtpLe a a :=
  ⟨id, id, fun _ h => h, fun _ h => h, Nat.le_refl _, Nat.le_refl _⟩

theorem OtpLe.trans {a b c : NvmState} (h : OtpLe a b) (g : OtpLe b c) : OtpLe a c :=
  ⟨fun x => g.1 (h.1 x), fun x => g.2 (h.2 x), fun _ x => g.3 _ (h.3 _ x), fun _ x => g.4 _ (h.4 _ x),
   Nat.le_trans h.5 g.5, Nat.le_trans h.6 g.6⟩

theorem OtpLe.of_eq {a b : NvmState} (h0 : b.revoked0 = a.revoked0) (h1 : b.revoked1 = a.revoked1) (k0 : b.keyHash0 = a.keyHash0)
    (k1 : b.keyHash1 = a.keyHash1) (l : b.lc = a.lc) (n : a.lcCount ≤ b.lcCount) : OtpLe a b :=
  ⟨fun x => h0 ▸ x, fun x => h1 ▸ x, fun _ x => k0 ▸ x, fun _ x => k1 ▸ x, l ▸ Nat.le_refl _, n⟩

theorem frame_refl (cs : List Part) (s : State) : frame cs s s := fun p _ => by cases p <;> rfl

theorem frame_trans {cs : List Part} {a b c : State} (h : frame cs a b) (g : frame cs b c) : frame cs a c := fun p hp => by
  have x := h p hp
  have y := g p hp
  cases p <;> exact Eq.trans y x

theorem frame_mono {cs ds : List Part} {a b : State} (h : frame cs a b) (g : cs ⊆ ds) : frame ds a b := fun p hp => h p (fun x => hp (g x))

theorem Does.refl (cs : List Part) (s : State) : Does cs s s := ⟨rfl, id, id, id, id, .refl _, frame_refl _ _⟩

theorem Does.trans {cs : List Part} {a b c : State} (h : Does cs a b) (g : Does cs b c) : Does cs a c :=
  ⟨g.1.trans h.1, fun x => g.2 (h.2 x), fun x => g.3 (h.3 x), fun x => g.4 (h.4 x), fun x => g.5 (h.5 x), h.6.trans g.6, frame_trans h.7 g.7⟩

theorem Does.mono {cs ds : List Part} {a b : State} (h : Does cs a b) (g : cs ⊆ ds) : Does ds a b :=
  ⟨h.1, h.2, h.3, h.4, h.5, h.6, frame_mono h.7 g⟩

theorem next_does {cs : List Part} {c s : State} (h : Does cs c s) : OutDoes cs c (Host.Outcome.next s) := ⟨fun _ e => by cases e; exact h⟩

/-- A list of parts inside one that lies inside another. -/
theorem sub_of {a b cs : List Part} (h : b ⊆ cs) (d : a.all (fun p => b.contains p) = true) : a ⊆ cs := fun p hp =>
  h (by simpa using List.all_eq_true.1 d p hp)

/-- A part of a list. -/
theorem mem_of {b cs : List Part} (h : b ⊆ cs) (p : Part) (d : b.contains p = true) : p ∈ cs := h (by simpa using d)

/-- An update of parts that hold no object, no log entry and no OTP. -/
theorem does_upd {cs : List Part} {c s t : State} (h : Does cs c s) (p : t.pending = s.pending) (o : t.objs = s.objs) (l : t.log = s.log)
    (n : t.nvm = s.nvm) (d : t.dict.pend.length ≤ s.dict.pend.length) (v : t.twine.violations = s.twine.violations)
    (f : ∀ p, p ∉ cs → Part.same s t p) : Does cs c t :=
  h.trans ⟨p, fun w => by unfold objsWf at *; rw [o]; exact w, fun w => by unfold logWf at *; rw [l]; exact w,
    fun w => Nat.le_trans d w, fun w => by unfold violWf at *; rw [v]; exact w, n ▸ .refl _, f⟩

/-- An update written as a record, whatever parts it sets but objects, log and OTP. -/
theorem does_mk {cs : List Part} {c s : State}
    {now free samp draft cal dict time ptp lanes bob spin trig twine twin dram pwr upd root host}
    (h : Does cs c s) (d : dict.pend.length ≤ s.dict.pend.length) (v : twine.violations = s.twine.violations)
    (f : ∀ p, p ∉ cs → Part.same s (State.mk s.pending now free s.objs s.log samp draft cal dict time ptp lanes bob spin trig twine
      twin dram pwr s.nvm upd root host) p) :
    Does cs c (State.mk s.pending now free s.objs s.log samp draft cal dict time ptp lanes bob spin trig twine twin dram pwr s.nvm
      upd root host) :=
  does_upd h rfl rfl rfl rfl d v f

/-! ### Updates of one part -/

theorem now_does {cs : List Part} {c s : State} {x} (hs : [.now] ⊆ cs) (h : Does cs c s) : Does cs c { s with now := x } :=
  does_mk h (Nat.le_refl _) rfl (by intro p hp; cases p <;> first | exact absurd (mem_of hs _ rfl) hp | rfl)

theorem free_does {cs : List Part} {c s : State} {x} (hs : [.free] ⊆ cs) (h : Does cs c s) : Does cs c { s with free := x } :=
  does_mk h (Nat.le_refl _) rfl (by intro p hp; cases p <;> first | exact absurd (mem_of hs _ rfl) hp | rfl)

theorem samp_does {cs : List Part} {c s : State} {x} (hs : [.samp] ⊆ cs) (h : Does cs c s) : Does cs c { s with samp := x } :=
  does_mk h (Nat.le_refl _) rfl (by intro p hp; cases p <;> first | exact absurd (mem_of hs _ rfl) hp | rfl)

theorem draft_does {cs : List Part} {c s : State} {x} (hs : [.draft] ⊆ cs) (h : Does cs c s) : Does cs c { s with draft := x } :=
  does_mk h (Nat.le_refl _) rfl (by intro p hp; cases p <;> first | exact absurd (mem_of hs _ rfl) hp | rfl)

theorem cal_does {cs : List Part} {c s : State} {x} (hs : [.cal] ⊆ cs) (h : Does cs c s) : Does cs c { s with cal := x } :=
  does_mk h (Nat.le_refl _) rfl (by intro p hp; cases p <;> first | exact absurd (mem_of hs _ rfl) hp | rfl)

theorem time_does {cs : List Part} {c s : State} {x} (hs : [.time] ⊆ cs) (h : Does cs c s) : Does cs c { s with time := x } :=
  does_mk h (Nat.le_refl _) rfl (by intro p hp; cases p <;> first | exact absurd (mem_of hs _ rfl) hp | rfl)

theorem ptp_does {cs : List Part} {c s : State} {x} (hs : [.ptp] ⊆ cs) (h : Does cs c s) : Does cs c { s with ptp := x } :=
  does_mk h (Nat.le_refl _) rfl (by intro p hp; cases p <;> first | exact absurd (mem_of hs _ rfl) hp | rfl)

theorem lanes_does {cs : List Part} {c s : State} {x} (hs : [.lanes] ⊆ cs) (h : Does cs c s) : Does cs c { s with lanes := x } :=
  does_mk h (Nat.le_refl _) rfl (by intro p hp; cases p <;> first | exact absurd (mem_of hs _ rfl) hp | rfl)

theorem bob_does {cs : List Part} {c s : State} {x} (hs : [.bob] ⊆ cs) (h : Does cs c s) : Does cs c { s with bob := x } :=
  does_mk h (Nat.le_refl _) rfl (by intro p hp; cases p <;> first | exact absurd (mem_of hs _ rfl) hp | rfl)

theorem spin_does {cs : List Part} {c s : State} {x} (hs : [.spin] ⊆ cs) (h : Does cs c s) : Does cs c { s with spin := x } :=
  does_mk h (Nat.le_refl _) rfl (by intro p hp; cases p <;> first | exact absurd (mem_of hs _ rfl) hp | rfl)

theorem trig_does {cs : List Part} {c s : State} {x} (hs : [.trig] ⊆ cs) (h : Does cs c s) : Does cs c { s with trig := x } :=
  does_mk h (Nat.le_refl _) rfl (by intro p hp; cases p <;> first | exact absurd (mem_of hs _ rfl) hp | rfl)

theorem twin_does {cs : List Part} {c s : State} {x} (hs : [.twin] ⊆ cs) (h : Does cs c s) : Does cs c { s with twin := x } :=
  does_mk h (Nat.le_refl _) rfl (by intro p hp; cases p <;> first | exact absurd (mem_of hs _ rfl) hp | rfl)

theorem dram_does {cs : List Part} {c s : State} {x} (hs : [.dram] ⊆ cs) (h : Does cs c s) : Does cs c { s with dram := x } :=
  does_mk h (Nat.le_refl _) rfl (by intro p hp; cases p <;> first | exact absurd (mem_of hs _ rfl) hp | rfl)

theorem pwr_does {cs : List Part} {c s : State} {x} (hs : [.pwr] ⊆ cs) (h : Does cs c s) : Does cs c { s with pwr := x } :=
  does_mk h (Nat.le_refl _) rfl (by intro p hp; cases p <;> first | exact absurd (mem_of hs _ rfl) hp | rfl)

theorem upd_does {cs : List Part} {c s : State} {x} (hs : [.upd] ⊆ cs) (h : Does cs c s) : Does cs c { s with upd := x } :=
  does_mk h (Nat.le_refl _) rfl (by intro p hp; cases p <;> first | exact absurd (mem_of hs _ rfl) hp | rfl)

theorem root_does {cs : List Part} {c s : State} {x} (hs : [.root] ⊆ cs) (h : Does cs c s) : Does cs c { s with root := x } :=
  does_mk h (Nat.le_refl _) rfl (by intro p hp; cases p <;> first | exact absurd (mem_of hs _ rfl) hp | rfl)

theorem host_does {cs : List Part} {c s : State} {x} (hs : [.host] ⊆ cs) (h : Does cs c s) : Does cs c { s with host := x } :=
  does_mk h (Nat.le_refl _) rfl (by intro p hp; cases p <;> first | exact absurd (mem_of hs _ rfl) hp | rfl)

theorem dict_does {cs : List Part} {c s : State} {x} (hs : [.dict] ⊆ cs) (d : x.pend.length ≤ s.dict.pend.length)
    (h : Does cs c s) : Does cs c { s with dict := x } :=
  does_mk h d rfl (by intro p hp; cases p <;> first | exact absurd (mem_of hs _ rfl) hp | rfl)

theorem twine_does {cs : List Part} {c s : State} {x} (hs : [.twine] ⊆ cs) (v : x.violations = s.twine.violations)
    (h : Does cs c s) : Does cs c { s with twine := x } :=
  does_mk h (Nat.le_refl _) v (by intro p hp; cases p <;> first | exact absurd (mem_of hs _ rfl) hp | rfl)

theorem viol_does {cs : List Part} {c s : State} {x} (hs : [.twine] ⊆ cs) (v : x.violations.length ≤ 128)
    (h : Does cs c s) : Does cs c { s with twine := x } :=
  h.trans ⟨rfl, id, id, id, fun _ => v, .refl _, by intro p hp; cases p <;> first | exact absurd (mem_of hs _ rfl) hp | rfl⟩

theorem pend_does {cs : List Part} {c s : State} {x} (hs : [.dict] ⊆ cs) (d : pendWf s → x.pend.length ≤ 256)
    (h : Does cs c s) : Does cs c { s with dict := x } :=
  h.trans ⟨rfl, id, id, d, id, .refl _, by intro p hp; cases p <;> first | exact absurd (mem_of hs _ rfl) hp | rfl⟩

theorem put_does {cs : List Part} {c s : State} (hs : [Part.objs] ⊆ cs) (k : Nat) (v : Val) (h : Does cs c s) :
    Does cs c { s with objs := s.objs.put k v } :=
  h.trans ⟨rfl, Store.put_wf _ _ _, id, id, id, .refl _, fun p hp => by
    cases p <;> first | rfl | exact absurd (hs (List.mem_singleton.2 rfl)) hp⟩

theorem push_does {cs : List Part} {c s : State} (hs : [Part.log] ⊆ cs) (e : Event) (he : e.seq = s.log.nextSeq) (h : Does cs c s) :
    Does cs c { s with log := s.log.push e } :=
  h.trans ⟨rfl, id, fun w => EventLog.push_wf _ _ he w.1 w.2, id, id, .refl _, fun p hp => by
    cases p <;> first | rfl | exact absurd (hs (List.mem_singleton.2 rfl)) hp⟩

theorem setNvm_does {cs : List Part} {c s : State} (hs : [Part.nvm] ⊆ cs) (n : NvmState) (hn : OtpLe s.nvm n) (h : Does cs c s) :
    Does cs c { s with nvm := n } :=
  h.trans ⟨rfl, id, id, id, id, hn, fun p hp => by
    cases p <;> first | rfl | exact absurd (hs (List.mem_singleton.2 rfl)) hp⟩

theorem each_does {cs : List Part} {c : State} {α : Type} (s : State) (l : List α) (g : State → α → State)
    (h : ∀ s a, Does cs c s → Does cs c (g s a)) (hc : Does cs c s) : Does cs c (s.each l g) := by
  unfold State.each
  induction l generalizing s with
  | nil => exact hc
  | cons a l ih => exact ih _ (h _ _ hc)

theorem foldl_does {cs : List Part} {c : State} {α : Type} (s : State) (l : List α) (g : State → α → State)
    (h : ∀ s a, Does cs c s → Does cs c (g s a)) (hc : Does cs c s) : Does cs c (l.foldl g s) := each_does s l g h hc

theorem foldl_fst_does {cs : List Part} {c : State} {α β : Type} (s : State × β) (l : List α) (g : State × β → α → State × β)
    (h : ∀ s a, Does cs c s.1 → Does cs c (g s a).1) (hc : Does cs c s.1) : Does cs c (l.foldl g s).1 := by
  induction l generalizing s with
  | nil => exact hc
  | cons a l ih => exact ih _ (h _ _ hc)

theorem foldl_snd_does {cs : List Part} {c : State} {α β : Type} (s : β × State) (l : List α) (g : β × State → α → β × State)
    (h : ∀ s a, Does cs c s.2 → Does cs c (g s a).2) (hc : Does cs c s.2) : Does cs c (l.foldl g s).2 := by
  induction l generalizing s with
  | nil => exact hc
  | cons a l ih => exact ih _ (h _ _ hc)

theorem ite_does {cs : List Part} {c : State} {p : Prop} [Decidable p] {a b : State} (h : Does cs c a) (g : Does cs c b) :
    Does cs c (if p then a else b) := by split <;> assumption

theorem ite_fst_does {cs : List Part} {c : State} {β : Type} {p : Prop} [Decidable p] {a b : State × β} (h : Does cs c a.1)
    (g : Does cs c b.1) : Does cs c (if p then a else b).1 := by split <;> assumption

theorem ite_snd_does {cs : List Part} {c : State} {β : Type} {p : Prop} [Decidable p] {a b : β × State} (h : Does cs c a.2)
    (g : Does cs c b.2) : Does cs c (if p then a else b).2 := by split <;> assumption

/-! ### Flash and OTP -/

theorem setSlot_otp (n : NvmState) (i : Nat) (x : Slot) : OtpLe n (n.setSlot i x) := by
  unfold NvmState.setSlot; split <;> exact .of_eq rfl rfl rfl rfl rfl (Nat.le_refl _)

theorem failSlot_otp (n : NvmState) (i : Nat) : OtpLe n (n.failSlot i) := setSlot_otp _ _ _

theorem writePointer_otp {a : NvmState} (n : NvmState) (f : SlotPointer → SlotPointer) (h : OtpLe a n) : OtpLe a (n.writePointer f) := by
  unfold NvmState.writePointer; dsimp only; split <;> exact h.trans (.of_eq rfl rfl rfl rfl rfl (Nat.le_refl _))

theorem writeCopy_otp (n : NvmState) (objs : Store) (r : Bool) : OtpLe n (writeCopy n objs r) := by
  unfold writeCopy; dsimp only; split <;> exact .of_eq rfl rfl rfl rfl rfl (Nat.le_refl _)

/-- The store after a full reset has the canonical form, whatever it was before. -/
theorem resetStore_wf (old : Store) (n : NvmState) (cause upd : Nat) : Map.wf (resetStore old n cause upd) = true := by
  have fold : ∀ {α : Type} (l : List α) (g : Store → α → Store) (st : Store), (∀ st a, Map.wf st = true → Map.wf (g st a) = true) →
      Map.wf st = true → Map.wf (l.foldl g st) = true := by
    intro α l g st h hs
    induction l generalizing st with
    | nil => exact hs
    | cons a l ih => exact ih _ (h _ _ hs)
  unfold resetStore
  extract_lets +onlyGivenNames c0 keep st0 st1 st2 st3 st4
  have h0 : Map.wf st0 = true := by
    apply fold _ _ _ _ rfl
    intro st r h
    unfold keep
    split
    · exact Store.put_wf _ _ _ h
    · exact h
  have h1 : Map.wf st1 = true := fold _ _ _ (fun _ _ h => Store.put_wf _ _ _ h) h0
  have h2 : Map.wf st2 = true := Store.put_wf _ _ _ h1
  have h3 : Map.wf st3 = true := by unfold st3; split; exact h2; exact Store.put_wf _ _ _ h2
  have h4 : Map.wf st4 = true := by
    apply fold _ _ _ _ h3
    intro st p h
    split
    · exact Store.put_wf _ _ _ (Store.put_wf _ _ _ h)
    · exact Store.put_wf _ _ _ h
  apply fold _ _ _ _ h4
  intro st i h
  dsimp only
  apply Store.put_wf
  split
  · exact Store.put_wf _ _ _ h
  · exact h

end Sys2Proof.Machine
end

