-- ==== Sys2Proof/Laws/Ops.lean ====
section
/-! SUPPORT. What each operation of Machine/Ops.lean does at most: the parts it changes, and what it keeps. -/

namespace Sys2Proof.Machine

set_option linter.all false

theorem State_putI_does {cs : List Part} {c : State} (s : State) (r : Ref) (u : Nat) (v : Int)
    (hs : [.objs] ⊆ cs) (hc : Does cs c s) :
    Does cs c (State.putI s r u v) := by
  exact put_does hs _ _ hc

theorem State_put_does {cs : List Part} {c : State} (s : State) (r : Ref) (u : Nat) (v : Nat)
    (hs : [.objs] ⊆ cs) (hc : Does cs c s) :
    Does cs c (State.put s r u v) := by
  unfold State.put
  repeat' first
    | with_reducible assumption | with_reducible exact sub_of hs rfl | (intro) | with_reducible apply State_putI_does
    | with_reducible apply ite_does | with_reducible apply ite_fst_does | split
    | (extract_lets +onlyGivenNames y; first
        | (have hy : Does cs c y := ?_; clear_value y) | (have hy : Does cs c y.1 := ?_; clear_value y)
        | (have hy : Does cs c y.2 := ?_; clear_value y) | clear_value y)
    | with_reducible apply foldl_does | with_reducible apply foldl_fst_does | dsimp only

theorem State_putB_does {cs : List Part} {c : State} (s : State) (r : Ref) (u : Nat) (v : Bytes)
    (hs : [.objs] ⊆ cs) (hc : Does cs c s) :
    Does cs c (State.putB s r u v) := by
  exact put_does hs _ _ hc

theorem State_putK_does {cs : List Part} {c : State} (s : State) (key : Nat) (v : Val) (hs : [.objs] ⊆ cs) (hc : Does cs c s) :
    Does cs c (State.putK s key v) := by
  exact put_does hs _ _ hc

theorem State_addK_does {cs : List Part} {c : State} (s : State) (r : Ref) (key : Nat) (n : Nat)
    (hs : [.objs] ⊆ cs) (hc : Does cs c s) :
    Does cs c (State.addK s r key n) := by
  unfold State.addK
  repeat' first
    | with_reducible assumption | with_reducible exact sub_of hs rfl | (intro) | with_reducible apply State_putK_does
    | with_reducible apply ite_does | with_reducible apply ite_fst_does | split
    | (extract_lets +onlyGivenNames y; first
        | (have hy : Does cs c y := ?_; clear_value y) | (have hy : Does cs c y.1 := ?_; clear_value y)
        | (have hy : Does cs c y.2 := ?_; clear_value y) | clear_value y)
    | with_reducible apply foldl_does | with_reducible apply foldl_fst_does | dsimp only

theorem State_add_does {cs : List Part} {c : State} (s : State) (r : Ref) (u : Nat) (n : Nat)
    (hs : [.objs] ⊆ cs) (hc : Does cs c s) :
    Does cs c (State.add s r u n) := by
  unfold State.add
  repeat' first
    | with_reducible assumption | with_reducible exact sub_of hs rfl | (intro) | with_reducible apply State_addK_does
    | with_reducible apply ite_does | with_reducible apply ite_fst_does | split
    | (extract_lets +onlyGivenNames y; first
        | (have hy : Does cs c y := ?_; clear_value y) | (have hy : Does cs c y.1 := ?_; clear_value y)
        | (have hy : Does cs c y.2 := ?_; clear_value y) | clear_value y)
    | with_reducible apply foldl_does | with_reducible apply foldl_fst_does | dsimp only

theorem State_bump_does {cs : List Part} {c : State} (s : State) (r : Ref) (u : optParam Nat 0)
    (hs : [.objs] ⊆ cs) (hc : Does cs c s) :
    Does cs c (State.bump s r u) := by
  unfold State.bump
  repeat' first
    | with_reducible assumption | with_reducible exact sub_of hs rfl | (intro) | with_reducible apply State_add_does
    | with_reducible apply ite_does | with_reducible apply ite_fst_does | split
    | (extract_lets +onlyGivenNames y; first
        | (have hy : Does cs c y := ?_; clear_value y) | (have hy : Does cs c y.1 := ?_; clear_value y)
        | (have hy : Does cs c y.2 := ?_; clear_value y) | clear_value y)
    | with_reducible apply foldl_does | with_reducible apply foldl_fst_does | dsimp only

theorem State_advance_does {cs : List Part} {c : State} (s : State) (t : Nat) (hs : [.now] ⊆ cs) (hc : Does cs c s) :
    Does cs c (State.advance s t) := by
  unfold State.advance
  repeat' first
    | with_reducible assumption | with_reducible exact sub_of hs rfl | (intro) | with_reducible apply ite_does
    | with_reducible apply ite_fst_does | split
    | (extract_lets +onlyGivenNames y; first
        | (have hy : Does cs c y := ?_; clear_value y) | (have hy : Does cs c y.1 := ?_; clear_value y)
        | (have hy : Does cs c y.2 := ?_; clear_value y) | clear_value y)
    | with_reducible apply foldl_does | with_reducible apply foldl_fst_does | dsimp only | with_reducible apply now_does

theorem State_evAt_does {cs : List Part} {c : State} (s : State) (code : Nat) (unit : Nat) (t : Nat) (frac : Nat) (param : optParam Bytes [])
    (hs : [.log] ⊆ cs) (hc : Does cs c s) :
    Does cs c (State.evAt s code unit t frac param) := by
  exact push_does hs _ rfl hc

theorem State_ev_does {cs : List Part} {c : State} (s : State) (code : Nat) (unit : Nat) (param : optParam Bytes [])
    (hs : [.log] ⊆ cs) (hc : Does cs c s) :
    Does cs c (State.ev s code unit param) := by
  unfold State.ev
  repeat' first
    | with_reducible assumption | with_reducible exact sub_of hs rfl | (intro) | with_reducible apply State_evAt_does | dsimp only

theorem State_freshInt_does {cs : List Part} {c : State} (s : State) (hs : [.free] ⊆ cs) (hc : Does cs c s) :
    Does cs c (State.freshInt s).2 := by
  unfold State.freshInt
  repeat' first
    | with_reducible assumption | with_reducible exact sub_of hs rfl | (intro) | dsimp only | with_reducible apply free_does

theorem State_freshNat_does {cs : List Part} {c : State} (s : State) (hs : [.free] ⊆ cs) (hc : Does cs c s) :
    Does cs c (State.freshNat s).2 := by
  unfold State.freshNat
  repeat' first
    | with_reducible assumption | with_reducible exact sub_of hs rfl | (intro) | dsimp only | with_reducible apply free_does

theorem State_freshBytes_does {cs : List Part} {c : State} (s : State) (n : Nat) (hs : [.free] ⊆ cs) (hc : Does cs c s) :
    Does cs c (State.freshBytes s n).2 := by
  unfold State.freshBytes
  repeat' first
    | with_reducible assumption | with_reducible exact sub_of hs rfl | (intro) | dsimp only | with_reducible apply free_does

theorem State_tdc_does {cs : List Part} {c : State} (s : State) (c' : Nat) (fine : Nat) (hs : [.trig] ⊆ cs) (hc : Does cs c s) :
    Does cs c (State.tdc s c' fine).2 := by
  unfold State.tdc
  repeat' first
    | with_reducible assumption | with_reducible exact sub_of hs rfl | (intro) | with_reducible apply ite_does
    | with_reducible apply ite_fst_does | split
    | (extract_lets +onlyGivenNames y; first
        | (have hy : Does cs c y := ?_; clear_value y) | (have hy : Does cs c y.1 := ?_; clear_value y)
        | (have hy : Does cs c y.2 := ?_; clear_value y) | (let z : TrigState := y; clear z) | clear_value y)
    | dsimp only | with_reducible apply trig_does

end Sys2Proof.Machine
end

