-- ==== Sys2Proof/Laws/Bobbin.lean ====
section
/-! SUPPORT. What each operation of Machine/Bobbin.lean does at most: the parts it changes, and what it keeps. -/

namespace Sys2Proof.Machine

set_option linter.all false

theorem State_setBobbin_does {cs : List Part} {c : State} (s : State) (ch : Nat) (b : Bobbin)
    (hs : [.bob] ⊆ cs) (hc : Does cs c s) :
    Does cs c (State.setBobbin s ch b) := by
  unfold State.setBobbin
  repeat' first
    | with_reducible assumption | with_reducible exact sub_of hs rfl | (intro) | dsimp only | with_reducible apply bob_does

theorem noteCommit_does {cs : List Part} {c : State} (s : State) (id : Nat) (hs : [.twine] ⊆ cs) (hc : Does cs c s) :
    Does cs c (noteCommit s id) := by
  unfold noteCommit
  repeat' first
    | with_reducible assumption | with_reducible exact sub_of hs rfl | exact (rfl : TwineState.violations _ = _) | (intro)
    | with_reducible apply ite_does | with_reducible apply ite_fst_does | split
    | (extract_lets +onlyGivenNames y; first
        | (have hy : Does cs c y := ?_; clear_value y) | (have hy : Does cs c y.1 := ?_; clear_value y)
        | (have hy : Does cs c y.2 := ?_; clear_value y) | (let z : TwineState := y; clear z) | clear_value y)
    | dsimp only | with_reducible apply twine_does

theorem settleBobbin_does {cs : List Part} {c : State} (s : State) (ch : Nat) (old : Bobbin) (new : Bobbin) (kind : Nat)
    (hs : [.objs, .log, .bob, .twine] ⊆ cs) (hc : Does cs c s) :
    Does cs c (settleBobbin s ch old new kind) := by
  unfold settleBobbin
  repeat' first
    | with_reducible assumption | with_reducible exact sub_of hs rfl | (intro) | with_reducible apply State_setBobbin_does
    | with_reducible apply State_ev_does | with_reducible apply State_bump_does | with_reducible apply noteCommit_does
    | with_reducible apply ite_does | with_reducible apply ite_fst_does | split
    | (extract_lets +onlyGivenNames y; first
        | (have hy : Does cs c y := ?_; clear_value y) | (have hy : Does cs c y.1 := ?_; clear_value y)
        | (have hy : Does cs c y.2 := ?_; clear_value y) | clear_value y)
    | with_reducible apply each_does | dsimp only

theorem bobGap_does {cs : List Part} {c : State} (s : State) (ch : Nat) (reason : Nat) (scope : Nat) (start : Nat) (stop : Nat)
    (hs : [.objs, .log, .bob, .twine] ⊆ cs) (hc : Does cs c s) :
    Does cs c (bobGap s ch reason scope start stop) := by
  unfold bobGap
  repeat' first
    | with_reducible assumption | with_reducible exact sub_of hs rfl | (intro) | with_reducible apply settleBobbin_does
    | (extract_lets +onlyGivenNames y; first
        | (have hy : Does cs c y := ?_; clear_value y) | (have hy : Does cs c y.1 := ?_; clear_value y)
        | (have hy : Does cs c y.2 := ?_; clear_value y) | clear_value y)
    | dsimp only

theorem bobWord_does {cs : List Part} {c : State} (s : State) (ch : Nat) (kind : Nat) (t : Nat) (interval : Nat) (word : Nat)
    (hs : [.objs, .log, .bob, .twine] ⊆ cs) (hc : Does cs c s) :
    Does cs c (bobWord s ch kind t interval word) := by
  unfold bobWord
  repeat' first
    | with_reducible assumption | with_reducible exact sub_of hs rfl | (intro) | with_reducible apply bobGap_does
    | with_reducible apply settleBobbin_does | with_reducible apply State_put_does | with_reducible apply ite_does
    | with_reducible apply ite_fst_does | split
    | (extract_lets +onlyGivenNames y; first
        | (have hy : Does cs c y := ?_; clear_value y) | (have hy : Does cs c y.1 := ?_; clear_value y)
        | (have hy : Does cs c y.2 := ?_; clear_value y) | clear_value y)
    | dsimp only

theorem bobRecord_does {cs : List Part} {c : State} (s : State) (ch : Nat) (key : Nat) (bytes : Bytes)
    (hs : [.objs, .log, .bob, .twine] ⊆ cs) (hc : Does cs c s) :
    Does cs c (bobRecord s ch key bytes) := by
  unfold bobRecord
  repeat' first
    | with_reducible assumption | with_reducible exact sub_of hs rfl | (intro) | with_reducible apply bobGap_does
    | with_reducible apply settleBobbin_does | with_reducible apply State_put_does | with_reducible apply ite_does
    | with_reducible apply ite_fst_does | split
    | (extract_lets +onlyGivenNames y; first
        | (have hy : Does cs c y := ?_; clear_value y) | (have hy : Does cs c y.1 := ?_; clear_value y)
        | (have hy : Does cs c y.2 := ?_; clear_value y) | clear_value y)
    | dsimp only

theorem overflowed_does {cs : List Part} {c : State} (on : Bool) (f : State → State) (s : State) (hh1 : ∀ y0, Does cs c y0 → Does cs c (f y0))
    (hs : [.bob] ⊆ cs) (hc : Does cs c s) :
    Does cs c (overflowed on f s) := by
  unfold overflowed
  repeat' first
    | with_reducible assumption | with_reducible exact sub_of hs rfl | (intro) | apply hh1 | with_reducible apply ite_does
    | with_reducible apply ite_fst_does | split
    | (extract_lets +onlyGivenNames y; first
        | (have hy : Does cs c y := ?_; clear_value y) | (have hy : Does cs c y.1 := ?_; clear_value y)
        | (have hy : Does cs c y.2 := ?_; clear_value y) | (let z : BobbinState := y; clear z) | clear_value y)
    | dsimp only | with_reducible apply bob_does

theorem sealBobbin_does {cs : List Part} {c : State} (s : State) (ch : Nat) (all : Bool) (hs : [.bob] ⊆ cs) (hc : Does cs c s) :
    Does cs c (sealBobbin s ch all) := by
  unfold sealBobbin
  repeat' first
    | with_reducible assumption | with_reducible exact sub_of hs rfl | (intro) | with_reducible apply State_setBobbin_does
    | with_reducible apply ite_does | with_reducible apply ite_fst_does | split | dsimp only

theorem ackChannel_does {cs : List Part} {c : State} (s : State) (ch : Nat) (t : Nat) (hs : [.objs, .bob] ⊆ cs) (hc : Does cs c s) :
    Does cs c (ackChannel s ch t) := by
  unfold ackChannel
  repeat' first
    | with_reducible assumption | with_reducible exact sub_of hs rfl | (intro) | with_reducible apply State_put_does
    | with_reducible apply State_setBobbin_does | with_reducible apply ite_does | with_reducible apply ite_fst_does | split
    | (extract_lets +onlyGivenNames y; first
        | (have hy : Does cs c y := ?_; clear_value y) | (have hy : Does cs c y.1 := ?_; clear_value y)
        | (have hy : Does cs c y.2 := ?_; clear_value y) | clear_value y)
    | dsimp only

theorem resumeDoffing_does {cs : List Part} {c : State} (s : State) (hs : [.bob] ⊆ cs) (hc : Does cs c s) :
    Does cs c (resumeDoffing s) := by
  unfold resumeDoffing
  repeat' first
    | with_reducible assumption | with_reducible exact sub_of hs rfl | (intro) | with_reducible apply State_setBobbin_does
    | with_reducible apply each_does | dsimp only

theorem shrinkBobbin_does {cs : List Part} {c : State} (s : State) (ch : Nat) (hs : [.bob] ⊆ cs) (hc : Does cs c s) :
    Does cs c (shrinkBobbin s ch) := by
  unfold shrinkBobbin
  repeat' first
    | with_reducible assumption | with_reducible exact sub_of hs rfl | (intro) | with_reducible apply State_setBobbin_does
    | with_reducible apply ite_does | with_reducible apply ite_fst_does | split | dsimp only

theorem discardBobbin_does {cs : List Part} {c : State} (s : State) (ch : Nat) (hs : [.log, .bob] ⊆ cs) (hc : Does cs c s) :
    Does cs c (discardBobbin s ch) := by
  unfold discardBobbin
  repeat' first
    | with_reducible assumption | with_reducible exact sub_of hs rfl | (intro) | with_reducible apply State_ev_does
    | with_reducible apply State_setBobbin_does
    | (extract_lets +onlyGivenNames y; first
        | (have hy : Does cs c y := ?_; clear_value y) | (have hy : Does cs c y.1 := ?_; clear_value y)
        | (have hy : Does cs c y.2 := ?_; clear_value y) | clear_value y)
    | dsimp only

theorem bobbinModeChanged_does {cs : List Part} {c : State} (s : State) (ch : Nat) (t0 : Nat) (old : Nat) (new : Nat)
    (hs : [.bob, .twine] ⊆ cs) (hc : Does cs c s) :
    Does cs c (bobbinModeChanged s ch t0 old new) := by
  unfold bobbinModeChanged
  repeat' first
    | with_reducible assumption | with_reducible exact sub_of hs rfl | exact (rfl : TwineState.violations _ = _) | (intro)
    | with_reducible apply sealBobbin_does | with_reducible apply State_setBobbin_does | with_reducible apply ite_does
    | with_reducible apply ite_fst_does | split
    | (extract_lets +onlyGivenNames y; first
        | (have hy : Does cs c y := ?_; clear_value y) | (have hy : Does cs c y.1 := ?_; clear_value y)
        | (have hy : Does cs c y.2 := ?_; clear_value y) | (let z : TwineState := y; clear z) | clear_value y)
    | dsimp only | with_reducible apply twine_does

theorem windowBegin_does {cs : List Part} {c : State} (s : State) (b : Bytes) (hs : [.bob] ⊆ cs) (hc : Does cs c s) :
    Does cs c (windowBegin s b) := by
  unfold windowBegin
  repeat' first
    | with_reducible assumption | with_reducible exact sub_of hs rfl | (intro) | dsimp only | with_reducible apply bob_does

end Sys2Proof.Machine
end

