-- ==== Sys2Proof/Laws/Excite.lean ====
section
/-! SUPPORT. What each operation of Machine/Excite.lean does at most: the parts it changes, and what it keeps. -/

namespace Sys2Proof.Machine

set_option linter.all false

theorem State_setCreel_does {cs : List Part} {c : State} (s : State) (k : Nat) (c' : Creel) (hs : [.samp] ⊆ cs) (hc : Does cs c s) :
    Does cs c (State.setCreel s k c') := by
  unfold State.setCreel
  repeat' first
    | with_reducible assumption | with_reducible exact sub_of hs rfl | (intro) | with_reducible apply ite_does
    | with_reducible apply ite_fst_does | split
    | (extract_lets +onlyGivenNames y; first
        | (have hy : Does cs c y := ?_; clear_value y) | (have hy : Does cs c y.1 := ?_; clear_value y)
        | (have hy : Does cs c y.2 := ?_; clear_value y) | (let z : SampState := y; clear z) | clear_value y)
    | with_reducible apply foldl_does | with_reducible apply foldl_fst_does | dsimp only | with_reducible apply samp_does

theorem State_setDriver_does {cs : List Part} {c : State} (s : State) (k : Nat) (d : Driver)
    (hs : [.samp] ⊆ cs) (hc : Does cs c s) :
    Does cs c (State.setDriver s k d) := by
  unfold State.setDriver
  repeat' first
    | with_reducible assumption | with_reducible exact sub_of hs rfl | (intro) | with_reducible apply ite_does
    | with_reducible apply ite_fst_does | split
    | (extract_lets +onlyGivenNames y; first
        | (have hy : Does cs c y := ?_; clear_value y) | (have hy : Does cs c y.1 := ?_; clear_value y)
        | (have hy : Does cs c y.2 := ?_; clear_value y) | (let z : SampState := y; clear z) | clear_value y)
    | with_reducible apply foldl_does | with_reducible apply foldl_fst_does | dsimp only | with_reducible apply samp_does

theorem State_setConv_does {cs : List Part} {c : State} (s : State) (c' : Nat) (x : Converter)
    (hs : [.samp] ⊆ cs) (hc : Does cs c s) :
    Does cs c (State.setConv s c' x) := by
  unfold State.setConv
  repeat' first
    | with_reducible assumption | with_reducible exact sub_of hs rfl | (intro) | with_reducible apply ite_does
    | with_reducible apply ite_fst_does | split
    | (extract_lets +onlyGivenNames y; first
        | (have hy : Does cs c y := ?_; clear_value y) | (have hy : Does cs c y.1 := ?_; clear_value y)
        | (have hy : Does cs c y.2 := ?_; clear_value y) | (let z : SampState := y; clear z) | clear_value y)
    | with_reducible apply foldl_does | with_reducible apply foldl_fst_does | dsimp only | with_reducible apply samp_does

theorem State_setInjector_does {cs : List Part} {c : State} (s : State) (c' : Nat) (x : Injector)
    (hs : [.samp] ⊆ cs) (hc : Does cs c s) :
    Does cs c (State.setInjector s c' x) := by
  unfold State.setInjector
  repeat' first
    | with_reducible assumption | with_reducible exact sub_of hs rfl | (intro) | with_reducible apply ite_does
    | with_reducible apply ite_fst_does | split
    | (extract_lets +onlyGivenNames y; first
        | (have hy : Does cs c y := ?_; clear_value y) | (have hy : Does cs c y.1 := ?_; clear_value y)
        | (have hy : Does cs c y.2 := ?_; clear_value y) | (let z : SampState := y; clear z) | clear_value y)
    | with_reducible apply foldl_does | with_reducible apply foldl_fst_does | dsimp only | with_reducible apply samp_does

theorem State_setInputTrack_does {cs : List Part} {c : State} (s : State) (ch : Nat) (o : OpenTrack)
    (hs : [.samp] ⊆ cs) (hc : Does cs c s) :
    Does cs c (State.setInputTrack s ch o) := by
  unfold State.setInputTrack
  repeat' first
    | with_reducible assumption | with_reducible exact sub_of hs rfl | (intro) | with_reducible apply ite_does
    | with_reducible apply ite_fst_does | split
    | (extract_lets +onlyGivenNames y; first
        | (have hy : Does cs c y := ?_; clear_value y) | (have hy : Does cs c y.1 := ?_; clear_value y)
        | (have hy : Does cs c y.2 := ?_; clear_value y) | (let z : SampState := y; clear z) | clear_value y)
    | with_reducible apply foldl_does | with_reducible apply foldl_fst_does | dsimp only | with_reducible apply samp_does

theorem switchEvent_does {cs : List Part} {c : State} (s : State) (k : Nat) (t0 : Nat) (hs : [.samp] ⊆ cs) (hc : Does cs c s) :
    Does cs c (switchEvent s k t0) := by
  unfold switchEvent
  repeat' first
    | with_reducible assumption | with_reducible exact sub_of hs rfl | (intro) | with_reducible apply State_setDriver_does
    | (extract_lets +onlyGivenNames y; first
        | (have hy : Does cs c y := ?_; clear_value y) | (have hy : Does cs c y.1 := ?_; clear_value y)
        | (have hy : Does cs c y.2 := ?_; clear_value y) | (let z : SampState := y; clear z) | clear_value y)
    | dsimp only | with_reducible apply samp_does

theorem excWritten_does {cs : List Part} {c : State} (s : State) (k : Nat) (t0 : Nat) (modeBefore : Nat) (voltBefore : Nat) (modeWritten : Bool)
    (hs : [.samp] ⊆ cs) (hc : Does cs c s) :
    Does cs c (excWritten s k t0 modeBefore voltBefore modeWritten) := by
  unfold excWritten
  repeat' first
    | with_reducible assumption | with_reducible exact sub_of hs rfl | (intro) | with_reducible apply switchEvent_does
    | with_reducible apply State_setDriver_does | with_reducible apply ite_does | with_reducible apply ite_fst_does | split
    | (extract_lets +onlyGivenNames y; first
        | (have hy : Does cs c y := ?_; clear_value y) | (have hy : Does cs c y.1 := ?_; clear_value y)
        | (have hy : Does cs c y.2 := ?_; clear_value y) | clear_value y)
    | dsimp only

theorem excSlot_does {cs : List Part} {c : State} (s : State) (k : Nat) (t : Nat) (sense : Int) (current : Nat)
    (hs : [.objs, .log, .samp] ⊆ cs) (hc : Does cs c s) :
    Does cs c (excSlot s k t sense current) := by
  unfold excSlot
  repeat' first
    | with_reducible assumption | with_reducible exact sub_of hs rfl | (intro) | with_reducible apply State_put_does
    | with_reducible apply State_evAt_does | with_reducible apply State_bump_does | with_reducible apply State_setDriver_does
    | with_reducible apply switchEvent_does | with_reducible apply ite_does | with_reducible apply ite_fst_does | split
    | (extract_lets +onlyGivenNames y; first
        | (have hy : Does cs c y := ?_; clear_value y) | (have hy : Does cs c y.1 := ?_; clear_value y)
        | (have hy : Does cs c y.2 := ?_; clear_value y) | clear_value y)
    | dsimp only

theorem refreshBuffers_does {cs : List Part} {c : State} (s : State) (c' : Nat) (t0 : Nat) (hs : [.samp] ⊆ cs) (hc : Does cs c s) :
    Does cs c (refreshBuffers s c' t0) := by
  unfold refreshBuffers
  repeat' first
    | with_reducible assumption | with_reducible exact sub_of hs rfl | (intro) | with_reducible apply State_setConv_does
    | with_reducible apply ite_does | with_reducible apply ite_fst_does | split
    | (extract_lets +onlyGivenNames y; first
        | (have hy : Does cs c y := ?_; clear_value y) | (have hy : Does cs c y.1 := ?_; clear_value y)
        | (have hy : Does cs c y.2 := ?_; clear_value y) | clear_value y)
    | dsimp only

theorem refillHolds_does {cs : List Part} {c : State} (old : State) (t0 : Nat) (s : State)
    (hs : [.objs, .samp] ⊆ cs) (hc : Does cs c s) :
    Does cs c (refillHolds old t0 s) := by
  unfold refillHolds
  exact each_does _ _ _ (fun _ _ h => State_addK_does _ _ _ _ (sub_of hs rfl) h) (samp_does (sub_of hs rfl) hc)

theorem switchDriver_does {cs : List Part} {c : State} (s : State) (k : Nat) (t0 : Nat)
    (hs : [.objs, .samp] ⊆ cs) (hc : Does cs c s) :
    Does cs c (switchDriver s k t0) := by
  unfold switchDriver
  repeat' first
    | with_reducible assumption | with_reducible exact sub_of hs rfl | (intro) | with_reducible apply refillHolds_does
    | with_reducible apply switchEvent_does | dsimp only

theorem refinSlot_does {cs : List Part} {c : State} (s : State) (t : Nat) (refin : Nat)
    (hs : [.log, .samp] ⊆ cs) (hc : Does cs c s) :
    Does cs c (refinSlot s t refin) := by
  unfold refinSlot
  repeat' first
    | with_reducible assumption | with_reducible exact sub_of hs rfl | (intro) | with_reducible apply State_evAt_does
    | with_reducible apply ite_does | with_reducible apply ite_fst_does | split
    | (extract_lets +onlyGivenNames y; first
        | (have hy : Does cs c y := ?_; clear_value y) | (have hy : Does cs c y.1 := ?_; clear_value y)
        | (have hy : Does cs c y.2 := ?_; clear_value y) | (let z : SampState := y; clear z) | clear_value y)
    | dsimp only | with_reducible apply samp_does

theorem tripDriver_does {cs : List Part} {c : State} (s : State) (k : Nat) (hs : [.log, .samp] ⊆ cs) (hc : Does cs c s) :
    Does cs c (tripDriver s k) := by
  unfold tripDriver
  repeat' first
    | with_reducible assumption | with_reducible exact sub_of hs rfl | (intro) | with_reducible apply State_ev_does
    | with_reducible apply State_setDriver_does | dsimp only

end Sys2Proof.Machine
end

