-- ==== Sys2Proof/Laws/Calib.lean ====
section
/-! SUPPORT. What each operation of Machine/Calib.lean does at most: the parts it changes, and what it keeps. -/

namespace Sys2Proof.Machine

set_option linter.all false

theorem noteSaturation_does {cs : List Part} {c : State} (s : State) (c' : Nat) (t : Nat)
    (hs : [.log, .cal] ⊆ cs) (hc : Does cs c s) :
    Does cs c (noteSaturation s c' t) := by
  unfold noteSaturation
  repeat' first
    | with_reducible assumption | with_reducible exact sub_of hs rfl | (intro) | with_reducible apply State_evAt_does
    | with_reducible apply ite_does | with_reducible apply ite_fst_does | split
    | (extract_lets +onlyGivenNames y; first
        | (have hy : Does cs c y := ?_; clear_value y) | (have hy : Does cs c y.1 := ?_; clear_value y)
        | (have hy : Does cs c y.2 := ?_; clear_value y) | (let z : CalState := y; clear z) | clear_value y)
    | with_reducible apply each_does | dsimp only | with_reducible apply cal_does

theorem calSetChanged_does {cs : List Part} {c : State} (s : State) (c' : Nat) (t : Nat)
    (hs : [.objs, .log, .cal] ⊆ cs) (hc : Does cs c s) :
    Does cs c (calSetChanged s c' t) := by
  unfold calSetChanged
  repeat' first
    | with_reducible assumption | with_reducible exact sub_of hs rfl | (intro) | with_reducible apply noteSaturation_does
    | with_reducible apply State_evAt_does | with_reducible apply State_put_does
    | (extract_lets +onlyGivenNames y; first
        | (have hy : Does cs c y := ?_; clear_value y) | (have hy : Does cs c y.1 := ?_; clear_value y)
        | (have hy : Does cs c y.2 := ?_; clear_value y) | clear_value y)
    | dsimp only

theorem tempStep_does {cs : List Part} {c : State} (t : Nat) (s : State) (x : Nat × Int)
    (hs : [.objs, .log, .cal] ⊆ cs) (hc : Does cs c s) :
    Does cs c (tempStep t s x) := by
  unfold tempStep
  repeat' first
    | with_reducible assumption | with_reducible exact sub_of hs rfl | (intro) | with_reducible apply State_putK_does
    | with_reducible apply noteSaturation_does | with_reducible apply State_evAt_does | with_reducible apply ite_does
    | with_reducible apply ite_fst_does | split
    | (extract_lets +onlyGivenNames y; first
        | (have hy : Does cs c y := ?_; clear_value y) | (have hy : Does cs c y.1 := ?_; clear_value y)
        | (have hy : Does cs c y.2 := ?_; clear_value y) | clear_value y)
    | dsimp only

theorem calAutoRequest_does {cs : List Part} {c : State} (s : State) (t : Nat) (hs : [.cal] ⊆ cs) (hc : Does cs c s) :
    Does cs c (calAutoRequest s t) := by
  unfold calAutoRequest
  repeat' first
    | with_reducible assumption | with_reducible exact sub_of hs rfl | (intro) | with_reducible apply ite_does
    | with_reducible apply ite_fst_does | split | dsimp only | with_reducible apply cal_does

theorem tempRequest_does {cs : List Part} {c : State} (s : State) (t : Nat) (hs : [.cal] ⊆ cs) (hc : Does cs c s) :
    Does cs c (tempRequest s t) := by
  unfold tempRequest
  repeat' first
    | with_reducible assumption | with_reducible exact sub_of hs rfl | (intro) | with_reducible apply calAutoRequest_does
    | with_reducible apply ite_does | with_reducible apply ite_fst_does | split
    | (extract_lets +onlyGivenNames y; first
        | (have hy : Does cs c y := ?_; clear_value y) | (have hy : Does cs c y.1 := ?_; clear_value y)
        | (have hy : Does cs c y.2 := ?_; clear_value y) | (let z : CalState := y; clear z) | clear_value y)
    | dsimp only | with_reducible apply cal_does

theorem runBegins_does {cs : List Part} {c : State} (t : Nat) (s : State) (c' : Nat) (hs : [.cal] ⊆ cs) (hc : Does cs c s) :
    Does cs c (runBegins t s c') := by
  unfold runBegins
  repeat' first
    | with_reducible assumption | with_reducible exact sub_of hs rfl | (intro) | dsimp only | with_reducible apply cal_does

theorem reliefRunBegins_does {cs : List Part} {c : State} (s : State) (t : Nat) (hs : [.cal] ⊆ cs) (hc : Does cs c s) :
    Does cs c (reliefRunBegins s t) := by
  unfold reliefRunBegins
  repeat' first
    | with_reducible assumption | with_reducible exact sub_of hs rfl | (intro) | with_reducible apply runBegins_does
    | with_reducible apply ite_does | with_reducible apply ite_fst_does | split | dsimp only

theorem calBoundary_does {cs : List Part} {c : State} (s : State) (t : Nat) (temps : List Int)
    (hs : [.objs, .log, .cal] ⊆ cs) (hc : Does cs c s) :
    Does cs c (calBoundary s t temps) := by
  unfold calBoundary
  repeat' first
    | with_reducible assumption | with_reducible exact sub_of hs rfl | (intro) | with_reducible apply tempRequest_does
    | with_reducible apply reliefRunBegins_does | with_reducible apply tempStep_does | with_reducible apply foldl_does | dsimp only

theorem calStartAt_does {cs : List Part} {c : State} (s : State) (t : Nat) (hs : [.cal] ⊆ cs) (hc : Does cs c s) :
    Does cs c (calStartAt s t) := by
  unfold calStartAt
  repeat' first
    | with_reducible assumption | with_reducible exact sub_of hs rfl | (intro) | dsimp only | with_reducible apply cal_does

theorem calNoRef_does {cs : List Part} {c : State} (s : State) (auto : Bool) (hs : [.log, .cal] ⊆ cs) (hc : Does cs c s) :
    Does cs c (calNoRef s auto) := by
  unfold calNoRef
  repeat' first
    | with_reducible assumption | with_reducible exact sub_of hs rfl | (intro) | with_reducible apply State_ev_does
    | with_reducible apply ite_does | with_reducible apply ite_fst_does | split
    | (extract_lets +onlyGivenNames y; first
        | (have hy : Does cs c y := ?_; clear_value y) | (have hy : Does cs c y.1 := ?_; clear_value y)
        | (have hy : Does cs c y.2 := ?_; clear_value y) | (let z : CalState := y; clear z) | clear_value y)
    | dsimp only | with_reducible apply cal_does

theorem formRun_does {cs : List Part} {c : State} (s : State) (t : Nat) (refs : List Nat) (r : CalRun)
    (hs : [.free, .log] ⊆ cs) (hc : Does cs c s) :
    Does cs c (formRun s t refs r).2 := by
  unfold formRun
  repeat' first
    | with_reducible assumption | with_reducible exact sub_of hs rfl | (intro) | with_reducible apply State_evAt_does
    | with_reducible apply ite_does | with_reducible apply ite_fst_does | split
    | (extract_lets +onlyGivenNames y; first
        | (have hy : Does cs c y := ?_; clear_value y) | (have hy : Does cs c y.1 := ?_; clear_value y)
        | (have hy : Does cs c y.2 := ?_; clear_value y) | clear_value y)
    | dsimp only | with_reducible apply free_does

theorem acceptRun_does {cs : List Part} {c : State} (s : State) (t : Nat) (x : FormedRun)
    (hs : [.objs, .log, .cal] ⊆ cs) (hc : Does cs c s) :
    Does cs c (acceptRun s t x) := by
  unfold acceptRun
  have h : Does cs c { s with objs := withFormed s.objs x } := put_does (sub_of hs rfl) _ _ hc
  exact calSetChanged_does _ _ _ (sub_of hs rfl) (State_putK_does _ _ _ (sub_of hs rfl) (State_putK_does _ _ _ (sub_of hs rfl)
    (State_putK_does _ _ _ (sub_of hs rfl) h)))

theorem takeRun_does {cs : List Part} {c : State} (t : Nat) (w : Sweep) (s : State) (r : CalRun)
    (hs : [.free, .objs, .log, .cal] ⊆ cs) (hc : Does cs c s) :
    Does cs c (takeRun t w s r) := by
  unfold takeRun
  repeat' first
    | with_reducible assumption | with_reducible exact sub_of hs rfl | (intro) | with_reducible apply formRun_does
    | with_reducible apply acceptRun_does
    | (extract_lets +onlyGivenNames y; first
        | (have hy : Does cs c y := ?_; clear_value y) | (have hy : Does cs c y.1 := ?_; clear_value y)
        | (have hy : Does cs c y.2 := ?_; clear_value y) | clear_value y)
    | dsimp only

theorem endSweep_does {cs : List Part} {c : State} (s : State) (t : Nat) (completed : Bool)
    (hs : [.objs, .log, .samp, .cal] ⊆ cs) (hc : Does cs c s) :
    Does cs c (endSweep s t completed) := by
  unfold endSweep
  extract_lets d s1 s2 d2 d3 s3
  have h1 : Does cs c s1 := cal_does (sub_of hs rfl) hc
  have h2 : Does cs c s2 := refreshBuffers_does _ _ _ (sub_of hs rfl) h1
  have h3 : Does cs c s3 := ite_does (cal_does (sub_of hs rfl) (State_put_does _ _ _ _ (sub_of hs rfl) h2))
    (State_ev_does _ _ _ _ (sub_of hs rfl) h2)
  exact tempRequest_does _ _ (sub_of hs rfl) h3

theorem takeDev_does {cs : List Part} {c : State} (s : State) (hs : [.samp, .cal] ⊆ cs) (hc : Does cs c s) :
    Does cs c (takeDev s).2 := by
  unfold takeDev
  repeat' first
    | with_reducible assumption | with_reducible exact sub_of hs rfl | exact Nat.le_refl _
    | exact (rfl : TwineState.violations _ = _)
    | (refine fun (p : Part) hp => ?_; cases p <;> first | exact absurd (mem_of hs _ rfl) hp | exact rfl) | (intro)
    | with_reducible apply foldl_does | dsimp only | with_reducible apply samp_does | with_reducible apply cal_does
    | with_reducible refine does_mk ?_ ?_ ?_ ?_

theorem connectSpare_does {cs : List Part} {c : State} (s : State) (k : Nat) (t : Nat) (hs : [.cal] ⊆ cs) (hc : Does cs c s) :
    Does cs c (connectSpare s k t) := by
  unfold connectSpare
  repeat' first
    | with_reducible assumption | with_reducible exact sub_of hs rfl | (intro) | with_reducible apply ite_does
    | with_reducible apply ite_fst_does | split | dsimp only | with_reducible apply cal_does

theorem handoverConnect_does {cs : List Part} {c : State} (s : State) (c' : Nat) (t : Nat)
    (hs : [.samp, .cal] ⊆ cs) (hc : Does cs c s) :
    Does cs c (handoverConnect s c' t) := by
  unfold handoverConnect
  repeat' first
    | with_reducible assumption | with_reducible exact sub_of hs rfl | (intro) | with_reducible apply connectSpare_does
    | with_reducible apply refreshBuffers_does | with_reducible apply ite_does | with_reducible apply ite_fst_does | split
    | (extract_lets +onlyGivenNames y; first
        | (have hy : Does cs c y := ?_; clear_value y) | (have hy : Does cs c y.1 := ?_; clear_value y)
        | (have hy : Does cs c y.2 := ?_; clear_value y) | (let z : CalState := y; clear z) | clear_value y)
    | dsimp only | with_reducible apply cal_does

theorem handoverTake_does {cs : List Part} {c : State} (s : State) (w : Sweep) (c' : Nat) (t : Nat)
    (hs : [.objs, .log, .samp, .cal] ⊆ cs) (hc : Does cs c s) :
    Does cs c (handoverTake s w c' t) := by
  unfold handoverTake
  repeat' first
    | with_reducible assumption | with_reducible exact sub_of hs rfl | (intro) | with_reducible apply takeDev_does
    | with_reducible apply State_putK_does | with_reducible apply connectSpare_does | with_reducible apply refreshBuffers_does
    | with_reducible apply State_evAt_does | with_reducible apply State_addK_does | with_reducible apply runBegins_does
    | with_reducible apply ite_does | with_reducible apply ite_fst_does | split
    | (extract_lets +onlyGivenNames y; first
        | (have hy : Does cs c y := ?_; clear_value y) | (have hy : Does cs c y.1 := ?_; clear_value y)
        | (have hy : Does cs c y.2 := ?_; clear_value y) | (let z : CalState := y; clear z) | clear_value y)
    | dsimp only | with_reducible apply cal_does

theorem handoverForm_does {cs : List Part} {c : State} (s : State) (w : Sweep) (c' : Nat) (t : Nat) (runs : List CalRun)
    (hs : [.free, .log, .cal] ⊆ cs) (hc : Does cs c s) :
    Does cs c (handoverForm s w c' t runs) := by
  unfold handoverForm
  repeat' first
    | with_reducible assumption | with_reducible exact sub_of hs rfl | (intro) | with_reducible apply formRun_does
    | with_reducible apply ite_does | with_reducible apply ite_fst_does | split
    | (extract_lets +onlyGivenNames y; first
        | (have hy : Does cs c y := ?_; clear_value y) | (have hy : Does cs c y.1 := ?_; clear_value y)
        | (have hy : Does cs c y.2 := ?_; clear_value y) | (let z : CalState := y; clear z) | clear_value y)
    | dsimp only | with_reducible apply cal_does

theorem handoverBack_does {cs : List Part} {c : State} (s : State) (w : Sweep) (c' : Nat) (t : Nat)
    (hs : [.objs, .log, .samp, .cal] ⊆ cs) (hc : Does cs c s) :
    Does cs c (handoverBack s w c' t) := by
  unfold handoverBack
  repeat' first
    | with_reducible assumption | with_reducible exact sub_of hs rfl | (intro) | with_reducible apply takeDev_does
    | with_reducible apply State_putK_does | with_reducible apply State_evAt_does | with_reducible apply State_addK_does
    | with_reducible apply acceptRun_does | with_reducible apply ite_does | with_reducible apply ite_fst_does | split
    | (extract_lets +onlyGivenNames y; first
        | (have hy : Does cs c y := ?_; clear_value y) | (have hy : Does cs c y.1 := ?_; clear_value y)
        | (have hy : Does cs c y.2 := ?_; clear_value y) | (let z : CalState := y; clear z) | clear_value y)
    | dsimp only | with_reducible apply cal_does

end Sys2Proof.Machine
end

