-- ==== Sys2Proof/Laws/Drafting.lean ====
section
/-! SUPPORT. What each operation of Machine/Drafting.lean does at most: the parts it changes, and what it keeps. -/

namespace Sys2Proof.Machine

set_option linter.all false

theorem enterChange_does {cs : List Part} {c : State} (s : State) (t0 : Nat) (ch : Nat) (plan : Option Plan) (a : DraftAct × Bool)
    (hs : [.samp] ⊆ cs) (hc : Does cs c s) :
    Does cs c (enterChange s t0 ch plan a) := by
  unfold enterChange
  repeat' first
    | with_reducible assumption | with_reducible exact sub_of hs rfl | (intro) | split
    | (extract_lets +onlyGivenNames y; first
        | (have hy : Does cs c y := ?_; clear_value y) | (have hy : Does cs c y.1 := ?_; clear_value y)
        | (have hy : Does cs c y.2 := ?_; clear_value y) | (let z : SampState := y; clear z) | clear_value y)
    | dsimp only | with_reducible apply samp_does

theorem replan_does {cs : List Part} {c : State} (t0 : Nat) (force : Nat → Bool) (s : State) (ch : Nat)
    (hs : [.objs, .samp, .draft] ⊆ cs) (hc : Does cs c s) :
    Does cs c (replan t0 force s ch) := by
  unfold replan
  repeat' first
    | with_reducible assumption | with_reducible exact sub_of hs rfl | (intro) | with_reducible apply enterChange_does
    | with_reducible apply State_put_does | with_reducible apply ite_does | with_reducible apply ite_fst_does | split
    | (extract_lets +onlyGivenNames y; first
        | (have hy : Does cs c y := ?_; clear_value y) | (have hy : Does cs c y.1 := ?_; clear_value y)
        | (have hy : Does cs c y.2 := ?_; clear_value y) | (let z : DraftState := y; clear z) | clear_value y)
    | with_reducible apply foldl_does | with_reducible apply foldl_fst_does | dsimp only | with_reducible apply draft_does

theorem replanAll_does {cs : List Part} {c : State} (s : State) (t0 : Nat) (force : Nat → Bool)
    (hs : [.objs, .samp, .draft] ⊆ cs) (hc : Does cs c s) :
    Does cs c (replanAll s t0 force) := by
  unfold replanAll
  repeat' first
    | with_reducible assumption | with_reducible exact sub_of hs rfl | (intro) | with_reducible apply replan_does
    | with_reducible apply foldl_does | dsimp only

theorem syncRequest_does {cs : List Part} {c : State} (s : State) (ts : Nat) (pin : Bool)
    (hs : [.log, .draft] ⊆ cs) (hc : Does cs c s) :
    Does cs c (syncRequest s ts pin) := by
  unfold syncRequest
  repeat' first
    | with_reducible assumption | with_reducible exact sub_of hs rfl | (intro) | with_reducible apply State_ev_does
    | with_reducible apply ite_does | with_reducible apply ite_fst_does | split | dsimp only | with_reducible apply draft_does

theorem syncChannel_does {cs : List Part} {c : State} (ts : Nat) (s : State) (ch : Nat)
    (hs : [.samp, .draft] ⊆ cs) (hc : Does cs c s) :
    Does cs c (syncChannel ts s ch) := by
  unfold syncChannel
  repeat' first
    | with_reducible assumption | with_reducible exact sub_of hs rfl | (intro) | with_reducible apply enterChange_does
    | with_reducible apply ite_does | with_reducible apply ite_fst_does | split
    | (extract_lets +onlyGivenNames y; first
        | (have hy : Does cs c y := ?_; clear_value y) | (have hy : Does cs c y.1 := ?_; clear_value y)
        | (have hy : Does cs c y.2 := ?_; clear_value y) | (let z : DraftState := y; clear z) | clear_value y)
    | dsimp only | with_reducible apply draft_does

theorem syncBoundary_does {cs : List Part} {c : State} (s : State) (t : Nat)
    (hs : [.objs, .log, .samp, .draft] ⊆ cs) (hc : Does cs c s) :
    Does cs c (syncBoundary s t) := by
  unfold syncBoundary
  repeat' first
    | with_reducible assumption | with_reducible exact sub_of hs rfl | (intro) | with_reducible apply syncChannel_does
    | with_reducible apply State_evAt_does | with_reducible apply State_put_does | with_reducible apply ite_does
    | with_reducible apply ite_fst_does | split
    | (extract_lets +onlyGivenNames y; first
        | (have hy : Does cs c y := ?_; clear_value y) | (have hy : Does cs c y.1 := ?_; clear_value y)
        | (have hy : Does cs c y.2 := ?_; clear_value y) | (let z : DraftState := y; clear z) | clear_value y)
    | with_reducible apply foldl_does | dsimp only | with_reducible apply draft_does

end Sys2Proof.Machine
end

