-- ==== Sys2Proof/Laws/Dram.lean ====
section
/-! SUPPORT. What each operation of Machine/Dram.lean does at most: the parts it changes, and what it keeps. -/

namespace Sys2Proof.Machine

set_option linter.all false

theorem State_setRank_does {cs : List Part} {c : State} (s : State) (k : Nat) (r : Rank) (hs : [.dram] ⊆ cs) (hc : Does cs c s) :
    Does cs c (State.setRank s k r) := by
  unfold State.setRank
  repeat' first
    | with_reducible assumption | with_reducible exact sub_of hs rfl | (intro) | dsimp only | with_reducible apply dram_does

theorem closeRank_does {cs : List Part} {c : State} (s : State) (k : Nat) (hs : [.dram] ⊆ cs) (hc : Does cs c s) :
    Does cs c (closeRank s k) := by
  unfold closeRank
  repeat' first
    | with_reducible assumption | with_reducible exact sub_of hs rfl | (intro) | dsimp only | with_reducible apply dram_does

theorem dramAccess_does {cs : List Part} {c : State} (s : State) (r : DramReq) (hs : [.dram] ⊆ cs) (hc : Does cs c s) :
    Does cs c (dramAccess s r) := by
  unfold dramAccess
  repeat' first
    | with_reducible assumption | with_reducible exact sub_of hs rfl | (intro) | with_reducible apply State_setRank_does
    | with_reducible apply ite_does | with_reducible apply ite_fst_does | split
    | (extract_lets +onlyGivenNames y; first
        | (have hy : Does cs c y := ?_; clear_value y) | (have hy : Does cs c y.1 := ?_; clear_value y)
        | (have hy : Does cs c y.2 := ?_; clear_value y) | (let z : DramState := y; clear z) | clear_value y)
    | dsimp only | with_reducible apply dram_does

theorem issueRequests_does {cs : List Part} {c : State} (a0 : Nat) (a1 : State) (a2 : List DramReq)
    (hs : [.dram] ⊆ cs) (hc : Does cs c a1) :
    Does cs c (issueRequests a0 a1 a2) := by
  induction a0 generalizing a1 a2 with
  | zero => rw [issueRequests]; exact hc
  | succ n ih =>
    rw [issueRequests]; repeat' first
      | with_reducible assumption | with_reducible exact sub_of hs rfl | (intro) | with_reducible apply ih
      | with_reducible apply dramAccess_does | with_reducible apply ite_does | with_reducible apply ite_fst_does | split
      | (extract_lets +onlyGivenNames y; first
          | (have hy : Does cs c y := ?_; clear_value y) | (have hy : Does cs c y.1 := ?_; clear_value y)
          | (have hy : Does cs c y.2 := ?_; clear_value y) | (let z : DramState := y; clear z) | clear_value y)
      | with_reducible apply foldl_does | with_reducible apply foldl_fst_does | dsimp only | with_reducible apply dram_does

theorem panicStep_does {cs : List Part} {c : State} (s : State) (p : Nat) (fill : Nat)
    (hs : [.objs, .dram] ⊆ cs) (hc : Does cs c s) :
    Does cs c (panicStep s p fill) := by
  unfold panicStep
  repeat' first
    | with_reducible assumption | with_reducible exact sub_of hs rfl | (intro) | with_reducible apply State_addK_does
    | with_reducible apply ite_does | with_reducible apply ite_fst_does | split
    | (extract_lets +onlyGivenNames y; first
        | (have hy : Does cs c y := ?_; clear_value y) | (have hy : Does cs c y.1 := ?_; clear_value y)
        | (have hy : Does cs c y.2 := ?_; clear_value y) | (let z : DramState := y; clear z) | clear_value y)
    | dsimp only | with_reducible apply dram_does

theorem refreshRank_does {cs : List Part} {c : State} (s : State) (k : Nat) (n : Nat) (hs : [.dram] ⊆ cs) (hc : Does cs c s) :
    Does cs c (refreshRank s k n) := by
  unfold refreshRank
  repeat' first
    | with_reducible assumption | with_reducible exact sub_of hs rfl | (intro) | with_reducible apply closeRank_does
    | with_reducible apply State_setRank_does | with_reducible apply ite_does | with_reducible apply ite_fst_does | split
    | (extract_lets +onlyGivenNames y; first
        | (have hy : Does cs c y := ?_; clear_value y) | (have hy : Does cs c y.1 := ?_; clear_value y)
        | (have hy : Does cs c y.2 := ?_; clear_value y) | clear_value y)
    | dsimp only

theorem goHot_does {cs : List Part} {c : State} (s : State) (hs : [.objs, .log, .dram] ⊆ cs) (hc : Does cs c s) :
    Does cs c (goHot s) := by
  unfold goHot
  repeat' first
    | with_reducible assumption | with_reducible exact sub_of hs rfl | (intro) | with_reducible apply State_ev_does
    | with_reducible apply State_bump_does | with_reducible apply refreshRank_does | with_reducible apply ite_does
    | with_reducible apply ite_fst_does | split
    | (extract_lets +onlyGivenNames y; first
        | (have hy : Does cs c y := ?_; clear_value y) | (have hy : Does cs c y.1 := ?_; clear_value y)
        | (have hy : Does cs c y.2 := ?_; clear_value y) | (let z : DramState := y; clear z) | clear_value y)
    | with_reducible apply each_does | dsimp only | with_reducible apply dram_does

theorem trainAt_does {cs : List Part} {c : State} (s : State) (rate : Nat) (hs : [.dram] ⊆ cs) (hc : Does cs c s) :
    Does cs c (trainAt s rate) := by
  unfold trainAt
  repeat' first
    | with_reducible assumption | with_reducible exact sub_of hs rfl | (intro) | with_reducible apply closeRank_does
    | with_reducible apply State_setRank_does
    | (extract_lets +onlyGivenNames y; first
        | (have hy : Does cs c y := ?_; clear_value y) | (have hy : Does cs c y.1 := ?_; clear_value y)
        | (have hy : Does cs c y.2 := ?_; clear_value y) | (let z : DramState := y; clear z) | clear_value y)
    | with_reducible apply each_does | dsimp only | with_reducible apply dram_does

theorem speedRequest_does {cs : List Part} {c : State} (s : State) (rate : Nat) (hs : [.log, .dram] ⊆ cs) (hc : Does cs c s) :
    Does cs c (speedRequest s rate) := by
  unfold speedRequest
  repeat' first
    | with_reducible assumption | with_reducible exact sub_of hs rfl | (intro) | with_reducible apply State_ev_does
    | with_reducible apply trainAt_does | with_reducible apply ite_does | with_reducible apply ite_fst_does | split
    | (extract_lets +onlyGivenNames y; first
        | (have hy : Does cs c y := ?_; clear_value y) | (have hy : Does cs c y.1 := ?_; clear_value y)
        | (have hy : Does cs c y.2 := ?_; clear_value y) | (let z : DramState := y; clear z) | clear_value y)
    | dsimp only | with_reducible apply dram_does

theorem dramSpeedChanged_does {cs : List Part} {c : State} (s : State) (rate : Nat) (hs : [.log, .dram] ⊆ cs) (hc : Does cs c s) :
    Does cs c (dramSpeedChanged s rate) := by
  unfold dramSpeedChanged
  repeat' first
    | with_reducible assumption | with_reducible exact sub_of hs rfl | (intro) | with_reducible apply speedRequest_does
    | with_reducible apply ite_does | with_reducible apply ite_fst_does | split | dsimp only | with_reducible apply dram_does

theorem trainFailed_does {cs : List Part} {c : State} (s : State) (rate : Nat) (hs : [.log, .dram] ⊆ cs) (hc : Does cs c s) :
    Does cs c (trainFailed s rate) := by
  unfold trainFailed
  repeat' first
    | with_reducible assumption | with_reducible exact sub_of hs rfl | (intro) | with_reducible apply speedRequest_does
    | with_reducible apply State_ev_does | split | dsimp only | with_reducible apply dram_does

theorem trainDone_does {cs : List Part} {c : State} (s : State) (rate : Nat) (hs : [.objs, .dram] ⊆ cs) (hc : Does cs c s) :
    Does cs c (trainDone s rate) := by
  unfold trainDone
  repeat' first
    | with_reducible assumption | with_reducible exact sub_of hs rfl | (intro) | with_reducible apply State_put_does
    | (extract_lets +onlyGivenNames y; first
        | (have hy : Does cs c y := ?_; clear_value y) | (have hy : Does cs c y.1 := ?_; clear_value y)
        | (have hy : Does cs c y.2 := ?_; clear_value y) | (let z : DramState := y; clear z) | clear_value y)
    | dsimp only | with_reducible apply dram_does

theorem ueHank_does {cs : List Part} {c : State} (s : State) (u : UeHit)
    (hs : [.objs, .log, .bob, .twine] ⊆ cs) (hc : Does cs c s) :
    Does cs c (ueHank s u) := by
  unfold ueHank
  repeat' first
    | with_reducible assumption | with_reducible exact sub_of hs rfl | (intro) | with_reducible apply State_setBobbin_does
    | with_reducible apply State_ev_does | with_reducible apply bobGap_does | with_reducible apply ite_does
    | with_reducible apply ite_fst_does | split
    | (extract_lets +onlyGivenNames y; first
        | (have hy : Does cs c y := ?_; clear_value y) | (have hy : Does cs c y.1 := ?_; clear_value y)
        | (have hy : Does cs c y.2 := ?_; clear_value y) | clear_value y)
    | dsimp only

theorem dramUe_does {cs : List Part} {c : State} (s : State) (addr : Nat) (hit : Option UeHit)
    (hs : [.objs, .log, .bob, .twine] ⊆ cs) (hc : Does cs c s) :
    Does cs c (dramUe s addr hit) := by
  unfold dramUe
  repeat' first
    | with_reducible assumption | with_reducible exact sub_of hs rfl | (intro) | with_reducible apply State_ev_does
    | with_reducible apply State_put_does | with_reducible apply State_bump_does | with_reducible apply ueHank_does | split
    | (extract_lets +onlyGivenNames y; first
        | (have hy : Does cs c y := ?_; clear_value y) | (have hy : Does cs c y.1 := ?_; clear_value y)
        | (have hy : Does cs c y.2 := ?_; clear_value y) | clear_value y)
    | dsimp only

theorem dramUes_does {cs : List Part} {c : State} (s : State) (l : List (Nat × UeHit))
    (hs : [.objs, .log, .bob, .twine] ⊆ cs) (hc : Does cs c s) :
    Does cs c (dramUes s l) := by
  unfold dramUes
  repeat' first
    | with_reducible assumption | with_reducible exact sub_of hs rfl | (intro) | with_reducible apply dramUe_does
    | with_reducible apply foldl_does | with_reducible apply foldl_fst_does | dsimp only

theorem dramCe_does {cs : List Part} {c : State} (s : State) (addr : Nat) (hs : [.objs, .log, .dram] ⊆ cs) (hc : Does cs c s) :
    Does cs c (dramCe s addr) := by
  unfold dramCe
  repeat' first
    | with_reducible assumption | with_reducible exact sub_of hs rfl | (intro) | with_reducible apply State_bump_does
    | with_reducible apply State_ev_does | with_reducible apply ite_does | with_reducible apply ite_fst_does | split
    | (extract_lets +onlyGivenNames y; first
        | (have hy : Does cs c y := ?_; clear_value y) | (have hy : Does cs c y.1 := ?_; clear_value y)
        | (have hy : Does cs c y.2 := ?_; clear_value y) | (let z : DramState := y; clear z) | clear_value y)
    | dsimp only | with_reducible apply dram_does

end Sys2Proof.Machine
end

