-- ==== Sys2Proof/Laws/Links.lean ====
section
/-! SUPPORT. What each operation of Machine/Links.lean does at most: the parts it changes, and what it keeps. -/

namespace Sys2Proof.Machine

set_option linter.all false

theorem State_setLane_does {cs : List Part} {c : State} (s : State) (l : Nat) (v : Lane) (hs : [.lanes] ⊆ cs) (hc : Does cs c s) :
    Does cs c (State.setLane s l v) := by
  unfold State.setLane
  repeat' first
    | with_reducible assumption | with_reducible exact sub_of hs rfl | (intro) | dsimp only | with_reducible apply lanes_does

theorem State_setPdelay_does {cs : List Part} {c : State} (s : State) (l : Nat) (v : PeerDelay)
    (hs : [.ptp] ⊆ cs) (hc : Does cs c s) :
    Does cs c (State.setPdelay s l v) := by
  unfold State.setPdelay
  repeat' first
    | with_reducible assumption | with_reducible exact sub_of hs rfl | (intro) | dsimp only | with_reducible apply ptp_does

theorem State_setEgress_does {cs : List Part} {c : State} (s : State) (p : Nat) (e : Egress) (hs : [.ptp] ⊆ cs) (hc : Does cs c s) :
    Does cs c (State.setEgress s p e) := by
  unfold State.setEgress
  repeat' first
    | with_reducible assumption | with_reducible exact sub_of hs rfl | (intro) | dsimp only | with_reducible apply ptp_does

theorem enqueue_does {cs : List Part} {c : State} (s : State) (p : Nat) (f : TxFrame) (hs : [.objs, .ptp] ⊆ cs) (hc : Does cs c s) :
    Does cs c (enqueue s p f) := by
  unfold enqueue
  repeat' first
    | with_reducible assumption | with_reducible exact sub_of hs rfl | (intro) | with_reducible apply State_bump_does
    | with_reducible apply State_setEgress_does | with_reducible apply ite_does | with_reducible apply ite_fst_does | split
    | (extract_lets +onlyGivenNames y; first
        | (have hy : Does cs c y := ?_; clear_value y) | (have hy : Does cs c y.1 := ?_; clear_value y)
        | (have hy : Does cs c y.2 := ?_; clear_value y) | clear_value y)
    | dsimp only

theorem sendTwineOn_does {cs : List Part} {c : State} (s : State) (p : Nat) (h : TwineHead) (body : Bytes)
    (hs : [.objs, .ptp] ⊆ cs) (hc : Does cs c s) :
    Does cs c (sendTwineOn s p h body) := by
  unfold sendTwineOn
  repeat' first
    | with_reducible assumption | with_reducible exact sub_of hs rfl | (intro) | with_reducible apply enqueue_does
    | (extract_lets +onlyGivenNames y; first
        | (have hy : Does cs c y := ?_; clear_value y) | (have hy : Does cs c y.1 := ?_; clear_value y)
        | (have hy : Does cs c y.2 := ?_; clear_value y) | clear_value y)
    | dsimp only

theorem sendTwine_does {cs : List Part} {c : State} (s : State) (h : TwineHead) (body : Bytes)
    (hs : [.objs, .ptp] ⊆ cs) (hc : Does cs c s) :
    Does cs c (sendTwine s h body) := by
  unfold sendTwine
  repeat' first
    | with_reducible assumption | with_reducible exact sub_of hs rfl | (intro) | with_reducible apply sendTwineOn_does
    | with_reducible apply foldl_does | dsimp only

end Sys2Proof.Machine
end

