-- ==== Sys2Proof/Laws/Time.lean ====
section
/-! SUPPORT. What each operation of Machine/Time.lean does at most: the parts it changes, and what it keeps. -/

namespace Sys2Proof.Machine

set_option linter.all false

theorem State_setStrand_does {cs : List Part} {c : State} (s : State) (x : Nat) (v : Strand)
    (hs : [.time] ⊆ cs) (hc : Does cs c s) :
    Does cs c (State.setStrand s x v) := by
  unfold State.setStrand
  repeat' first
    | with_reducible assumption | with_reducible exact sub_of hs rfl | (intro) | dsimp only | with_reducible apply time_does

theorem enterStrand_does {cs : List Part} {c : State} (s : State) (x : Nat) (st : Nat)
    (hs : [.objs, .log, .time] ⊆ cs) (hc : Does cs c s) :
    Does cs c (enterStrand s x st) := by
  unfold enterStrand
  repeat' first
    | with_reducible assumption | with_reducible exact sub_of hs rfl | (intro) | with_reducible apply State_ev_does
    | with_reducible apply State_put_does | with_reducible apply State_setStrand_does | with_reducible apply ite_does
    | with_reducible apply ite_fst_does | split
    | (extract_lets +onlyGivenNames y; first
        | (have hy : Does cs c y := ?_; clear_value y) | (have hy : Does cs c y.1 := ?_; clear_value y)
        | (have hy : Does cs c y.2 := ?_; clear_value y) | (let z : TimeState := y; clear z) | clear_value y)
    | dsimp only | with_reducible apply time_does

theorem advanceStrand_does {cs : List Part} {c : State} (n : Nat) (s : State) (x : Nat) (hs : [.time] ⊆ cs) (hc : Does cs c s) :
    Does cs c (advanceStrand n s x) := by
  unfold advanceStrand
  repeat' first
    | with_reducible assumption | with_reducible exact sub_of hs rfl | (intro) | with_reducible apply State_setStrand_does
    | with_reducible apply ite_does | with_reducible apply ite_fst_does | split
    | (extract_lets +onlyGivenNames y; first
        | (have hy : Does cs c y := ?_; clear_value y) | (have hy : Does cs c y.1 := ?_; clear_value y)
        | (have hy : Does cs c y.2 := ?_; clear_value y) | clear_value y)
    | dsimp only

theorem advanceStrands_does {cs : List Part} {c : State} (s : State) (a : StrandAdv) (hs : [.time] ⊆ cs) (hc : Does cs c s) :
    Does cs c (advanceStrands s a) := by
  unfold advanceStrands
  repeat' first
    | with_reducible assumption | with_reducible exact sub_of hs rfl | (intro) | with_reducible apply advanceStrand_does
    | dsimp only

theorem State_elapse_does {cs : List Part} {c : State} (s : State) (t : Nat) (a : StrandAdv)
    (hs : [.now, .time] ⊆ cs) (hc : Does cs c s) :
    Does cs c (State.elapse s t a) := by
  unfold State.elapse
  repeat' first
    | with_reducible assumption | with_reducible exact sub_of hs rfl | (intro) | with_reducible apply advanceStrands_does
    | with_reducible apply State_advance_does
    | (extract_lets +onlyGivenNames y; first
        | (have hy : Does cs c y := ?_; clear_value y) | (have hy : Does cs c y.1 := ?_; clear_value y)
        | (have hy : Does cs c y.2 := ?_; clear_value y) | (let z : TimeState := y; clear z) | clear_value y)
    | dsimp only | with_reducible apply time_does

theorem setRate_does {cs : List Part} {c : State} (s : State) (x : Nat) (hs : [.objs] ⊆ cs) (hc : Does cs c s) :
    Does cs c (setRate s x) := by
  unfold setRate
  repeat' first
    | with_reducible assumption | with_reducible exact sub_of hs rfl | (intro) | with_reducible apply State_putI_does
    | with_reducible apply ite_does | with_reducible apply ite_fst_does | split
    | (extract_lets +onlyGivenNames y; first
        | (have hy : Does cs c y := ?_; clear_value y) | (have hy : Does cs c y.1 := ?_; clear_value y)
        | (have hy : Does cs c y.2 := ?_; clear_value y) | clear_value y)
    | dsimp only

theorem servoUpdate_does {cs : List Part} {c : State} (s : State) (x : Nat) (err : Int) (ratio : Option Int)
    (hs : [.free, .time] ⊆ cs) (hc : Does cs c s) :
    Does cs c (servoUpdate s x err ratio) := by
  unfold servoUpdate
  repeat' first
    | with_reducible assumption | with_reducible exact sub_of hs rfl | (intro) | with_reducible apply State_freshInt_does
    | with_reducible apply State_setStrand_does | with_reducible apply ite_does | with_reducible apply ite_fst_does | split
    | (extract_lets +onlyGivenNames y; first
        | (have hy : Does cs c y := ?_; clear_value y) | (have hy : Does cs c y.1 := ?_; clear_value y)
        | (have hy : Does cs c y.2 := ?_; clear_value y) | clear_value y)
    | dsimp only

theorem stepStrand_does {cs : List Part} {c : State} (s : State) (x : Nat) (err : Int)
    (hs : [.objs, .time] ⊆ cs) (hc : Does cs c s) :
    Does cs c (stepStrand s x err) := by
  unfold stepStrand
  repeat' first
    | with_reducible assumption | with_reducible exact sub_of hs rfl | (intro) | with_reducible apply State_setStrand_does
    | with_reducible apply State_put_does
    | (extract_lets +onlyGivenNames y; first
        | (have hy : Does cs c y := ?_; clear_value y) | (have hy : Does cs c y.1 := ?_; clear_value y)
        | (have hy : Does cs c y.2 := ?_; clear_value y) | clear_value y)
    | dsimp only

theorem notePresent_does {cs : List Part} {c : State} (s : State) (hs : [.time] ⊆ cs) (hc : Does cs c s) :
    Does cs c (notePresent s) := by
  unfold notePresent
  repeat' first
    | with_reducible assumption | with_reducible exact sub_of hs rfl | (intro) | dsimp only | with_reducible apply time_does

theorem measureStrand_does {cs : List Part} {c : State} (s : State) (x : Nat) (err : Int) (ratio : Option Int)
    (hs : [.free, .objs, .log, .time] ⊆ cs) (hc : Does cs c s) :
    Does cs c (measureStrand s x err ratio) := by
  unfold measureStrand
  repeat' first
    | with_reducible assumption | with_reducible exact sub_of hs rfl | (intro) | with_reducible apply notePresent_does
    | with_reducible apply State_putI_does | with_reducible apply State_setStrand_does | with_reducible apply enterStrand_does
    | with_reducible apply servoUpdate_does | with_reducible apply stepStrand_does | with_reducible apply setRate_does
    | with_reducible apply ite_does | with_reducible apply ite_fst_does | split
    | (extract_lets +onlyGivenNames y; first
        | (have hy : Does cs c y := ?_; clear_value y) | (have hy : Does cs c y.1 := ?_; clear_value y)
        | (have hy : Does cs c y.2 := ?_; clear_value y) | clear_value y)
    | dsimp only

theorem strandAbsent_does {cs : List Part} {c : State} (s : State) (x : Nat) (hs : [.objs, .log, .time] ⊆ cs) (hc : Does cs c s) :
    Does cs c (strandAbsent s x) := by
  unfold strandAbsent
  repeat' first
    | with_reducible assumption | with_reducible exact sub_of hs rfl | (intro) | with_reducible apply State_setStrand_does
    | with_reducible apply enterStrand_does | with_reducible apply setRate_does | with_reducible apply ite_does
    | with_reducible apply ite_fst_does | split
    | (extract_lets +onlyGivenNames y; first
        | (have hy : Does cs c y := ?_; clear_value y) | (have hy : Does cs c y.1 := ?_; clear_value y)
        | (have hy : Does cs c y.2 := ?_; clear_value y) | clear_value y)
    | dsimp only

theorem srcMapChanged_does {cs : List Part} {c : State} (s : State) (x : Nat) (hs : [.objs, .log, .time] ⊆ cs) (hc : Does cs c s) :
    Does cs c (srcMapChanged s x) := by
  unfold srcMapChanged
  repeat' first
    | with_reducible assumption | with_reducible exact sub_of hs rfl | (intro) | with_reducible apply State_setStrand_does
    | with_reducible apply setRate_does | with_reducible apply enterStrand_does | with_reducible apply ite_does
    | with_reducible apply ite_fst_does | split
    | (extract_lets +onlyGivenNames y; first
        | (have hy : Does cs c y := ?_; clear_value y) | (have hy : Does cs c y.1 := ?_; clear_value y)
        | (have hy : Does cs c y.2 := ?_; clear_value y) | clear_value y)
    | dsimp only

theorem oscMonitor_does {cs : List Part} {c : State} (osc : List (Option Int)) (t : Nat) (s : State) (x : Nat)
    (hs : [.objs, .log, .time] ⊆ cs) (hc : Does cs c s) :
    Does cs c (oscMonitor osc t s x) := by
  unfold oscMonitor
  repeat' first
    | with_reducible assumption | with_reducible exact sub_of hs rfl | (intro) | with_reducible apply State_setStrand_does
    | with_reducible apply setRate_does | with_reducible apply enterStrand_does | with_reducible apply State_evAt_does
    | with_reducible apply ite_does | with_reducible apply ite_fst_does | split
    | (extract_lets +onlyGivenNames y; first
        | (have hy : Does cs c y := ?_; clear_value y) | (have hy : Does cs c y.1 := ?_; clear_value y)
        | (have hy : Does cs c y.2 := ?_; clear_value y) | clear_value y)
    | dsimp only

theorem oscMeasure_does {cs : List Part} {c : State} (s : State) (hz : List Nat)
    (hs : [.objs, .log, .time] ⊆ cs) (hc : Does cs c s) :
    Does cs c (oscMeasure s hz) := by
  unfold oscMeasure
  repeat' first
    | with_reducible assumption | with_reducible exact sub_of hs rfl | (intro) | with_reducible apply State_put_does
    | with_reducible apply State_ev_does | with_reducible apply enterStrand_does | with_reducible apply ite_does
    | with_reducible apply ite_fst_does | split
    | (extract_lets +onlyGivenNames y; first
        | (have hy : Does cs c y := ?_; clear_value y) | (have hy : Does cs c y.1 := ?_; clear_value y)
        | (have hy : Does cs c y.2 := ?_; clear_value y) | clear_value y)
    | with_reducible apply each_does | dsimp only

theorem logExclusions_does {cs : List Part} {c : State} (s : State) (t : Nat) (v : Vote)
    (hs : [.objs, .log, .time] ⊆ cs) (hc : Does cs c s) :
    Does cs c (logExclusions s t v) := by
  unfold logExclusions
  repeat' first
    | with_reducible assumption | with_reducible exact sub_of hs rfl | (intro) | with_reducible apply State_evAt_does
    | with_reducible apply State_bump_does | with_reducible apply State_setStrand_does | with_reducible apply ite_does
    | with_reducible apply ite_fst_does | split
    | (extract_lets +onlyGivenNames y; first
        | (have hy : Does cs c y := ?_; clear_value y) | (have hy : Does cs c y.1 := ?_; clear_value y)
        | (have hy : Does cs c y.2 := ?_; clear_value y) | clear_value y)
    | with_reducible apply each_does | dsimp only

theorem trackRate_does {cs : List Part} {c : State} (s : State) (none : Bool) (hs : [.free, .time] ⊆ cs) (hc : Does cs c s) :
    Does cs c (trackRate s none) := by
  unfold trackRate
  repeat' first
    | with_reducible assumption | with_reducible exact sub_of hs rfl | (intro) | with_reducible apply State_freshInt_does
    | with_reducible apply ite_does | with_reducible apply ite_fst_does | split
    | (extract_lets +onlyGivenNames y; first
        | (have hy : Does cs c y := ?_; clear_value y) | (have hy : Does cs c y.1 := ?_; clear_value y)
        | (have hy : Does cs c y.2 := ?_; clear_value y) | (let z : TimeState := y; clear z) | clear_value y)
    | dsimp only | with_reducible apply time_does

theorem applyVote_does {cs : List Part} {c : State} (s : State) (v : Vote) (t : Nat)
    (hs : [.free, .objs, .log, .time] ⊆ cs) (hc : Does cs c s) :
    Does cs c (applyVote s v t) := by
  unfold applyVote
  repeat' first
    | with_reducible assumption | with_reducible exact sub_of hs rfl | (intro) | with_reducible apply logExclusions_does
    | with_reducible apply State_put_does | with_reducible apply State_evAt_does | with_reducible apply State_bump_does
    | with_reducible apply State_putI_does | with_reducible apply trackRate_does | with_reducible apply ite_does
    | with_reducible apply ite_fst_does | split
    | (extract_lets +onlyGivenNames y; first
        | (have hy : Does cs c y := ?_; clear_value y) | (have hy : Does cs c y.1 := ?_; clear_value y)
        | (have hy : Does cs c y.2 := ?_; clear_value y) | (let z : TimeState := y; clear z) | clear_value y)
    | with_reducible apply each_does | dsimp only | with_reducible apply time_does

theorem voteAt_does {cs : List Part} {c : State} (s : State) (t : Nat) (hs : [.free, .objs, .log, .time] ⊆ cs) (hc : Does cs c s) :
    Does cs c (voteAt s t) := by
  unfold voteAt
  repeat' first
    | with_reducible assumption | with_reducible exact sub_of hs rfl | (intro) | with_reducible apply applyVote_does | dsimp only

theorem reepochAccept_does {cs : List Part} {c : State} (s : State) (timed : Option Nat) (hs : [.time] ⊆ cs) (hc : Does cs c s) :
    Does cs c (reepochAccept s timed) := by
  unfold reepochAccept
  repeat' first
    | with_reducible assumption | with_reducible exact sub_of hs rfl | (intro) | dsimp only | with_reducible apply time_does

theorem reepochStrands_does {cs : List Part} {c : State} (s : State) (hs : [.time] ⊆ cs) (hc : Does cs c s) :
    Does cs c (reepochStrands s) := by
  unfold reepochStrands
  repeat' first
    | with_reducible assumption | with_reducible exact sub_of hs rfl | (intro) | with_reducible apply State_setStrand_does
    | with_reducible apply ite_does | with_reducible apply ite_fst_does | split
    | (extract_lets +onlyGivenNames y; first
        | (have hy : Does cs c y := ?_; clear_value y) | (have hy : Does cs c y.1 := ?_; clear_value y)
        | (have hy : Does cs c y.2 := ?_; clear_value y) | clear_value y)
    | with_reducible apply each_does | dsimp only

end Sys2Proof.Machine
end

