-- ==== Sys2Proof/Laws/Ptp.lean ====
section
/-! SUPPORT. What each operation of Machine/Ptp.lean does at most: the parts it changes, and what it keeps. -/

namespace Sys2Proof.Machine

set_option linter.all false

theorem ptpDrop_does {cs : List Part} {c : State} (s : State) (p : Nat) (hs : [.objs] ⊆ cs) (hc : Does cs c s) :
    Does cs c (ptpDrop s p) := by
  unfold ptpDrop
  repeat' first
    | with_reducible assumption | with_reducible exact sub_of hs rfl | (intro) | with_reducible apply State_bump_does | dsimp only

theorem chooseGm_does {cs : List Part} {c : State} (s : State) (hs : [.objs] ⊆ cs) (hc : Does cs c s) :
    Does cs c (chooseGm s) := by
  unfold chooseGm
  repeat' first
    | with_reducible assumption | with_reducible exact sub_of hs rfl | (intro) | with_reducible apply State_put_does
    | with_reducible apply ite_does | with_reducible apply ite_fst_does | split
    | (extract_lets +onlyGivenNames y; first
        | (have hy : Does cs c y := ?_; clear_value y) | (have hy : Does cs c y.1 := ?_; clear_value y)
        | (have hy : Does cs c y.2 := ?_; clear_value y) | clear_value y)
    | dsimp only

theorem selectGm_does {cs : List Part} {c : State} (s : State) (hs : [.objs, .ptp] ⊆ cs) (hc : Does cs c s) :
    Does cs c (selectGm s) := by
  unfold selectGm
  repeat' first
    | with_reducible assumption | with_reducible exact sub_of hs rfl | (intro) | with_reducible apply chooseGm_does
    | with_reducible apply ite_does | with_reducible apply ite_fst_does | split
    | (extract_lets +onlyGivenNames y; first
        | (have hy : Does cs c y := ?_; clear_value y) | (have hy : Does cs c y.1 := ?_; clear_value y)
        | (have hy : Does cs c y.2 := ?_; clear_value y) | (let z : PtpState := y; clear z) | clear_value y)
    | dsimp only | with_reducible apply ptp_does

theorem sendPtp_does {cs : List Part} {c : State} (s : State) (p : Nat) (m : PtpMsg) (fix : PtpFix)
    (hs : [.ptp] ⊆ cs) (hc : Does cs c s) :
    Does cs c (sendPtp s p m fix) := by
  unfold sendPtp
  repeat' first
    | with_reducible assumption | with_reducible exact sub_of hs rfl | (intro) | with_reducible apply State_setEgress_does
    | with_reducible apply ite_does | with_reducible apply ite_fst_does | split
    | (extract_lets +onlyGivenNames y; first
        | (have hy : Does cs c y := ?_; clear_value y) | (have hy : Does cs c y.1 := ?_; clear_value y)
        | (have hy : Does cs c y.2 := ?_; clear_value y) | clear_value y)
    | dsimp only

theorem forwardPtp_does {cs : List Part} {c : State} (s : State) (p : Nat) (m : PtpMsg) (fix : PtpFix)
    (hs : [.objs, .ptp] ⊆ cs) (hc : Does cs c s) :
    Does cs c (forwardPtp s p m fix) := by
  unfold forwardPtp
  repeat' first
    | with_reducible assumption | with_reducible exact sub_of hs rfl | (intro) | with_reducible apply State_bump_does
    | with_reducible apply sendPtp_does | with_reducible apply ite_does | with_reducible apply ite_fst_does | split
    | (extract_lets +onlyGivenNames y; first
        | (have hy : Does cs c y := ?_; clear_value y) | (have hy : Does cs c y.1 := ?_; clear_value y)
        | (have hy : Does cs c y.2 := ?_; clear_value y) | (let z : PtpState := y; clear z) | clear_value y)
    | with_reducible apply foldl_does | dsimp only | with_reducible apply ptp_does

theorem tookPtp_does {cs : List Part} {c : State} (s : State) (rx : PtpRx) (m : PtpMsg) (hs : [.lanes] ⊆ cs) (hc : Does cs c s) :
    Does cs c (tookPtp s rx m) := by
  unfold tookPtp
  repeat' first
    | with_reducible assumption | with_reducible exact sub_of hs rfl | (intro) | dsimp only | with_reducible apply lanes_does

theorem measureSource_does {cs : List Part} {c : State} (s : State) (src : Nat) (rx : PtpRx) (time : Int)
    (hs : [.free, .objs, .log, .time] ⊆ cs) (hc : Does cs c s) :
    Does cs c (measureSource s src rx time) := by
  unfold measureSource
  repeat' first
    | with_reducible assumption | with_reducible exact sub_of hs rfl | (intro) | with_reducible apply measureStrand_does
    | with_reducible apply ite_does | with_reducible apply ite_fst_does | split | with_reducible apply each_does | dsimp only

theorem sendOnLane_does {cs : List Part} {c : State} (s : State) (l : Nat) (m : PtpMsg) (fix : PtpFix)
    (hs : [.ptp] ⊆ cs) (hc : Does cs c s) :
    Does cs c (sendOnLane s l m fix) := by
  unfold sendOnLane
  repeat' first
    | with_reducible assumption | with_reducible exact sub_of hs rfl | (intro) | with_reducible apply State_setEgress_does
    | (extract_lets +onlyGivenNames y; first
        | (have hy : Does cs c y := ?_; clear_value y) | (have hy : Does cs c y.1 := ?_; clear_value y)
        | (have hy : Does cs c y.2 := ?_; clear_value y) | clear_value y)
    | dsimp only

theorem reportDelay_does {cs : List Part} {c : State} (s : State) (l : Nat) (rate : Int) (hs : [.objs] ⊆ cs) (hc : Does cs c s) :
    Does cs c (reportDelay s l rate) := by
  unfold reportDelay
  repeat' first
    | with_reducible assumption | with_reducible exact sub_of hs rfl | (intro) | with_reducible apply State_putI_does
    | with_reducible apply ite_does | with_reducible apply ite_fst_does | split
    | (extract_lets +onlyGivenNames y; first
        | (have hy : Does cs c y := ?_; clear_value y) | (have hy : Does cs c y.1 := ?_; clear_value y)
        | (have hy : Does cs c y.2 := ?_; clear_value y) | clear_value y)
    | dsimp only

theorem clearDelay_does {cs : List Part} {c : State} (s : State) (l : Nat) (hs : [.objs, .ptp] ⊆ cs) (hc : Does cs c s) :
    Does cs c (clearDelay s l) := by
  unfold clearDelay
  repeat' first
    | with_reducible assumption | with_reducible exact sub_of hs rfl | (intro) | with_reducible apply State_setPdelay_does
    | with_reducible apply State_putI_does | with_reducible apply ite_does | with_reducible apply ite_fst_does | split
    | (extract_lets +onlyGivenNames y; first
        | (have hy : Does cs c y := ?_; clear_value y) | (have hy : Does cs c y.1 := ?_; clear_value y)
        | (have hy : Does cs c y.2 := ?_; clear_value y) | clear_value y)
    | dsimp only

theorem depart_does {cs : List Part} {c : State} (s : State) (l : Nat) (grid : Nat) (base : Nat) (b : TxBody)
    (hs : [.ptp] ⊆ cs) (hc : Does cs c s) :
    Does cs c (depart s l grid base b).2 := by
  unfold depart
  repeat' first
    | with_reducible assumption | with_reducible exact sub_of hs rfl | (intro) | with_reducible apply State_setPdelay_does | split
    | (extract_lets +onlyGivenNames y; first
        | (have hy : Does cs c y := ?_; clear_value y) | (have hy : Does cs c y.1 := ?_; clear_value y)
        | (have hy : Does cs c y.2 := ?_; clear_value y) | clear_value y)
    | dsimp only

theorem startFrame_does {cs : List Part} {c : State} (s : State) (p : Nat) (l : Nat) (grid : Nat) (base : Nat) (f : TxFrame)
    (hs : [.ptp] ⊆ cs) (hc : Does cs c s) :
    Does cs c (startFrame s p l grid base f) := by
  unfold startFrame
  repeat' first
    | with_reducible assumption | with_reducible exact sub_of hs rfl | (intro) | with_reducible apply depart_does
    | with_reducible apply State_setEgress_does | split
    | (extract_lets +onlyGivenNames y; first
        | (have hy : Does cs c y := ?_; clear_value y) | (have hy : Does cs c y.1 := ?_; clear_value y)
        | (have hy : Does cs c y.2 := ?_; clear_value y) | clear_value y)
    | dsimp only

theorem goAckSent_does {cs : List Part} {c : State} (s : State) (l : Nat) (t : Nat) (sent : Option TxFrame)
    (hs : [.lanes] ⊆ cs) (hc : Does cs c s) :
    Does cs c (goAckSent s l t sent) := by
  unfold goAckSent
  repeat' first
    | with_reducible assumption | with_reducible exact sub_of hs rfl | (intro) | with_reducible apply State_setLane_does
    | with_reducible apply ite_does | with_reducible apply ite_fst_does | split
    | (extract_lets +onlyGivenNames y; first
        | (have hy : Does cs c y := ?_; clear_value y) | (have hy : Does cs c y.1 := ?_; clear_value y)
        | (have hy : Does cs c y.2 := ?_; clear_value y) | clear_value y)
    | dsimp only

theorem tapSend_does {cs : List Part} {c : State} (s : State) (l : Nat) (t : Nat) (hs : [.objs, .lanes] ⊆ cs) (hc : Does cs c s) :
    Does cs c (tapSend s l t) := by
  unfold tapSend
  repeat' first
    | with_reducible assumption | with_reducible exact sub_of hs rfl | (intro) | with_reducible apply State_add_does | split
    | (extract_lets +onlyGivenNames y; first
        | (have hy : Does cs c y := ?_; clear_value y) | (have hy : Does cs c y.1 := ?_; clear_value y)
        | (have hy : Does cs c y.2 := ?_; clear_value y) | (let z : LaneState := y; clear z) | clear_value y)
    | dsimp only | with_reducible apply lanes_does

end Sys2Proof.Machine
end

