-- ==== Sys2Proof/Laws/Skeins.lean ====
section
/-! SUPPORT. What each operation of Machine/Skeins.lean does at most: the parts it changes, and what it keeps. -/

namespace Sys2Proof.Machine

set_option linter.all false

theorem State_setStream_does {cs : List Part} {c : State} (s : State) (id : Nat) (v : Stream)
    (hs : [.twine] ⊆ cs) (hc : Does cs c s) :
    Does cs c (State.setStream s id v) := by
  unfold State.setStream
  repeat' first
    | with_reducible assumption | with_reducible exact sub_of hs rfl | exact (rfl : TwineState.violations _ = _) | (intro)
    | dsimp only | with_reducible apply twine_does

theorem launchSkein_does {cs : List Part} {c : State} (s : State) (live : Bool) (h : SkeinHead) (payload : Bytes)
    (hs : [.objs, .ptp] ⊆ cs) (hc : Does cs c s) :
    Does cs c (launchSkein s live h payload) := by
  unfold launchSkein
  repeat' first
    | with_reducible assumption | with_reducible exact sub_of hs rfl | (intro) | with_reducible apply State_setEgress_does
    | with_reducible apply enqueue_does | with_reducible apply ite_does | with_reducible apply ite_fst_does | split
    | (extract_lets +onlyGivenNames y; first
        | (have hy : Does cs c y := ?_; clear_value y) | (have hy : Does cs c y.1 := ?_; clear_value y)
        | (have hy : Does cs c y.2 := ?_; clear_value y) | clear_value y)
    | dsimp only

theorem sendWordSkein_does {cs : List Part} {c : State} (s : State) (ch : Nat) (ws : List (Nat × Nat × Nat × Bool))
    (hs : [.objs, .ptp, .twine] ⊆ cs) (hc : Does cs c s) :
    Does cs c (sendWordSkein s ch ws) := by
  unfold sendWordSkein
  repeat' first
    | with_reducible assumption | with_reducible exact sub_of hs rfl | (intro) | with_reducible apply launchSkein_does
    | with_reducible apply State_setStream_does | with_reducible apply State_put_does | with_reducible apply ite_does
    | with_reducible apply ite_fst_does | split
    | (extract_lets +onlyGivenNames y; first
        | (have hy : Does cs c y := ?_; clear_value y) | (have hy : Does cs c y.1 := ?_; clear_value y)
        | (have hy : Does cs c y.2 := ?_; clear_value y) | clear_value y)
    | dsimp only

theorem sendRecordSkein_does {cs : List Part} {c : State} (s : State) (ch : Nat) (rs : List HeldRecord)
    (hs : [.objs, .ptp, .twine] ⊆ cs) (hc : Does cs c s) :
    Does cs c (sendRecordSkein s ch rs) := by
  unfold sendRecordSkein
  repeat' first
    | with_reducible assumption | with_reducible exact sub_of hs rfl | (intro) | with_reducible apply launchSkein_does
    | with_reducible apply State_setStream_does | with_reducible apply ite_does | with_reducible apply ite_fst_does | split
    | (extract_lets +onlyGivenNames y; first
        | (have hy : Does cs c y := ?_; clear_value y) | (have hy : Does cs c y.1 := ?_; clear_value y)
        | (have hy : Does cs c y.2 := ?_; clear_value y) | clear_value y)
    | dsimp only

theorem closeSkeins_does {cs : List Part} {c : State} (ch : Nat) (allW : Bool) (allR : Bool) (a3 : Nat) (a4 : State)
    (hs : [.objs, .ptp, .twine] ⊆ cs) (hc : Does cs c a4) :
    Does cs c (closeSkeins ch allW allR a3 a4) := by
  induction a3 generalizing a4 with
  | zero => rw [closeSkeins]; exact hc
  | succ n ih =>
    rw [closeSkeins]; repeat' first
      | with_reducible assumption | with_reducible exact sub_of hs rfl | (intro) | with_reducible apply ih
      | with_reducible apply sendWordSkein_does | with_reducible apply sendRecordSkein_does | with_reducible apply ite_does
      | with_reducible apply ite_fst_does | split
      | (extract_lets +onlyGivenNames y; first
          | (have hy : Does cs c y := ?_; clear_value y) | (have hy : Does cs c y.1 := ?_; clear_value y)
          | (have hy : Does cs c y.2 := ?_; clear_value y) | clear_value y)
      | with_reducible apply foldl_does | with_reducible apply foldl_fst_does | dsimp only

theorem closeFull_does {cs : List Part} {c : State} (s : State) (ch : Nat) (hs : [.objs, .ptp, .twine] ⊆ cs) (hc : Does cs c s) :
    Does cs c (closeFull s ch) := by
  unfold closeFull
  repeat' first
    | with_reducible assumption | with_reducible exact sub_of hs rfl | (intro) | with_reducible apply closeSkeins_does | dsimp only

theorem closeAll_does {cs : List Part} {c : State} (s : State) (ch : Nat) (hs : [.objs, .ptp, .twine] ⊆ cs) (hc : Does cs c s) :
    Does cs c (closeAll s ch) := by
  unfold closeAll
  repeat' first
    | with_reducible assumption | with_reducible exact sub_of hs rfl | (intro) | with_reducible apply closeSkeins_does | dsimp only

theorem launchBacklog_does {cs : List Part} {c : State} (s : State) (ch : Nat)
    (hs : [.objs, .ptp, .twine] ⊆ cs) (hc : Does cs c s) :
    Does cs c (launchBacklog s ch) := by
  unfold launchBacklog
  repeat' first
    | with_reducible assumption | with_reducible exact sub_of hs rfl | (intro) | with_reducible apply closeSkeins_does | dsimp only

theorem sleepGap_does {cs : List Part} {c : State} (s : State) (ch : Nat) (t : Nat)
    (hs : [.objs, .log, .bob, .twine, .pwr] ⊆ cs) (hc : Does cs c s) :
    Does cs c (sleepGap s ch t) := by
  unfold sleepGap
  repeat' first
    | with_reducible assumption | with_reducible exact sub_of hs rfl | (intro) | with_reducible apply settleBobbin_does
    | with_reducible apply State_ev_does | with_reducible apply State_bump_does | with_reducible apply ite_does
    | with_reducible apply ite_fst_does | split
    | (extract_lets +onlyGivenNames y; first
        | (have hy : Does cs c y := ?_; clear_value y) | (have hy : Does cs c y.1 := ?_; clear_value y)
        | (have hy : Does cs c y.2 := ?_; clear_value y) | (let z : PowerState := y; clear z) | clear_value y)
    | dsimp only | with_reducible apply pwr_does

theorem commitWord_does {cs : List Part} {c : State} (s : State) (ch : Nat) (kind : Nat) (t : Nat) (interval : Nat) (word : Nat)
    (hs : [.objs, .log, .ptp, .bob, .twine, .pwr] ⊆ cs) (hc : Does cs c s) :
    Does cs c (commitWord s ch kind t interval word) := by
  unfold commitWord
  repeat' first
    | with_reducible assumption | with_reducible exact sub_of hs rfl | (intro) | with_reducible apply closeFull_does
    | with_reducible apply bobWord_does | with_reducible apply sleepGap_does | dsimp only

theorem commitRecord_does {cs : List Part} {c : State} (s : State) (ch : Nat) (key : Nat) (bytes : Bytes)
    (hs : [.objs, .log, .ptp, .bob, .twine] ⊆ cs) (hc : Does cs c s) :
    Does cs c (commitRecord s ch key bytes) := by
  unfold commitRecord
  repeat' first
    | with_reducible assumption | with_reducible exact sub_of hs rfl | (intro) | with_reducible apply closeFull_does
    | with_reducible apply bobRecord_does | dsimp only

theorem captureChunks_does {cs : List Part} {c : State} (r : Nat) (id : Nat) (b : Bytes) (a3 : Nat) (a4 : Nat) (a5 : State)
    (hs : [.objs, .ptp, .twine] ⊆ cs) (hc : Does cs c a5) :
    Does cs c (captureChunks r id b a3 a4 a5) := by
  induction a3 generalizing a4 a5 with
  | zero => rw [captureChunks]; exact hc
  | succ n ih =>
    rw [captureChunks]; repeat' first
      | with_reducible assumption | with_reducible exact sub_of hs rfl | (intro) | with_reducible apply ih
      | with_reducible apply State_setStream_does | with_reducible apply launchSkein_does | with_reducible apply ite_does
      | with_reducible apply ite_fst_does | split
      | (extract_lets +onlyGivenNames y; first
          | (have hy : Does cs c y := ?_; clear_value y) | (have hy : Does cs c y.1 := ?_; clear_value y)
          | (have hy : Does cs c y.2 := ?_; clear_value y) | clear_value y)
      | with_reducible apply foldl_does | with_reducible apply foldl_fst_does | dsimp only

theorem State_setReel_does {cs : List Part} {c : State} (s : State) (r : Nat) (v : Reel) (hs : [.trig] ⊆ cs) (hc : Does cs c s) :
    Does cs c (State.setReel s r v) := by
  unfold State.setReel
  repeat' first
    | with_reducible assumption | with_reducible exact sub_of hs rfl | (intro) | dsimp only | with_reducible apply trig_does

theorem sendCaptures_does {cs : List Part} {c : State} (s : State) (r : Nat)
    (hs : [.objs, .ptp, .trig, .twine] ⊆ cs) (hc : Does cs c s) :
    Does cs c (sendCaptures s r) := by
  unfold sendCaptures
  repeat' first
    | with_reducible assumption | with_reducible exact sub_of hs rfl | (intro) | with_reducible apply captureChunks_does
    | with_reducible apply State_setReel_does | with_reducible apply ite_does | with_reducible apply ite_fst_does | split
    | (extract_lets +onlyGivenNames y; first
        | (have hy : Does cs c y := ?_; clear_value y) | (have hy : Does cs c y.1 := ?_; clear_value y)
        | (have hy : Does cs c y.2 := ?_; clear_value y) | clear_value y)
    | with_reducible apply each_does | dsimp only

theorem State_setRoot_does {cs : List Part} {c : State} (s : State) (f : RootState → RootState)
    (hs : [.root] ⊆ cs) (hc : Does cs c s) :
    Does cs c (State.setRoot s f) := by
  unfold State.setRoot
  repeat' first
    | with_reducible assumption | with_reducible exact sub_of hs rfl | (intro) | dsimp only | with_reducible apply root_does

theorem pumpStream_does {cs : List Part} {c : State} (a0 : Nat) (a1 : State) (hs : [.objs, .ptp, .root] ⊆ cs) (hc : Does cs c a1) :
    Does cs c (pumpStream a0 a1) := by
  induction a0 generalizing a1 with
  | zero => rw [pumpStream]; exact hc
  | succ n ih =>
    rw [pumpStream]; repeat' first
      | with_reducible assumption | with_reducible exact sub_of hs rfl | (intro) | with_reducible apply ih
      | with_reducible apply State_put_does | with_reducible apply enqueue_does | with_reducible apply State_setRoot_does
      | with_reducible apply ite_does | with_reducible apply ite_fst_does | split
      | (extract_lets +onlyGivenNames y; first
          | (have hy : Does cs c y := ?_; clear_value y) | (have hy : Does cs c y.1 := ?_; clear_value y)
          | (have hy : Does cs c y.2 := ?_; clear_value y) | clear_value y)
      | with_reducible apply foldl_does | with_reducible apply foldl_fst_does | dsimp only

theorem pump_does {cs : List Part} {c : State} (s : State) (hs : [.objs, .ptp, .root] ⊆ cs) (hc : Does cs c s) :
    Does cs c (pump s) := by
  unfold pump
  repeat' first
    | with_reducible assumption | with_reducible exact sub_of hs rfl | (intro) | with_reducible apply pumpStream_does | split
    | dsimp only

theorem trunkReader_does {cs : List Part} {c : State} (s : State)
    (hs : [.objs, .ptp, .trig, .twine, .root] ⊆ cs) (hc : Does cs c s) :
    Does cs c (trunkReader s) := by
  unfold trunkReader
  repeat' first
    | with_reducible assumption | with_reducible exact sub_of hs rfl | (intro) | with_reducible apply pump_does
    | with_reducible apply launchBacklog_does | with_reducible apply sendCaptures_does | with_reducible apply ite_does
    | with_reducible apply ite_fst_does | split
    | (extract_lets +onlyGivenNames y; first
        | (have hy : Does cs c y := ?_; clear_value y) | (have hy : Does cs c y.1 := ?_; clear_value y)
        | (have hy : Does cs c y.2 := ?_; clear_value y) | clear_value y)
    | with_reducible apply each_does | dsimp only

theorem sendAnswer_does {cs : List Part} {c : State} (s : State) (l : List AnswerSkein)
    (hs : [.objs, .ptp] ⊆ cs) (hc : Does cs c s) :
    Does cs c (sendAnswer s l) := by
  unfold sendAnswer
  repeat' first
    | with_reducible assumption | with_reducible exact sub_of hs rfl | (intro) | with_reducible apply launchSkein_does
    | with_reducible apply ite_does | with_reducible apply ite_fst_does | split | with_reducible apply each_does | dsimp only

end Sys2Proof.Machine
end

