-- ==== Sys2Proof/Laws/Violations.lean ====
section
/-! SUPPORT. What each operation of Machine/Violations.lean does at most: the parts it changes, and what it keeps. -/

namespace Sys2Proof.Machine

set_option linter.all false

theorem sendNak_does {cs : List Part} {c : State} (s : State) (port : Nat) (src : Nat) (ref : Nat) (kind : Nat) (reason : Nat) (retry : Nat)
    (hs : [.objs, .ptp, .twine] ⊆ cs) (hc : Does cs c s) :
    Does cs c (sendNak s port src ref kind reason retry) := by
  unfold sendNak
  repeat' first
    | with_reducible assumption | with_reducible exact sub_of hs rfl | exact (rfl : TwineState.violations _ = _) | (intro)
    | with_reducible apply sendTwineOn_does | with_reducible apply sendTwine_does | with_reducible apply ite_does
    | with_reducible apply ite_fst_does | split
    | (extract_lets +onlyGivenNames y; first
        | (have hy : Does cs c y := ?_; clear_value y) | (have hy : Does cs c y.1 := ?_; clear_value y)
        | (have hy : Does cs c y.2 := ?_; clear_value y) | (let z : TwineState := y; clear z) | clear_value y)
    | dsimp only | with_reducible apply twine_does

theorem drop_le (l : List Violation) : (l.drop (l.length - 128)).length ≤ 128 := by
  rw [List.length_drop]
  omega

theorem dropped_does {cs : List Part} {c s : State} (l : List Violation) (hs : [.twine] ⊆ cs) (hc : Does cs c s) :
    Does cs c { s with twine := { s.twine with violations := l.drop (l.length - 128) } } := by
  have h := drop_le l
  generalize l.drop (l.length - 128) = m at h ⊢
  exact viol_does hs h hc

theorem violation_does {cs : List Part} {c : State} (s : State) (port : Nat) (f : Bytes) (reason : Nat)
    (hs : [.objs, .ptp, .twine] ⊆ cs) (hc : Does cs c s) :
    Does cs c (violation s port f reason) := by
  have h := dropped_does (s.twine.violations ++ [violationEntry s port f reason]) (sub_of hs rfl) hc
  unfold violation
  extract_lets l d s1 s2
  have h1 : Does cs c s1 := h
  have h2 : Does cs c s2 := State_bump_does _ _ _ (sub_of hs rfl) h1
  clear_value s2
  split
  · exact h2
  · split
    · exact sendNak_does _ _ _ _ _ _ _ (sub_of hs rfl) h2
    · exact State_bump_does _ _ _ (sub_of hs rfl) h2

theorem answerBusy_does {cs : List Part} {c : State} (s : State) (port : Nat) (f : Bytes)
    (hs : [.objs, .ptp, .twine] ⊆ cs) (hc : Does cs c s) :
    Does cs c (answerBusy s port f) := by
  unfold answerBusy
  repeat' first
    | with_reducible assumption | with_reducible exact sub_of hs rfl | (intro) | with_reducible apply State_bump_does
    | with_reducible apply sendNak_does | with_reducible apply ite_does | with_reducible apply ite_fst_does | split
    | (extract_lets +onlyGivenNames y; first
        | (have hy : Does cs c y := ?_; clear_value y) | (have hy : Does cs c y.1 := ?_; clear_value y)
        | (have hy : Does cs c y.2 := ?_; clear_value y) | clear_value y)
    | dsimp only

theorem countQueued_does {cs : List Part} {c : State} (s : State) (p : Nat) (f : Bytes) (hs : [.objs] ⊆ cs) (hc : Does cs c s) :
    Does cs c (countQueued s p f) := by
  unfold countQueued
  repeat' first
    | with_reducible assumption | with_reducible exact sub_of hs rfl | (intro) | with_reducible apply State_bump_does
    | with_reducible apply ite_does | with_reducible apply ite_fst_does | split
    | (extract_lets +onlyGivenNames y; first
        | (have hy : Does cs c y := ?_; clear_value y) | (have hy : Does cs c y.1 := ?_; clear_value y)
        | (have hy : Does cs c y.2 := ?_; clear_value y) | clear_value y)
    | dsimp only

theorem forwardTwine_does {cs : List Part} {c : State} (s : State) (port : Nat) (f : Bytes)
    (hs : [.objs, .ptp] ⊆ cs) (hc : Does cs c s) :
    Does cs c (forwardTwine s port f) := by
  unfold forwardTwine
  repeat' first
    | with_reducible assumption | with_reducible exact sub_of hs rfl | (intro) | with_reducible apply State_bump_does
    | with_reducible apply enqueue_does | with_reducible apply countQueued_does | with_reducible apply ite_does
    | with_reducible apply ite_fst_does | split
    | (extract_lets +onlyGivenNames y; first
        | (have hy : Does cs c y := ?_; clear_value y) | (have hy : Does cs c y.1 := ?_; clear_value y)
        | (have hy : Does cs c y.2 := ?_; clear_value y) | clear_value y)
    | with_reducible apply foldl_does | dsimp only

theorem learnSrc_does {cs : List Part} {c : State} (s : State) (port : Nat) (f : Bytes) (hs : [.twine] ⊆ cs) (hc : Does cs c s) :
    Does cs c (learnSrc s port f) := by
  unfold learnSrc
  repeat' first
    | with_reducible assumption | with_reducible exact sub_of hs rfl | exact (rfl : TwineState.violations _ = _) | (intro)
    | with_reducible apply ite_does | with_reducible apply ite_fst_does | split | dsimp only | with_reducible apply twine_does

theorem tookFrame_does {cs : List Part} {c : State} (s : State) (port : Nat) (f : Bytes) (hs : [.lanes] ⊆ cs) (hc : Does cs c s) :
    Does cs c (tookFrame s port f) := by
  unfold tookFrame
  repeat' first
    | with_reducible assumption | with_reducible exact sub_of hs rfl | (intro) | dsimp only | with_reducible apply lanes_does

theorem arrive_does {cs : List Part} {c : State} (s : State) (port : Nat) (t : Nat) (f : Bytes) (consume : State → State × Bool) (hh4 : ∀ y0, Does cs c y0 → Does cs c (consume y0).1)
    (hs : [.now, .objs, .ptp, .lanes, .twine] ⊆ cs) (hc : Does cs c s) :
    Does cs c (arrive s port t f consume) := by
  unfold arrive
  repeat' first
    | with_reducible assumption | with_reducible exact sub_of hs rfl | (intro) | apply hh4 | with_reducible apply tookFrame_does
    | with_reducible apply State_advance_does | with_reducible apply State_bump_does | with_reducible apply learnSrc_does
    | with_reducible apply forwardTwine_does | with_reducible apply ite_does | with_reducible apply ite_fst_does | split
    | (extract_lets +onlyGivenNames y; first
        | (have hy : Does cs c y := ?_; clear_value y) | (have hy : Does cs c y.1 := ?_; clear_value y)
        | (have hy : Does cs c y.2 := ?_; clear_value y) | clear_value y)
    | dsimp only

theorem checked_does {cs : List Part} {c : State} (port : Nat) (f : Bytes) (own : State → State × Bool) (s : State) (hh2 : ∀ y0, Does cs c y0 → Does cs c (own y0).1)
    (hs : [.objs, .ptp, .twine] ⊆ cs) (hc : Does cs c s) :
    Does cs c (checked port f own s).1 := by
  unfold checked
  repeat' first
    | with_reducible assumption | with_reducible exact sub_of hs rfl | (intro) | apply hh2 | with_reducible apply violation_does
    | with_reducible apply ite_does | with_reducible apply ite_fst_does | split
    | (extract_lets +onlyGivenNames y; first
        | (have hy : Does cs c y := ?_; clear_value y) | (have hy : Does cs c y.1 := ?_; clear_value y)
        | (have hy : Does cs c y.2 := ?_; clear_value y) | clear_value y)
    | dsimp only

end Sys2Proof.Machine
end

