-- ==== Sys2Proof/Laws/Lanes.lean ====
section
/-! SUPPORT. What each operation of Machine/Lanes.lean does at most: the parts it changes, and what it keeps. -/

namespace Sys2Proof.Machine

set_option linter.all false

theorem reportFom_does {cs : List Part} {c : State} (s : State) (l : Nat) (h : Nat) (v : Nat)
    (hs : [.objs] ⊆ cs) (hc : Does cs c s) :
    Does cs c (reportFom s l h v) := by
  unfold reportFom
  repeat' first
    | with_reducible assumption | with_reducible exact sub_of hs rfl | (intro) | with_reducible apply State_put_does | dsimp only

theorem sendStep_does {cs : List Part} {c : State} (s : State) (l : Nat) (stype : Nat) (x : optParam StepFields { })
    (hs : [.lanes] ⊆ cs) (hc : Does cs c s) :
    Does cs c (sendStep s l stype x) := by
  unfold sendStep
  repeat' first
    | with_reducible assumption | with_reducible exact sub_of hs rfl | (intro) | with_reducible apply State_setLane_does
    | (extract_lets +onlyGivenNames y; first
        | (have hy : Does cs c y := ?_; clear_value y) | (have hy : Does cs c y.1 := ?_; clear_value y)
        | (have hy : Does cs c y.2 := ?_; clear_value y) | clear_value y)
    | dsimp only

theorem takeStep_does {cs : List Part} {c : State} (s : State) (l : Nat) (t : Nat) (f : Bytes) (stype : Nat)
    (hs : [.now, .objs, .ptp, .lanes, .twine] ⊆ cs) (hc : Does cs c s) :
    Does cs c (takeStep s l t f stype).1 := by
  unfold takeStep
  repeat' first
    | with_reducible assumption | with_reducible exact sub_of hs rfl | (intro) | with_reducible apply State_advance_does
    | with_reducible apply violation_does | with_reducible apply ite_does | with_reducible apply ite_fst_does | split
    | (extract_lets +onlyGivenNames y; first
        | (have hy : Does cs c y := ?_; clear_value y) | (have hy : Does cs c y.1 := ?_; clear_value y)
        | (have hy : Does cs c y.2 := ?_; clear_value y) | (let z : LaneState := y; clear z) | clear_value y)
    | dsimp only | with_reducible apply lanes_does

theorem flushReorder_does {cs : List Part} {c : State} (s : State) (p : Nat) (hs : [.objs, .lanes] ⊆ cs) (hc : Does cs c s) :
    Does cs c (flushReorder s p) := by
  unfold flushReorder
  repeat' first
    | with_reducible assumption | with_reducible exact sub_of hs rfl | (intro) | with_reducible apply State_add_does
    | with_reducible apply ite_does | with_reducible apply ite_fst_does | split
    | (extract_lets +onlyGivenNames y; first
        | (have hy : Does cs c y := ?_; clear_value y) | (have hy : Does cs c y.1 := ?_; clear_value y)
        | (have hy : Does cs c y.2 := ?_; clear_value y) | (let z : LaneState := y; clear z) | clear_value y)
    | with_reducible apply foldl_does | with_reducible apply foldl_fst_does | dsimp only | with_reducible apply lanes_does

theorem laneDown_does {cs : List Part} {c : State} (s : State) (l : Nat)
    (hs : [.objs, .ptp, .lanes, .twine] ⊆ cs) (hc : Does cs c s) :
    Does cs c (laneDown s l) := by
  unfold laneDown
  repeat' first
    | with_reducible assumption | with_reducible exact sub_of hs rfl | exact (rfl : TwineState.violations _ = _)
    | exact Nat.le_refl _ | exact (rfl : TwineState.violations _ = _)
    | (refine fun (p : Part) hp => ?_; cases p <;> first | exact absurd (mem_of hs _ rfl) hp | exact rfl) | (intro)
    | with_reducible apply State_setEgress_does | with_reducible apply clearDelay_does | with_reducible apply flushReorder_does
    | with_reducible apply State_add_does | with_reducible apply ite_does | with_reducible apply ite_fst_does | split
    | (extract_lets +onlyGivenNames y; first
        | (have hy : Does cs c y := ?_; clear_value y) | (have hy : Does cs c y.1 := ?_; clear_value y)
        | (have hy : Does cs c y.2 := ?_; clear_value y) | (let z : LaneState := y; clear z) | (let z : TwineState := y; clear z)
        | clear_value y)
    | dsimp only | with_reducible apply lanes_does | with_reducible apply twine_does | with_reducible refine does_mk ?_ ?_ ?_ ?_

theorem enterService_does {cs : List Part} {c : State} (s : State) (l : Nat)
    (hs : [.objs, .ptp, .lanes, .trig, .twine, .root] ⊆ cs) (hc : Does cs c s) :
    Does cs c (enterService s l) := by
  unfold enterService
  repeat' first
    | with_reducible assumption | with_reducible exact sub_of hs rfl | (intro) | with_reducible apply trunkReader_does
    | with_reducible apply State_put_does | with_reducible apply State_setLane_does | with_reducible apply ite_does
    | with_reducible apply ite_fst_does | split
    | (extract_lets +onlyGivenNames y; first
        | (have hy : Does cs c y := ?_; clear_value y) | (have hy : Does cs c y.1 := ?_; clear_value y)
        | (have hy : Does cs c y.2 := ?_; clear_value y) | clear_value y)
    | dsimp only

theorem startLane_does {cs : List Part} {c : State} (s : State) (l : Nat) (hs : [.objs, .lanes] ⊆ cs) (hc : Does cs c s) :
    Does cs c (startLane s l) := by
  unfold startLane
  repeat' first
    | with_reducible assumption | with_reducible exact sub_of hs rfl | (intro) | with_reducible apply State_put_does
    | with_reducible apply State_setLane_does | with_reducible apply ite_does | with_reducible apply ite_fst_does | split
    | (extract_lets +onlyGivenNames y; first
        | (have hy : Does cs c y := ?_; clear_value y) | (have hy : Does cs c y.1 := ?_; clear_value y)
        | (have hy : Does cs c y.2 := ?_; clear_value y) | clear_value y)
    | dsimp only

theorem startGroup_does {cs : List Part} {c : State} (s : State) (g : Nat) (hs : [.objs, .lanes] ⊆ cs) (hc : Does cs c s) :
    Does cs c (startGroup s g) := by
  unfold startGroup
  repeat' first
    | with_reducible assumption | with_reducible exact sub_of hs rfl | (intro) | with_reducible apply startLane_does
    | with_reducible apply ite_does | with_reducible apply ite_fst_does | split | with_reducible apply each_does | dsimp only

theorem lanesOn_does {cs : List Part} {c : State} (s : State) (hs : [.objs, .lanes] ⊆ cs) (hc : Does cs c s) :
    Does cs c (lanesOn s) := by
  unfold lanesOn
  repeat' first
    | with_reducible assumption | with_reducible exact sub_of hs rfl | (intro) | with_reducible apply startGroup_does | dsimp only
    | with_reducible apply lanes_does

theorem stepFail_does {cs : List Part} {c : State} (s : State) (l : Nat)
    (hs : [.objs, .log, .ptp, .lanes] ⊆ cs) (hc : Does cs c s) :
    Does cs c (stepFail s l) := by
  unfold stepFail
  repeat' first
    | with_reducible assumption | with_reducible exact sub_of hs rfl | (intro) | with_reducible apply State_ev_does
    | with_reducible apply State_bump_does | with_reducible apply clearDelay_does | with_reducible apply State_setLane_does
    | with_reducible apply ite_does | with_reducible apply ite_fst_does | split
    | (extract_lets +onlyGivenNames y; first
        | (have hy : Does cs c y := ?_; clear_value y) | (have hy : Does cs c y.1 := ?_; clear_value y)
        | (have hy : Does cs c y.2 := ?_; clear_value y) | clear_value y)
    | dsimp only

theorem attemptFail_does {cs : List Part} {c : State} (s : State) (l : Nat) (hs : [.objs, .log, .lanes] ⊆ cs) (hc : Does cs c s) :
    Does cs c (attemptFail s l) := by
  unfold attemptFail
  repeat' first
    | with_reducible assumption | with_reducible exact sub_of hs rfl | (intro) | with_reducible apply State_ev_does
    | with_reducible apply State_bump_does | with_reducible apply State_setLane_does | with_reducible apply ite_does
    | with_reducible apply ite_fst_does | split
    | (extract_lets +onlyGivenNames y; first
        | (have hy : Does cs c y := ?_; clear_value y) | (have hy : Does cs c y.1 := ?_; clear_value y)
        | (have hy : Does cs c y.2 := ?_; clear_value y) | clear_value y)
    | dsimp only

theorem anyFail_does {cs : List Part} {c : State} (s : State) (l : Nat) (hs : [.objs, .log, .ptp, .lanes] ⊆ cs) (hc : Does cs c s) :
    Does cs c (anyFail s l) := by
  unfold anyFail
  repeat' first
    | with_reducible assumption | with_reducible exact sub_of hs rfl | (intro) | with_reducible apply attemptFail_does
    | with_reducible apply stepFail_does | with_reducible apply ite_does | with_reducible apply ite_fst_does | split | dsimp only

theorem beginStep_does {cs : List Part} {c : State} (s : State) (l : Nat) (new : Nat) (hs : [.lanes] ⊆ cs) (hc : Does cs c s) :
    Does cs c (beginStep s l new) := by
  unfold beginStep
  repeat' first
    | with_reducible assumption | with_reducible exact sub_of hs rfl | (intro) | with_reducible apply sendStep_does
    | with_reducible apply State_setLane_does
    | (extract_lets +onlyGivenNames y; first
        | (have hy : Does cs c y := ?_; clear_value y) | (have hy : Does cs c y.1 := ?_; clear_value y)
        | (have hy : Does cs c y.2 := ?_; clear_value y) | clear_value y)
    | dsimp only

theorem pursueStep_does {cs : List Part} {c : State} (s : State) (l : Nat) (hs : [.lanes] ⊆ cs) (hc : Does cs c s) :
    Does cs c (pursueStep s l) := by
  unfold pursueStep
  repeat' first
    | with_reducible assumption | with_reducible exact sub_of hs rfl | (intro) | with_reducible apply beginStep_does | split
    | dsimp only

theorem requestStep_does {cs : List Part} {c : State} (s : State) (l : Nat) (new : Nat)
    (hs : [.now, .objs, .log, .ptp, .lanes] ⊆ cs) (hc : Does cs c s) :
    Does cs c (requestStep s l new) := by
  unfold requestStep
  repeat' first
    | with_reducible assumption | with_reducible exact sub_of hs rfl | (intro) | with_reducible apply State_setLane_does
    | with_reducible apply pursueStep_does | with_reducible apply stepFail_does | with_reducible apply State_advance_does
    | with_reducible apply sendStep_does | with_reducible apply ite_does | with_reducible apply ite_fst_does | split
    | (extract_lets +onlyGivenNames y; first
        | (have hy : Does cs c y := ?_; clear_value y) | (have hy : Does cs c y.1 := ?_; clear_value y)
        | (have hy : Does cs c y.2 := ?_; clear_value y) | clear_value y)
    | dsimp only

theorem laneStepWritten_does {cs : List Part} {c : State} (s : State) (l : Nat) (val : Nat)
    (hs : [.now, .objs, .log, .ptp, .lanes] ⊆ cs) (hc : Does cs c s) :
    Does cs c (laneStepWritten s l val) := by
  unfold laneStepWritten
  repeat' first
    | with_reducible assumption | with_reducible exact sub_of hs rfl | (intro) | with_reducible apply requestStep_does
    | with_reducible apply ite_does | with_reducible apply ite_fst_does | split
    | (extract_lets +onlyGivenNames y; first
        | (have hy : Does cs c y := ?_; clear_value y) | (have hy : Does cs c y.1 := ?_; clear_value y)
        | (have hy : Does cs c y.2 := ?_; clear_value y) | clear_value y)
    | dsimp only

theorem maxSpeedWritten_does {cs : List Part} {c : State} (s : State) (l : Nat)
    (hs : [.now, .objs, .log, .ptp, .lanes] ⊆ cs) (hc : Does cs c s) :
    Does cs c (maxSpeedWritten s l) := by
  unfold maxSpeedWritten
  repeat' first
    | with_reducible assumption | with_reducible exact sub_of hs rfl | (intro) | with_reducible apply requestStep_does
    | with_reducible apply ite_does | with_reducible apply ite_fst_does | split | dsimp only

theorem confirmed_does {cs : List Part} {c : State} (s : State) (l : Nat)
    (hs : [.now, .objs, .log, .ptp, .lanes, .trig, .twine, .root] ⊆ cs) (hc : Does cs c s) :
    Does cs c (confirmed s l) := by
  unfold confirmed
  repeat' first
    | with_reducible assumption | with_reducible exact sub_of hs rfl | (intro) | with_reducible apply enterService_does
    | with_reducible apply State_setLane_does | with_reducible apply attemptFail_does | with_reducible apply stepFail_does
    | with_reducible apply State_advance_does | with_reducible apply sendStep_does | with_reducible apply ite_does
    | with_reducible apply ite_fst_does | split
    | (extract_lets +onlyGivenNames y; first
        | (have hy : Does cs c y := ?_; clear_value y) | (have hy : Does cs c y.1 := ?_; clear_value y)
        | (have hy : Does cs c y.2 := ?_; clear_value y) | clear_value y)
    | dsimp only

theorem sendConfirm_does {cs : List Part} {c : State} (s : State) (l : Nat) (f : Nat)
    (hs : [.now, .objs, .log, .ptp, .lanes, .trig, .twine, .root] ⊆ cs) (hc : Does cs c s) :
    Does cs c (sendConfirm s l f) := by
  unfold sendConfirm
  repeat' first
    | with_reducible assumption | with_reducible exact sub_of hs rfl | (intro) | with_reducible apply confirmed_does
    | with_reducible apply sendStep_does | with_reducible apply State_setLane_does | split
    | (extract_lets +onlyGivenNames y; first
        | (have hy : Does cs c y := ?_; clear_value y) | (have hy : Does cs c y.1 := ?_; clear_value y)
        | (have hy : Does cs c y.2 := ?_; clear_value y) | clear_value y)
    | dsimp only

theorem nextTrial_does {cs : List Part} {c : State} (s : State) (l : Nat) (a : Adapt)
    (hs : [.now, .objs, .log, .ptp, .lanes, .trig, .twine, .root] ⊆ cs) (hc : Does cs c s) :
    Does cs c (nextTrial s l a) := by
  unfold nextTrial
  repeat' first
    | with_reducible assumption | with_reducible exact sub_of hs rfl | (intro) | with_reducible apply sendStep_does
    | with_reducible apply State_setLane_does | with_reducible apply sendConfirm_does | split | dsimp only

theorem sampleChecker_does {cs : List Part} {c : State} (s : State) (l : Nat) (hs : [.free, .objs] ⊆ cs) (hc : Does cs c s) :
    Does cs c (sampleChecker s l) := by
  unfold sampleChecker
  repeat' first
    | with_reducible assumption | with_reducible exact sub_of hs rfl | (intro) | with_reducible apply State_freshNat_does
    | with_reducible apply State_put_does
    | (extract_lets +onlyGivenNames y; first
        | (have hy : Does cs c y := ?_; clear_value y) | (have hy : Does cs c y.1 := ?_; clear_value y)
        | (have hy : Does cs c y.2 := ?_; clear_value y) | clear_value y)
    | dsimp only

theorem laneAdminWritten_does {cs : List Part} {c : State} (s : State) (l : Nat) (old : Nat) (new : Nat)
    (hs : [.free, .objs, .log, .ptp, .lanes, .twine] ⊆ cs) (hc : Does cs c s) :
    Does cs c (laneAdminWritten s l old new) := by
  unfold laneAdminWritten
  repeat' first
    | with_reducible assumption | with_reducible exact sub_of hs rfl | (intro) | with_reducible apply State_putI_does
    | with_reducible apply sampleChecker_does | with_reducible apply State_setLane_does | with_reducible apply sendStep_does
    | with_reducible apply laneDown_does | with_reducible apply State_ev_does | with_reducible apply startLane_does
    | with_reducible apply ite_does | with_reducible apply ite_fst_does | split
    | (extract_lets +onlyGivenNames y; first
        | (have hy : Does cs c y := ?_; clear_value y) | (have hy : Does cs c y.1 := ?_; clear_value y)
        | (have hy : Does cs c y.2 := ?_; clear_value y) | clear_value y)
    | dsimp only

theorem laneTestWritten_does {cs : List Part} {c : State} (s : State) (l : Nat) (hs : [.objs] ⊆ cs) (hc : Does cs c s) :
    Does cs c (laneTestWritten s l) := by
  unfold laneTestWritten
  repeat' first
    | with_reducible assumption | with_reducible exact sub_of hs rfl | (intro) | with_reducible apply State_put_does | dsimp only

theorem takeLoop_does {cs : List Part} {c : State} (s : State) (l : Nat) (t : Nat) (f : Bytes) (stype : Nat)
    (hs : [.now, .objs, .ptp, .lanes, .twine] ⊆ cs) (hc : Does cs c s) :
    Does cs c (takeLoop s l t f stype).1 := by
  unfold takeLoop
  repeat' first
    | with_reducible assumption | with_reducible exact sub_of hs rfl | (intro) | with_reducible apply State_advance_does
    | with_reducible apply takeStep_does | with_reducible apply ite_does | with_reducible apply ite_fst_does | split
    | (extract_lets +onlyGivenNames y; first
        | (have hy : Does cs c y := ?_; clear_value y) | (have hy : Does cs c y.1 := ?_; clear_value y)
        | (have hy : Does cs c y.2 := ?_; clear_value y) | (let z : LaneState := y; clear z) | clear_value y)
    | dsimp only | with_reducible apply lanes_does

theorem laneReset_does {cs : List Part} {c : State} (s : State) (l : Nat)
    (hs : [.objs, .log, .ptp, .lanes, .twine] ⊆ cs) (hc : Does cs c s) :
    Does cs c (laneReset s l) := by
  unfold laneReset
  repeat' first
    | with_reducible assumption | with_reducible exact sub_of hs rfl | (intro) | with_reducible apply State_ev_does
    | with_reducible apply State_bump_does | with_reducible apply startLane_does | with_reducible apply laneDown_does
    | with_reducible apply State_setLane_does | with_reducible apply ite_does | with_reducible apply ite_fst_does | split
    | (extract_lets +onlyGivenNames y; first
        | (have hy : Does cs c y := ?_; clear_value y) | (have hy : Does cs c y.1 := ?_; clear_value y)
        | (have hy : Does cs c y.2 := ?_; clear_value y) | clear_value y)
    | dsimp only

theorem releaseFrom_does {cs : List Part} {c : State} (s : State) (p : Nat) (n : Nat) (held : List (Nat × Nat × Bytes))
    (hs : [.lanes] ⊆ cs) (hc : Does cs c s) :
    Does cs c (releaseFrom s p n held) := by
  unfold releaseFrom
  repeat' first
    | with_reducible assumption | with_reducible exact sub_of hs rfl | (intro)
    | (extract_lets +onlyGivenNames y; first
        | (have hy : Does cs c y := ?_; clear_value y) | (have hy : Does cs c y.1 := ?_; clear_value y)
        | (have hy : Does cs c y.2 := ?_; clear_value y) | (let z : LaneState := y; clear z) | clear_value y)
    | dsimp only | with_reducible apply lanes_does

theorem stripeIn_does {cs : List Part} {c : State} (s : State) (p : Nat) (b : Bytes)
    (hs : [.objs, .lanes] ⊆ cs) (hc : Does cs c s) :
    Does cs c (stripeIn s p b) := by
  unfold stripeIn
  repeat' first
    | with_reducible assumption | with_reducible exact sub_of hs rfl | (intro) | with_reducible apply State_bump_does
    | with_reducible apply releaseFrom_does | with_reducible apply flushReorder_does | with_reducible apply ite_does
    | with_reducible apply ite_fst_does | split
    | (extract_lets +onlyGivenNames y; first
        | (have hy : Does cs c y := ?_; clear_value y) | (have hy : Does cs c y.1 := ?_; clear_value y)
        | (have hy : Does cs c y.2 := ?_; clear_value y) | (let z : LaneState := y; clear z) | clear_value y)
    | dsimp only | with_reducible apply lanes_does

theorem tapCopies_does {cs : List Part} {c : State} (s : State) (l : Nat) (t : Nat) (f : EthFrame)
    (hs : [.lanes] ⊆ cs) (hc : Does cs c s) :
    Does cs c (tapCopies s l t f) := by
  unfold tapCopies
  repeat' first
    | with_reducible assumption | with_reducible exact sub_of hs rfl | (intro) | with_reducible apply ite_does
    | with_reducible apply ite_fst_does | split
    | (extract_lets +onlyGivenNames y; first
        | (have hy : Does cs c y := ?_; clear_value y) | (have hy : Does cs c y.1 := ?_; clear_value y)
        | (have hy : Does cs c y.2 := ?_; clear_value y) | (let z : LaneState := y; clear z) | clear_value y)
    | with_reducible apply each_does | dsimp only | with_reducible apply lanes_does

theorem heldEnds_does {cs : List Part} {c : State} (s : State) (l : Nat) (u : State) (h : heldEnds s l = some u)
    (hs : [.now, .objs, .log, .ptp, .lanes] ⊆ cs) (hc : Does cs c s) :
    Does cs c u := by
  unfold heldEnds at h
  split at h
  · split at h
    · cases h
    · cases h
      exact stepFail_does _ _ (sub_of hs rfl) (State_advance_does _ _ (sub_of hs rfl) (sendStep_does _ _ _ _ (sub_of hs rfl) hc))
  · cases h

end Sys2Proof.Machine
end

