-- ==== Sys2Proof/Laws/Sampling.lean ====
section
/-! SUPPORT. What each operation of Machine/Sampling.lean does at most: the parts it changes, and what it keeps. -/

namespace Sys2Proof.Machine

set_option linter.all false

theorem tier2_does {cs : List Part} {c : State} (s : State) (k : Nat) (t : Nat) (hs : [.samp] ⊆ cs) (hc : Does cs c s) :
    Does cs c (tier2 s k t) := by
  unfold tier2
  repeat' first
    | with_reducible assumption | with_reducible exact sub_of hs rfl | (intro) | with_reducible apply State_setCreel_does
    | (extract_lets +onlyGivenNames y; first
        | (have hy : Does cs c y := ?_; clear_value y) | (have hy : Does cs c y.1 := ?_; clear_value y)
        | (have hy : Does cs c y.2 := ?_; clear_value y) | clear_value y)
    | dsimp only

theorem tier3_does {cs : List Part} {c : State} (s : State) (k : Nat) (t : Nat) (hs : [.samp] ⊆ cs) (hc : Does cs c s) :
    Does cs c (tier3 s k t) := by
  unfold tier3
  repeat' first
    | with_reducible assumption | with_reducible exact sub_of hs rfl | (intro) | with_reducible apply State_setCreel_does
    | (extract_lets +onlyGivenNames y; first
        | (have hy : Does cs c y := ?_; clear_value y) | (have hy : Does cs c y.1 := ?_; clear_value y)
        | (have hy : Does cs c y.2 := ?_; clear_value y) | clear_value y)
    | dsimp only

theorem closeSpans_does {cs : List Part} {c : State} (s : State) (k : Nat) (t : Nat) (hs : [.log, .samp] ⊆ cs) (hc : Does cs c s) :
    Does cs c (closeSpans s k t) := by
  unfold closeSpans
  repeat' first
    | with_reducible assumption | with_reducible exact sub_of hs rfl | (intro) | with_reducible apply State_evAt_does
    | with_reducible apply State_setCreel_does | with_reducible apply ite_does | with_reducible apply ite_fst_does | split
    | (extract_lets +onlyGivenNames y; first
        | (have hy : Does cs c y := ?_; clear_value y) | (have hy : Does cs c y.1 := ?_; clear_value y)
        | (have hy : Does cs c y.2 := ?_; clear_value y) | clear_value y)
    | with_reducible apply foldl_does | dsimp only

theorem pushHold_does {cs : List Part} {c : State} (s : State) (h : Hold) (hs : [.samp] ⊆ cs) (hc : Does cs c s) :
    Does cs c (pushHold s h) := by
  unfold pushHold
  repeat' first
    | with_reducible assumption | with_reducible exact sub_of hs rfl | (intro) | dsimp only | with_reducible apply samp_does

theorem takeCode_does {cs : List Part} {c : State} (s : State) (b : Bool) (gr : Nat) (fs : Int × Nat) (v : Int)
    (hs : [.free] ⊆ cs) (hc : Does cs c s) :
    Does cs c (takeCode s b gr fs v).2 := by
  unfold takeCode
  repeat' first
    | with_reducible assumption | with_reducible exact sub_of hs rfl | (intro) | with_reducible apply State_freshInt_does | split
    | (extract_lets +onlyGivenNames y; first
        | (have hy : Does cs c y := ?_; clear_value y) | (have hy : Does cs c y.1 := ?_; clear_value y)
        | (have hy : Does cs c y.2 := ?_; clear_value y) | clear_value y)
    | dsimp only

theorem sampleAt_does {cs : List Part} {c : State} (s : State) (k : Nat) (c' : Nat) (ch : Nat) (t : Nat) (b : Bool) (ref : Nat) (gr : Nat) (e : CreelEnv) (refin : Nat) (inj : Option (Nat × Nat × Nat))
    (hs : [.free, .objs, .samp] ⊆ cs) (hc : Does cs c s) :
    Does cs c (sampleAt s k c' ch t b ref gr e refin inj) := by
  unfold sampleAt
  repeat' first
    | with_reducible assumption | with_reducible exact sub_of hs rfl | (intro) | with_reducible apply takeCode_does
    | with_reducible apply pushHold_does | with_reducible apply State_setCreel_does | with_reducible apply tier2_does
    | with_reducible apply State_bump_does | with_reducible apply State_addK_does | with_reducible apply ite_does
    | with_reducible apply ite_fst_does | split
    | (extract_lets +onlyGivenNames y; first
        | (have hy : Does cs c y := ?_; clear_value y) | (have hy : Does cs c y.1 := ?_; clear_value y)
        | (have hy : Does cs c y.2 := ?_; clear_value y) | (let z : SampState := y; clear z) | clear_value y)
    | dsimp only | with_reducible apply samp_does

theorem repeatAt_does {cs : List Part} {c : State} (s : State) (k : Nat) (c' : Nat) (ch : Nat) (t : Nat) (b : Bool) (ref : Nat) (gr : Nat)
    (hs : [.objs, .samp] ⊆ cs) (hc : Does cs c s) :
    Does cs c (repeatAt s k c' ch t b ref gr) := by
  unfold repeatAt
  repeat' first
    | with_reducible assumption | with_reducible exact sub_of hs rfl | (intro) | with_reducible apply State_bump_does
    | with_reducible apply State_addK_does | with_reducible apply pushHold_does | with_reducible apply ite_does
    | with_reducible apply ite_fst_does | split
    | (extract_lets +onlyGivenNames y; first
        | (have hy : Does cs c y := ?_; clear_value y) | (have hy : Does cs c y.1 := ?_; clear_value y)
        | (have hy : Does cs c y.2 := ?_; clear_value y) | clear_value y)
    | dsimp only

theorem beginRun_does {cs : List Part} {c : State} (s : State) (c' : Nat) (st : InjStart) (hs : [.samp] ⊆ cs) (hc : Does cs c s) :
    Does cs c (beginRun s c' st) := by
  unfold beginRun
  repeat' first
    | with_reducible assumption | with_reducible exact sub_of hs rfl | (intro) | with_reducible apply State_setInjector_does
    | (extract_lets +onlyGivenNames y; first
        | (have hy : Does cs c y := ?_; clear_value y) | (have hy : Does cs c y.1 := ?_; clear_value y)
        | (have hy : Does cs c y.2 := ?_; clear_value y) | (let z : SampState := y; clear z) | clear_value y)
    | dsimp only | with_reducible apply samp_does

theorem closeRecord_does {cs : List Part} {c : State} (s : State) (c' : Nat) (n : Nat) (aborted : Bool)
    (hs : [.samp] ⊆ cs) (hc : Does cs c s) :
    Does cs c (closeRecord s c' n aborted) := by
  unfold closeRecord
  repeat' first
    | with_reducible assumption | with_reducible exact sub_of hs rfl | (intro) | split
    | (extract_lets +onlyGivenNames y; first
        | (have hy : Does cs c y := ?_; clear_value y) | (have hy : Does cs c y.1 := ?_; clear_value y)
        | (have hy : Does cs c y.2 := ?_; clear_value y) | (let z : SampState := y; clear z) | clear_value y)
    | dsimp only | with_reducible apply samp_does

theorem swapStart_does {cs : List Part} {c : State} (s : State) (c' : Nat) (i : Injector) (r : InjRun) (st : InjStart)
    (hs : [.samp] ⊆ cs) (hc : Does cs c s) :
    Does cs c (swapStart s c' i r st) := by
  unfold swapStart
  repeat' first
    | with_reducible assumption | with_reducible exact sub_of hs rfl | (intro) | with_reducible apply State_setInjector_does
    | with_reducible apply ite_does | with_reducible apply ite_fst_does | split
    | (extract_lets +onlyGivenNames y; first
        | (have hy : Does cs c y := ?_; clear_value y) | (have hy : Does cs c y.1 := ?_; clear_value y)
        | (have hy : Does cs c y.2 := ?_; clear_value y) | (let z : SampState := y; clear z) | clear_value y)
    | dsimp only | with_reducible apply samp_does

theorem injRequest_does {cs : List Part} {c : State} (s : State) (c' : Nat) (stamp : Nat) (st : InjStart)
    (hs : [.objs, .log, .samp] ⊆ cs) (hc : Does cs c s) :
    Does cs c (injRequest s c' stamp st) := by
  unfold injRequest
  repeat' first
    | with_reducible assumption | with_reducible exact sub_of hs rfl | (intro) | with_reducible apply beginRun_does
    | with_reducible apply swapStart_does | with_reducible apply State_setInjector_does | with_reducible apply State_evAt_does
    | with_reducible apply State_bump_does | with_reducible apply ite_does | with_reducible apply ite_fst_does | split
    | (extract_lets +onlyGivenNames y; first
        | (have hy : Does cs c y := ?_; clear_value y) | (have hy : Does cs c y.1 := ?_; clear_value y)
        | (have hy : Does cs c y.2 := ?_; clear_value y) | clear_value y)
    | dsimp only

theorem endRun_does {cs : List Part} {c : State} (s : State) (c' : Nat) (t : Nat) (r : InjRun) (aborted : Bool)
    (hs : [.log, .samp] ⊆ cs) (hc : Does cs c s) :
    Does cs c (endRun s c' t r aborted) := by
  unfold endRun
  repeat' first
    | with_reducible assumption | with_reducible exact sub_of hs rfl | (intro) | with_reducible apply closeRecord_does
    | with_reducible apply State_setInjector_does | with_reducible apply State_ev_does | with_reducible apply beginRun_does
    | with_reducible apply ite_does | with_reducible apply ite_fst_does | split
    | (extract_lets +onlyGivenNames y; first
        | (have hy : Does cs c y := ?_; clear_value y) | (have hy : Does cs c y.1 := ?_; clear_value y)
        | (have hy : Does cs c y.2 := ?_; clear_value y) | clear_value y)
    | dsimp only

theorem excessSeen_does {cs : List Part} {c : State} (s : State) (k : Nat) (b : Bool) (gr : Nat) (fs : Int × Nat) (e : CreelEnv)
    (hs : [.samp] ⊆ cs) (hc : Does cs c s) :
    Does cs c (excessSeen s k b gr fs e) := by
  unfold excessSeen
  repeat' first
    | with_reducible assumption | with_reducible exact sub_of hs rfl | (intro) | with_reducible apply State_setCreel_does
    | with_reducible apply ite_does | with_reducible apply ite_fst_does | split | dsimp only

theorem injectedSlot_does {cs : List Part} {c : State} (s : State) (c' : Nat) (t : Nat) (idx : Nat) (b0 : Nat) (e : CreelEnv) (refin : Nat)
    (hs : [.free, .objs, .log, .samp] ⊆ cs) (hc : Does cs c s) :
    Does cs c (injectedSlot s c' t idx b0 e refin) := by
  unfold injectedSlot
  repeat' first
    | with_reducible assumption | with_reducible exact sub_of hs rfl | (intro) | with_reducible apply excessSeen_does
    | with_reducible apply sampleAt_does | with_reducible apply endRun_does | with_reducible apply State_setInjector_does
    | with_reducible apply ite_does | with_reducible apply ite_fst_does | split
    | (extract_lets +onlyGivenNames y; first
        | (have hy : Does cs c y := ?_; clear_value y) | (have hy : Does cs c y.1 := ?_; clear_value y)
        | (have hy : Does cs c y.2 := ?_; clear_value y) | clear_value y)
    | dsimp only

theorem countDisplaced_does {cs : List Part} {c : State} (s : State) (c' : Nat) (eb : Nat) (t : Nat)
    (hs : [.objs, .samp] ⊆ cs) (hc : Does cs c s) :
    Does cs c (countDisplaced s c' eb t) := by
  unfold countDisplaced
  repeat' first
    | with_reducible assumption | with_reducible exact sub_of hs rfl | (intro) | with_reducible apply State_setInjector_does
    | with_reducible apply State_bump_does | with_reducible apply ite_does | with_reducible apply ite_fst_does | split
    | (extract_lets +onlyGivenNames y; first
        | (have hy : Does cs c y := ?_; clear_value y) | (have hy : Does cs c y.1 := ?_; clear_value y)
        | (have hy : Does cs c y.2 := ?_; clear_value y) | clear_value y)
    | dsimp only

theorem logPreSpans_does {cs : List Part} {c : State} (s : State) (c' : Nat) (l : List PreSpan)
    (hs : [.log] ⊆ cs) (hc : Does cs c s) :
    Does cs c (logPreSpans s c' l) := by
  unfold logPreSpans
  repeat' first
    | with_reducible assumption | with_reducible exact sub_of hs rfl | (intro) | with_reducible apply State_evAt_does
    | with_reducible apply each_does | dsimp only

theorem closePreSpan_does {cs : List Part} {c : State} (s : State) (c' : Nat) (t : Nat)
    (hs : [.log, .samp] ⊆ cs) (hc : Does cs c s) :
    Does cs c (closePreSpan s c' t) := by
  unfold closePreSpan
  repeat' first
    | with_reducible assumption | with_reducible exact sub_of hs rfl | (intro) | with_reducible apply logPreSpans_does
    | with_reducible apply State_setInjector_does
    | (extract_lets +onlyGivenNames y; first
        | (have hy : Does cs c y := ?_; clear_value y) | (have hy : Does cs c y.1 := ?_; clear_value y)
        | (have hy : Does cs c y.2 := ?_; clear_value y) | clear_value y)
    | dsimp only

theorem judgeStart_does {cs : List Part} {c : State} (s : State) (c' : Nat) (b : Nat)
    (hs : [.objs, .log, .samp] ⊆ cs) (hc : Does cs c s) :
    Does cs c (judgeStart s c' b) := by
  unfold judgeStart
  repeat' first
    | with_reducible assumption | with_reducible exact sub_of hs rfl | (intro) | with_reducible apply State_setInjector_does
    | with_reducible apply State_evAt_does | with_reducible apply State_bump_does | with_reducible apply beginRun_does
    | with_reducible apply ite_does | with_reducible apply ite_fst_does | split
    | (extract_lets +onlyGivenNames y; first
        | (have hy : Does cs c y := ?_; clear_value y) | (have hy : Does cs c y.1 := ?_; clear_value y)
        | (have hy : Does cs c y.2 := ?_; clear_value y) | (let z : SampState := y; clear z) | clear_value y)
    | dsimp only | with_reducible apply samp_does

theorem refCheck_does {cs : List Part} {c : State} (s : State) (c' : Nat) (t : Nat) (tap : Int)
    (hs : [.objs, .log, .samp] ⊆ cs) (hc : Does cs c s) :
    Does cs c (refCheck s c' t tap) := by
  unfold refCheck
  repeat' first
    | with_reducible assumption | with_reducible exact sub_of hs rfl | (intro) | with_reducible apply State_setConv_does
    | with_reducible apply State_putK_does | with_reducible apply State_evAt_does | with_reducible apply ite_does
    | with_reducible apply ite_fst_does | split
    | (extract_lets +onlyGivenNames y; first
        | (have hy : Does cs c y := ?_; clear_value y) | (have hy : Does cs c y.1 := ?_; clear_value y)
        | (have hy : Does cs c y.2 := ?_; clear_value y) | clear_value y)
    | dsimp only

theorem refCheckSlot_does {cs : List Part} {c : State} (taken : List Nat) (s : State) (c' : Nat) (t : Nat) (tap : Int)
    (hs : [.objs, .log, .samp] ⊆ cs) (hc : Does cs c s) :
    Does cs c (refCheckSlot taken s c' t tap) := by
  unfold refCheckSlot
  repeat' first
    | with_reducible assumption | with_reducible exact sub_of hs rfl | (intro) | with_reducible apply refCheck_does
    | with_reducible apply ite_does | with_reducible apply ite_fst_does | split
    | (extract_lets +onlyGivenNames y; first
        | (have hy : Does cs c y := ?_; clear_value y) | (have hy : Does cs c y.1 := ?_; clear_value y)
        | (have hy : Does cs c y.2 := ?_; clear_value y) | clear_value y)
    | dsimp only

theorem cutShort_does {cs : List Part} {c : State} (s : State) (c' : Nat) (b : Nat) (hs : [.samp] ⊆ cs) (hc : Does cs c s) :
    Does cs c (cutShort s c' b) := by
  unfold cutShort
  repeat' first
    | with_reducible assumption | with_reducible exact sub_of hs rfl | (intro) | with_reducible apply tier2_does
    | with_reducible apply State_setCreel_does | with_reducible apply ite_does | with_reducible apply ite_fst_does | split
    | dsimp only

theorem checkSlot_does {cs : List Part} {c : State} (s : State) (k : Nat) (t : Nat) (j : Nat) (e : CreelEnv) (refin : Nat)
    (hs : [.samp] ⊆ cs) (hc : Does cs c s) :
    Does cs c (checkSlot s k t j e refin) := by
  unfold checkSlot
  repeat' first
    | with_reducible assumption | with_reducible exact sub_of hs rfl | (intro) | with_reducible apply excessSeen_does
    | with_reducible apply cutShort_does | with_reducible apply ite_does | with_reducible apply ite_fst_does | split
    | (extract_lets +onlyGivenNames y; first
        | (have hy : Does cs c y := ?_; clear_value y) | (have hy : Does cs c y.1 := ?_; clear_value y)
        | (have hy : Does cs c y.2 := ?_; clear_value y) | clear_value y)
    | dsimp only

theorem regularSlot_does {cs : List Part} {c : State} (s : State) (c' : Nat) (t : Nat) (e : CreelEnv) (refin : Nat)
    (hs : [.free, .objs, .samp] ⊆ cs) (hc : Does cs c s) :
    Does cs c (regularSlot s c' t e refin) := by
  unfold regularSlot
  repeat' first
    | with_reducible assumption | with_reducible exact sub_of hs rfl | (intro) | with_reducible apply repeatAt_does
    | with_reducible apply countDisplaced_does | with_reducible apply sampleAt_does | with_reducible apply excessSeen_does
    | with_reducible apply ite_does | with_reducible apply ite_fst_does | split
    | (extract_lets +onlyGivenNames y; first
        | (have hy : Does cs c y := ?_; clear_value y) | (have hy : Does cs c y.1 := ?_; clear_value y)
        | (have hy : Does cs c y.2 := ?_; clear_value y) | clear_value y)
    | dsimp only

theorem ownSlot_does {cs : List Part} {c : State} (s : State) (c' : Nat) (t : Nat) (e : CreelEnv) (refin : Nat)
    (hs : [.free, .objs, .log, .samp] ⊆ cs) (hc : Does cs c s) :
    Does cs c (ownSlot s c' t e refin) := by
  unfold ownSlot
  repeat' first
    | with_reducible assumption | with_reducible exact sub_of hs rfl | (intro) | with_reducible apply cutShort_does
    | with_reducible apply regularSlot_does | with_reducible apply injectedSlot_does | with_reducible apply checkSlot_does
    | with_reducible apply ite_does | with_reducible apply ite_fst_does | split
    | (extract_lets +onlyGivenNames y; first
        | (have hy : Does cs c y := ?_; clear_value y) | (have hy : Does cs c y.1 := ?_; clear_value y)
        | (have hy : Does cs c y.2 := ?_; clear_value y) | clear_value y)
    | dsimp only

theorem pairSlot_does {cs : List Part} {c : State} (s : State) (c' : Nat) (t : Nat) (e : SlotEnv)
    (hs : [.free, .objs, .samp] ⊆ cs) (hc : Does cs c s) :
    Does cs c (pairSlot s c' t e) := by
  unfold pairSlot
  repeat' first
    | with_reducible assumption | with_reducible exact sub_of hs rfl | (intro) | with_reducible apply repeatAt_does
    | with_reducible apply sampleAt_does | with_reducible apply ite_does | with_reducible apply ite_fst_does | split
    | (extract_lets +onlyGivenNames y; first
        | (have hy : Does cs c y := ?_; clear_value y) | (have hy : Does cs c y.1 := ?_; clear_value y)
        | (have hy : Does cs c y.2 := ?_; clear_value y) | clear_value y)
    | dsimp only

theorem creelSlot_does {cs : List Part} {c : State} (e : SlotEnv) (t : Nat) (q3 : List Nat) (taken : List Nat) (s : State) (k : Nat)
    (hs : [.free, .objs, .log, .samp] ⊆ cs) (hc : Does cs c s) :
    Does cs c (creelSlot e t q3 taken s k) := by
  unfold creelSlot
  repeat' first
    | with_reducible assumption | with_reducible exact sub_of hs rfl | (intro) | with_reducible apply State_put_does
    | with_reducible apply excSlot_does | with_reducible apply tier3_does | with_reducible apply judgeStart_does
    | with_reducible apply pairSlot_does | with_reducible apply cutShort_does | with_reducible apply ownSlot_does
    | with_reducible apply refCheckSlot_does | with_reducible apply closePreSpan_does | with_reducible apply closeSpans_does
    | with_reducible apply ite_does | with_reducible apply ite_fst_does | split
    | (extract_lets +onlyGivenNames y; first
        | (have hy : Does cs c y := ?_; clear_value y) | (have hy : Does cs c y.1 := ?_; clear_value y)
        | (have hy : Does cs c y.2 := ?_; clear_value y) | clear_value y)
    | dsimp only

theorem startRun_does {cs : List Part} {c : State} (s : State) (k : Nat) (t : Nat) (hs : [.objs, .samp] ⊆ cs) (hc : Does cs c s) :
    Does cs c (startRun s k t) := by
  unfold startRun
  repeat' first
    | with_reducible assumption | with_reducible exact sub_of hs rfl | (intro) | with_reducible apply State_put_does
    | with_reducible apply State_setCreel_does | dsimp only

theorem wbAdvance_does {cs : List Part} {c : State} (s : State) (k : Nat) (rest : List Nat) (ended : Nat) (next : Nat)
    (hs : [.objs, .samp] ⊆ cs) (hc : Does cs c s) :
    Does cs c (wbAdvance s k rest ended next) := by
  unfold wbAdvance
  repeat' first
    | with_reducible assumption | with_reducible exact sub_of hs rfl | (intro) | with_reducible apply startRun_does
    | with_reducible apply State_setCreel_does | with_reducible apply ite_does | with_reducible apply ite_fst_does | split
    | (extract_lets +onlyGivenNames y; first
        | (have hy : Does cs c y := ?_; clear_value y) | (have hy : Does cs c y.1 := ?_; clear_value y)
        | (have hy : Does cs c y.2 := ?_; clear_value y) | clear_value y)
    | dsimp only

theorem wbEnter_does {cs : List Part} {c : State} (s : State) (k : Nat) (j : Nat) (th : Nat) (failed : Bool) (shiftUv : Int)
    (hs : [.objs, .log, .samp] ⊆ cs) (hc : Does cs c s) :
    Does cs c (wbEnter s k j th failed shiftUv) := by
  unfold wbEnter
  repeat' first
    | with_reducible assumption | with_reducible exact sub_of hs rfl | (intro) | with_reducible apply State_setCreel_does
    | with_reducible apply State_evAt_does | with_reducible apply State_putI_does | with_reducible apply State_setInputTrack_does
    | with_reducible apply State_put_does | with_reducible apply ite_does | with_reducible apply ite_fst_does | split
    | (extract_lets +onlyGivenNames y; first
        | (have hy : Does cs c y := ?_; clear_value y) | (have hy : Does cs c y.1 := ?_; clear_value y)
        | (have hy : Does cs c y.2 := ?_; clear_value y) | clear_value y)
    | dsimp only

theorem wbPrune_does {cs : List Part} {c : State} (t : Nat) (s : State) (k : Nat) (hs : [.objs, .samp] ⊆ cs) (hc : Does cs c s) :
    Does cs c (wbPrune t s k) := by
  unfold wbPrune
  repeat' first
    | with_reducible assumption | with_reducible exact sub_of hs rfl | (intro) | with_reducible apply startRun_does
    | with_reducible apply State_setCreel_does | with_reducible apply ite_does | with_reducible apply ite_fst_does | split
    | (extract_lets +onlyGivenNames y; first
        | (have hy : Does cs c y := ?_; clear_value y) | (have hy : Does cs c y.1 := ?_; clear_value y)
        | (have hy : Does cs c y.2 := ?_; clear_value y) | clear_value y)
    | dsimp only

theorem wbCheckAt_does {cs : List Part} {c : State} (s : State) (k : Nat) (j : Nat) (base : Nat) (ws : Nat) (rest : List Nat) (e : WbEnv)
    (hs : [.now, .free, .objs, .log, .samp] ⊆ cs) (hc : Does cs c s) :
    Does cs c (wbCheckAt s k j base ws rest e) := by
  unfold wbCheckAt
  repeat' first
    | with_reducible assumption | with_reducible exact sub_of hs rfl | (intro) | with_reducible apply State_advance_does
    | with_reducible apply State_setCreel_does | with_reducible apply State_evAt_does | with_reducible apply State_bump_does
    | with_reducible apply wbAdvance_does | with_reducible apply takeCode_does | with_reducible apply wbEnter_does
    | with_reducible apply ite_does | with_reducible apply ite_fst_does | split
    | (extract_lets +onlyGivenNames y; first
        | (have hy : Does cs c y := ?_; clear_value y) | (have hy : Does cs c y.1 := ?_; clear_value y)
        | (have hy : Does cs c y.2 := ?_; clear_value y) | clear_value y)
    | dsimp only

theorem wbAbort_does {cs : List Part} {c : State} (s : State) (k : Nat) (hs : [.log, .samp] ⊆ cs) (hc : Does cs c s) :
    Does cs c (wbAbort s k) := by
  unfold wbAbort
  repeat' first
    | with_reducible assumption | with_reducible exact sub_of hs rfl | (intro) | with_reducible apply State_ev_does
    | with_reducible apply State_setCreel_does | with_reducible apply ite_does | with_reducible apply ite_fst_does | split
    | (extract_lets +onlyGivenNames y; first
        | (have hy : Does cs c y := ?_; clear_value y) | (have hy : Does cs c y.1 := ?_; clear_value y)
        | (have hy : Does cs c y.2 := ?_; clear_value y) | clear_value y)
    | dsimp only

end Sys2Proof.Machine
end

