-- ==== Sys2Proof/Laws/Trigger.lean ====
section
/-! SUPPORT. What each operation of Machine/Trigger.lean does at most: the parts it changes, and what it keeps. -/

namespace Sys2Proof.Machine

set_option linter.all false

theorem State_setUnit_does {cs : List Part} {c : State} (s : State) (u : Nat) (v : TrigUnit)
    (hs : [.trig] ⊆ cs) (hc : Does cs c s) :
    Does cs c (State.setUnit s u v) := by
  unfold State.setUnit
  repeat' first
    | with_reducible assumption | with_reducible exact sub_of hs rfl | (intro) | with_reducible apply ite_does
    | with_reducible apply ite_fst_does | split
    | (extract_lets +onlyGivenNames y; first
        | (have hy : Does cs c y := ?_; clear_value y) | (have hy : Does cs c y.1 := ?_; clear_value y)
        | (have hy : Does cs c y.2 := ?_; clear_value y) | (let z : TrigState := y; clear z) | clear_value y)
    | with_reducible apply foldl_does | with_reducible apply foldl_fst_does | dsimp only | with_reducible apply trig_does

theorem State_setMask_does {cs : List Part} {c : State} (s : State) (m : Nat) (v : MaskSet) (hs : [.trig] ⊆ cs) (hc : Does cs c s) :
    Does cs c (State.setMask s m v) := by
  unfold State.setMask
  repeat' first
    | with_reducible assumption | with_reducible exact sub_of hs rfl | (intro) | with_reducible apply ite_does
    | with_reducible apply ite_fst_does | split
    | (extract_lets +onlyGivenNames y; first
        | (have hy : Does cs c y := ?_; clear_value y) | (have hy : Does cs c y.1 := ?_; clear_value y)
        | (have hy : Does cs c y.2 := ?_; clear_value y) | (let z : TrigState := y; clear z) | clear_value y)
    | with_reducible apply foldl_does | with_reducible apply foldl_fst_does | dsimp only | with_reducible apply trig_does

theorem notePast_does {cs : List Part} {c : State} (before : Store) (t0 : Nat) (keys : List Nat) (s : State)
    (hs : [.trig] ⊆ cs) (hc : Does cs c s) :
    Does cs c (notePast before t0 keys s) := by
  unfold notePast
  repeat' first
    | with_reducible assumption | with_reducible exact sub_of hs rfl | (intro)
    | (extract_lets +onlyGivenNames y; first
        | (have hy : Does cs c y := ?_; clear_value y) | (have hy : Does cs c y.1 := ?_; clear_value y)
        | (have hy : Does cs c y.2 := ?_; clear_value y) | (let z : TrigState := y; clear z) | clear_value y)
    | dsimp only | with_reducible apply trig_does

theorem armReel_does {cs : List Part} {c : State} (s : State) (r : Nat) (at_ : Nat) (newSet : Bool)
    (hs : [.trig] ⊆ cs) (hc : Does cs c s) :
    Does cs c (armReel s r at_ newSet) := by
  unfold armReel
  repeat' first
    | with_reducible assumption | with_reducible exact sub_of hs rfl | (intro) | with_reducible apply State_setReel_does
    | with_reducible apply ite_does | with_reducible apply ite_fst_does | split
    | (extract_lets +onlyGivenNames y; first
        | (have hy : Does cs c y := ?_; clear_value y) | (have hy : Does cs c y.1 := ?_; clear_value y)
        | (have hy : Does cs c y.2 := ?_; clear_value y) | clear_value y)
    | dsimp only

theorem afterCapture_does {cs : List Part} {c : State} (s : State) (r : Nat) (last : Nat) (c' : Capture)
    (hs : [.trig] ⊆ cs) (hc : Does cs c s) :
    Does cs c (afterCapture s r last c') := by
  unfold afterCapture
  repeat' first
    | with_reducible assumption | with_reducible exact sub_of hs rfl | (intro) | with_reducible apply State_setReel_does
    | with_reducible apply armReel_does | with_reducible apply ite_does | with_reducible apply ite_fst_does | split
    | (extract_lets +onlyGivenNames y; first
        | (have hy : Does cs c y := ?_; clear_value y) | (have hy : Does cs c y.1 := ?_; clear_value y)
        | (have hy : Does cs c y.2 := ?_; clear_value y) | clear_value y)
    | dsimp only

theorem finishCapture_does {cs : List Part} {c : State} (s : State) (r : Nat) (aborted : Bool)
    (hs : [.objs, .ptp, .trig, .twine] ⊆ cs) (hc : Does cs c s) :
    Does cs c (finishCapture s r aborted) := by
  unfold finishCapture
  repeat' first
    | with_reducible assumption | with_reducible exact sub_of hs rfl | (intro) | with_reducible apply State_setReel_does
    | with_reducible apply sendCaptures_does | with_reducible apply afterCapture_does | with_reducible apply State_bump_does | split
    | (extract_lets +onlyGivenNames y; first
        | (have hy : Does cs c y := ?_; clear_value y) | (have hy : Does cs c y.1 := ?_; clear_value y)
        | (have hy : Does cs c y.2 := ?_; clear_value y) | clear_value y)
    | dsimp only

theorem missEvent_does {cs : List Part} {c : State} (s : State) (r : Nat) (unit : Nat) (ev : TrigEvent)
    (hs : [.free, .objs, .trig] ⊆ cs) (hc : Does cs c s) :
    Does cs c (missEvent s r unit ev) := by
  unfold missEvent
  repeat' first
    | with_reducible assumption | with_reducible exact sub_of hs rfl | (intro) | with_reducible apply State_freshNat_does
    | with_reducible apply State_bump_does | with_reducible apply State_setReel_does | with_reducible apply ite_does
    | with_reducible apply ite_fst_does | split
    | (extract_lets +onlyGivenNames y; first
        | (have hy : Does cs c y := ?_; clear_value y) | (have hy : Does cs c y.1 := ?_; clear_value y)
        | (have hy : Does cs c y.2 := ?_; clear_value y) | clear_value y)
    | dsimp only

theorem triggerReel_does {cs : List Part} {c : State} (s : State) (r : Nat) (unit : Nat) (ev : TrigEvent) (post : Nat) (maskStop : Bool)
    (hs : [.free, .objs, .ptp, .trig, .twine] ⊆ cs) (hc : Does cs c s) :
    Does cs c (triggerReel s r unit ev post maskStop) := by
  unfold triggerReel
  repeat' first
    | with_reducible assumption | with_reducible exact sub_of hs rfl | (intro) | with_reducible apply State_setReel_does
    | with_reducible apply missEvent_does | with_reducible apply finishCapture_does | with_reducible apply ite_does
    | with_reducible apply ite_fst_does | split
    | (extract_lets +onlyGivenNames y; first
        | (have hy : Does cs c y := ?_; clear_value y) | (have hy : Does cs c y.1 := ?_; clear_value y)
        | (have hy : Does cs c y.2 := ?_; clear_value y) | clear_value y)
    | dsimp only

theorem reelLater_does {cs : List Part} {c : State} (r : Nat) (a1 : Nat) (a2 : State)
    (hs : [.free, .objs, .ptp, .trig, .twine] ⊆ cs) (hc : Does cs c a2) :
    Does cs c (reelLater r a1 a2) := by
  induction a1 generalizing a2 with
  | zero => rw [reelLater]; exact hc
  | succ n ih =>
    rw [reelLater]; repeat' first
      | with_reducible assumption | with_reducible exact sub_of hs rfl | (intro) | with_reducible apply ih
      | with_reducible apply State_ev_does | with_reducible apply State_setReel_does | with_reducible apply triggerReel_does
      | with_reducible apply ite_does | with_reducible apply ite_fst_does | split
      | (extract_lets +onlyGivenNames y; first
          | (have hy : Does cs c y := ?_; clear_value y) | (have hy : Does cs c y.1 := ?_; clear_value y)
          | (have hy : Does cs c y.2 := ?_; clear_value y) | clear_value y)
      | with_reducible apply foldl_does | with_reducible apply foldl_fst_does | dsimp only

theorem reelSettled_does {cs : List Part} {c : State} (s : State) (r : Nat)
    (hs : [.free, .objs, .ptp, .trig, .twine] ⊆ cs) (hc : Does cs c s) :
    Does cs c (reelSettled s r) := by
  unfold reelSettled
  repeat' first
    | with_reducible assumption | with_reducible exact sub_of hs rfl | (intro) | with_reducible apply reelLater_does | dsimp only

theorem reelWord_does {cs : List Part} {c : State} (s : State) (r : Nat) (ch : Nat) (t : Nat) (word : Nat)
    (hs : [.free, .objs, .ptp, .trig, .twine] ⊆ cs) (hc : Does cs c s) :
    Does cs c (reelWord s r ch t word) := by
  unfold reelWord
  repeat' first
    | with_reducible assumption | with_reducible exact sub_of hs rfl | (intro) | with_reducible apply State_setReel_does
    | with_reducible apply reelSettled_does | with_reducible apply finishCapture_does | with_reducible apply ite_does
    | with_reducible apply ite_fst_does | split
    | (extract_lets +onlyGivenNames y; first
        | (have hy : Does cs c y := ?_; clear_value y) | (have hy : Does cs c y.1 := ?_; clear_value y)
        | (have hy : Does cs c y.2 := ?_; clear_value y) | clear_value y)
    | dsimp only

theorem rearmMissed_does {cs : List Part} {c : State} (s : State) (t : Nat) (hs : [.trig] ⊆ cs) (hc : Does cs c s) :
    Does cs c (rearmMissed s t) := by
  unfold rearmMissed
  repeat' first
    | with_reducible assumption | with_reducible exact sub_of hs rfl | (intro) | with_reducible apply State_setReel_does
    | with_reducible apply ite_does | with_reducible apply ite_fst_does | split | with_reducible apply each_does | dsimp only

theorem rearmDue_does {cs : List Part} {c : State} (s : State) (t : Nat)
    (hs : [.free, .objs, .ptp, .trig, .twine] ⊆ cs) (hc : Does cs c s) :
    Does cs c (rearmDue s t) := by
  unfold rearmDue
  repeat' first
    | with_reducible assumption | with_reducible exact sub_of hs rfl | (intro) | with_reducible apply reelSettled_does
    | with_reducible apply armReel_does | with_reducible apply ite_does | with_reducible apply ite_fst_does | split
    | with_reducible apply each_does | dsimp only

theorem reelModeChanged_does {cs : List Part} {c : State} (s : State) (r : Nat) (t0 : Nat)
    (hs : [.objs, .ptp, .trig, .twine] ⊆ cs) (hc : Does cs c s) :
    Does cs c (reelModeChanged s r t0) := by
  unfold reelModeChanged
  repeat' first
    | with_reducible assumption | with_reducible exact sub_of hs rfl | (intro) | with_reducible apply finishCapture_does
    | with_reducible apply State_setReel_does | with_reducible apply armReel_does | with_reducible apply ite_does
    | with_reducible apply ite_fst_does | split
    | (extract_lets +onlyGivenNames y; first
        | (have hy : Does cs c y := ?_; clear_value y) | (have hy : Does cs c y.1 := ?_; clear_value y)
        | (have hy : Does cs c y.2 := ?_; clear_value y) | clear_value y)
    | dsimp only

theorem reelArmed_does {cs : List Part} {c : State} (s : State) (r : Nat) (t0 : Nat) (hs : [.trig] ⊆ cs) (hc : Does cs c s) :
    Does cs c (reelArmed s r t0) := by
  unfold reelArmed
  repeat' first
    | with_reducible assumption | with_reducible exact sub_of hs rfl | (intro) | with_reducible apply armReel_does
    | with_reducible apply ite_does | with_reducible apply ite_fst_does | split | dsimp only

theorem freeCapture_does {cs : List Part} {c : State} (s : State) (r : Nat) (id : Nat) (hs : [.trig] ⊆ cs) (hc : Does cs c s) :
    Does cs c (freeCapture s r id) := by
  unfold freeCapture
  repeat' first
    | with_reducible assumption | with_reducible exact sub_of hs rfl | (intro) | with_reducible apply State_setReel_does
    | with_reducible apply armReel_does | with_reducible apply ite_does | with_reducible apply ite_fst_does | split
    | (extract_lets +onlyGivenNames y; first
        | (have hy : Does cs c y := ?_; clear_value y) | (have hy : Does cs c y.1 := ?_; clear_value y)
        | (have hy : Does cs c y.2 := ?_; clear_value y) | clear_value y)
    | dsimp only

theorem releaseReel_does {cs : List Part} {c : State} (s : State) (r : Nat) (hs : [.trig] ⊆ cs) (hc : Does cs c s) :
    Does cs c (releaseReel s r) := by
  unfold releaseReel
  repeat' first
    | with_reducible assumption | with_reducible exact sub_of hs rfl | (intro) | with_reducible apply freeCapture_does
    | with_reducible apply ite_does | with_reducible apply ite_fst_does | split | dsimp only

theorem ackCapture_does {cs : List Part} {c : State} (s : State) (r : Nat) (id : Nat) (bytes : Nat)
    (hs : [.trig] ⊆ cs) (hc : Does cs c s) :
    Does cs c (ackCapture s r id bytes) := by
  unfold ackCapture
  repeat' first
    | with_reducible assumption | with_reducible exact sub_of hs rfl | (intro) | with_reducible apply freeCapture_does
    | with_reducible apply State_setReel_does | with_reducible apply ite_does | with_reducible apply ite_fst_does | split
    | (extract_lets +onlyGivenNames y; first
        | (have hy : Does cs c y := ?_; clear_value y) | (have hy : Does cs c y.1 := ?_; clear_value y)
        | (have hy : Does cs c y.2 := ?_; clear_value y) | clear_value y)
    | dsimp only

theorem endCaptures_does {cs : List Part} {c : State} (s : State) (ch : Nat) (t0 : Nat) (outOnly : Bool)
    (hs : [.free, .objs, .ptp, .trig, .twine] ⊆ cs) (hc : Does cs c s) :
    Does cs c (endCaptures s ch t0 outOnly) := by
  unfold endCaptures
  repeat' first
    | with_reducible assumption | with_reducible exact sub_of hs rfl | (intro) | with_reducible apply finishCapture_does
    | with_reducible apply reelSettled_does | with_reducible apply State_setReel_does | with_reducible apply ite_does
    | with_reducible apply ite_fst_does | split
    | (extract_lets +onlyGivenNames y; first
        | (have hy : Does cs c y := ?_; clear_value y) | (have hy : Does cs c y.1 := ?_; clear_value y)
        | (have hy : Does cs c y.2 := ?_; clear_value y) | clear_value y)
    | dsimp only

theorem endAllCaptures_does {cs : List Part} {c : State} (s : State)
    (hs : [.free, .objs, .ptp, .trig, .twine] ⊆ cs) (hc : Does cs c s) :
    Does cs c (endAllCaptures s) := by
  unfold endAllCaptures
  repeat' first
    | with_reducible assumption | with_reducible exact sub_of hs rfl | (intro) | with_reducible apply reelSettled_does
    | with_reducible apply finishCapture_does | with_reducible apply State_setReel_does
    | (extract_lets +onlyGivenNames y; first
        | (have hy : Does cs c y := ?_; clear_value y) | (have hy : Does cs c y.1 := ?_; clear_value y)
        | (have hy : Does cs c y.2 := ?_; clear_value y) | clear_value y)
    | with_reducible apply each_does | dsimp only

theorem sendTrigger_does {cs : List Part} {c : State} (s : State) (u : Nat) (ev : TrigEvent)
    (hs : [.objs, .ptp, .trig] ⊆ cs) (hc : Does cs c s) :
    Does cs c (sendTrigger s u ev) := by
  unfold sendTrigger
  repeat' first
    | with_reducible assumption | with_reducible exact sub_of hs rfl | (intro) | with_reducible apply sendTwine_does
    | with_reducible apply ite_does | with_reducible apply ite_fst_does | split
    | (extract_lets +onlyGivenNames y; first
        | (have hy : Does cs c y := ?_; clear_value y) | (have hy : Does cs c y.1 := ?_; clear_value y)
        | (have hy : Does cs c y.2 := ?_; clear_value y) | (let z : TrigState := y; clear z) | clear_value y)
    | dsimp only | with_reducible apply trig_does

theorem maskEvent_does {cs : List Part} {c : State} (st : Store) (s : State) (m : Nat) (f : Nat)
    (hs : [.objs, .trig] ⊆ cs) (hc : Does cs c s) :
    Does cs c (maskEvent st s m f) := by
  unfold maskEvent
  repeat' first
    | with_reducible assumption | with_reducible exact sub_of hs rfl | (intro) | with_reducible apply State_bump_does
    | with_reducible apply State_setMask_does | with_reducible apply ite_does | with_reducible apply ite_fst_does | split
    | (extract_lets +onlyGivenNames y; first
        | (have hy : Does cs c y := ?_; clear_value y) | (have hy : Does cs c y.1 := ?_; clear_value y)
        | (have hy : Does cs c y.2 := ?_; clear_value y) | clear_value y)
    | dsimp only

theorem consumers_does {cs : List Part} {c : State} (st : Store) (s : State) (u : Nat) (ev : TrigEvent)
    (hs : [.free, .objs, .log, .samp, .ptp, .trig, .twine] ⊆ cs) (hc : Does cs c s) :
    Does cs c (consumers st s u ev) := by
  unfold consumers
  repeat' first
    | with_reducible assumption | with_reducible exact sub_of hs rfl | (intro) | with_reducible apply triggerReel_does
    | with_reducible apply injRequest_does | with_reducible apply maskEvent_does | with_reducible apply ite_does
    | with_reducible apply ite_fst_does | split
    | (extract_lets +onlyGivenNames y; first
        | (have hy : Does cs c y := ?_; clear_value y) | (have hy : Does cs c y.1 := ?_; clear_value y)
        | (have hy : Does cs c y.2 := ?_; clear_value y) | clear_value y)
    | with_reducible apply each_does | dsimp only

theorem unitEvent_does {cs : List Part} {c : State} (st : Store) (s : State) (u : Nat) (ev : TrigEvent)
    (hs : [.free, .objs, .log, .samp, .ptp, .trig, .twine] ⊆ cs) (hc : Does cs c s) :
    Does cs c (unitEvent st s u ev).2 := by
  unfold unitEvent
  repeat' first
    | with_reducible assumption | with_reducible exact sub_of hs rfl | (intro) | with_reducible apply State_bump_does
    | with_reducible apply State_setUnit_does | with_reducible apply State_evAt_does | with_reducible apply State_put_does
    | with_reducible apply sendTrigger_does | with_reducible apply consumers_does | with_reducible apply ite_does
    | with_reducible apply ite_fst_does | split
    | (extract_lets +onlyGivenNames y; first
        | (have hy : Does cs c y := ?_; clear_value y) | (have hy : Does cs c y.1 := ?_; clear_value y)
        | (have hy : Does cs c y.2 := ?_; clear_value y) | clear_value y)
    | dsimp only

theorem combine_does {cs : List Part} {c : State} (st : Store) (s : State) (u : Nat) (t : Nat) (fired : List (Nat × TrigEvent))
    (hs : [.trig] ⊆ cs) (hc : Does cs c s) :
    Does cs c (combine st s u t fired).2 := by
  unfold combine
  repeat' first
    | with_reducible assumption | with_reducible exact sub_of hs rfl | (intro) | with_reducible apply State_setUnit_does
    | with_reducible apply ite_does | with_reducible apply ite_fst_does | split
    | (extract_lets +onlyGivenNames y; first
        | (have hy : Does cs c y := ?_; clear_value y) | (have hy : Does cs c y.1 := ?_; clear_value y)
        | (have hy : Does cs c y.2 := ?_; clear_value y) | clear_value y)
    | dsimp only

theorem unitTurn_does {cs : List Part} {c : State} (st : Store) (direct : Nat → Bool) (ev : TrigEvent) (acc : State × List (Nat × TrigEvent)) (u : Nat)
    (hs : [.free, .objs, .log, .samp, .ptp, .trig, .twine] ⊆ cs) (hc : Does cs c acc.1) :
    Does cs c (unitTurn st direct ev acc u).1 := by
  unfold unitTurn
  repeat' first
    | with_reducible assumption | with_reducible exact sub_of hs rfl | (intro) | with_reducible apply combine_does
    | with_reducible apply unitEvent_does | with_reducible apply ite_does | with_reducible apply ite_fst_does | split
    | (extract_lets +onlyGivenNames y; first
        | (have hy : Does cs c y := ?_; clear_value y) | (have hy : Does cs c y.1 := ?_; clear_value y)
        | (have hy : Does cs c y.2 := ?_; clear_value y) | clear_value y)
    | with_reducible apply foldl_does | with_reducible apply foldl_fst_does | dsimp only

theorem firePass_does {cs : List Part} {c : State} (s : State) (direct : Store → Nat → Bool) (ev : TrigEvent)
    (hs : [.free, .objs, .log, .samp, .ptp, .trig, .twine] ⊆ cs) (hc : Does cs c s) :
    Does cs c (firePass s direct ev) := by
  unfold firePass
  repeat' first
    | with_reducible assumption | with_reducible exact sub_of hs rfl | (intro) | with_reducible apply unitTurn_does
    | (extract_lets +onlyGivenNames y; first
        | (have hy : Does cs c y := ?_; clear_value y) | (have hy : Does cs c y.1 := ?_; clear_value y)
        | (have hy : Does cs c y.2 := ?_; clear_value y) | clear_value y)
    | with_reducible apply foldl_does | with_reducible apply foldl_fst_does | dsimp only

theorem slubReel_does {cs : List Part} {c : State} (st : Store) (s : State) (m : Nat) (t : Nat)
    (hs : [.free, .objs, .ptp, .trig, .twine] ⊆ cs) (hc : Does cs c s) :
    Does cs c (slubReel st s m t).2 := by
  unfold slubReel
  repeat' first
    | with_reducible assumption | with_reducible exact sub_of hs rfl | (intro) | with_reducible apply triggerReel_does
    | with_reducible apply State_setReel_does | with_reducible apply reelSettled_does | with_reducible apply finishCapture_does
    | with_reducible apply ite_does | with_reducible apply ite_fst_does | split
    | (extract_lets +onlyGivenNames y; first
        | (have hy : Does cs c y := ?_; clear_value y) | (have hy : Does cs c y.1 := ?_; clear_value y)
        | (have hy : Does cs c y.2 := ?_; clear_value y) | clear_value y)
    | dsimp only

theorem slubOutput_does {cs : List Part} {c : State} (st : Store) (s : State) (m : Nat) (hs : [.trig] ⊆ cs) (hc : Does cs c s) :
    Does cs c (slubOutput st s m).2 := by
  unfold slubOutput
  repeat' first
    | with_reducible assumption | with_reducible exact sub_of hs rfl | (intro) | with_reducible apply ite_does
    | with_reducible apply ite_fst_does | split
    | (extract_lets +onlyGivenNames y; first
        | (have hy : Does cs c y := ?_; clear_value y) | (have hy : Does cs c y.1 := ?_; clear_value y)
        | (have hy : Does cs c y.2 := ?_; clear_value y) | (let z : TrigState := y; clear z) | clear_value y)
    | dsimp only | with_reducible apply trig_does

theorem storeSlub_does {cs : List Part} {c : State} (s : State) (m : Nat) (ch : Nat) (t : Nat) (b : Bytes)
    (hs : [.objs, .log, .ptp, .bob, .twine] ⊆ cs) (hc : Does cs c s) :
    Does cs c (storeSlub s m ch t b) := by
  unfold storeSlub
  repeat' first
    | with_reducible assumption | with_reducible exact sub_of hs rfl | (intro) | with_reducible apply commitRecord_does
    | with_reducible apply State_putB_does | dsimp only

theorem formSlub_does {cs : List Part} {c : State} (live : Bool) (st : Store) (m : Nat) (ch : Nat) (t : Nat) (v : Int) (s : State) (x : Nat × Bool × Int)
    (hs : [.free, .objs, .log, .ptp, .bob, .spin, .trig, .twine] ⊆ cs) (hc : Does cs c s) :
    Does cs c (formSlub live st m ch t v s x) := by
  unfold formSlub
  repeat' first
    | with_reducible assumption | with_reducible exact sub_of hs rfl | (intro) | with_reducible apply State_setMask_does
    | with_reducible apply slubOutput_does | with_reducible apply slubReel_does | with_reducible apply storeSlub_does
    | with_reducible apply ite_does | with_reducible apply ite_fst_does | split
    | (extract_lets +onlyGivenNames y; first
        | (have hy : Does cs c y := ?_; clear_value y) | (have hy : Does cs c y.1 := ?_; clear_value y)
        | (have hy : Does cs c y.2 := ?_; clear_value y) | (let z : SpindleState := y; clear z) | clear_value y)
    | dsimp only | with_reducible apply spin_does

theorem maskWord_does {cs : List Part} {c : State} (live : Bool) (st : Store) (m : Nat) (ch : Nat) (t : Nat) (v : Int) (bad : Bool) (refs : List Nat) (s : State)
    (hs : [.free, .objs, .log, .ptp, .bob, .spin, .trig, .twine] ⊆ cs) (hc : Does cs c s) :
    Does cs c (maskWord live st m ch t v bad refs s).2 := by
  unfold maskWord
  repeat' first
    | with_reducible assumption | with_reducible exact sub_of hs rfl | (intro) | with_reducible apply State_bump_does
    | with_reducible apply formSlub_does | with_reducible apply ite_does | with_reducible apply ite_fst_does | split
    | (extract_lets +onlyGivenNames y; first
        | (have hy : Does cs c y := ?_; clear_value y) | (have hy : Does cs c y.1 := ?_; clear_value y)
        | (have hy : Does cs c y.2 := ?_; clear_value y) | clear_value y)
    | with_reducible apply foldl_does | with_reducible apply foldl_fst_does | dsimp only

theorem rememberWord_does {cs : List Part} {c : State} (st : Store) (s : State) (m : Nat) (ch : Nat) (t : Nat) (v : Int) (bad : Bool)
    (hs : [.trig] ⊆ cs) (hc : Does cs c s) :
    Does cs c (rememberWord st s m ch t v bad) := by
  unfold rememberWord
  repeat' first
    | with_reducible assumption | with_reducible exact sub_of hs rfl | (intro) | with_reducible apply State_setMask_does
    | with_reducible apply ite_does | with_reducible apply ite_fst_does | split
    | (extract_lets +onlyGivenNames y; first
        | (have hy : Does cs c y := ?_; clear_value y) | (have hy : Does cs c y.1 := ?_; clear_value y)
        | (have hy : Does cs c y.2 := ?_; clear_value y) | clear_value y)
    | dsimp only

theorem maskWords_does {cs : List Part} {c : State} (live : Bool) (s : State) (ch : Nat) (t : Nat) (v : Int) (bad : Bool)
    (hs : [.free, .objs, .log, .ptp, .bob, .spin, .trig, .twine] ⊆ cs) (hc : Does cs c s) :
    Does cs c (maskWords live s ch t v bad).2 := by
  unfold maskWords
  exact foldl_snd_does _ _ _ (fun a m h => by
    dsimp only
    split
    · exact rememberWord_does _ _ _ _ _ _ _ (sub_of hs rfl) (maskWord_does _ _ _ _ _ _ _ _ _ (sub_of hs rfl) h)
    · exact h) hc

theorem maskSpanWords_does {cs : List Part} {c : State} (live : Bool) (s : State) (m : Nat) (ref : Nat)
    (hs : [.free, .objs, .log, .ptp, .bob, .spin, .trig, .twine] ⊆ cs) (hc : Does cs c s) :
    Does cs c (maskSpanWords live s m ref).2 := by
  unfold maskSpanWords
  exact foldl_snd_does _ _ _ (fun a w h => maskWord_does _ _ _ _ _ _ _ _ _ (sub_of hs rfl) h) hc

theorem maskBacklog_does {cs : List Part} {c : State} (a0 : Nat) (a1 : State)
    (hs : [.free, .objs, .log, .samp, .ptp, .bob, .spin, .trig, .twine] ⊆ cs) (hc : Does cs c a1) :
    Does cs c (maskBacklog a0 a1) := by
  induction a0 generalizing a1 with
  | zero => rw [maskBacklog]; exact hc
  | succ n ih =>
    rw [maskBacklog]; repeat' first
      | with_reducible apply foldl_snd_does | with_reducible apply ite_snd_does | with_reducible assumption
      | with_reducible exact sub_of hs rfl | (intro) | with_reducible apply ih | with_reducible apply State_setMask_does
      | with_reducible apply firePass_does | with_reducible apply maskSpanWords_does | with_reducible apply ite_does
      | with_reducible apply ite_fst_does | split
      | (extract_lets +onlyGivenNames y; first
          | (have hy : Does cs c y := ?_; clear_value y) | (have hy : Does cs c y.1 := ?_; clear_value y)
          | (have hy : Does cs c y.2 := ?_; clear_value y) | clear_value y)
      | with_reducible apply foldl_does | with_reducible apply foldl_fst_does | dsimp only

theorem fireAll_does {cs : List Part} {c : State} (s : State) (direct : Store → Nat → Bool) (ev : TrigEvent)
    (hs : [.free, .objs, .log, .samp, .ptp, .bob, .spin, .trig, .twine] ⊆ cs) (hc : Does cs c s) :
    Does cs c (fireAll s direct ev) := by
  unfold fireAll
  repeat' first
    | with_reducible assumption | with_reducible exact sub_of hs rfl | (intro) | with_reducible apply firePass_does
    | with_reducible apply maskBacklog_does | with_reducible apply ite_does | with_reducible apply ite_fst_does | split
    | (extract_lets +onlyGivenNames y; first
        | (have hy : Does cs c y := ?_; clear_value y) | (have hy : Does cs c y.1 := ?_; clear_value y)
        | (have hy : Does cs c y.2 := ?_; clear_value y) | clear_value y)
    | dsimp only

theorem fireRemote_does {cs : List Part} {c : State} (s : State) (src : Nat) (unit : Nat) (ev : TrigEvent)
    (hs : [.free, .objs, .log, .samp, .ptp, .bob, .spin, .trig, .twine] ⊆ cs) (hc : Does cs c s) :
    Does cs c (fireRemote s src unit ev) := by
  unfold fireRemote
  repeat' first
    | with_reducible assumption | with_reducible exact sub_of hs rfl | (intro) | with_reducible apply fireAll_does | dsimp only

theorem crossHits_does {cs : List Part} {c : State} (s : State) (ch : Nat) (t : Nat) (v : Int) (bad : Bool)
    (hs : [.trig] ⊆ cs) (hc : Does cs c s) :
    Does cs c (crossHits s ch t v bad).2 := by
  unfold crossHits
  exact foldl_snd_does _ _ _ (fun a u h => by
    dsimp only
    split <;> exact State_setUnit_does _ _ _ (sub_of hs rfl) h) hc

theorem watchWord_does {cs : List Part} {c : State} (s : State) (ch : Nat) (t : Nat) (v : Int) (bad : Bool)
    (hs : [.free, .objs, .log, .samp, .ptp, .bob, .spin, .trig, .twine] ⊆ cs) (hc : Does cs c s) :
    Does cs c (watchWord s ch t v bad) := by
  unfold watchWord
  repeat' first
    | with_reducible assumption | with_reducible exact sub_of hs rfl | (intro) | with_reducible apply crossHits_does
    | with_reducible apply maskWords_does | with_reducible apply fireAll_does
    | (extract_lets +onlyGivenNames y; first
        | (have hy : Does cs c y := ?_; clear_value y) | (have hy : Does cs c y.1 := ?_; clear_value y)
        | (have hy : Does cs c y.2 := ?_; clear_value y) | clear_value y)
    | with_reducible apply foldl_does | with_reducible apply foldl_fst_does | dsimp only

theorem logEvent_does {cs : List Part} {c : State} (s : State) (u : Nat) (ev : TrigEvent) (hs : [.log] ⊆ cs) (hc : Does cs c s) :
    Does cs c (logEvent s u ev) := by
  unfold logEvent
  repeat' first
    | with_reducible assumption | with_reducible exact sub_of hs rfl | (intro) | with_reducible apply State_evAt_does | dsimp only

theorem missedEvent_does {cs : List Part} {c : State} (sp : Nat) (s : State) (x : Nat × Nat)
    (hs : [.objs, .spin, .trig] ⊆ cs) (hc : Does cs c s) :
    Does cs c (missedEvent sp s x) := by
  unfold missedEvent
  repeat' first
    | with_reducible assumption | with_reducible exact sub_of hs rfl | (intro) | with_reducible apply State_setUnit_does
    | with_reducible apply maskEvent_does | with_reducible apply ite_does | with_reducible apply ite_fst_does | split
    | (extract_lets +onlyGivenNames y; first
        | (have hy : Does cs c y := ?_; clear_value y) | (have hy : Does cs c y.1 := ?_; clear_value y)
        | (have hy : Does cs c y.2 := ?_; clear_value y) | (let z : SpindleState := y; clear z) | clear_value y)
    | with_reducible apply each_does | dsimp only | with_reducible apply spin_does

theorem missedMaskEvents_does {cs : List Part} {c : State} (sp : Nat) (s : State) (x : Nat × List Nat)
    (hs : [.objs, .spin, .trig] ⊆ cs) (hc : Does cs c s) :
    Does cs c (missedMaskEvents sp s x) := by
  unfold missedMaskEvents
  repeat' first
    | with_reducible assumption | with_reducible exact sub_of hs rfl | (intro) | with_reducible apply missedEvent_does
    | with_reducible apply foldl_does | with_reducible apply foldl_fst_does | dsimp only

theorem missedBacklog_does {cs : List Part} {c : State} (a0 : Nat) (a1 : State)
    (hs : [.free, .objs, .log, .ptp, .bob, .spin, .trig, .twine] ⊆ cs) (hc : Does cs c a1) :
    Does cs c (missedBacklog a0 a1) := by
  induction a0 generalizing a1 with
  | zero => rw [missedBacklog]; exact hc
  | succ n ih =>
    rw [missedBacklog]; repeat' first
      | with_reducible apply foldl_snd_does | with_reducible apply ite_snd_does | with_reducible assumption
      | with_reducible exact sub_of hs rfl | (intro) | with_reducible apply ih | with_reducible apply State_setMask_does
      | with_reducible apply maskSpanWords_does | with_reducible apply missedMaskEvents_does | with_reducible apply ite_does
      | with_reducible apply ite_fst_does | split
      | (extract_lets +onlyGivenNames y; first
          | (have hy : Does cs c y := ?_; clear_value y) | (have hy : Does cs c y.1 := ?_; clear_value y)
          | (have hy : Does cs c y.2 := ?_; clear_value y) | clear_value y)
      | with_reducible apply foldl_does | with_reducible apply foldl_fst_does | dsimp only

theorem missedWord_does {cs : List Part} {c : State} (s : State) (ch : Nat) (t : Nat) (v : Int) (bad : Bool)
    (hs : [.free, .objs, .log, .ptp, .bob, .spin, .trig, .twine] ⊆ cs) (hc : Does cs c s) :
    Does cs c (missedWord s ch t v bad) := by
  unfold missedWord
  repeat' first
    | with_reducible assumption | with_reducible exact sub_of hs rfl | (intro) | with_reducible apply crossHits_does
    | with_reducible apply missedEvent_does | with_reducible apply maskWords_does | with_reducible apply missedBacklog_does
    | with_reducible apply missedMaskEvents_does | with_reducible apply ite_does | with_reducible apply ite_fst_does | split
    | (extract_lets +onlyGivenNames y; first
        | (have hy : Does cs c y := ?_; clear_value y) | (have hy : Does cs c y.1 := ?_; clear_value y)
        | (have hy : Does cs c y.2 := ?_; clear_value y) | clear_value y)
    | with_reducible apply foldl_does | with_reducible apply foldl_fst_does | dsimp only

theorem trigPrune_does {cs : List Part} {c : State} (s : State) (hs : [.trig] ⊆ cs) (hc : Does cs c s) :
    Does cs c (trigPrune s) := by
  unfold trigPrune
  repeat' first
    | with_reducible assumption | with_reducible exact sub_of hs rfl | (intro) | with_reducible apply State_setMask_does | split
    | (extract_lets +onlyGivenNames y; first
        | (have hy : Does cs c y := ?_; clear_value y) | (have hy : Does cs c y.1 := ?_; clear_value y)
        | (have hy : Does cs c y.2 := ?_; clear_value y) | (let z : TrigState := y; clear z) | clear_value y)
    | with_reducible apply each_does | dsimp only | with_reducible apply trig_does

end Sys2Proof.Machine
end

