-- ==== Sys2Proof/Laws/Spindle.lean ====
section
/-! SUPPORT. What each operation of Machine/Spindle.lean does at most: the parts it changes, and what it keeps. -/

namespace Sys2Proof.Machine

set_option linter.all false

theorem State_setRed_does {cs : List Part} {c : State} (s : State) (ch : Nat) (c' : RedChan)
    (hs : [.spin] ⊆ cs) (hc : Does cs c s) :
    Does cs c (State.setRed s ch c') := by
  unfold State.setRed
  repeat' first
    | with_reducible assumption | with_reducible exact sub_of hs rfl | (intro) | dsimp only | with_reducible apply spin_does

theorem emitRecord_does {cs : List Part} {c : State} (s : State) (ch : Nat) (key : Nat) (b : Bytes)
    (hs : [.objs, .log, .ptp, .bob, .twine] ⊆ cs) (hc : Does cs c s) :
    Does cs c (emitRecord s ch key b) := by
  unfold emitRecord
  repeat' first
    | with_reducible assumption | with_reducible exact sub_of hs rfl | exact (rfl : TwineState.violations _ = _) | (intro)
    | with_reducible apply State_putB_does | with_reducible apply commitRecord_does
    | (extract_lets +onlyGivenNames y; first
        | (have hy : Does cs c y := ?_; clear_value y) | (have hy : Does cs c y.1 := ?_; clear_value y)
        | (have hy : Does cs c y.2 := ?_; clear_value y) | (let z : TwineState := y; clear z) | clear_value y)
    | dsimp only | with_reducible apply twine_does

theorem emitAcc_does {cs : List Part} {c : State} (s : State) (ch : Nat) (a : RedAcc) (key : Nat) (cut : Bool)
    (hs : [.objs, .log, .ptp, .bob, .twine] ⊆ cs) (hc : Does cs c s) :
    Does cs c (emitAcc s ch a key cut) := by
  unfold emitAcc
  repeat' first
    | with_reducible assumption | with_reducible exact sub_of hs rfl | (intro) | with_reducible apply State_bump_does
    | with_reducible apply bobGap_does | with_reducible apply emitRecord_does | with_reducible apply ite_does
    | with_reducible apply ite_fst_does | split | dsimp only

theorem storeLate_does {cs : List Part} {c : State} (s : State) (ch : Nat) (upto : Nat)
    (hs : [.objs, .log, .ptp, .bob, .spin, .twine] ⊆ cs) (hc : Does cs c s) :
    Does cs c (storeLate s ch upto) := by
  unfold storeLate
  repeat' first
    | with_reducible assumption | with_reducible exact sub_of hs rfl | (intro) | with_reducible apply storeSlub_does | split
    | (extract_lets +onlyGivenNames y; first
        | (have hy : Does cs c y := ?_; clear_value y) | (have hy : Does cs c y.1 := ?_; clear_value y)
        | (have hy : Does cs c y.2 := ?_; clear_value y) | (let z : SpindleState := y; clear z) | clear_value y)
    | with_reducible apply foldl_does | with_reducible apply foldl_fst_does | dsimp only | with_reducible apply spin_does

theorem startPending_does {cs : List Part} {c : State} (s : State) (ch : Nat) (a2 : List RedPend)
    (hs : [.objs, .spin] ⊆ cs) (hc : Does cs c s) :
    Does cs c (startPending s ch a2) := by
  induction a2 with
  | nil => exact State_setRed_does _ _ _ (sub_of hs rfl) hc
  | cons d l ih =>
    unfold startPending
    split
    · exact ih
    · exact State_put_does _ _ _ _ (sub_of hs rfl) (State_setRed_does _ _ _ (sub_of hs rfl) hc)

theorem afterEnd_does {cs : List Part} {c : State} (s : State) (ch : Nat) (idx : Nat) (prof : RedProfile) (stop : Nat)
    (hs : [.objs, .spin] ⊆ cs) (hc : Does cs c s) :
    Does cs c (afterEnd s ch idx prof stop) := by
  unfold afterEnd
  repeat' first
    | with_reducible assumption | with_reducible exact sub_of hs rfl | (intro) | with_reducible apply State_setRed_does
    | with_reducible apply startPending_does | with_reducible apply State_put_does | with_reducible apply ite_does
    | with_reducible apply ite_fst_does | split
    | (extract_lets +onlyGivenNames y; first
        | (have hy : Does cs c y := ?_; clear_value y) | (have hy : Does cs c y.1 := ?_; clear_value y)
        | (have hy : Does cs c y.2 := ?_; clear_value y) | clear_value y)
    | dsimp only

theorem storeAcc_does {cs : List Part} {c : State} (re : Option Nat) (s : State) (ch : Nat) (a : RedAcc)
    (hs : [.objs, .log, .ptp, .bob, .spin, .twine] ⊆ cs) (hc : Does cs c s) :
    Does cs c (storeAcc re s ch a) := by
  unfold storeAcc
  repeat' first
    | with_reducible assumption | with_reducible exact sub_of hs rfl | (intro) | with_reducible apply emitAcc_does
    | with_reducible apply storeLate_does | with_reducible apply State_bump_does | with_reducible apply ite_does
    | with_reducible apply ite_fst_does | split
    | (extract_lets +onlyGivenNames y; first
        | (have hy : Does cs c y := ?_; clear_value y) | (have hy : Does cs c y.1 := ?_; clear_value y)
        | (have hy : Does cs c y.2 := ?_; clear_value y) | clear_value y)
    | dsimp only

theorem closeAcc_does {cs : List Part} {c : State} (re : Option Nat) (s : State) (ch : Nat)
    (hs : [.objs, .log, .ptp, .bob, .spin, .twine] ⊆ cs) (hc : Does cs c s) :
    Does cs c (closeAcc re s ch) := by
  unfold closeAcc
  repeat' first
    | with_reducible assumption | with_reducible exact sub_of hs rfl | (intro) | with_reducible apply storeAcc_does
    | with_reducible apply afterEnd_does | with_reducible apply State_setRed_does | split
    | (extract_lets +onlyGivenNames y; first
        | (have hy : Does cs c y := ?_; clear_value y) | (have hy : Does cs c y.1 := ?_; clear_value y)
        | (have hy : Does cs c y.2 := ?_; clear_value y) | clear_value y)
    | dsimp only

theorem closePast_does {cs : List Part} {c : State} (re : Option Nat) (ch : Nat) (t : Nat) (a3 : Nat) (a4 : State)
    (hs : [.objs, .log, .ptp, .bob, .spin, .twine] ⊆ cs) (hc : Does cs c a4) :
    Does cs c (closePast re ch t a3 a4) := by
  induction a3 generalizing a4 with
  | zero => rw [closePast]; exact hc
  | succ n ih =>
    rw [closePast]; repeat' first
      | with_reducible assumption | with_reducible exact sub_of hs rfl | (intro) | with_reducible apply ih
      | with_reducible apply closeAcc_does | with_reducible apply ite_does | with_reducible apply ite_fst_does | split
      | (extract_lets +onlyGivenNames y; first
          | (have hy : Does cs c y := ?_; clear_value y) | (have hy : Does cs c y.1 := ?_; clear_value y)
          | (have hy : Does cs c y.2 := ?_; clear_value y) | clear_value y)
      | with_reducible apply foldl_does | with_reducible apply foldl_fst_does | dsimp only

theorem takeWord_does {cs : List Part} {c : State} (re : Option Nat) (ch : Nat) (s : State) (w : Nat × Nat × Nat)
    (hs : [.objs, .log, .ptp, .bob, .spin, .twine] ⊆ cs) (hc : Does cs c s) :
    Does cs c (takeWord re ch s w) := by
  unfold takeWord
  repeat' first
    | with_reducible assumption | with_reducible exact sub_of hs rfl | (intro) | with_reducible apply closePast_does
    | with_reducible apply State_setRed_does | with_reducible apply storeAcc_does | with_reducible apply ite_does
    | with_reducible apply ite_fst_does | split
    | (extract_lets +onlyGivenNames y; first
        | (have hy : Does cs c y := ?_; clear_value y) | (have hy : Does cs c y.1 := ?_; clear_value y)
        | (have hy : Does cs c y.2 := ?_; clear_value y) | clear_value y)
    | dsimp only

theorem redWord_does {cs : List Part} {c : State} (s : State) (ch : Nat) (t : Nat) (interval : Nat) (word : Nat)
    (hs : [.objs, .log, .ptp, .bob, .spin, .twine] ⊆ cs) (hc : Does cs c s) :
    Does cs c (redWord s ch t interval word) := by
  unfold redWord
  repeat' first
    | with_reducible assumption | with_reducible exact sub_of hs rfl | (intro) | with_reducible apply State_setRed_does
    | with_reducible apply takeWord_does | with_reducible apply ite_does | with_reducible apply ite_fst_does | split
    | (extract_lets +onlyGivenNames y; first
        | (have hy : Does cs c y := ?_; clear_value y) | (have hy : Does cs c y.1 := ?_; clear_value y)
        | (have hy : Does cs c y.2 := ?_; clear_value y) | clear_value y)
    | dsimp only

theorem redLost_does {cs : List Part} {c : State} (s : State) (ch : Nat) (t : Nat) (hs : [.spin] ⊆ cs) (hc : Does cs c s) :
    Does cs c (redLost s ch t) := by
  unfold redLost
  repeat' first
    | with_reducible assumption | with_reducible exact sub_of hs rfl | (intro) | with_reducible apply State_setRed_does
    | with_reducible apply ite_does | with_reducible apply ite_fst_does | split
    | (extract_lets +onlyGivenNames y; first
        | (have hy : Does cs c y := ?_; clear_value y) | (have hy : Does cs c y.1 := ?_; clear_value y)
        | (have hy : Does cs c y.2 := ?_; clear_value y) | clear_value y)
    | dsimp only

theorem redSelectWritten_does {cs : List Part} {c : State} (s : State) (ch : Nat) (t0 : Nat)
    (hs : [.objs, .spin] ⊆ cs) (hc : Does cs c s) :
    Does cs c (redSelectWritten s ch t0) := by
  unfold redSelectWritten
  repeat' first
    | with_reducible assumption | with_reducible exact sub_of hs rfl | (intro) | with_reducible apply State_put_does
    | with_reducible apply State_setRed_does | with_reducible apply ite_does | with_reducible apply ite_fst_does | split
    | (extract_lets +onlyGivenNames y; first
        | (have hy : Does cs c y := ?_; clear_value y) | (have hy : Does cs c y.1 := ?_; clear_value y)
        | (have hy : Does cs c y.2 := ?_; clear_value y) | clear_value y)
    | dsimp only

theorem redProfileWritten_does {cs : List Part} {c : State} (s : State) (p : Nat) (t0 : Nat)
    (hs : [.spin] ⊆ cs) (hc : Does cs c s) :
    Does cs c (redProfileWritten s p t0) := by
  unfold redProfileWritten
  repeat' first
    | with_reducible assumption | with_reducible exact sub_of hs rfl | (intro) | with_reducible apply State_setRed_does
    | with_reducible apply ite_does | with_reducible apply ite_fst_does | split | with_reducible apply each_does | dsimp only

theorem recomputeChannel_does {cs : List Part} {c : State} (s : State) (ch : Nat)
    (hs : [.objs, .log, .ptp, .bob, .spin, .twine] ⊆ cs) (hc : Does cs c s) :
    Does cs c (recomputeChannel s ch) := by
  unfold recomputeChannel
  repeat' first
    | with_reducible assumption | with_reducible exact sub_of hs rfl | (intro) | with_reducible apply State_setRed_does
    | with_reducible apply takeWord_does | split
    | (extract_lets +onlyGivenNames y; first
        | (have hy : Does cs c y := ?_; clear_value y) | (have hy : Does cs c y.1 := ?_; clear_value y)
        | (have hy : Does cs c y.2 := ?_; clear_value y) | clear_value y)
    | with_reducible apply foldl_does | with_reducible apply foldl_fst_does | dsimp only

theorem cutReductions_does {cs : List Part} {c : State} (s : State) (t : Nat)
    (hs : [.objs, .log, .ptp, .bob, .spin, .twine] ⊆ cs) (hc : Does cs c s) :
    Does cs c (cutReductions s t) := by
  unfold cutReductions
  repeat' first
    | with_reducible assumption | with_reducible exact sub_of hs rfl | (intro) | with_reducible apply closePast_does
    | with_reducible apply recomputeChannel_does | with_reducible apply emitAcc_does | with_reducible apply storeLate_does
    | with_reducible apply State_put_does | with_reducible apply State_setRed_does | with_reducible apply ite_does
    | with_reducible apply ite_fst_does | split
    | (extract_lets +onlyGivenNames y; first
        | (have hy : Does cs c y := ?_; clear_value y) | (have hy : Does cs c y.1 := ?_; clear_value y)
        | (have hy : Does cs c y.2 := ?_; clear_value y) | clear_value y)
    | with_reducible apply each_does | dsimp only

theorem restartReductions_does {cs : List Part} {c : State} (s : State) (t : Nat) (first : Bool)
    (hs : [.spin] ⊆ cs) (hc : Does cs c s) :
    Does cs c (restartReductions s t first) := by
  unfold restartReductions
  repeat' first
    | with_reducible assumption | with_reducible exact sub_of hs rfl | (intro) | with_reducible apply State_setRed_does
    | with_reducible apply ite_does | with_reducible apply ite_fst_does | split
    | (extract_lets +onlyGivenNames y; first
        | (have hy : Does cs c y := ?_; clear_value y) | (have hy : Does cs c y.1 := ?_; clear_value y)
        | (have hy : Does cs c y.2 := ?_; clear_value y) | clear_value y)
    | with_reducible apply each_does | dsimp only

theorem State_setFeed_does {cs : List Part} {c : State} (s : State) (q : Nat) (f : Feed) (hs : [.spin] ⊆ cs) (hc : Does cs c s) :
    Does cs c (State.setFeed s q f) := by
  unfold State.setFeed
  repeat' first
    | with_reducible assumption | with_reducible exact sub_of hs rfl | (intro) | dsimp only | with_reducible apply spin_does

theorem spindleWord_does {cs : List Part} {c : State} (s : State) (ch : Nat) (t : Nat) (interval : Nat) (word : Nat)
    (hs : [.free, .objs, .log, .samp, .ptp, .bob, .spin, .trig, .twine] ⊆ cs) (hc : Does cs c s) :
    Does cs c (spindleWord s ch t interval word) := by
  unfold spindleWord
  repeat' first
    | with_reducible assumption | with_reducible exact sub_of hs rfl | (intro) | with_reducible apply State_setRed_does
    | with_reducible apply watchWord_does | with_reducible apply redWord_does | with_reducible apply ite_does
    | with_reducible apply ite_fst_does | split
    | (extract_lets +onlyGivenNames y; first
        | (have hy : Does cs c y := ?_; clear_value y) | (have hy : Does cs c y.1 := ?_; clear_value y)
        | (have hy : Does cs c y.2 := ?_; clear_value y) | clear_value y)
    | dsimp only

theorem noteWord_does {cs : List Part} {c : State} (s : State) (ch : Nat) (w : Nat) (hs : [.twine] ⊆ cs) (hc : Does cs c s) :
    Does cs c (noteWord s ch w) := by
  unfold noteWord
  repeat' first
    | with_reducible assumption | with_reducible exact sub_of hs rfl | exact (rfl : TwineState.violations _ = _) | (intro)
    | (extract_lets +onlyGivenNames y; first
        | (have hy : Does cs c y := ?_; clear_value y) | (have hy : Does cs c y.1 := ?_; clear_value y)
        | (have hy : Does cs c y.2 := ?_; clear_value y) | (let z : TwineState := y; clear z) | clear_value y)
    | dsimp only | with_reducible apply twine_does

theorem deliverWord_does {cs : List Part} {c : State} (s : State) (e : FeedEntry) (poison : Bool)
    (hs : [.free, .objs, .log, .samp, .ptp, .bob, .spin, .trig, .twine, .pwr] ⊆ cs) (hc : Does cs c s) :
    Does cs c (deliverWord s e poison) := by
  unfold deliverWord
  repeat' first
    | with_reducible assumption | with_reducible exact sub_of hs rfl | (intro) | with_reducible apply noteWord_does
    | with_reducible apply commitWord_does | with_reducible apply reelWord_does | with_reducible apply spindleWord_does
    | with_reducible apply ite_does | with_reducible apply ite_fst_does | split
    | (extract_lets +onlyGivenNames y; first
        | (have hy : Does cs c y := ?_; clear_value y) | (have hy : Does cs c y.1 := ?_; clear_value y)
        | (have hy : Does cs c y.2 := ?_; clear_value y) | clear_value y)
    | dsimp only

theorem poisonWord_does {cs : List Part} {c : State} (s : State) (hs : [.free] ⊆ cs) (hc : Does cs c s) :
    Does cs c (poisonWord s).2 := by
  unfold poisonWord
  repeat' first
    | with_reducible assumption | with_reducible exact sub_of hs rfl | (intro) | with_reducible apply State_freshNat_does
    | (extract_lets +onlyGivenNames y; first
        | (have hy : Does cs c y := ?_; clear_value y) | (have hy : Does cs c y.1 := ?_; clear_value y)
        | (have hy : Does cs c y.2 := ?_; clear_value y) | clear_value y)
    | dsimp only

theorem fillShort_does {cs : List Part} {c : State} (s : State) (q : Nat) (ch : Nat) (upto : Nat)
    (hs : [.free, .objs, .log, .samp, .ptp, .bob, .spin, .trig, .twine, .pwr] ⊆ cs) (hc : Does cs c s) :
    Does cs c (fillShort s q ch upto) := by
  unfold fillShort
  repeat' first
    | with_reducible assumption | with_reducible exact sub_of hs rfl | (intro) | with_reducible apply State_setFeed_does
    | with_reducible apply poisonWord_does | with_reducible apply deliverWord_does
    | (extract_lets +onlyGivenNames y; first
        | (have hy : Does cs c y := ?_; clear_value y) | (have hy : Does cs c y.1 := ?_; clear_value y)
        | (have hy : Does cs c y.2 := ?_; clear_value y) | clear_value y)
    | with_reducible apply foldl_does | with_reducible apply foldl_fst_does | dsimp only

theorem readEntry_does {cs : List Part} {c : State} (s : State) (q : Nat) (e : FeedEntry) (fault : Option Bool)
    (hs : [.free, .objs, .log, .samp, .ptp, .bob, .spin, .trig, .twine, .pwr] ⊆ cs) (hc : Does cs c s) :
    Does cs c (readEntry s q e fault) := by
  unfold readEntry
  repeat' first
    | with_reducible assumption | with_reducible exact sub_of hs rfl | (intro) | with_reducible apply State_ev_does
    | with_reducible apply State_bump_does | with_reducible apply State_setFeed_does | with_reducible apply fillShort_does
    | with_reducible apply deliverWord_does | with_reducible apply ite_does | with_reducible apply ite_fst_does | split
    | (extract_lets +onlyGivenNames y; first
        | (have hy : Does cs c y := ?_; clear_value y) | (have hy : Does cs c y.1 := ?_; clear_value y)
        | (have hy : Does cs c y.2 := ?_; clear_value y) | clear_value y)
    | dsimp only

theorem forwardEntries_does {cs : List Part} {c : State} (q : Nat) (a1 : Nat) (a2 : Nat) (a3 : List (Nat × Bool)) (a4 : State)
    (hs : [.free, .objs, .log, .samp, .ptp, .bob, .spin, .trig, .twine, .pwr] ⊆ cs) (hc : Does cs c a4) :
    Does cs c (forwardEntries q a1 a2 a3 a4) := by
  induction a1 generalizing a2 a3 a4 with
  | zero => rw [forwardEntries]; exact hc
  | succ n ih =>
    rw [forwardEntries]; repeat' first
      | with_reducible assumption | with_reducible exact sub_of hs rfl | (intro) | with_reducible apply ih
      | with_reducible apply State_setFeed_does | with_reducible apply readEntry_does | with_reducible apply ite_does
      | with_reducible apply ite_fst_does | split
      | (extract_lets +onlyGivenNames y; first
          | (have hy : Does cs c y := ?_; clear_value y) | (have hy : Does cs c y.1 := ?_; clear_value y)
          | (have hy : Does cs c y.2 := ?_; clear_value y) | clear_value y)
      | with_reducible apply foldl_does | with_reducible apply foldl_fst_does | dsimp only

theorem pushFeed_does {cs : List Part} {c : State} (r : FeedRead) (e : FeedEntry)
    (hs : [.free, .objs, .log, .samp, .ptp, .bob, .spin, .trig, .twine, .pwr] ⊆ cs) (hc : Does cs c r.s) :
    Does cs c (pushFeed r e).s := by
  unfold pushFeed
  dsimp only
  split
  · exact State_ev_does _ _ _ _ (sub_of hs rfl) (redLost_does _ _ _ (sub_of hs rfl)
      (ite_does hc (bobGap_does _ _ _ _ _ _ (sub_of hs rfl) hc)))
  · have h2 := State_put_does _ O.feedHighWater (e.ch / 32) (max (r.s.nat O.feedHighWater (e.ch / 32)) ((r.s.feed (e.ch / 32)).entries ++ [e]).length)
      (sub_of hs rfl) (State_setFeed_does _ (e.ch / 32) { r.s.feed (e.ch / 32) with entries := (r.s.feed (e.ch / 32)).entries ++ [e], lastWrite := r.s.now }
        (sub_of hs rfl) hc)
    split
    · exact forwardEntries_does _ _ _ _ _ (sub_of hs rfl) h2
    · exact h2
theorem pushWords_does {cs : List Part} {c : State} (s : State) (faults : FeedFaults) (l : List FeedEntry)
    (hs : [.free, .objs, .log, .samp, .ptp, .bob, .spin, .trig, .twine, .pwr] ⊆ cs) (hc : Does cs c s) :
    Does cs c (pushWords s faults l) := by
  unfold pushWords
  have h : ∀ (l : List FeedEntry) (r : FeedRead), Does cs c r.s → Does cs c (l.foldl pushFeed r).s := by
    intro l; induction l with
    | nil => intro r h; exact h
    | cons e l ih => exact fun r h => ih _ (pushFeed_does r e hs h)
  exact h _ _ hc

theorem feedBoundary_does {cs : List Part} {c : State} (s : State) (q : Nat) (t : Nat)
    (hs : [.free, .objs, .log, .samp, .ptp, .bob, .spin, .trig, .twine, .pwr] ⊆ cs) (hc : Does cs c s) :
    Does cs c (feedBoundary s q t) := by
  unfold feedBoundary
  repeat' first
    | with_reducible assumption | with_reducible exact sub_of hs rfl | (intro) | with_reducible apply fillShort_does
    | with_reducible apply State_setFeed_does | with_reducible apply ite_does | with_reducible apply ite_fst_does | split
    | (extract_lets +onlyGivenNames y; first
        | (have hy : Does cs c y := ?_; clear_value y) | (have hy : Does cs c y.1 := ?_; clear_value y)
        | (have hy : Does cs c y.2 := ?_; clear_value y) | clear_value y)
    | with_reducible apply each_does | dsimp only

theorem flushFeeds_does {cs : List Part} {c : State} (s : State)
    (hs : [.free, .objs, .log, .samp, .ptp, .bob, .spin, .trig, .twine, .pwr] ⊆ cs) (hc : Does cs c s) :
    Does cs c (flushFeeds s) := by
  unfold flushFeeds
  repeat' first
    | with_reducible assumption | with_reducible exact sub_of hs rfl | (intro) | with_reducible apply forwardEntries_does
    | with_reducible apply fillShort_does | with_reducible apply State_setFeed_does
    | (extract_lets +onlyGivenNames y; first
        | (have hy : Does cs c y := ?_; clear_value y) | (have hy : Does cs c y.1 := ?_; clear_value y)
        | (have hy : Does cs c y.2 := ?_; clear_value y) | clear_value y)
    | with_reducible apply each_does | dsimp only

theorem spindlesDown_does {cs : List Part} {c : State} (s : State) (hs : [.spin] ⊆ cs) (hc : Does cs c s) :
    Does cs c (spindlesDown s) := by
  unfold spindlesDown
  repeat' first
    | with_reducible assumption | with_reducible exact sub_of hs rfl | (intro) | with_reducible apply State_setRed_does | split
    | (extract_lets +onlyGivenNames y; first
        | (have hy : Does cs c y := ?_; clear_value y) | (have hy : Does cs c y.1 := ?_; clear_value y)
        | (have hy : Does cs c y.2 := ?_; clear_value y) | (let z : SpindleState := y; clear z) | clear_value y)
    | with_reducible apply each_does | dsimp only | with_reducible apply spin_does

theorem missedBreak_does {cs : List Part} {c : State} (s : State) (ch : Nat) (hs : [.trig] ⊆ cs) (hc : Does cs c s) :
    Does cs c (missedBreak s ch) := by
  unfold missedBreak
  repeat' first
    | with_reducible assumption | with_reducible exact sub_of hs rfl | (intro) | with_reducible apply State_setUnit_does
    | with_reducible apply ite_does | with_reducible apply ite_fst_does | split | with_reducible apply each_does | dsimp only

theorem spindleMissed_does {cs : List Part} {c : State} (s : State) (k : Nat)
    (hs : [.free, .objs, .log, .ptp, .bob, .spin, .trig, .twine] ⊆ cs) (hc : Does cs c s) :
    Does cs c (spindleMissed s k) := by
  unfold spindleMissed
  extract_lets chs ws s1 s2
  have h1 : Does cs c s1 := missedBacklog_does _ _ (sub_of hs rfl) (each_does _ _ _ (fun _ _ h => missedBreak_does _ _ (sub_of hs rfl) h) hc)
  have h2 : Does cs c s2 := foldl_does _ _ _ (fun _ _ h => missedWord_does _ _ _ _ _ (sub_of hs rfl) h) h1
  exact each_does _ _ _ (fun _ _ h => State_setRed_does _ _ _ (sub_of hs rfl) h) h2

theorem spindlesUp_does {cs : List Part} {c : State} (s : State)
    (hs : [.free, .objs, .log, .ptp, .bob, .spin, .trig, .twine] ⊆ cs) (hc : Does cs c s) :
    Does cs c (spindlesUp s) := by
  unfold spindlesUp
  repeat' first
    | with_reducible assumption | with_reducible exact sub_of hs rfl | (intro) | with_reducible apply State_ev_does
    | with_reducible apply State_put_does | with_reducible apply spindleMissed_does | with_reducible apply ite_does
    | with_reducible apply ite_fst_does | split
    | (extract_lets +onlyGivenNames y; first
        | (have hy : Does cs c y := ?_; clear_value y) | (have hy : Does cs c y.1 := ?_; clear_value y)
        | (have hy : Does cs c y.2 := ?_; clear_value y) | (let z : SpindleState := y; clear z) | clear_value y)
    | with_reducible apply each_does | dsimp only | with_reducible apply spin_does

theorem storeMissed_does {cs : List Part} {c : State} (s : State) (k : Nat)
    (hs : [.objs, .log, .ptp, .bob, .spin, .twine] ⊆ cs) (hc : Does cs c s) :
    Does cs c (storeMissed s k) := by
  unfold storeMissed
  repeat' first
    | with_reducible assumption | with_reducible exact sub_of hs rfl | (intro) | with_reducible apply storeSlub_does
    | with_reducible apply logEvent_does | split
    | (extract_lets +onlyGivenNames y; first
        | (have hy : Does cs c y := ?_; clear_value y) | (have hy : Does cs c y.1 := ?_; clear_value y)
        | (have hy : Does cs c y.2 := ?_; clear_value y) | (let z : SpindleState := y; clear z) | clear_value y)
    | with_reducible apply foldl_does | with_reducible apply foldl_fst_does | dsimp only | with_reducible apply spin_does

theorem recomputeSpindle_does {cs : List Part} {c : State} (s : State) (k : Nat)
    (hs : [.objs, .log, .ptp, .bob, .spin, .twine] ⊆ cs) (hc : Does cs c s) :
    Does cs c (recomputeSpindle s k) := by
  unfold recomputeSpindle
  repeat' first
    | with_reducible assumption | with_reducible exact sub_of hs rfl | (intro) | with_reducible apply storeMissed_does
    | with_reducible apply recomputeChannel_does | with_reducible apply State_put_does | with_reducible apply ite_does
    | with_reducible apply ite_fst_does | split
    | (extract_lets +onlyGivenNames y; first
        | (have hy : Does cs c y := ?_; clear_value y) | (have hy : Does cs c y.1 := ?_; clear_value y)
        | (have hy : Does cs c y.2 := ?_; clear_value y) | (let z : SpindleState := y; clear z) | clear_value y)
    | with_reducible apply each_does | dsimp only | with_reducible apply spin_does

theorem finishRecompute_does {cs : List Part} {c : State} (s : State)
    (hs : [.free, .objs, .log, .ptp, .bob, .spin, .trig, .twine] ⊆ cs) (hc : Does cs c s) :
    Does cs c (finishRecompute s) := by
  unfold finishRecompute
  extract_lets s1 s2
  have h1 : Does cs c s1 := ite_does (each_does _ _ _ (fun _ _ h => spindleMissed_does _ _ (sub_of hs rfl) h) hc) hc
  have h2 : Does cs c s2 := each_does _ _ _ (fun _ _ h => storeMissed_does _ _ (sub_of hs rfl)
    (each_does _ _ _ (fun _ _ h => recomputeChannel_does _ _ (sub_of hs rfl) h) h)) h1
  exact each_does _ _ _ (fun _ _ h => recomputeSpindle_does _ _ (sub_of hs rfl) h) h2

end Sys2Proof.Machine
end

