-- ==== Sys2Proof/Laws/Pipeline.lean ====
section
/-! SUPPORT. What each operation of Machine/Pipeline.lean does at most: the parts it changes, and what it keeps. -/

namespace Sys2Proof.Machine

set_option linter.all false

theorem setDelay_does {cs : List Part} {c : State} (s : State) (ch : Nat) (l : List FeedEntry)
    (hs : [.draft] ⊆ cs) (hc : Does cs c s) :
    Does cs c (setDelay s ch l) := by
  unfold setDelay
  repeat' first
    | with_reducible assumption | with_reducible exact sub_of hs rfl | (intro) | with_reducible apply ite_does
    | with_reducible apply ite_fst_does | split | dsimp only | with_reducible apply draft_does

theorem releaseDelay_does {cs : List Part} {c : State} (faults : FeedFaults) (s : State) (ch : Nat)
    (hs : [.free, .objs, .log, .samp, .draft, .ptp, .bob, .spin, .trig, .twine, .pwr] ⊆ cs) (hc : Does cs c s) :
    Does cs c (releaseDelay faults s ch) := by
  unfold releaseDelay
  repeat' first
    | with_reducible assumption | with_reducible exact sub_of hs rfl | (intro) | with_reducible apply pushWords_does
    | with_reducible apply setDelay_does | split
    | (extract_lets +onlyGivenNames y; first
        | (have hy : Does cs c y := ?_; clear_value y) | (have hy : Does cs c y.1 := ?_; clear_value y)
        | (have hy : Does cs c y.2 := ?_; clear_value y) | clear_value y)
    | dsimp only

theorem emitWords_does {cs : List Part} {c : State} (s : State) (faults : FeedFaults) (ch : Nat) (interval : Nat) (ws : List OutWord)
    (hs : [.free, .objs, .log, .samp, .draft, .ptp, .bob, .spin, .trig, .twine, .pwr] ⊆ cs) (hc : Does cs c s) :
    Does cs c (emitWords s faults ch interval ws) := by
  unfold emitWords
  repeat' first
    | with_reducible assumption | with_reducible exact sub_of hs rfl | (intro) | with_reducible apply State_addK_does
    | with_reducible apply releaseDelay_does | with_reducible apply setDelay_does | with_reducible apply pushWords_does
    | with_reducible apply ite_does | with_reducible apply ite_fst_does | split
    | (extract_lets +onlyGivenNames y; first
        | (have hy : Does cs c y := ?_; clear_value y) | (have hy : Does cs c y.1 := ?_; clear_value y)
        | (have hy : Does cs c y.2 := ?_; clear_value y) | clear_value y)
    | dsimp only

theorem finishInj_does {cs : List Part} {c : State} (c' : Nat) (a1 : Nat) (a2 : State)
    (hs : [.objs, .log, .samp, .ptp, .bob, .twine] ⊆ cs) (hc : Does cs c a2) :
    Does cs c (finishInj c' a1 a2) := by
  induction a1 generalizing a2 with
  | zero => rw [finishInj]; exact hc
  | succ n ih =>
    rw [finishInj]; repeat' first
      | with_reducible assumption | with_reducible exact sub_of hs rfl | (intro) | with_reducible apply ih
      | with_reducible apply State_putB_does | with_reducible apply commitRecord_does | with_reducible apply ite_does
      | with_reducible apply ite_fst_does | split
      | (extract_lets +onlyGivenNames y; first
          | (have hy : Does cs c y := ?_; clear_value y) | (have hy : Does cs c y.1 := ?_; clear_value y)
          | (have hy : Does cs c y.2 := ?_; clear_value y) | (let z : SampState := y; clear z) | clear_value y)
      | with_reducible apply foldl_does | with_reducible apply foldl_fst_does | dsimp only | with_reducible apply samp_does

theorem injSample_does {cs : List Part} {c : State} (s : State) (c' : Nat) (idx : Nat) (start : Nat) (raw : Nat) (t : Nat)
    (hs : [.objs, .log, .samp, .ptp, .bob, .twine] ⊆ cs) (hc : Does cs c s) :
    Does cs c (injSample s c' idx start raw t) := by
  unfold injSample
  repeat' first
    | with_reducible assumption | with_reducible exact sub_of hs rfl | (intro) | with_reducible apply finishInj_does
    | with_reducible apply ite_does | with_reducible apply ite_fst_does | split
    | (extract_lets +onlyGivenNames y; first
        | (have hy : Does cs c y := ?_; clear_value y) | (have hy : Does cs c y.1 := ?_; clear_value y)
        | (have hy : Does cs c y.2 := ?_; clear_value y) | (let z : SampState := y; clear z) | clear_value y)
    | dsimp only | with_reducible apply samp_does

theorem releaseChanges_does {cs : List Part} {c : State} (s : State) (hs : [.samp, .draft] ⊆ cs) (hc : Does cs c s) :
    Does cs c (releaseChanges s) := by
  unfold releaseChanges
  repeat' first
    | with_reducible assumption | with_reducible exact sub_of hs rfl | exact Nat.le_refl _
    | exact (rfl : TwineState.violations _ = _)
    | (refine fun (p : Part) hp => ?_; cases p <;> first | exact absurd (mem_of hs _ rfl) hp | exact rfl) | (intro)
    | (extract_lets +onlyGivenNames y; first
        | (have hy : Does cs c y := ?_; clear_value y) | (have hy : Does cs c y.1 := ?_; clear_value y)
        | (have hy : Does cs c y.2 := ?_; clear_value y) | (let z : SampState := y; clear z) | (let z : DraftState := y; clear z)
        | clear_value y)
    | dsimp only | with_reducible apply samp_does | with_reducible apply draft_does | with_reducible refine does_mk ?_ ?_ ?_ ?_

theorem formWord_does {cs : List Part} {c : State} (s : State) (h : Hold)
    (hs : [.free, .objs, .log, .samp, .draft, .cal, .ptp, .bob, .trig, .twine, .pwr] ⊆ cs) (hc : Does cs c s) :
    Does cs c (formWord s h) := by
  unfold formWord
  repeat' first
    | with_reducible assumption | with_reducible exact sub_of hs rfl | exact Nat.le_refl _
    | exact (rfl : TwineState.violations _ = _)
    | (refine fun (p : Part) hp => ?_; cases p <;> first | exact absurd (mem_of hs _ rfl) hp | exact rfl) | (intro)
    | with_reducible apply injSample_does | with_reducible apply reelWord_does | with_reducible apply commitWord_does
    | with_reducible apply ite_does | with_reducible apply ite_fst_does | split
    | (extract_lets +onlyGivenNames y; first
        | (have hy : Does cs c y := ?_; clear_value y) | (have hy : Does cs c y.1 := ?_; clear_value y)
        | (have hy : Does cs c y.2 := ?_; clear_value y) | (let z : DraftState := y; clear z) | (let z : CalState := y; clear z)
        | clear_value y)
    | dsimp only | with_reducible apply draft_does | with_reducible apply cal_does | with_reducible refine does_mk ?_ ?_ ?_ ?_

theorem formNext_does {cs : List Part} {c : State} (advance : Bool) (s : State)
    (hs : [.now, .free, .objs, .log, .samp, .draft, .cal, .ptp, .bob, .trig, .twine, .pwr] ⊆ cs) (hc : Does cs c s) :
    Does cs c (formNext advance s) := by
  unfold formNext
  repeat' first
    | with_reducible assumption | with_reducible exact sub_of hs rfl | (intro) | with_reducible apply releaseChanges_does
    | with_reducible apply State_advance_does | with_reducible apply formWord_does | with_reducible apply ite_does
    | with_reducible apply ite_fst_does | split
    | (extract_lets +onlyGivenNames y; first
        | (have hy : Does cs c y := ?_; clear_value y) | (have hy : Does cs c y.1 := ?_; clear_value y)
        | (have hy : Does cs c y.2 := ?_; clear_value y) | (let z : SampState := y; clear z) | clear_value y)
    | dsimp only | with_reducible apply samp_does

theorem State_setChain_does {cs : List Part} {c : State} (s : State) (ch : Nat) (c' : Chain)
    (hs : [.draft] ⊆ cs) (hc : Does cs c s) :
    Does cs c (State.setChain s ch c') := by
  unfold State.setChain
  repeat' first
    | with_reducible assumption | with_reducible exact sub_of hs rfl | (intro) | dsimp only | with_reducible apply draft_does

theorem parityClear_does {cs : List Part} {c : State} (s : State) (ch : Nat) (t : Nat)
    (hs : [.log, .draft] ⊆ cs) (hc : Does cs c s) :
    Does cs c (parityClear s ch t) := by
  unfold parityClear
  repeat' first
    | with_reducible assumption | with_reducible exact sub_of hs rfl | (intro) | with_reducible apply State_evAt_does
    | with_reducible apply State_setChain_does
    | (extract_lets +onlyGivenNames y; first
        | (have hy : Does cs c y := ?_; clear_value y) | (have hy : Does cs c y.1 := ?_; clear_value y)
        | (have hy : Does cs c y.2 := ?_; clear_value y) | clear_value y)
    | dsimp only

theorem draftItem_does {cs : List Part} {c : State} (parity : Option Bool) (faults : FeedFaults) (s : State) (a3 : DraftItem)
    (hs : [.free, .objs, .log, .samp, .draft, .ptp, .bob, .spin, .trig, .twine, .pwr] ⊆ cs) (hc : Does cs c s) :
    Does cs c (draftItem parity faults s a3) := by
  unfold draftItem
  repeat' first
    | with_reducible assumption | with_reducible exact sub_of hs rfl | (intro) | with_reducible apply emitWords_does
    | with_reducible apply State_setChain_does | with_reducible apply parityClear_does | with_reducible apply ite_does
    | with_reducible apply ite_fst_does | split
    | (extract_lets +onlyGivenNames y; first
        | (have hy : Does cs c y := ?_; clear_value y) | (have hy : Does cs c y.1 := ?_; clear_value y)
        | (have hy : Does cs c y.2 := ?_; clear_value y) | clear_value y)
    | with_reducible apply each_does | dsimp only

theorem draftNext_does {cs : List Part} {c : State} (parity : Option Bool) (faults : FeedFaults) (a2 : Nat) (a3 : State)
    (hs : [.free, .objs, .log, .samp, .draft, .ptp, .bob, .spin, .trig, .twine, .pwr] ⊆ cs) (hc : Does cs c a3) :
    Does cs c (draftNext parity faults a2 a3) := by
  induction a2 generalizing a3 with
  | zero => rw [draftNext]; exact hc
  | succ n ih =>
    rw [draftNext]; repeat' first
      | with_reducible assumption | with_reducible exact sub_of hs rfl | (intro) | with_reducible apply ih
      | with_reducible apply draftItem_does | with_reducible apply ite_does | with_reducible apply ite_fst_does | split
      | (extract_lets +onlyGivenNames y; first
          | (have hy : Does cs c y := ?_; clear_value y) | (have hy : Does cs c y.1 := ?_; clear_value y)
          | (have hy : Does cs c y.2 := ?_; clear_value y) | (let z : DraftState := y; clear z) | clear_value y)
      | with_reducible apply foldl_does | with_reducible apply foldl_fst_does | dsimp only | with_reducible apply draft_does

theorem drainPipeline_does {cs : List Part} {c : State} (s : State)
    (hs : [.now, .free, .objs, .log, .samp, .draft, .cal, .ptp, .bob, .spin, .trig, .twine, .pwr] ⊆ cs) (hc : Does cs c s) :
    Does cs c (drainPipeline s) := by
  unfold drainPipeline
  repeat' first
    | with_reducible assumption | with_reducible exact sub_of hs rfl | (intro) | with_reducible apply formNext_does
    | with_reducible apply draftNext_does | with_reducible apply pushWords_does | with_reducible apply setDelay_does
    | with_reducible apply flushFeeds_does
    | (extract_lets +onlyGivenNames y; first
        | (have hy : Does cs c y := ?_; clear_value y) | (have hy : Does cs c y.1 := ?_; clear_value y)
        | (have hy : Does cs c y.2 := ?_; clear_value y) | clear_value y)
    | with_reducible apply foldl_does | with_reducible apply foldl_fst_does | dsimp only

end Sys2Proof.Machine
end

