-- ==== Sys2Proof/Laws/Mailbox.lean ====
section
/-! SUPPORT. What each operation of Machine/Mailbox.lean does at most: the parts it changes, and what it keeps. -/

namespace Sys2Proof.Machine

set_option linter.all false

theorem State_setHost_does {cs : List Part} {c : State} (s : State) (f : HostState → HostState)
    (hs : [.host] ⊆ cs) (hc : Does cs c s) :
    Does cs c (State.setHost s f) := by
  unfold State.setHost
  repeat' first
    | with_reducible assumption | with_reducible exact sub_of hs rfl | (intro) | with_reducible apply ite_does
    | with_reducible apply ite_fst_does | split
    | (extract_lets +onlyGivenNames y; first
        | (have hy : Does cs c y := ?_; clear_value y) | (have hy : Does cs c y.1 := ?_; clear_value y)
        | (have hy : Does cs c y.2 := ?_; clear_value y) | (let z : HostState := y; clear z) | clear_value y)
    | with_reducible apply foldl_does | with_reducible apply foldl_fst_does | dsimp only | with_reducible apply host_does

theorem State_setMailbox_does {cs : List Part} {c : State} (s : State) (n : Nat) (m : Mailbox)
    (hs : [.host] ⊆ cs) (hc : Does cs c s) :
    Does cs c (State.setMailbox s n m) := by
  unfold State.setMailbox
  repeat' first
    | with_reducible assumption | with_reducible exact sub_of hs rfl | (intro) | with_reducible apply State_setHost_does
    | with_reducible apply ite_does | with_reducible apply ite_fst_does | split
    | (extract_lets +onlyGivenNames y; first
        | (have hy : Does cs c y := ?_; clear_value y) | (have hy : Does cs c y.1 := ?_; clear_value y)
        | (have hy : Does cs c y.2 := ?_; clear_value y) | clear_value y)
    | with_reducible apply foldl_does | with_reducible apply foldl_fst_does | dsimp only

theorem State_setIrq_does {cs : List Part} {c : State} (s : State) (sec : Bool) (bit : Nat) (hs : [.host] ⊆ cs) (hc : Does cs c s) :
    Does cs c (State.setIrq s sec bit) := by
  unfold State.setIrq
  repeat' first
    | with_reducible assumption | with_reducible exact sub_of hs rfl | (intro) | with_reducible apply State_setHost_does
    | with_reducible apply ite_does | with_reducible apply ite_fst_does | split
    | (extract_lets +onlyGivenNames y; first
        | (have hy : Does cs c y := ?_; clear_value y) | (have hy : Does cs c y.1 := ?_; clear_value y)
        | (have hy : Does cs c y.2 := ?_; clear_value y) | clear_value y)
    | with_reducible apply foldl_does | with_reducible apply foldl_fst_does | dsimp only

theorem State_mbIrq_does {cs : List Part} {c : State} (s : State) (n : Nat) (bit : Nat) (hs : [.host] ⊆ cs) (hc : Does cs c s) :
    Does cs c (State.mbIrq s n bit) := by
  unfold State.mbIrq
  repeat' first
    | with_reducible assumption | with_reducible exact sub_of hs rfl | (intro) | with_reducible apply State_setIrq_does
    | with_reducible apply ite_does | with_reducible apply ite_fst_does | split
    | (extract_lets +onlyGivenNames y; first
        | (have hy : Does cs c y := ?_; clear_value y) | (have hy : Does cs c y.1 := ?_; clear_value y)
        | (have hy : Does cs c y.2 := ?_; clear_value y) | clear_value y)
    | with_reducible apply foldl_does | with_reducible apply foldl_fst_does | dsimp only

theorem State_setStatus_does {cs : List Part} {c : State} (s : State) (v : Nat) (hs : [.objs, .host] ⊆ cs) (hc : Does cs c s) :
    Does cs c (State.setStatus s v) := by
  unfold State.setStatus
  repeat' first
    | with_reducible assumption | with_reducible exact sub_of hs rfl | (intro) | with_reducible apply State_setIrq_does
    | with_reducible apply State_put_does | with_reducible apply ite_does | with_reducible apply ite_fst_does | split
    | (extract_lets +onlyGivenNames y; first
        | (have hy : Does cs c y := ?_; clear_value y) | (have hy : Does cs c y.1 := ?_; clear_value y)
        | (have hy : Does cs c y.2 := ?_; clear_value y) | clear_value y)
    | with_reducible apply foldl_does | with_reducible apply foldl_fst_does | dsimp only

theorem enterReady_does {cs : List Part} {c : State} (s : State) (t : Nat)
    (hs : [.objs, .log, .cal, .host] ⊆ cs) (hc : Does cs c s) :
    Does cs c (enterReady s t) := by
  unfold enterReady
  repeat' first
    | with_reducible assumption | with_reducible exact sub_of hs rfl | (intro) | with_reducible apply State_evAt_does
    | with_reducible apply State_put_does | with_reducible apply State_setStatus_does
    | (extract_lets +onlyGivenNames y; first
        | (have hy : Does cs c y := ?_; clear_value y) | (have hy : Does cs c y.1 := ?_; clear_value y)
        | (have hy : Does cs c y.2 := ?_; clear_value y) | (let z : CalState := y; clear z) | clear_value y)
    | dsimp only | with_reducible apply cal_does

theorem destroyOut_does {cs : List Part} {c : State} (s : State) (n : Nat) (hs : [.objs, .log, .host] ⊆ cs) (hc : Does cs c s) :
    Does cs c (destroyOut s n) := by
  unfold destroyOut
  repeat' first
    | with_reducible assumption | with_reducible exact sub_of hs rfl | (intro) | with_reducible apply State_setMailbox_does
    | with_reducible apply State_mbIrq_does | with_reducible apply State_ev_does | with_reducible apply State_add_does
    | with_reducible apply ite_does | with_reducible apply ite_fst_does | split
    | (extract_lets +onlyGivenNames y; first
        | (have hy : Does cs c y := ?_; clear_value y) | (have hy : Does cs c y.1 := ?_; clear_value y)
        | (have hy : Does cs c y.2 := ?_; clear_value y) | clear_value y)
    | dsimp only

theorem mbRestart_does {cs : List Part} {c : State} (s : State) (n : Nat) (hs : [.objs, .log, .host] ⊆ cs) (hc : Does cs c s) :
    Does cs c (mbRestart s n) := by
  unfold mbRestart
  repeat' first
    | with_reducible assumption | with_reducible exact sub_of hs rfl | (intro) | with_reducible apply destroyOut_does
    | with_reducible apply State_setMailbox_does
    | (extract_lets +onlyGivenNames y; first
        | (have hy : Does cs c y := ?_; clear_value y) | (have hy : Does cs c y.1 := ?_; clear_value y)
        | (have hy : Does cs c y.2 := ?_; clear_value y) | clear_value y)
    | dsimp only

theorem closeMailboxSessions_does {cs : List Part} {c : State} (s : State) (n : Nat) (hs : [.dict] ⊆ cs) (hc : Does cs c s) :
    Does cs c (closeMailboxSessions s n) := by
  unfold closeMailboxSessions
  repeat' first
    | with_reducible assumption | with_reducible exact sub_of hs rfl | exact Nat.le_refl _ | exact List.length_filter_le _ _
    | (intro) | split | dsimp only | with_reducible apply dict_does

theorem mbPortReset_does {cs : List Part} {c : State} (s : State) (n : Nat)
    (hs : [.objs, .log, .dict, .host] ⊆ cs) (hc : Does cs c s) :
    Does cs c (mbPortReset s n) := by
  unfold mbPortReset
  repeat' first
    | with_reducible assumption | with_reducible exact sub_of hs rfl | (intro) | with_reducible apply State_setMailbox_does
    | with_reducible apply State_setHost_does | with_reducible apply State_add_does | with_reducible apply State_ev_does
    | with_reducible apply closeMailboxSessions_does | with_reducible apply ite_does | with_reducible apply ite_fst_does | split
    | (extract_lets +onlyGivenNames y; first
        | (have hy : Does cs c y := ?_; clear_value y) | (have hy : Does cs c y.1 := ?_; clear_value y)
        | (have hy : Does cs c y.2 := ?_; clear_value y) | clear_value y)
    | dsimp only

theorem mbFlushIn_does {cs : List Part} {c : State} (s : State) (n : Nat) (hs : [.objs, .host] ⊆ cs) (hc : Does cs c s) :
    Does cs c (mbFlushIn s n) := by
  unfold mbFlushIn
  repeat' first
    | with_reducible assumption | with_reducible exact sub_of hs rfl | (intro) | with_reducible apply State_setMailbox_does
    | with_reducible apply State_add_does | with_reducible apply ite_does | with_reducible apply ite_fst_does | split
    | (extract_lets +onlyGivenNames y; first
        | (have hy : Does cs c y := ?_; clear_value y) | (have hy : Does cs c y.1 := ?_; clear_value y)
        | (have hy : Does cs c y.2 := ?_; clear_value y) | clear_value y)
    | dsimp only

theorem internalRestart_does {cs : List Part} {c : State} (s : State) (hs : [.host] ⊆ cs) (hc : Does cs c s) :
    Does cs c (internalRestart s) := by
  unfold internalRestart
  repeat' first
    | with_reducible assumption | with_reducible exact sub_of hs rfl | (intro) | with_reducible apply State_setHost_does
    | dsimp only

end Sys2Proof.Machine
end

