-- ==== Sys2Proof/Laws/Boot.lean ====
section
/-! SUPPORT. What each operation of Machine/Boot.lean does at most: the parts it changes, and what it keeps. -/

namespace Sys2Proof.Machine

set_option linter.all false

theorem State_setNvm_does {cs : List Part} {c : State} (s : State) (f : NvmState → NvmState) (hf : OtpLe s.nvm (f s.nvm))
    (hs : [.nvm] ⊆ cs) (hc : Does cs c s) :
    Does cs c (State.setNvm s f) := by
  exact setNvm_does hs _ hf hc

theorem State_setUpd_does {cs : List Part} {c : State} (s : State) (f : UpdState → UpdState) (hs : [.upd] ⊆ cs) (hc : Does cs c s) :
    Does cs c (State.setUpd s f) := by
  unfold State.setUpd
  repeat' first
    | with_reducible assumption | with_reducible exact sub_of hs rfl | (intro) | dsimp only | with_reducible apply upd_does

theorem secureBoot_does {cs : List Part} {c : State} (s : State) (bad : List (Fin 2))
    (hs : [.objs, .log, .nvm, .host] ⊆ cs) (hc : Does cs c s) :
    Does cs c (secureBoot s bad).1 := by
  unfold secureBoot
  repeat' first
    | with_reducible assumption | with_reducible exact sub_of hs rfl | (intro)
    | exact OtpLe.of_eq rfl rfl rfl rfl rfl (Nat.le_refl _) | with_reducible exact setSlot_otp _ _ _
    | with_reducible exact failSlot_otp _ _ | with_reducible exact writeCopy_otp _ _ _ | with_reducible apply writePointer_otp
    | with_reducible exact OtpLe.refl _ | with_reducible apply State_setNvm_does | with_reducible apply State_put_does
    | with_reducible apply State_ev_does | with_reducible apply State_setStatus_does | with_reducible apply ite_does
    | with_reducible apply ite_fst_does | split
    | (extract_lets +onlyGivenNames y; first
        | (have hy : Does cs c y := ?_; clear_value y) | (have hy : Does cs c y.1 := ?_; clear_value y)
        | (have hy : Does cs c y.2 := ?_; clear_value y) | clear_value y)
    | dsimp only

end Sys2Proof.Machine
end

