-- ==== Sys2Proof/Laws/Twin.lean ====
section
/-! SUPPORT. What each operation of Machine/Twin.lean does at most: the parts it changes, and what it keeps. -/

namespace Sys2Proof.Machine

set_option linter.all false

theorem State_setTwin_does {cs : List Part} {c : State} (s : State) (f : TwinState → TwinState)
    (hs : [.twin] ⊆ cs) (hc : Does cs c s) :
    Does cs c (State.setTwin s f) := by
  unfold State.setTwin
  repeat' first
    | with_reducible assumption | with_reducible exact sub_of hs rfl | (intro) | dsimp only | with_reducible apply twin_does

theorem twinSwitchEvents_does {cs : List Part} {c : State} (s : State) (t0 : Nat) (drill : Bool)
    (hs : [.objs, .samp] ⊆ cs) (hc : Does cs c s) :
    Does cs c (twinSwitchEvents s t0 drill) := by
  unfold twinSwitchEvents
  repeat' first
    | with_reducible assumption | with_reducible exact sub_of hs rfl | (intro) | with_reducible apply switchDriver_does
    | with_reducible apply State_setDriver_does | with_reducible apply ite_does | with_reducible apply ite_fst_does | split
    | (extract_lets +onlyGivenNames y; first
        | (have hy : Does cs c y := ?_; clear_value y) | (have hy : Does cs c y.1 := ?_; clear_value y)
        | (have hy : Does cs c y.2 := ?_; clear_value y) | clear_value y)
    | with_reducible apply each_does | dsimp only

theorem evalStages_does {cs : List Part} {c : State} (s : State) (hs : [.objs, .samp, .twin] ⊆ cs) (hc : Does cs c s) :
    Does cs c (evalStages s) := by
  unfold evalStages
  repeat' first
    | with_reducible assumption | with_reducible exact sub_of hs rfl | (intro) | with_reducible apply State_setTwin_does
    | with_reducible apply twinSwitchEvents_does | with_reducible apply ite_does | with_reducible apply ite_fst_does | split
    | (extract_lets +onlyGivenNames y; first
        | (have hy : Does cs c y := ?_; clear_value y) | (have hy : Does cs c y.1 := ?_; clear_value y)
        | (have hy : Does cs c y.2 := ?_; clear_value y) | clear_value y)
    | dsimp only

theorem freshStreams_does {cs : List Part} {c : State} (s : State) (hs : [.trig, .twine] ⊆ cs) (hc : Does cs c s) :
    Does cs c (freshStreams s) := by
  unfold freshStreams
  repeat' first
    | with_reducible assumption | with_reducible exact sub_of hs rfl | (intro) | with_reducible apply State_setStream_does
    | with_reducible apply State_setReel_does | split
    | (extract_lets +onlyGivenNames y; first
        | (have hy : Does cs c y := ?_; clear_value y) | (have hy : Does cs c y.1 := ?_; clear_value y)
        | (have hy : Does cs c y.2 := ?_; clear_value y) | clear_value y)
    | with_reducible apply each_does | dsimp only

theorem becomeActive_does {cs : List Part} {c : State} (s : State) (hs : [.bob, .trig, .twine, .twin] ⊆ cs) (hc : Does cs c s) :
    Does cs c (becomeActive s) := by
  unfold becomeActive
  repeat' first
    | with_reducible assumption | with_reducible exact sub_of hs rfl | (intro) | with_reducible apply freshStreams_does
    | with_reducible apply State_setTwin_does | with_reducible apply State_setBobbin_does | with_reducible apply ite_does
    | with_reducible apply ite_fst_does | split
    | (extract_lets +onlyGivenNames y; first
        | (have hy : Does cs c y := ?_; clear_value y) | (have hy : Does cs c y.1 := ?_; clear_value y)
        | (have hy : Does cs c y.2 := ?_; clear_value y) | clear_value y)
    | with_reducible apply each_does | dsimp only

theorem becomeStandby_does {cs : List Part} {c : State} (s : State) (hs : [.ptp, .twin] ⊆ cs) (hc : Does cs c s) :
    Does cs c (becomeStandby s) := by
  unfold becomeStandby
  repeat' first
    | with_reducible assumption | with_reducible exact sub_of hs rfl | (intro) | with_reducible apply State_setTwin_does
    | with_reducible apply State_setEgress_does
    | (extract_lets +onlyGivenNames y; first
        | (have hy : Does cs c y := ?_; clear_value y) | (have hy : Does cs c y.1 := ?_; clear_value y)
        | (have hy : Does cs c y.2 := ?_; clear_value y) | clear_value y)
    | dsimp only

theorem claimAlarm_does {cs : List Part} {c : State} (s : State) (hs : [.log, .twin] ⊆ cs) (hc : Does cs c s) :
    Does cs c (claimAlarm s) := by
  unfold claimAlarm
  repeat' first
    | with_reducible assumption | with_reducible exact sub_of hs rfl | (intro) | with_reducible apply State_setTwin_does
    | with_reducible apply State_ev_does | with_reducible apply ite_does | with_reducible apply ite_fst_does | split
    | (extract_lets +onlyGivenNames y; first
        | (have hy : Does cs c y := ?_; clear_value y) | (have hy : Does cs c y.1 := ?_; clear_value y)
        | (have hy : Does cs c y.2 := ?_; clear_value y) | clear_value y)
    | dsimp only

theorem takeOver_does {cs : List Part} {c : State} (s : State)
    (hs : [.objs, .log, .samp, .bob, .trig, .twine, .twin] ⊆ cs) (hc : Does cs c s) :
    Does cs c (takeOver s) := by
  unfold takeOver
  repeat' first
    | with_reducible assumption | with_reducible exact sub_of hs rfl | (intro) | with_reducible apply becomeActive_does
    | with_reducible apply State_setTwin_does | with_reducible apply State_ev_does | with_reducible apply State_bump_does
    | with_reducible apply State_put_does | with_reducible apply evalStages_does
    | (extract_lets +onlyGivenNames y; first
        | (have hy : Does cs c y := ?_; clear_value y) | (have hy : Does cs c y.1 := ?_; clear_value y)
        | (have hy : Does cs c y.2 := ?_; clear_value y) | clear_value y)
    | dsimp only

theorem takeOverIfDue_does {cs : List Part} {c : State} (s : State)
    (hs : [.objs, .log, .samp, .bob, .trig, .twine, .twin] ⊆ cs) (hc : Does cs c s) :
    Does cs c (takeOverIfDue s) := by
  unfold takeOverIfDue
  repeat' first
    | with_reducible assumption | with_reducible exact sub_of hs rfl | (intro) | with_reducible apply takeOver_does
    | with_reducible apply ite_does | with_reducible apply ite_fst_does | split | dsimp only

theorem twinReady_does {cs : List Part} {c : State} (s : State) (hs : [.objs, .samp, .twin] ⊆ cs) (hc : Does cs c s) :
    Does cs c (twinReady s) := by
  unfold twinReady
  repeat' first
    | with_reducible assumption | with_reducible exact sub_of hs rfl | (intro) | with_reducible apply State_setTwin_does
    | with_reducible apply evalStages_does | with_reducible apply ite_does | with_reducible apply ite_fst_does | split | dsimp only

theorem twinEnableWritten_does {cs : List Part} {c : State} (s : State)
    (hs : [.objs, .samp, .bob, .trig, .twine, .twin] ⊆ cs) (hc : Does cs c s) :
    Does cs c (twinEnableWritten s) := by
  unfold twinEnableWritten
  repeat' first
    | with_reducible assumption | with_reducible exact sub_of hs rfl | (intro) | with_reducible apply State_setTwin_does
    | with_reducible apply evalStages_does | with_reducible apply becomeActive_does | with_reducible apply ite_does
    | with_reducible apply ite_fst_does | split | dsimp only

theorem sendTwin_does {cs : List Part} {c : State} (s : State) (ttype : Nat) (gtime : Nat)
    (hs : [.objs, .ptp, .twin] ⊆ cs) (hc : Does cs c s) :
    Does cs c (sendTwin s ttype gtime) := by
  unfold sendTwin
  repeat' first
    | with_reducible assumption | with_reducible exact sub_of hs rfl | (intro) | with_reducible apply sendTwineOn_does
    | with_reducible apply State_setTwin_does
    | (extract_lets +onlyGivenNames y; first
        | (have hy : Does cs c y := ?_; clear_value y) | (have hy : Does cs c y.1 := ?_; clear_value y)
        | (have hy : Does cs c y.2 := ?_; clear_value y) | clear_value y)
    | dsimp only

theorem twinFrameIn_does {cs : List Part} {c : State} (f : Bytes) (s : State) (hs : [.objs, .twin] ⊆ cs) (hc : Does cs c s) :
    Does cs c (twinFrameIn f s) := by
  unfold twinFrameIn
  repeat' first
    | with_reducible assumption | with_reducible exact sub_of hs rfl | (intro) | with_reducible apply State_setTwin_does
    | with_reducible apply State_put_does | with_reducible apply ite_does | with_reducible apply ite_fst_does | split
    | (extract_lets +onlyGivenNames y; first
        | (have hy : Does cs c y := ?_; clear_value y) | (have hy : Does cs c y.1 := ?_; clear_value y)
        | (have hy : Does cs c y.2 := ?_; clear_value y) | clear_value y)
    | dsimp only

theorem takeTwin_does {cs : List Part} {c : State} (t : Nat) (f : Bytes) (mine : Bool) (k : State → State) (s : State) (hh3 : ∀ y0, Does cs c y0 → Does cs c (k y0))
    (hs : [.now, .objs, .ptp, .lanes, .twine, .twin] ⊆ cs) (hc : Does cs c s) :
    OutDoes cs c (takeTwin t f mine k s) := by
  unfold takeTwin
  repeat' first
    | with_reducible assumption | with_reducible exact sub_of hs rfl | (intro) | apply hh3 | with_reducible apply arrive_does
    | with_reducible apply checked_does | with_reducible apply twinFrameIn_does | with_reducible apply next_does
    | with_reducible apply ite_does | with_reducible apply ite_fst_does | split | dsimp only

theorem switchOverAt_does {cs : List Part} {c : State} (s : State) (t0 : Nat) (hs : [.objs, .ptp, .twin] ⊆ cs) (hc : Does cs c s) :
    Does cs c (switchOverAt s t0) := by
  unfold switchOverAt
  repeat' first
    | with_reducible assumption | with_reducible exact sub_of hs rfl | (intro) | with_reducible apply sendTwin_does
    | with_reducible apply State_setTwin_does | with_reducible apply ite_does | with_reducible apply ite_fst_does | split
    | dsimp only

end Sys2Proof.Machine
end

