-- ==== Sys2Proof/Laws/Twine.lean ====
section
/-! SUPPORT. What each operation of Machine/Twine.lean does at most: the parts it changes, and what it keeps. -/

namespace Sys2Proof.Machine

set_option linter.all false

theorem doffEntry_does {cs : List Part} {c : State} (b : Bytes) (x : State × Bool) (i : Nat)
    (hs : [.objs, .bob, .trig] ⊆ cs) (hc : Does cs c x.1) :
    Does cs c (doffEntry b x i).1 := by
  unfold doffEntry
  repeat' first
    | with_reducible assumption | with_reducible exact sub_of hs rfl | (intro) | with_reducible apply ackCapture_does
    | with_reducible apply ackChannel_does | with_reducible apply ite_does | with_reducible apply ite_fst_does | split
    | (extract_lets +onlyGivenNames y; first
        | (have hy : Does cs c y := ?_; clear_value y) | (have hy : Does cs c y.1 := ?_; clear_value y)
        | (have hy : Does cs c y.2 := ?_; clear_value y) | clear_value y)
    | dsimp only

theorem applyDoff_does {cs : List Part} {c : State} (s : State) (port : Nat) (f : Bytes)
    (hs : [.objs, .ptp, .bob, .trig, .twine] ⊆ cs) (hc : Does cs c s) :
    Does cs c (applyDoff s port f) := by
  have h : ∀ l : List Nat, Does cs c (l.foldl (doffEntry (bodyOf f)) (s, false)).1 :=
    fun l => foldl_fst_does _ _ _ (fun _ _ h => doffEntry_does _ _ _ (sub_of hs rfl) h) hc
  unfold applyDoff; dsimp only
  split
  · exact violation_does _ _ _ _ (sub_of hs rfl) (h _)
  · exact h _

theorem applyHeldDoffs_does {cs : List Part} {c : State} (s : State)
    (hs : [.objs, .ptp, .bob, .trig, .twine] ⊆ cs) (hc : Does cs c s) :
    Does cs c (applyHeldDoffs s) := by
  unfold applyHeldDoffs
  repeat' first
    | with_reducible assumption | with_reducible exact sub_of hs rfl | exact (rfl : TwineState.violations _ = _) | (intro)
    | with_reducible apply applyDoff_does
    | (extract_lets +onlyGivenNames y; first
        | (have hy : Does cs c y := ?_; clear_value y) | (have hy : Does cs c y.1 := ?_; clear_value y)
        | (have hy : Does cs c y.2 := ?_; clear_value y) | (let z : TwineState := y; clear z) | clear_value y)
    | with_reducible apply each_does | dsimp only | with_reducible apply twine_does

theorem answerFront_does {cs : List Part} {c : State} (s : State) (hs : [.objs, .ptp] ⊆ cs) (hc : Does cs c s) :
    Does cs c (answerFront s) := by
  unfold answerFront
  repeat' first
    | with_reducible assumption | with_reducible exact sub_of hs rfl | (intro) | with_reducible apply sendAnswer_does | split
    | (extract_lets +onlyGivenNames y; first
        | (have hy : Does cs c y := ?_; clear_value y) | (have hy : Does cs c y.1 := ?_; clear_value y)
        | (have hy : Does cs c y.2 := ?_; clear_value y) | clear_value y)
    | with_reducible apply each_does | dsimp only

theorem takeRequest_does {cs : List Part} {c : State} (port : Nat) (f : Bytes) (retro : Bool) (ue : List (Nat × UeHit)) (s : State)
    (hs : [.objs, .log, .ptp, .bob, .twine] ⊆ cs) (hc : Does cs c s) :
    Does cs c (takeRequest port f retro ue s) := by
  unfold takeRequest
  repeat' first
    | with_reducible assumption | with_reducible exact sub_of hs rfl | exact (rfl : TwineState.violations _ = _) | (intro)
    | with_reducible apply violation_does | with_reducible apply answerBusy_does | with_reducible apply answerFront_does
    | with_reducible apply dramUes_does | with_reducible apply ite_does | with_reducible apply ite_fst_does | split
    | (extract_lets +onlyGivenNames y; first
        | (have hy : Does cs c y := ?_; clear_value y) | (have hy : Does cs c y.1 := ?_; clear_value y)
        | (have hy : Does cs c y.2 := ?_; clear_value y) | (let z : TwineState := y; clear z) | clear_value y)
    | dsimp only | with_reducible apply twine_does

theorem takeTrigger_does {cs : List Part} {c : State} (f : Bytes) (s : State)
    (hs : [.free, .objs, .log, .samp, .ptp, .bob, .spin, .trig, .twine] ⊆ cs) (hc : Does cs c s) :
    Does cs c (takeTrigger f s).1 := by
  unfold takeTrigger
  repeat' first
    | with_reducible assumption | with_reducible exact sub_of hs rfl | (intro) | with_reducible apply fireRemote_does
    | with_reducible apply ite_does | with_reducible apply ite_fst_does | split
    | (extract_lets +onlyGivenNames y; first
        | (have hy : Does cs c y := ?_; clear_value y) | (have hy : Does cs c y.1 := ?_; clear_value y)
        | (have hy : Does cs c y.2 := ?_; clear_value y) | (let z : TrigState := y; clear z) | clear_value y)
    | dsimp only | with_reducible apply trig_does

theorem clearNotes_does {cs : List Part} {c : State} (s : State) (chs : List Nat) (hs : [.twine] ⊆ cs) (hc : Does cs c s) :
    Does cs c (clearNotes s chs) := by
  unfold clearNotes
  repeat' first
    | with_reducible assumption | with_reducible exact sub_of hs rfl | exact (rfl : TwineState.violations _ = _) | (intro)
    | (extract_lets +onlyGivenNames y; first
        | (have hy : Does cs c y := ?_; clear_value y) | (have hy : Does cs c y.1 := ?_; clear_value y)
        | (have hy : Does cs c y.2 := ?_; clear_value y) | (let z : TwineState := y; clear z) | clear_value y)
    | with_reducible apply each_does | dsimp only | with_reducible apply twine_does

theorem summaryFrames_does {cs : List Part} {c : State} (s : State) (dest : Nat) (t : Nat) (interval : Nat) (a4 : Nat) (a5 : List Bytes)
    (hs : [.objs, .ptp] ⊆ cs) (hc : Does cs c s) :
    Does cs c (summaryFrames s dest t interval a4 a5) := by
  induction a4 generalizing a5 s with
  | zero => rw [summaryFrames]; exact hc
  | succ n ih =>
    cases a5 with
    | nil => unfold summaryFrames; exact hc
    | cons => rw [summaryFrames]; repeat' first
      | with_reducible assumption | with_reducible exact sub_of hs rfl | (intro) | with_reducible apply ih
      | with_reducible apply sendTwine_does | with_reducible apply ite_does | with_reducible apply ite_fst_does | split
      | (extract_lets +onlyGivenNames y; first
          | (have hy : Does cs c y := ?_; clear_value y) | (have hy : Does cs c y.1 := ?_; clear_value y)
          | (have hy : Does cs c y.2 := ?_; clear_value y) | clear_value y)
      | with_reducible apply foldl_does | with_reducible apply foldl_fst_does | dsimp only

end Sys2Proof.Machine
end

