-- ==== Sys2Proof/Laws/Restart.lean ====
section
/-! SUPPORT. What each operation of Machine/Restart.lean does at most: the parts it changes, and what it keeps. -/

namespace Sys2Proof.Machine

set_option linter.all false

theorem State_setPwr_does {cs : List Part} {c : State} (s : State) (f : PowerState → PowerState)
    (hs : [.pwr] ⊆ cs) (hc : Does cs c s) :
    Does cs c (State.setPwr s f) := by
  unfold State.setPwr
  repeat' first
    | with_reducible assumption | with_reducible exact sub_of hs rfl | (intro) | dsimp only | with_reducible apply pwr_does

theorem endInjections_does {cs : List Part} {c : State} (s : State) (t : Nat)
    (hs : [.objs, .log, .samp, .ptp, .bob, .twine] ⊆ cs) (hc : Does cs c s) :
    Does cs c (endInjections s t) := by
  unfold endInjections
  repeat' first
    | with_reducible assumption | with_reducible exact sub_of hs rfl | (intro) | with_reducible apply finishInj_does
    | with_reducible apply endRun_does | with_reducible apply State_setInjector_does | with_reducible apply logPreSpans_does | split
    | (extract_lets +onlyGivenNames y; first
        | (have hy : Does cs c y := ?_; clear_value y) | (have hy : Does cs c y.1 := ?_; clear_value y)
        | (have hy : Does cs c y.2 := ?_; clear_value y) | clear_value y)
    | with_reducible apply each_does | dsimp only

theorem closeStreams_does {cs : List Part} {c : State} (s : State) (t : Nat)
    (hs : [.now, .free, .objs, .log, .samp, .draft, .cal, .ptp, .bob, .spin, .trig, .twine, .pwr] ⊆ cs) (hc : Does cs c s) :
    Does cs c (closeStreams s t) := by
  unfold closeStreams
  repeat' first
    | with_reducible assumption | with_reducible exact sub_of hs rfl | exact Nat.le_refl _
    | exact (rfl : TwineState.violations _ = _)
    | (refine fun (p : Part) hp => ?_; cases p <;> first | exact absurd (mem_of hs _ rfl) hp | exact rfl) | (intro)
    | with_reducible apply enterChange_does | with_reducible apply endInjections_does | with_reducible apply wbAbort_does
    | with_reducible apply endAllCaptures_does | with_reducible apply cutReductions_does | with_reducible apply finishRecompute_does
    | with_reducible apply drainPipeline_does | with_reducible apply sealBobbin_does
    | (extract_lets +onlyGivenNames y; first
        | (have hy : Does cs c y := ?_; clear_value y) | (have hy : Does cs c y.1 := ?_; clear_value y)
        | (have hy : Does cs c y.2 := ?_; clear_value y) | (let z : SampState := y; clear z) | (let z : DraftState := y; clear z)
        | clear_value y)
    | with_reducible apply each_does | dsimp only | with_reducible apply samp_does | with_reducible apply draft_does
    | with_reducible refine does_mk ?_ ?_ ?_ ?_

theorem closeSessions_does {cs : List Part} {c : State} (s : State) (hs : [.dict] ⊆ cs) (hc : Does cs c s) :
    Does cs c (closeSessions s) := by
  unfold closeSessions
  repeat' first
    | with_reducible assumption | with_reducible exact sub_of hs rfl | exact Nat.le_refl _ | exact List.length_filter_le _ _
    | (intro) | dsimp only | with_reducible apply dict_does

theorem dropWrite_does {cs : List Part} {c : State} (s : State) (w : PendWrite) (hs : [.log] ⊆ cs) (hc : Does cs c s) :
    Does cs c (dropWrite s w) := by
  unfold dropWrite
  repeat' first
    | with_reducible assumption | with_reducible exact sub_of hs rfl | (intro) | with_reducible apply State_ev_does | dsimp only

theorem disarmUpdate_does {cs : List Part} {c : State} (s : State) (hs : [.objs] ⊆ cs) (hc : Does cs c s) :
    Does cs c (disarmUpdate s) := by
  unfold disarmUpdate
  repeat' first
    | with_reducible assumption | with_reducible exact sub_of hs rfl | (intro) | with_reducible apply State_put_does
    | with_reducible apply ite_does | with_reducible apply ite_fst_does | split | dsimp only

theorem dropWrites_does {cs : List Part} {c : State} (s : State) (p : PendWrite → Bool)
    (hs : [.objs, .log, .dict] ⊆ cs) (hc : Does cs c s) :
    Does cs c (dropWrites s p) := by
  unfold dropWrites
  repeat' first
    | with_reducible assumption | with_reducible exact sub_of hs rfl | exact Nat.le_refl _ | exact List.length_filter_le _ _
    | (intro) | with_reducible apply disarmUpdate_does | with_reducible apply dropWrite_does
    | (extract_lets +onlyGivenNames y; first
        | (have hy : Does cs c y := ?_; clear_value y) | (have hy : Does cs c y.1 := ?_; clear_value y)
        | (have hy : Does cs c y.2 := ?_; clear_value y) | (let z : DictState := y; clear z) | clear_value y)
    | with_reducible apply foldl_does | dsimp only | with_reducible apply dict_does

theorem fullReset_does {cs : List Part} {c : State} (s : State) (cause : Nat) (pwr : PowerState)
    (hs : [.now, .objs, .log, .samp, .draft, .cal, .dict, .time, .ptp, .lanes, .bob, .spin, .trig, .twine, .twin, .dram, .pwr, .nvm, .upd, .root, .host] ⊆ cs) (hc : Does cs c s) :
    Does cs c (fullReset s cause pwr) := by
  exact hc.trans ⟨rfl, fun _ => resetStore_wf _ _ _ _, fun _ => ⟨Nat.zero_le _, 0, trivial, rfl⟩, fun _ => Nat.zero_le _, fun _ => Nat.zero_le _, .of_eq rfl rfl rfl rfl rfl (Nat.le_refl _),
    by intro p hp; cases p <;> first | exact absurd (mem_of hs _ rfl) hp | rfl⟩

theorem rootRestart_does {cs : List Part} {c : State} (s : State) (hs : [.objs, .root] ⊆ cs) (hc : Does cs c s) :
    Does cs c (rootRestart s) := by
  unfold rootRestart
  repeat' first
    | with_reducible assumption | with_reducible exact sub_of hs rfl | (intro) | with_reducible apply State_put_does
    | with_reducible apply ite_does | with_reducible apply ite_fst_does | split
    | (extract_lets +onlyGivenNames y; first
        | (have hy : Does cs c y := ?_; clear_value y) | (have hy : Does cs c y.1 := ?_; clear_value y)
        | (have hy : Does cs c y.2 := ?_; clear_value y) | (let z : RootState := y; clear z) | clear_value y)
    | dsimp only | with_reducible apply root_does

theorem sweepAborts_does {cs : List Part} {c : State} (s : State) (hs : [.cal] ⊆ cs) (hc : Does cs c s) :
    Does cs c (sweepAborts s) := by
  unfold sweepAborts
  repeat' first
    | with_reducible assumption | with_reducible exact sub_of hs rfl | (intro) | split | dsimp only | with_reducible apply cal_does

theorem forgetRequests_does {cs : List Part} {c : State} (s : State) (hs : [.twine] ⊆ cs) (hc : Does cs c s) :
    Does cs c (forgetRequests s) := by
  unfold forgetRequests
  repeat' first
    | with_reducible assumption | with_reducible exact sub_of hs rfl | exact (rfl : TwineState.violations _ = _) | (intro)
    | dsimp only | with_reducible apply twine_does

theorem coreRestartBegin_does {cs : List Part} {c : State} (s : State) (watchdog : Bool) (announced : Bool)
    (hs : [.objs, .log, .cal, .dict, .spin, .twine, .twin, .pwr, .upd, .root, .host] ⊆ cs) (hc : Does cs c s) :
    Does cs c (coreRestartBegin s watchdog announced) := by
  unfold coreRestartBegin
  repeat' first
    | with_reducible assumption | with_reducible exact sub_of hs rfl | (intro) | with_reducible apply State_ev_does
    | with_reducible apply State_setStatus_does | with_reducible apply State_bump_does | with_reducible apply State_setPwr_does
    | with_reducible apply spindlesDown_does | with_reducible apply closeSessions_does | with_reducible apply internalRestart_does
    | with_reducible apply mbRestart_does | with_reducible apply rootRestart_does | with_reducible apply forgetRequests_does
    | with_reducible apply sweepAborts_does | with_reducible apply State_setUpd_does | with_reducible apply State_setTwin_does
    | with_reducible apply ite_does | with_reducible apply ite_fst_does | split
    | (extract_lets +onlyGivenNames y; first
        | (have hy : Does cs c y := ?_; clear_value y) | (have hy : Does cs c y.1 := ?_; clear_value y)
        | (have hy : Does cs c y.2 := ?_; clear_value y) | clear_value y)
    | with_reducible apply foldl_does | dsimp only

theorem openTrial_does {cs : List Part} {c : State} (s : State) (hs : [.objs] ⊆ cs) (hc : Does cs c s) :
    Does cs c (openTrial s) := by
  unfold openTrial
  repeat' first
    | with_reducible assumption | with_reducible exact sub_of hs rfl | (intro) | with_reducible apply State_put_does | dsimp only

theorem coreRestartFinish_does {cs : List Part} {c : State} (s : State) (bad : List (Fin 2))
    (hs : [.free, .objs, .log, .samp, .cal, .ptp, .bob, .spin, .trig, .twine, .twin, .pwr, .nvm, .host] ⊆ cs) (hc : Does cs c s) :
    Does cs c (coreRestartFinish s bad) := by
  unfold coreRestartFinish
  repeat' first
    | with_reducible assumption | with_reducible exact sub_of hs rfl | (intro) | with_reducible apply secureBoot_does
    | with_reducible apply State_setPwr_does | with_reducible apply State_setTwin_does | with_reducible apply enterReady_does
    | with_reducible apply State_setStatus_does | with_reducible apply takeOverIfDue_does | with_reducible apply rearmMissed_does
    | with_reducible apply applyHeldDoffs_does | with_reducible apply resumeDoffing_does | with_reducible apply spindlesUp_does
    | with_reducible apply openTrial_does | with_reducible apply ite_does | with_reducible apply ite_fst_does | split
    | (extract_lets +onlyGivenNames y; first
        | (have hy : Does cs c y := ?_; clear_value y) | (have hy : Does cs c y.1 := ?_; clear_value y)
        | (have hy : Does cs c y.2 := ?_; clear_value y) | clear_value y)
    | dsimp only

end Sys2Proof.Machine
end

