-- ==== Sys2Proof/Laws/Power.lean ====
section
/-! SUPPORT. What each operation of Machine/Power.lean does at most: the parts it changes, and what it keeps. -/

namespace Sys2Proof.Machine

set_option linter.all false

theorem powerAway_does {cs : List Part} {c : State} (s : State) (cause : Nat) (p : PowerState)
    (hs : [.now, .objs, .log, .samp, .draft, .cal, .dict, .time, .ptp, .lanes, .bob, .spin, .trig, .twine, .twin, .dram, .pwr, .nvm, .upd, .root, .host] ⊆ cs) (hc : Does cs c s) :
    Does cs c (powerAway s cause p) := by
  unfold powerAway
  repeat' first
    | with_reducible assumption | with_reducible exact sub_of hs rfl | (intro)
    | exact OtpLe.of_eq rfl rfl rfl rfl rfl (Nat.le_refl _) | with_reducible exact setSlot_otp _ _ _
    | with_reducible exact failSlot_otp _ _ | with_reducible exact writeCopy_otp _ _ _ | with_reducible apply writePointer_otp
    | with_reducible exact OtpLe.refl _ | with_reducible apply State_setNvm_does | with_reducible apply fullReset_does
    | (extract_lets +onlyGivenNames y; first
        | (have hy : Does cs c y := ?_; clear_value y) | (have hy : Does cs c y.1 := ?_; clear_value y)
        | (have hy : Does cs c y.2 := ?_; clear_value y) | clear_value y)
    | dsimp only

theorem boot_does {cs : List Part} {c : State} (s : State) (osc : List Nat)
    (hs : [.objs, .log, .samp, .time, .lanes, .dram, .pwr] ⊆ cs) (hc : Does cs c s) :
    Does cs c (boot s osc) := by
  unfold boot
  repeat' first
    | with_reducible assumption | with_reducible exact sub_of hs rfl | (intro) | with_reducible apply State_setPwr_does
    | with_reducible apply oscMeasure_does | with_reducible apply refreshBuffers_does | with_reducible apply lanesOn_does
    | with_reducible apply trainAt_does
    | (extract_lets +onlyGivenNames y; first
        | (have hy : Does cs c y := ?_; clear_value y) | (have hy : Does cs c y.1 := ?_; clear_value y)
        | (have hy : Does cs c y.2 := ?_; clear_value y) | (let z : DramState := y; clear z) | clear_value y)
    | with_reducible apply each_does | dsimp only | with_reducible apply dram_does

theorem reelReset_does {cs : List Part} {c : State} (s : State) (r : Nat)
    (hs : [.objs, .ptp, .trig, .twine] ⊆ cs) (hc : Does cs c s) :
    Does cs c (reelReset s r) := by
  unfold reelReset
  repeat' first
    | with_reducible assumption | with_reducible exact sub_of hs rfl | (intro) | with_reducible apply finishCapture_does
    | with_reducible apply State_setReel_does | with_reducible apply armReel_does | with_reducible apply ite_does
    | with_reducible apply ite_fst_does | split
    | (extract_lets +onlyGivenNames y; first
        | (have hy : Does cs c y := ?_; clear_value y) | (have hy : Does cs c y.1 := ?_; clear_value y)
        | (have hy : Does cs c y.2 := ?_; clear_value y) | clear_value y)
    | dsimp only

theorem portResetNow_does {cs : List Part} {c : State} (s : State) (v : Nat)
    (hs : [.objs, .log, .dict, .ptp, .lanes, .trig, .twine, .host] ⊆ cs) (hc : Does cs c s) :
    Does cs c (portResetNow s v) := by
  unfold portResetNow
  repeat' first
    | with_reducible assumption | with_reducible exact sub_of hs rfl | (intro) | with_reducible apply State_ev_does
    | with_reducible apply laneReset_does | with_reducible apply mbPortReset_does | with_reducible apply reelReset_does
    | with_reducible apply ite_does | with_reducible apply ite_fst_does | split
    | (extract_lets +onlyGivenNames y; first
        | (have hy : Does cs c y := ?_; clear_value y) | (have hy : Does cs c y.1 := ?_; clear_value y)
        | (have hy : Does cs c y.2 := ?_; clear_value y) | clear_value y)
    | dsimp only

theorem domainChanged_does {cs : List Part} {c : State} (s : State) (t : Nat) (old : Nat)
    (hs : [.log, .samp] ⊆ cs) (hc : Does cs c s) :
    Does cs c (domainChanged s t old) := by
  unfold domainChanged
  repeat' first
    | with_reducible assumption | with_reducible exact sub_of hs rfl | (intro) | with_reducible apply State_evAt_does
    | with_reducible apply refreshBuffers_does | with_reducible apply ite_does | with_reducible apply ite_fst_does | split
    | (extract_lets +onlyGivenNames y; first
        | (have hy : Does cs c y := ?_; clear_value y) | (have hy : Does cs c y.1 := ?_; clear_value y)
        | (have hy : Does cs c y.2 := ?_; clear_value y) | clear_value y)
    | with_reducible apply each_does | dsimp only

theorem setPmbDevice_does {cs : List Part} {c : State} (s : State) (d : PmbDevice) (hs : [.pwr] ⊆ cs) (hc : Does cs c s) :
    Does cs c (setPmbDevice s d) := by
  unfold setPmbDevice
  repeat' first
    | with_reducible assumption | with_reducible exact sub_of hs rfl | (intro) | with_reducible apply State_setPwr_does
    | with_reducible apply ite_does | with_reducible apply ite_fst_does | split
    | (extract_lets +onlyGivenNames y; first
        | (have hy : Does cs c y := ?_; clear_value y) | (have hy : Does cs c y.1 := ?_; clear_value y)
        | (have hy : Does cs c y.2 := ?_; clear_value y) | clear_value y)
    | dsimp only

theorem pmbRead_does {cs : List Part} {c : State} (s : State) (a : Nat) (r : Option PmbReading) (full : Bool)
    (hs : [.log, .pwr] ⊆ cs) (hc : Does cs c s) :
    Does cs c (pmbRead s a r full) := by
  unfold pmbRead
  repeat' first
    | with_reducible assumption | with_reducible exact sub_of hs rfl | (intro) | with_reducible apply setPmbDevice_does
    | with_reducible apply State_ev_does | with_reducible apply ite_does | with_reducible apply ite_fst_does | split
    | (extract_lets +onlyGivenNames y; first
        | (have hy : Does cs c y := ?_; clear_value y) | (have hy : Does cs c y.1 := ?_; clear_value y)
        | (have hy : Does cs c y.2 := ?_; clear_value y) | clear_value y)
    | dsimp only

theorem pmbusListed_does {cs : List Part} {c : State} (s : State) (hs : [.pwr] ⊆ cs) (hc : Does cs c s) :
    Does cs c (pmbusListed s) := by
  unfold pmbusListed
  repeat' first
    | with_reducible assumption | with_reducible exact sub_of hs rfl | (intro) | with_reducible apply State_setPwr_does | dsimp only

theorem vexcMeasured_does {cs : List Part} {c : State} (s : State) (mv : Nat) (hs : [.objs, .log] ⊆ cs) (hc : Does cs c s) :
    Does cs c (vexcMeasured s mv) := by
  unfold vexcMeasured
  repeat' first
    | with_reducible assumption | with_reducible exact sub_of hs rfl | (intro) | with_reducible apply State_put_does
    | with_reducible apply State_ev_does | with_reducible apply ite_does | with_reducible apply ite_fst_does | split
    | (extract_lets +onlyGivenNames y; first
        | (have hy : Does cs c y := ?_; clear_value y) | (have hy : Does cs c y.1 := ?_; clear_value y)
        | (have hy : Does cs c y.2 := ?_; clear_value y) | clear_value y)
    | dsimp only

theorem lanesLost_does {cs : List Part} {c : State} (s : State) (hs : [.ptp, .lanes, .twine] ⊆ cs) (hc : Does cs c s) :
    Does cs c (lanesLost s) := by
  unfold lanesLost
  repeat' first
    | with_reducible assumption | with_reducible exact sub_of hs rfl | exact (rfl : TwineState.violations _ = _)
    | exact Nat.le_refl _ | exact (rfl : TwineState.violations _ = _)
    | (refine fun (p : Part) hp => ?_; cases p <;> first | exact absurd (mem_of hs _ rfl) hp | exact rfl) | (intro) | dsimp only
    | with_reducible apply ptp_does | with_reducible apply lanes_does | with_reducible apply twine_does
    | with_reducible refine does_mk ?_ ?_ ?_ ?_

theorem strandsSleep_does {cs : List Part} {c : State} (s : State) (hs : [.objs, .log, .time] ⊆ cs) (hc : Does cs c s) :
    Does cs c (strandsSleep s) := by
  unfold strandsSleep
  repeat' first
    | with_reducible assumption | with_reducible exact sub_of hs rfl | (intro) | with_reducible apply setRate_does
    | with_reducible apply enterStrand_does | with_reducible apply State_put_does | with_reducible apply ite_does
    | with_reducible apply ite_fst_does | split
    | (extract_lets +onlyGivenNames y; first
        | (have hy : Does cs c y := ?_; clear_value y) | (have hy : Does cs c y.1 := ?_; clear_value y)
        | (have hy : Does cs c y.2 := ?_; clear_value y) | (let z : TimeState := y; clear z) | clear_value y)
    | dsimp only | with_reducible apply time_does

theorem reelsSleep_does {cs : List Part} {c : State} (s : State) (hs : [.trig] ⊆ cs) (hc : Does cs c s) :
    Does cs c (reelsSleep s) := by
  unfold reelsSleep
  repeat' first
    | with_reducible assumption | with_reducible exact sub_of hs rfl | (intro)
    | (extract_lets +onlyGivenNames y; first
        | (have hy : Does cs c y := ?_; clear_value y) | (have hy : Does cs c y.1 := ?_; clear_value y)
        | (have hy : Does cs c y.2 := ?_; clear_value y) | (let z : TrigState := y; clear z) | clear_value y)
    | dsimp only | with_reducible apply trig_does

theorem dictSleep_does {cs : List Part} {c : State} (s : State) (hs : [.dict] ⊆ cs) (hc : Does cs c s) :
    Does cs c (dictSleep s) := by
  unfold dictSleep
  repeat' first
    | with_reducible assumption | with_reducible exact sub_of hs rfl | exact Nat.le_refl _ | exact List.length_filter_le _ _
    | (intro) | dsimp only | with_reducible apply dict_does

theorem State_setNow_does {cs : List Part} {c : State} (s : State) (t : Nat) (hs : [.now] ⊆ cs) (hc : Does cs c s) :
    Does cs c (State.setNow s t) := by
  unfold State.setNow
  repeat' first
    | with_reducible assumption | with_reducible exact sub_of hs rfl | (intro) | dsimp only | with_reducible apply now_does

theorem blocksSleep_does {cs : List Part} {c : State} (s : State) (t : Nat)
    (hs : [.samp, .draft, .cal, .spin] ⊆ cs) (hc : Does cs c s) :
    Does cs c (blocksSleep s t) := by
  unfold blocksSleep
  repeat' first
    | with_reducible assumption | with_reducible exact sub_of hs rfl | exact Nat.le_refl _
    | exact (rfl : TwineState.violations _ = _)
    | (refine fun (p : Part) hp => ?_; cases p <;> first | exact absurd (mem_of hs _ rfl) hp | exact rfl) | (intro) | dsimp only
    | with_reducible apply samp_does | with_reducible apply draft_does | with_reducible apply cal_does
    | with_reducible apply spin_does | with_reducible refine does_mk ?_ ?_ ?_ ?_

theorem dramSleep_does {cs : List Part} {c : State} (s : State) (hs : [.dram] ⊆ cs) (hc : Does cs c s) :
    Does cs c (dramSleep s) := by
  unfold dramSleep
  repeat' first
    | with_reducible assumption | with_reducible exact sub_of hs rfl | (intro) | with_reducible apply closeRank_does
    | with_reducible apply State_setRank_does
    | (extract_lets +onlyGivenNames y; first
        | (have hy : Does cs c y := ?_; clear_value y) | (have hy : Does cs c y.1 := ?_; clear_value y)
        | (have hy : Does cs c y.2 := ?_; clear_value y) | (let z : DramState := y; clear z) | clear_value y)
    | with_reducible apply each_does | dsimp only | with_reducible apply dram_does

theorem dramWake_does {cs : List Part} {c : State} (s : State) (hs : [.dram] ⊆ cs) (hc : Does cs c s) :
    Does cs c (dramWake s) := by
  unfold dramWake
  repeat' first
    | with_reducible assumption | with_reducible exact sub_of hs rfl | (intro) | with_reducible apply State_setRank_does
    | (extract_lets +onlyGivenNames y; first
        | (have hy : Does cs c y := ?_; clear_value y) | (have hy : Does cs c y.1 := ?_; clear_value y)
        | (have hy : Does cs c y.2 := ?_; clear_value y) | (let z : DramState := y; clear z) | clear_value y)
    | with_reducible apply each_does | dsimp only | with_reducible apply dram_does

theorem enterSleep_does {cs : List Part} {c : State} (s : State) (d : Sleep)
    (hs : [.now, .free, .objs, .log, .samp, .draft, .cal, .dict, .time, .ptp, .lanes, .bob, .spin, .trig, .twine, .twin, .dram, .pwr, .upd, .host] ⊆ cs) (hc : Does cs c s) :
    Does cs c (enterSleep s d) := by
  unfold enterSleep
  repeat' first
    | with_reducible assumption | with_reducible exact sub_of hs rfl | (intro) | with_reducible apply closeStreams_does
    | with_reducible apply State_advance_does | with_reducible apply dictSleep_does | with_reducible apply dropWrites_does
    | with_reducible apply evalStages_does | with_reducible apply becomeStandby_does | with_reducible apply State_setTwin_does
    | with_reducible apply reelsSleep_does | with_reducible apply dramSleep_does | with_reducible apply blocksSleep_does
    | with_reducible apply State_evAt_does | with_reducible apply State_setStatus_does | with_reducible apply strandsSleep_does
    | with_reducible apply lanesLost_does | with_reducible apply State_bump_does | with_reducible apply State_put_does
    | with_reducible apply State_setUpd_does | with_reducible apply State_setPwr_does
    | (extract_lets +onlyGivenNames y; first
        | (have hy : Does cs c y := ?_; clear_value y) | (have hy : Does cs c y.1 := ?_; clear_value y)
        | (have hy : Does cs c y.2 := ?_; clear_value y) | clear_value y)
    | dsimp only

theorem strandsWake_does {cs : List Part} {c : State} (s : State) (time : Int) (hs : [.objs, .log, .time] ⊆ cs) (hc : Does cs c s) :
    Does cs c (strandsWake s time) := by
  unfold strandsWake
  repeat' first
    | with_reducible assumption | with_reducible exact sub_of hs rfl | (intro) | with_reducible apply State_setStrand_does
    | with_reducible apply enterStrand_does | with_reducible apply State_putI_does
    | (extract_lets +onlyGivenNames y; first
        | (have hy : Does cs c y := ?_; clear_value y) | (have hy : Does cs c y.1 := ?_; clear_value y)
        | (have hy : Does cs c y.2 := ?_; clear_value y) | clear_value y)
    | with_reducible apply each_does | dsimp only

theorem startSampling_does {cs : List Part} {c : State} (s : State) (t : Nat) (woken : Bool)
    (hs : [.objs, .samp, .draft, .spin] ⊆ cs) (hc : Does cs c s) :
    Does cs c (startSampling s t woken) := by
  unfold startSampling
  repeat' first
    | with_reducible assumption | with_reducible exact sub_of hs rfl | (intro) | with_reducible apply replanAll_does
    | with_reducible apply switchDriver_does | with_reducible apply restartReductions_does | with_reducible apply ite_does
    | with_reducible apply ite_fst_does | split
    | (extract_lets +onlyGivenNames y; first
        | (have hy : Does cs c y := ?_; clear_value y) | (have hy : Does cs c y.1 := ?_; clear_value y)
        | (have hy : Does cs c y.2 := ?_; clear_value y) | (let z : SampState := y; clear z) | clear_value y)
    | with_reducible apply each_does | dsimp only | with_reducible apply samp_does

theorem wakeUp_does {cs : List Part} {c : State} (s : State) (cause : Nat) (n : SleepCount)
    (hs : [.now, .free, .objs, .log, .samp, .draft, .cal, .time, .lanes, .spin, .trig, .twin, .dram, .pwr, .host] ⊆ cs) (hc : Does cs c s) :
    Does cs c (wakeUp s cause n) := by
  unfold wakeUp
  repeat' first
    | with_reducible assumption | with_reducible exact sub_of hs rfl | (intro) | with_reducible apply State_setPwr_does
    | with_reducible apply State_setNow_does | with_reducible apply State_evAt_does | with_reducible apply State_put_does
    | with_reducible apply dramWake_does | with_reducible apply lanesOn_does | with_reducible apply State_setLane_does
    | with_reducible apply refreshBuffers_does | with_reducible apply strandsWake_does | with_reducible apply voteAt_does
    | with_reducible apply startSampling_does | with_reducible apply armReel_does | with_reducible apply twinReady_does
    | with_reducible apply enterReady_does | with_reducible apply ite_does | with_reducible apply ite_fst_does | split
    | (extract_lets +onlyGivenNames y; first
        | (have hy : Does cs c y := ?_; clear_value y) | (have hy : Does cs c y.1 := ?_; clear_value y)
        | (have hy : Does cs c y.2 := ?_; clear_value y) | (let z : TimeState := y; clear z) | clear_value y)
    | with_reducible apply each_does | dsimp only | with_reducible apply time_does

theorem thermalWarn_does {cs : List Part} {c : State} (s : State) (die : Nat) (temp : Int) (limit : Nat)
    (hs : [.log, .pwr] ⊆ cs) (hc : Does cs c s) :
    Does cs c (thermalWarn s die temp limit) := by
  unfold thermalWarn
  repeat' first
    | with_reducible assumption | with_reducible exact sub_of hs rfl | (intro) | with_reducible apply State_setPwr_does
    | with_reducible apply State_ev_does | with_reducible apply ite_does | with_reducible apply ite_fst_does | split
    | (extract_lets +onlyGivenNames y; first
        | (have hy : Does cs c y := ?_; clear_value y) | (have hy : Does cs c y.1 := ?_; clear_value y)
        | (have hy : Does cs c y.2 := ?_; clear_value y) | clear_value y)
    | dsimp only

theorem thermalThrottle_does {cs : List Part} {c : State} (s : State) (temp : Int)
    (hs : [.objs, .log, .pwr] ⊆ cs) (hc : Does cs c s) :
    Does cs c (thermalThrottle s temp) := by
  unfold thermalThrottle
  repeat' first
    | with_reducible assumption | with_reducible exact sub_of hs rfl | (intro) | with_reducible apply State_setPwr_does
    | with_reducible apply State_ev_does | with_reducible apply State_bump_does | with_reducible apply ite_does
    | with_reducible apply ite_fst_does | split
    | (extract_lets +onlyGivenNames y; first
        | (have hy : Does cs c y := ?_; clear_value y) | (have hy : Does cs c y.1 := ?_; clear_value y)
        | (have hy : Does cs c y.2 := ?_; clear_value y) | clear_value y)
    | dsimp only

theorem thermalTrip_does {cs : List Part} {c : State} (s : State) (die : Nat) (temp : Int)
    (hs : [.log, .pwr] ⊆ cs) (hc : Does cs c s) :
    Does cs c (thermalTrip s die temp) := by
  unfold thermalTrip
  repeat' first
    | with_reducible assumption | with_reducible exact sub_of hs rfl | (intro) | with_reducible apply State_setPwr_does
    | with_reducible apply State_ev_does | with_reducible apply ite_does | with_reducible apply ite_fst_does | split
    | (extract_lets +onlyGivenNames y; first
        | (have hy : Does cs c y := ?_; clear_value y) | (have hy : Does cs c y.1 := ?_; clear_value y)
        | (have hy : Does cs c y.2 := ?_; clear_value y) | clear_value y)
    | dsimp only

theorem fieldTripStep_does {cs : List Part} {c : State} (s : State) (temp : Int)
    (hs : [.log, .samp, .trig, .pwr] ⊆ cs) (hc : Does cs c s) :
    Does cs c (fieldTripStep s temp) := by
  unfold fieldTripStep
  repeat' first
    | with_reducible assumption | with_reducible exact sub_of hs rfl | (intro) | with_reducible apply State_setPwr_does
    | with_reducible apply State_ev_does | with_reducible apply tripDriver_does | with_reducible apply ite_does
    | with_reducible apply ite_fst_does | split
    | (extract_lets +onlyGivenNames y; first
        | (have hy : Does cs c y := ?_; clear_value y) | (have hy : Does cs c y.1 := ?_; clear_value y)
        | (have hy : Does cs c y.2 := ?_; clear_value y) | (let z : TrigState := y; clear z) | clear_value y)
    | with_reducible apply each_does | dsimp only | with_reducible apply trig_does

theorem buckStops_does {cs : List Part} {c : State} (s : State) (temp : Int)
    (hs : [.now, .objs, .log, .samp, .draft, .cal, .dict, .time, .ptp, .lanes, .bob, .spin, .trig, .twine, .twin, .dram, .pwr, .nvm, .upd, .root, .host] ⊆ cs) (hc : Does cs c s) :
    Does cs c (buckStops s temp) := by
  unfold buckStops
  repeat' first
    | with_reducible assumption | with_reducible exact sub_of hs rfl | (intro) | with_reducible apply State_putI_does
    | with_reducible apply powerAway_does | with_reducible apply ite_does | with_reducible apply ite_fst_does | split | dsimp only

end Sys2Proof.Machine
end

