-- ==== Sys2Proof/Laws/Root.lean ====
section
/-! SUPPORT. What each operation of Machine/Root.lean does at most: the parts it changes, and what it keeps. -/

namespace Sys2Proof.Machine

set_option linter.all false

theorem rootCheck_does {cs : List Part} {c : State} (s : State) (hs : [.log, .root] ⊆ cs) (hc : Does cs c s) :
    Does cs c (rootCheck s) := by
  unfold rootCheck
  repeat' first
    | with_reducible assumption | with_reducible exact sub_of hs rfl | (intro) | with_reducible apply State_ev_does
    | with_reducible apply State_setRoot_does | with_reducible apply ite_does | with_reducible apply ite_fst_does | split
    | dsimp only

theorem sendRequest_does {cs : List Part} {c : State} (s : State) (hub : Nat) (kind : Nat) (job : Nat) (reqId : Nat) (body : Bytes)
    (hs : [.objs, .ptp, .twine] ⊆ cs) (hc : Does cs c s) :
    Does cs c (sendRequest s hub kind job reqId body) := by
  unfold sendRequest
  repeat' first
    | with_reducible assumption | with_reducible exact sub_of hs rfl | exact (rfl : TwineState.violations _ = _) | (intro)
    | with_reducible apply sendTwine_does
    | (extract_lets +onlyGivenNames y; first
        | (have hy : Does cs c y := ?_; clear_value y) | (have hy : Does cs c y.1 := ?_; clear_value y)
        | (have hy : Does cs c y.2 := ?_; clear_value y) | (let z : TwineState := y; clear z) | clear_value y)
    | dsimp only | with_reducible apply twine_does

theorem takeReqId_does {cs : List Part} {c : State} (s : State) (hs : [.root] ⊆ cs) (hc : Does cs c s) :
    Does cs c (takeReqId s).2 := by
  unfold takeReqId
  repeat' first
    | with_reducible assumption | with_reducible exact sub_of hs rfl | (intro) | with_reducible apply State_setRoot_does
    | with_reducible apply ite_does | with_reducible apply ite_fst_does | split
    | (extract_lets +onlyGivenNames y; first
        | (have hy : Does cs c y := ?_; clear_value y) | (have hy : Does cs c y.1 := ?_; clear_value y)
        | (have hy : Does cs c y.2 := ?_; clear_value y) | clear_value y)
    | dsimp only

theorem mgmtRequest_does {cs : List Part} {c : State} (s : State) (hub : Nat) (job : Nat) (principal : Nat) (session : Nat) (key : Option Bytes) (body : Bytes)
    (hs : [.objs, .ptp, .twine, .root] ⊆ cs) (hc : Does cs c s) :
    Does cs c (mgmtRequest s hub job principal session key body) := by
  unfold mgmtRequest
  repeat' first
    | with_reducible assumption | with_reducible exact sub_of hs rfl | (intro) | with_reducible apply takeReqId_does
    | with_reducible apply sendRequest_does
    | (extract_lets +onlyGivenNames y; first
        | (have hy : Does cs c y := ?_; clear_value y) | (have hy : Does cs c y.1 := ?_; clear_value y)
        | (have hy : Does cs c y.2 := ?_; clear_value y) | clear_value y)
    | dsimp only

theorem ackJob_does {cs : List Part} {c : State} (s : State) (bytes : Nat)
    (hs : [.objs, .log, .ptp, .root] ⊆ cs) (hc : Does cs c s) :
    Does cs c (ackJob s bytes) := by
  unfold ackJob
  repeat' first
    | with_reducible assumption | with_reducible exact sub_of hs rfl | (intro) | with_reducible apply State_setRoot_does
    | with_reducible apply State_ev_does | with_reducible apply State_put_does | with_reducible apply pump_does
    | with_reducible apply ite_does | with_reducible apply ite_fst_does | split
    | (extract_lets +onlyGivenNames y; first
        | (have hy : Does cs c y := ?_; clear_value y) | (have hy : Does cs c y.1 := ?_; clear_value y)
        | (have hy : Does cs c y.2 := ?_; clear_value y) | clear_value y)
    | dsimp only

theorem takeDoff_does {cs : List Part} {c : State} (port : Nat) (f : Bytes) (s : State)
    (hs : [.objs, .log, .ptp, .bob, .trig, .twine, .root] ⊆ cs) (hc : Does cs c s) :
    Does cs c (takeDoff port f s).1 := by
  unfold takeDoff
  repeat' first
    | with_reducible assumption | with_reducible exact sub_of hs rfl | exact (rfl : TwineState.violations _ = _) | (intro)
    | with_reducible apply ackJob_does | with_reducible apply violation_does | with_reducible apply applyDoff_does
    | with_reducible apply ite_does | with_reducible apply ite_fst_does | split
    | (extract_lets +onlyGivenNames y; first
        | (have hy : Does cs c y := ?_; clear_value y) | (have hy : Does cs c y.1 := ?_; clear_value y)
        | (have hy : Does cs c y.2 := ?_; clear_value y) | (let z : TwineState := y; clear z) | clear_value y)
    | with_reducible apply foldl_does | dsimp only | with_reducible apply twine_does

theorem resumeSkein_does {cs : List Part} {c : State} (s : State) (h : Nat) (ch : Nat) (upto : Nat)
    (hs : [.objs, .ptp, .twine, .root] ⊆ cs) (hc : Does cs c s) :
    Does cs c (resumeSkein s h ch upto) := by
  unfold resumeSkein
  repeat' first
    | with_reducible assumption | with_reducible exact sub_of hs rfl | (intro) | with_reducible apply takeReqId_does
    | with_reducible apply sendRequest_does | with_reducible apply ite_does | with_reducible apply ite_fst_does | split
    | (extract_lets +onlyGivenNames y; first
        | (have hy : Does cs c y := ?_; clear_value y) | (have hy : Does cs c y.1 := ?_; clear_value y)
        | (have hy : Does cs c y.2 := ?_; clear_value y) | clear_value y)
    | dsimp only

theorem relaySkein_does {cs : List Part} {c : State} (s : State) (f : Bytes) (hs : [.objs, .ptp] ⊆ cs) (hc : Does cs c s) :
    Does cs c (relaySkein s f) := by
  unfold relaySkein
  repeat' first
    | with_reducible assumption | with_reducible exact sub_of hs rfl | (intro) | with_reducible apply enqueue_does
    | with_reducible apply countQueued_does | dsimp only

theorem State_setJob_does {cs : List Part} {c : State} (s : State) (j : RetroJob) (hs : [.root] ⊆ cs) (hc : Does cs c s) :
    Does cs c (State.setJob s j) := by
  unfold State.setJob
  repeat' first
    | with_reducible assumption | with_reducible exact sub_of hs rfl | (intro) | with_reducible apply State_setRoot_does
    | dsimp only

theorem askHub_does {cs : List Part} {c : State} (s : State) (k : Nat) (hub : Nat)
    (hs : [.objs, .ptp, .root] ⊆ cs) (hc : Does cs c s) :
    Does cs c (askHub s k hub) := by
  unfold askHub
  repeat' first
    | with_reducible assumption | with_reducible exact sub_of hs rfl | (intro) | with_reducible apply sendTwine_does
    | with_reducible apply State_setJob_does | with_reducible apply ite_does | with_reducible apply ite_fst_does | split
    | (extract_lets +onlyGivenNames y; first
        | (have hy : Does cs c y := ?_; clear_value y) | (have hy : Does cs c y.1 := ?_; clear_value y)
        | (have hy : Does cs c y.2 := ?_; clear_value y) | clear_value y)
    | dsimp only

theorem askSlices_does {cs : List Part} {c : State} (a0 : Nat) (a1 : State) (hs : [.objs, .ptp, .root] ⊆ cs) (hc : Does cs c a1) :
    Does cs c (askSlices a0 a1) := by
  induction a0 generalizing a1 with
  | zero => rw [askSlices]; exact hc
  | succ n ih =>
    rw [askSlices]; repeat' first
      | with_reducible assumption | with_reducible exact sub_of hs rfl | (intro) | with_reducible apply ih
      | with_reducible apply State_setJob_does | with_reducible apply askHub_does | with_reducible apply ite_does
      | with_reducible apply ite_fst_does | split
      | (extract_lets +onlyGivenNames y; first
          | (have hy : Does cs c y := ?_; clear_value y) | (have hy : Does cs c y.1 := ?_; clear_value y)
          | (have hy : Does cs c y.2 := ?_; clear_value y) | clear_value y)
      | with_reducible apply each_does | with_reducible apply foldl_does | with_reducible apply foldl_fst_does | dsimp only

theorem endStream_does {cs : List Part} {c : State} (s : State) (hs : [.objs, .ptp, .root] ⊆ cs) (hc : Does cs c s) :
    Does cs c (endStream s) := by
  unfold endStream
  repeat' first
    | with_reducible assumption | with_reducible exact sub_of hs rfl | (intro) | with_reducible apply pump_does
    | with_reducible apply State_setJob_does | split | dsimp only

theorem halveSlices_does {cs : List Part} {c : State} (s : State) (hs : [.objs, .log, .ptp, .root] ⊆ cs) (hc : Does cs c s) :
    Does cs c (halveSlices s) := by
  unfold halveSlices
  repeat' first
    | with_reducible assumption | with_reducible exact sub_of hs rfl | (intro) | with_reducible apply endStream_does
    | with_reducible apply State_ev_does | with_reducible apply State_put_does | with_reducible apply askSlices_does
    | with_reducible apply State_setJob_does | with_reducible apply ite_does | with_reducible apply ite_fst_does | split
    | dsimp only

theorem takeWindowSkein_does {cs : List Part} {c : State} (s : State) (f : Bytes)
    (hs : [.objs, .log, .ptp, .root] ⊆ cs) (hc : Does cs c s) :
    Does cs c (takeWindowSkein s f) := by
  unfold takeWindowSkein
  repeat' first
    | with_reducible assumption | with_reducible exact sub_of hs rfl | (intro) | with_reducible apply State_setJob_does
    | with_reducible apply halveSlices_does | with_reducible apply ite_does | with_reducible apply ite_fst_does | split
    | (extract_lets +onlyGivenNames y; first
        | (have hy : Does cs c y := ?_; clear_value y) | (have hy : Does cs c y.1 := ?_; clear_value y)
        | (have hy : Does cs c y.2 := ?_; clear_value y) | clear_value y)
    | dsimp only

theorem takeSkein_does {cs : List Part} {c : State} (port : Nat) (f : Bytes) (s : State)
    (hs : [.objs, .log, .ptp, .twine, .root] ⊆ cs) (hc : Does cs c s) :
    Does cs c (takeSkein port f s).1 := by
  unfold takeSkein
  repeat' first
    | with_reducible assumption | with_reducible exact sub_of hs rfl | exact (rfl : TwineState.violations _ = _) | (intro)
    | with_reducible apply violation_does | with_reducible apply takeWindowSkein_does | with_reducible apply relaySkein_does
    | with_reducible apply resumeSkein_does | with_reducible apply ite_does | with_reducible apply ite_fst_does | split
    | (extract_lets +onlyGivenNames y; first
        | (have hy : Does cs c y := ?_; clear_value y) | (have hy : Does cs c y.1 := ?_; clear_value y)
        | (have hy : Does cs c y.2 := ?_; clear_value y) | (let z : TwineState := y; clear z) | clear_value y)
    | dsimp only | with_reducible apply twine_does

theorem giveUp_does {cs : List Part} {c : State} (s : State) (j : RetroJob) (x : RetroSlice) (hub : Nat)
    (hs : [.log, .root] ⊆ cs) (hc : Does cs c s) :
    Does cs c (giveUp s j x hub) := by
  unfold giveUp
  repeat' first
    | with_reducible assumption | with_reducible exact sub_of hs rfl | (intro) | with_reducible apply State_ev_does
    | with_reducible apply State_setJob_does | with_reducible apply ite_does | with_reducible apply ite_fst_does | split
    | (extract_lets +onlyGivenNames y; first
        | (have hy : Does cs c y := ?_; clear_value y) | (have hy : Does cs c y.1 := ?_; clear_value y)
        | (have hy : Does cs c y.2 := ?_; clear_value y) | clear_value y)
    | dsimp only

theorem retroBegin_does {cs : List Part} {c : State} (s : State) (b : Bytes) (hs : [.objs, .ptp, .root] ⊆ cs) (hc : Does cs c s) :
    Does cs c (retroBegin s b) := by
  unfold retroBegin
  repeat' first
    | with_reducible assumption | with_reducible exact sub_of hs rfl | (intro) | with_reducible apply State_put_does
    | with_reducible apply askSlices_does | with_reducible apply State_setJob_does
    | (extract_lets +onlyGivenNames y; first
        | (have hy : Does cs c y := ?_; clear_value y) | (have hy : Does cs c y.1 := ?_; clear_value y)
        | (have hy : Does cs c y.2 := ?_; clear_value y) | clear_value y)
    | dsimp only

theorem retroAbort_does {cs : List Part} {c : State} (s : State) (hs : [.objs, .ptp, .root] ⊆ cs) (hc : Does cs c s) :
    Does cs c (retroAbort s) := by
  unfold retroAbort
  repeat' first
    | with_reducible assumption | with_reducible exact sub_of hs rfl | (intro) | with_reducible apply State_put_does
    | with_reducible apply endStream_does | with_reducible apply State_setJob_does | with_reducible apply ite_does
    | with_reducible apply ite_fst_does | split
    | (extract_lets +onlyGivenNames y; first
        | (have hy : Does cs c y := ?_; clear_value y) | (have hy : Does cs c y.1 := ?_; clear_value y)
        | (have hy : Does cs c y.2 := ?_; clear_value y) | clear_value y)
    | dsimp only

theorem storeEntry_does {cs : List Part} {c : State} (s : State) (own : Bool) (e : Bytes)
    (hs : [.objs, .root] ⊆ cs) (hc : Does cs c s) :
    Does cs c (storeEntry s own e) := by
  unfold storeEntry
  repeat' first
    | with_reducible assumption | with_reducible exact sub_of hs rfl | (intro) | with_reducible apply State_bump_does
    | with_reducible apply State_setRoot_does | with_reducible apply ite_does | with_reducible apply ite_fst_does | split
    | (extract_lets +onlyGivenNames y; first
        | (have hy : Does cs c y := ?_; clear_value y) | (have hy : Does cs c y.1 := ?_; clear_value y)
        | (have hy : Does cs c y.2 := ?_; clear_value y) | clear_value y)
    | dsimp only

theorem noteReceipt_does {cs : List Part} {c : State} (s : State) (hub : Nat) (hs : [.root] ⊆ cs) (hc : Does cs c s) :
    Does cs c (noteReceipt s hub) := by
  unfold noteReceipt
  repeat' first
    | with_reducible assumption | with_reducible exact sub_of hs rfl | (intro) | with_reducible apply State_setRoot_does
    | dsimp only

theorem takeSummary_does {cs : List Part} {c : State} (port : Nat) (f : Bytes) (s : State)
    (hs : [.objs, .log, .ptp, .twine, .root] ⊆ cs) (hc : Does cs c s) :
    Does cs c (takeSummary port f s).1 := by
  unfold takeSummary
  repeat' first
    | with_reducible assumption | with_reducible exact sub_of hs rfl | (intro) | with_reducible apply violation_does
    | with_reducible apply State_ev_does | with_reducible apply State_setRoot_does | with_reducible apply storeEntry_does
    | with_reducible apply noteReceipt_does | with_reducible apply ite_does | with_reducible apply ite_fst_does | split
    | (extract_lets +onlyGivenNames y; first
        | (have hy : Does cs c y := ?_; clear_value y) | (have hy : Does cs c y.1 := ?_; clear_value y)
        | (have hy : Does cs c y.2 := ?_; clear_value y) | clear_value y)
    | with_reducible apply each_does | dsimp only

theorem queryBegin_does {cs : List Part} {c : State} (s : State) (b : Bytes) (hs : [.root] ⊆ cs) (hc : Does cs c s) :
    Does cs c (queryBegin s b) := by
  unfold queryBegin
  repeat' first
    | with_reducible assumption | with_reducible exact sub_of hs rfl | (intro) | with_reducible apply State_setRoot_does
    | dsimp only

theorem sendDoffs_does {cs : List Part} {c : State} (hub : Nat) (a1 : Nat) (a2 : List (Nat × Nat)) (a3 : State)
    (hs : [.objs, .ptp] ⊆ cs) (hc : Does cs c a3) :
    Does cs c (sendDoffs hub a1 a2 a3) := by
  induction a1 generalizing a2 a3 with
  | zero => rw [sendDoffs]; exact hc
  | succ n ih =>
    cases a2 with
    | nil => unfold sendDoffs; exact hc
    | cons => rw [sendDoffs]; repeat' first
      | with_reducible assumption | with_reducible exact sub_of hs rfl | (intro) | with_reducible apply ih
      | with_reducible apply sendTwine_does | with_reducible apply ite_does | with_reducible apply ite_fst_does | split
      | (extract_lets +onlyGivenNames y; first
          | (have hy : Does cs c y := ?_; clear_value y) | (have hy : Does cs c y.1 := ?_; clear_value y)
          | (have hy : Does cs c y.2 := ?_; clear_value y) | clear_value y)
      | with_reducible apply foldl_does | with_reducible apply foldl_fst_does | dsimp only

theorem relayAck_does {cs : List Part} {c : State} (s : State) (b : Bytes)
    (hs : [.objs, .ptp, .bob, .root] ⊆ cs) (hc : Does cs c s) :
    Does cs c (relayAck s b) := by
  unfold relayAck
  repeat' first
    | with_reducible assumption | with_reducible exact sub_of hs rfl | (intro) | with_reducible apply ackChannel_does
    | with_reducible apply sendDoffs_does | with_reducible apply State_setRoot_does | with_reducible apply ite_does
    | with_reducible apply ite_fst_does | split
    | (extract_lets +onlyGivenNames y; first
        | (have hy : Does cs c y := ?_; clear_value y) | (have hy : Does cs c y.1 := ?_; clear_value y)
        | (have hy : Does cs c y.2 := ?_; clear_value y) | clear_value y)
    | with_reducible apply each_does | dsimp only

theorem setActHub_does {cs : List Part} {c : State} (s : State) (hub : Nat) (f : ActHub → ActHub)
    (hs : [.root] ⊆ cs) (hc : Does cs c s) :
    Does cs c (setActHub s hub f) := by
  unfold setActHub
  repeat' first
    | with_reducible assumption | with_reducible exact sub_of hs rfl | (intro) | with_reducible apply State_setRoot_does
    | with_reducible apply ite_does | with_reducible apply ite_fst_does | split | dsimp only

theorem actBegin_does {cs : List Part} {c : State} (s : State) (b : Bytes)
    (hs : [.free, .objs, .ptp, .twine, .root] ⊆ cs) (hc : Does cs c s) :
    Does cs c (actBegin s b) := by
  unfold actBegin
  repeat' first
    | with_reducible assumption | with_reducible exact sub_of hs rfl | (intro) | with_reducible apply State_setRoot_does
    | with_reducible apply State_freshBytes_does | with_reducible apply setActHub_does | with_reducible apply mgmtRequest_does
    | (extract_lets +onlyGivenNames y; first
        | (have hy : Does cs c y := ?_; clear_value y) | (have hy : Does cs c y.1 := ?_; clear_value y)
        | (have hy : Does cs c y.2 := ?_; clear_value y) | clear_value y)
    | with_reducible apply each_does | dsimp only

theorem actCancel_does {cs : List Part} {c : State} (s : State) (h : ActHub)
    (hs : [.objs, .ptp, .twine, .root] ⊆ cs) (hc : Does cs c s) :
    Does cs c (actCancel s h) := by
  unfold actCancel
  repeat' first
    | with_reducible assumption | with_reducible exact sub_of hs rfl | (intro) | with_reducible apply mgmtRequest_does
    | with_reducible apply setActHub_does | dsimp only

theorem actArm_does {cs : List Part} {c : State} (s : State) (hs : [.log, .root] ⊆ cs) (hc : Does cs c s) :
    Does cs c (actArm s) := by
  unfold actArm
  repeat' first
    | with_reducible assumption | with_reducible exact sub_of hs rfl | (intro) | with_reducible apply State_ev_does
    | with_reducible apply State_setRoot_does | with_reducible apply ite_does | with_reducible apply ite_fst_does | split
    | dsimp only

theorem actResponse_does {cs : List Part} {c : State} (s : State) (o : Outstanding) (body : Bytes)
    (hs : [.objs, .log, .ptp, .twine, .root] ⊆ cs) (hc : Does cs c s) :
    Does cs c (actResponse s o body) := by
  unfold actResponse
  repeat' first
    | with_reducible assumption | with_reducible exact sub_of hs rfl | (intro) | with_reducible apply setActHub_does
    | with_reducible apply mgmtRequest_does | with_reducible apply actArm_does | with_reducible apply ite_does
    | with_reducible apply ite_fst_does | split
    | (extract_lets +onlyGivenNames y; first
        | (have hy : Does cs c y := ?_; clear_value y) | (have hy : Does cs c y.1 := ?_; clear_value y)
        | (have hy : Does cs c y.2 := ?_; clear_value y) | clear_value y)
    | dsimp only

theorem takeResponse_does {cs : List Part} {c : State} (f : Bytes) (s : State)
    (hs : [.objs, .log, .ptp, .twine, .root] ⊆ cs) (hc : Does cs c s) :
    Does cs c (takeResponse f s).1 := by
  unfold takeResponse
  repeat' first
    | with_reducible assumption | with_reducible exact sub_of hs rfl | exact (rfl : TwineState.violations _ = _) | (intro)
    | with_reducible apply State_bump_does | with_reducible apply actResponse_does | with_reducible apply ite_does
    | with_reducible apply ite_fst_does | split
    | (extract_lets +onlyGivenNames y; first
        | (have hy : Does cs c y := ?_; clear_value y) | (have hy : Does cs c y.1 := ?_; clear_value y)
        | (have hy : Does cs c y.2 := ?_; clear_value y) | (let z : TwineState := y; clear z) | clear_value y)
    | dsimp only | with_reducible apply twine_does

theorem actBoundary_does {cs : List Part} {c : State} (s : State) (t : Nat) (hs : [.root] ⊆ cs) (hc : Does cs c s) :
    Does cs c (actBoundary s t) := by
  unfold actBoundary
  repeat' first
    | with_reducible assumption | with_reducible exact sub_of hs rfl | (intro) | with_reducible apply State_setRoot_does
    | with_reducible apply ite_does | with_reducible apply ite_fst_does | split | dsimp only

theorem answered_does {cs : List Part} {c : State} (s : State) (k : Nat) (hub : Nat) (t : Nat)
    (hs : [.root] ⊆ cs) (hc : Does cs c s) :
    Does cs c (answered s k hub t) := by
  unfold answered
  repeat' first
    | with_reducible assumption | with_reducible exact sub_of hs rfl | (intro) | with_reducible apply State_setRoot_does
    | with_reducible apply ite_does | with_reducible apply ite_fst_does | split | dsimp only

theorem takeNak_does {cs : List Part} {c : State} (f : Bytes) (s : State)
    (hs : [.objs, .log, .ptp, .twine, .root] ⊆ cs) (hc : Does cs c s) :
    Does cs c (takeNak f s).1 := by
  unfold takeNak
  repeat' first
    | with_reducible assumption | with_reducible exact sub_of hs rfl | exact (rfl : TwineState.violations _ = _) | (intro)
    | with_reducible apply answered_does | with_reducible apply halveSlices_does | with_reducible apply ite_does
    | with_reducible apply ite_fst_does | split
    | (extract_lets +onlyGivenNames y; first
        | (have hy : Does cs c y := ?_; clear_value y) | (have hy : Does cs c y.1 := ?_; clear_value y)
        | (have hy : Does cs c y.2 := ?_; clear_value y) | (let z : TwineState := y; clear z) | clear_value y)
    | dsimp only | with_reducible apply twine_does

end Sys2Proof.Machine
end

