-- ==== Sys2Proof/Laws/Update.lean ====
section
/-! SUPPORT. What each operation of Machine/Update.lean does at most: the parts it changes, and what it keeps. -/

namespace Sys2Proof.Machine

set_option linter.all false

theorem manifestAccept_does {cs : List Part} {c : State} (s : State) (b : Bytes)
    (hs : [.objs, .log, .upd] ⊆ cs) (hc : Does cs c s) :
    Does cs c (manifestAccept s b) := by
  unfold manifestAccept
  repeat' first
    | with_reducible assumption | with_reducible exact sub_of hs rfl | (intro) | with_reducible apply State_ev_does
    | with_reducible apply State_put_does
    | (extract_lets +onlyGivenNames y; first
        | (have hy : Does cs c y := ?_; clear_value y) | (have hy : Does cs c y.1 := ?_; clear_value y)
        | (have hy : Does cs c y.2 := ?_; clear_value y) | (let z : UpdState := y; clear z) | clear_value y)
    | dsimp only | with_reducible apply upd_does

theorem payloadPiece_does {cs : List Part} {c : State} (s : State) (x : SegFields) (hs : [.objs, .upd] ⊆ cs) (hc : Does cs c s) :
    Does cs c (payloadPiece s x).1 := by
  unfold payloadPiece
  repeat' first
    | with_reducible assumption | with_reducible exact sub_of hs rfl | (intro) | with_reducible apply State_setUpd_does
    | with_reducible apply State_put_does | with_reducible apply ite_does | with_reducible apply ite_fst_does | split
    | (extract_lets +onlyGivenNames y; first
        | (have hy : Does cs c y := ?_; clear_value y) | (have hy : Does cs c y.1 := ?_; clear_value y)
        | (have hy : Does cs c y.2 := ?_; clear_value y) | clear_value y)
    | dsimp only

theorem payloadAccept_does {cs : List Part} {c : State} (s : State) (hs : [.objs, .nvm] ⊆ cs) (hc : Does cs c s) :
    Does cs c (payloadAccept s) := by
  unfold payloadAccept
  repeat' first
    | with_reducible assumption | with_reducible exact sub_of hs rfl | (intro)
    | exact OtpLe.of_eq rfl rfl rfl rfl rfl (Nat.le_refl _) | with_reducible exact setSlot_otp _ _ _
    | with_reducible exact failSlot_otp _ _ | with_reducible exact writeCopy_otp _ _ _ | with_reducible apply writePointer_otp
    | with_reducible exact OtpLe.refl _ | with_reducible apply State_put_does | with_reducible apply State_setNvm_does
    | (extract_lets +onlyGivenNames y; first
        | (have hy : Does cs c y := ?_; clear_value y) | (have hy : Does cs c y.1 := ?_; clear_value y)
        | (have hy : Does cs c y.2 := ?_; clear_value y) | clear_value y)
    | dsimp only

theorem beginGap_does {cs : List Part} {c : State} (s : State) (t : Nat)
    (hs : [.objs, .log, .samp, .ptp, .bob, .trig, .twine, .upd] ⊆ cs) (hc : Does cs c s) :
    Does cs c (beginGap s t) := by
  unfold beginGap
  repeat' first
    | with_reducible assumption | with_reducible exact sub_of hs rfl | (intro) | with_reducible apply wbAbort_does
    | with_reducible apply endInjections_does | with_reducible apply State_setUpd_does
    | (extract_lets +onlyGivenNames y; first
        | (have hy : Does cs c y := ?_; clear_value y) | (have hy : Does cs c y.1 := ?_; clear_value y)
        | (have hy : Does cs c y.2 := ?_; clear_value y) | (let z : TrigState := y; clear z) | clear_value y)
    | with_reducible apply foldl_does | dsimp only | with_reducible apply trig_does

theorem presetsChange_does {cs : List Part} {c : State} (s : State) (t : Nat) (x : Slot) (y' : Slot)
    (hs : [.objs, .samp] ⊆ cs) (hc : Does cs c s) :
    Does cs c (presetsChange s t x y') := by
  unfold presetsChange
  repeat' first
    | with_reducible assumption | with_reducible exact sub_of hs rfl | (intro) | with_reducible apply State_put_does
    | with_reducible apply enterChange_does | with_reducible apply ite_does | with_reducible apply ite_fst_does | split
    | with_reducible apply each_does | dsimp only

theorem activateAt_does {cs : List Part} {c : State} (s : State) (t : Nat)
    (hs : [.objs, .log, .samp, .cal, .dict, .ptp, .bob, .spin, .trig, .twine, .twin, .pwr, .nvm, .upd, .root, .host] ⊆ cs) (hc : Does cs c s) :
    Does cs c (activateAt s t) := by
  unfold activateAt
  repeat' first
    | with_reducible assumption | with_reducible exact sub_of hs rfl | (intro)
    | exact OtpLe.of_eq rfl rfl rfl rfl rfl (Nat.le_refl _) | with_reducible exact setSlot_otp _ _ _
    | with_reducible exact failSlot_otp _ _ | with_reducible exact writeCopy_otp _ _ _ | with_reducible apply writePointer_otp
    | with_reducible exact OtpLe.refl _ | with_reducible apply State_setNvm_does | with_reducible apply State_setUpd_does
    | with_reducible apply presetsChange_does | with_reducible apply State_evAt_does | with_reducible apply State_put_does
    | with_reducible apply beginGap_does | with_reducible apply coreRestartBegin_does | with_reducible apply ite_does
    | with_reducible apply ite_fst_does | split
    | (extract_lets +onlyGivenNames y; first
        | (have hy : Does cs c y := ?_; clear_value y) | (have hy : Does cs c y.1 := ?_; clear_value y)
        | (have hy : Does cs c y.2 := ?_; clear_value y) | clear_value y)
    | dsimp only

theorem resumeSampling_does {cs : List Part} {c : State} (s : State) (t : Nat)
    (hs : [.objs, .log, .samp, .draft, .bob, .twine, .upd] ⊆ cs) (hc : Does cs c s) :
    Does cs c (resumeSampling s t) := by
  unfold resumeSampling
  repeat' first
    | with_reducible assumption | with_reducible exact sub_of hs rfl | (intro) | with_reducible apply State_setUpd_does
    | with_reducible apply replanAll_does | with_reducible apply switchDriver_does | with_reducible apply bobGap_does
    | with_reducible apply ite_does | with_reducible apply ite_fst_does | split
    | (extract_lets +onlyGivenNames y; first
        | (have hy : Does cs c y := ?_; clear_value y) | (have hy : Does cs c y.1 := ?_; clear_value y)
        | (have hy : Does cs c y.2 := ?_; clear_value y) | (let z : SampState := y; clear z) | clear_value y)
    | with_reducible apply each_does | dsimp only | with_reducible apply samp_does

theorem healthBoundary_does {cs : List Part} {c : State} (s : State) (t : Nat) (hs : [.upd] ⊆ cs) (hc : Does cs c s) :
    Does cs c (healthBoundary s t) := by
  unfold healthBoundary
  repeat' first
    | with_reducible assumption | with_reducible exact sub_of hs rfl | (intro) | with_reducible apply State_setUpd_does
    | with_reducible apply ite_does | with_reducible apply ite_fst_does | split | dsimp only

theorem confirmUpdate_does {cs : List Part} {c : State} (s : State) (hs : [.objs, .log, .nvm, .upd] ⊆ cs) (hc : Does cs c s) :
    Does cs c (confirmUpdate s) := by
  unfold confirmUpdate
  repeat' first
    | with_reducible assumption | with_reducible exact sub_of hs rfl | (intro)
    | exact OtpLe.of_eq rfl rfl rfl rfl rfl (Nat.le_refl _) | with_reducible exact setSlot_otp _ _ _
    | with_reducible exact failSlot_otp _ _ | with_reducible exact writeCopy_otp _ _ _ | with_reducible apply writePointer_otp
    | with_reducible exact OtpLe.refl _ | with_reducible apply State_setNvm_does | with_reducible apply State_ev_does
    | with_reducible apply State_put_does
    | (extract_lets +onlyGivenNames y; first
        | (have hy : Does cs c y := ?_; clear_value y) | (have hy : Does cs c y.1 := ?_; clear_value y)
        | (have hy : Does cs c y.2 := ?_; clear_value y) | (let z : UpdState := y; clear z) | clear_value y)
    | dsimp only | with_reducible apply upd_does

theorem pointBack_does {cs : List Part} {c : State} (s : State) (hs : [.objs, .nvm] ⊆ cs) (hc : Does cs c s) :
    Does cs c (pointBack s) := by
  unfold pointBack
  repeat' first
    | with_reducible assumption | with_reducible exact sub_of hs rfl | (intro)
    | exact OtpLe.of_eq rfl rfl rfl rfl rfl (Nat.le_refl _) | with_reducible exact setSlot_otp _ _ _
    | with_reducible exact failSlot_otp _ _ | with_reducible exact writeCopy_otp _ _ _ | with_reducible apply writePointer_otp
    | with_reducible exact OtpLe.refl _ | with_reducible apply State_setNvm_does | with_reducible apply State_put_does
    | with_reducible apply State_bump_does
    | (extract_lets +onlyGivenNames y; first
        | (have hy : Does cs c y := ?_; clear_value y) | (have hy : Does cs c y.1 := ?_; clear_value y)
        | (have hy : Does cs c y.2 := ?_; clear_value y) | clear_value y)
    | dsimp only

theorem rollback_does {cs : List Part} {c : State} (s : State) (t : Nat) (announced : Bool)
    (hs : [.objs, .log, .samp, .cal, .dict, .ptp, .bob, .spin, .trig, .twine, .twin, .pwr, .nvm, .upd, .root, .host] ⊆ cs) (hc : Does cs c s) :
    Does cs c (rollback s t announced) := by
  unfold rollback
  repeat' first
    | with_reducible assumption | with_reducible exact sub_of hs rfl | (intro) | with_reducible apply presetsChange_does
    | with_reducible apply State_evAt_does | with_reducible apply pointBack_does | with_reducible apply beginGap_does
    | with_reducible apply coreRestartBegin_does | with_reducible apply ite_does | with_reducible apply ite_fst_does | split
    | (extract_lets +onlyGivenNames y; first
        | (have hy : Does cs c y := ?_; clear_value y) | (have hy : Does cs c y.1 := ?_; clear_value y)
        | (have hy : Does cs c y.2 := ?_; clear_value y) | clear_value y)
    | dsimp only

theorem bootTrial_does {cs : List Part} {c : State} (s : State) (hs : [.objs, .log, .nvm] ⊆ cs) (hc : Does cs c s) :
    Does cs c (bootTrial s) := by
  unfold bootTrial
  repeat' first
    | with_reducible assumption | with_reducible exact sub_of hs rfl | (intro)
    | exact OtpLe.of_eq rfl rfl rfl rfl rfl (Nat.le_refl _) | with_reducible exact setSlot_otp _ _ _
    | with_reducible exact failSlot_otp _ _ | with_reducible exact writeCopy_otp _ _ _ | with_reducible apply writePointer_otp
    | with_reducible exact OtpLe.refl _ | with_reducible apply State_ev_does | with_reducible apply pointBack_does
    | with_reducible apply State_setNvm_does | with_reducible apply ite_does | with_reducible apply ite_fst_does | split
    | (extract_lets +onlyGivenNames y; first
        | (have hy : Does cs c y := ?_; clear_value y) | (have hy : Does cs c y.1 := ?_; clear_value y)
        | (have hy : Does cs c y.2 := ?_; clear_value y) | clear_value y)
    | dsimp only

theorem activateArm_does {cs : List Part} {c : State} (s : State) (hs : [.objs, .log] ⊆ cs) (hc : Does cs c s) :
    Does cs c (activateArm s) := by
  unfold activateArm
  repeat' first
    | with_reducible assumption | with_reducible exact sub_of hs rfl | (intro) | with_reducible apply State_ev_does
    | with_reducible apply State_put_does | dsimp only

theorem updAbortNow_does {cs : List Part} {c : State} (s : State) (hs : [.objs, .upd] ⊆ cs) (hc : Does cs c s) :
    Does cs c (updAbortNow s) := by
  unfold updAbortNow
  repeat' first
    | with_reducible assumption | with_reducible exact sub_of hs rfl | (intro) | with_reducible apply State_put_does | dsimp only
    | with_reducible apply upd_does

theorem revokeKey_does {cs : List Part} {c : State} (s : State) (k : Nat) (hs : [.log, .nvm] ⊆ cs) (hc : Does cs c s) :
    Does cs c (revokeKey s k) := by
  unfold revokeKey
  have h0 : OtpLe s.nvm { s.nvm with revoked0 := true } := ⟨fun _ => rfl, id, fun _ h => h, fun _ h => h, Nat.le_refl _, Nat.le_refl _⟩
  have h1 : OtpLe s.nvm { s.nvm with revoked1 := true } := ⟨id, fun _ => rfl, fun _ h => h, fun _ h => h, Nat.le_refl _, Nat.le_refl _⟩
  have hk : OtpLe s.nvm (if Nat.beq k 0 then { s.nvm with revoked0 := true } else { s.nvm with revoked1 := true }) := by split <;> assumption
  refine State_ev_does _ _ _ _ (sub_of hs rfl) (setNvm_does (sub_of hs rfl) _ ?_ hc)
  generalize (if Nat.beq k 0 then { s.nvm with revoked0 := true } else { s.nvm with revoked1 := true }) = n at hk ⊢
  split
  · exact writePointer_otp _ _ (hk.trans (failSlot_otp _ _))
  · exact hk

theorem programKey_does {cs : List Part} {c : State} (s : State) (k : Nat) (h : Bytes) (hs : [.log, .nvm] ⊆ cs) (hc : Does cs c s) :
    Does cs c (programKey s k h) := by
  unfold programKey
  split
  · exact hc
  · rename_i h
    refine State_ev_does _ _ _ _ (sub_of hs rfl) (State_setNvm_does _ _ ?_ (sub_of hs rfl) hc)
    unfold NvmState.keyHash at h
    split
    · rename_i g
      rw [if_pos g] at h
      exact ⟨id, id, fun x e => by simp [e] at h, fun _ e => e, Nat.le_refl _, Nat.le_refl _⟩
    · rename_i g
      rw [if_neg g] at h
      exact ⟨id, id, fun _ e => e, fun x e => by simp [e] at h, Nat.le_refl _, Nat.le_refl _⟩

theorem sessionKeyAt_does {cs : List Part} {c : State} (s : State) (root : Bool) (k : Bytes)
    (hs : [.dict, .nvm] ⊆ cs) (hc : Does cs c s) :
    Does cs c (sessionKeyAt s root k) := by
  unfold sessionKeyAt
  repeat' first
    | with_reducible assumption | with_reducible exact sub_of hs rfl | exact Nat.le_refl _ | exact List.length_filter_le _ _
    | (intro) | exact OtpLe.of_eq rfl rfl rfl rfl rfl (Nat.le_refl _) | with_reducible exact setSlot_otp _ _ _
    | with_reducible exact failSlot_otp _ _ | with_reducible exact writeCopy_otp _ _ _ | with_reducible apply writePointer_otp
    | with_reducible exact OtpLe.refl _ | with_reducible apply State_setNvm_does | with_reducible apply ite_does
    | with_reducible apply ite_fst_does | split
    | (extract_lets +onlyGivenNames y; first
        | (have hy : Does cs c y := ?_; clear_value y) | (have hy : Does cs c y.1 := ?_; clear_value y)
        | (have hy : Does cs c y.2 := ?_; clear_value y) | (let z : DictState := y; clear z) | clear_value y)
    | dsimp only | with_reducible apply dict_does

theorem lcChange_does {cs : List Part} {c : State} (s : State) (v : Nat) (hs : [.log, .pwr, .nvm] ⊆ cs) (hc : Does cs c s) :
    Does cs c (lcChange s v) := by
  unfold lcChange
  extract_lets +onlyGivenNames n
  split
  · exact hc
  · rename_i g
    have hl : lcRank s.nvm.lc ≤ lcRank n := by
      rw [Bool.not_eq_true', Bool.not_eq_false] at g
      obtain ⟨x, hx, g⟩ := List.any_eq_true.1 g
      rw [Bool.and_eq_true] at g
      rw [← Nat.eq_of_beq_eq_true g.1, ← Nat.eq_of_beq_eq_true g.2]
      exact (by decide : ∀ x ∈ lcTransitions, lcRank x.1 ≤ lcRank x.2.1) x hx
    extract_lets s1 s2
    have h1 : Does cs c s1 := State_setNvm_does _ _ ⟨id, id, fun _ h => h, fun _ h => h, hl, Nat.le_succ _⟩ (sub_of hs rfl) hc
    have h2 : Does cs c s2 := by
      dsimp only [s2]
      split
      · exact State_setNvm_does _ _ (.of_eq rfl rfl rfl rfl rfl (Nat.le_refl _)) (sub_of hs rfl) h1
      · exact h1
    exact State_setPwr_does _ _ (sub_of hs rfl) (State_ev_does _ _ _ _ (sub_of hs rfl) h2)

end Sys2Proof.Machine
end

