-- ==== Sys2Proof/Laws/Apply.lean ====
section
/-! SUPPORT. What each operation of Machine/Apply.lean does at most: the parts it changes, and what it keeps. -/

namespace Sys2Proof.Machine

set_option linter.all false

theorem logWrite_does {cs : List Part} {c : State} (t : Nat) (s : State) (w : PendWrite) (hs : [.log] ⊆ cs) (hc : Does cs c s) :
    Does cs c (logWrite t s w) := by
  unfold logWrite
  repeat' first
    | with_reducible assumption | with_reducible exact sub_of hs rfl | (intro) | with_reducible apply State_evAt_does
    | with_reducible apply ite_does | with_reducible apply ite_fst_does | split | dsimp only

theorem putWrite_does {cs : List Part} {c : State} (t : Nat) (s : State) (w : PendWrite)
    (hs : [.objs, .log] ⊆ cs) (hc : Does cs c s) :
    Does cs c (putWrite t s w) := by
  unfold putWrite
  repeat' first
    | with_reducible assumption | with_reducible exact sub_of hs rfl | (intro) | with_reducible apply logWrite_does
    | with_reducible apply State_putK_does | with_reducible apply ite_does | with_reducible apply ite_fst_does | split | dsimp only

theorem excHook_does {cs : List Part} {c : State} (before : Store) (t : Nat) (keys : List Nat) (s : State) (k : Nat)
    (hs : [.objs, .samp] ⊆ cs) (hc : Does cs c s) :
    Does cs c (excHook before t keys s k) := by
  unfold excHook
  repeat' first
    | with_reducible assumption | with_reducible exact sub_of hs rfl | (intro) | with_reducible apply refillHolds_does
    | with_reducible apply excWritten_does | with_reducible apply ite_does | with_reducible apply ite_fst_does | split
    | (extract_lets +onlyGivenNames y; first
        | (have hy : Does cs c y := ?_; clear_value y) | (have hy : Does cs c y.1 := ?_; clear_value y)
        | (have hy : Does cs c y.2 := ?_; clear_value y) | clear_value y)
    | dsimp only

theorem forgetCodes_does {cs : List Part} {c : State} (s : State) (c' : Nat) (hs : [.samp] ⊆ cs) (hc : Does cs c s) :
    Does cs c (forgetCodes s c') := by
  unfold forgetCodes
  repeat' first
    | with_reducible assumption | with_reducible exact sub_of hs rfl | (intro) | dsimp only | with_reducible apply samp_does

theorem seqHook_does {cs : List Part} {c : State} (t : Nat) (keys : List Nat) (s : State) (c' : Nat)
    (hs : [.objs, .log, .samp, .ptp, .bob, .twine] ⊆ cs) (hc : Does cs c s) :
    Does cs c (seqHook t keys s c') := by
  unfold seqHook
  repeat' first
    | with_reducible assumption | with_reducible exact sub_of hs rfl | (intro) | with_reducible apply forgetCodes_does
    | with_reducible apply State_put_does | with_reducible apply finishInj_does | with_reducible apply endRun_does
    | with_reducible apply wbAbort_does | with_reducible apply ite_does | with_reducible apply ite_fst_does | split
    | (extract_lets +onlyGivenNames y; first
        | (have hy : Does cs c y := ?_; clear_value y) | (have hy : Does cs c y.1 := ?_; clear_value y)
        | (have hy : Does cs c y.2 := ?_; clear_value y) | clear_value y)
    | dsimp only

theorem pairHook_does {cs : List Part} {c : State} (before : Store) (t : Nat) (keys : List Nat) (s : State) (m : Nat)
    (hs : [.objs, .samp] ⊆ cs) (hc : Does cs c s) :
    Does cs c (pairHook before t keys s m) := by
  unfold pairHook
  repeat' first
    | with_reducible assumption | with_reducible exact sub_of hs rfl | (intro) | with_reducible apply forgetCodes_does
    | with_reducible apply State_put_does | with_reducible apply ite_does | with_reducible apply ite_fst_does | split
    | (extract_lets +onlyGivenNames y; first
        | (have hy : Does cs c y := ?_; clear_value y) | (have hy : Does cs c y.1 := ?_; clear_value y)
        | (have hy : Does cs c y.2 := ?_; clear_value y) | clear_value y)
    | dsimp only

theorem watchHook_does {cs : List Part} {c : State} (before : Store) (t : Nat) (keys : List Nat) (s : State) (k : Nat)
    (hs : [.samp, .trig] ⊆ cs) (hc : Does cs c s) :
    Does cs c (watchHook before t keys s k) := by
  unfold watchHook
  repeat' first
    | with_reducible assumption | with_reducible exact sub_of hs rfl | (intro) | with_reducible apply State_setCreel_does
    | with_reducible apply ite_does | with_reducible apply ite_fst_does | split
    | (extract_lets +onlyGivenNames y; first
        | (have hy : Does cs c y := ?_; clear_value y) | (have hy : Does cs c y.1 := ?_; clear_value y)
        | (have hy : Does cs c y.2 := ?_; clear_value y) | (let z : TrigState := y; clear z) | clear_value y)
    | dsimp only | with_reducible apply trig_does

theorem unitHook_does {cs : List Part} {c : State} (t : Nat) (keys : List Nat) (s : State) (u : Nat)
    (hs : [.trig] ⊆ cs) (hc : Does cs c s) :
    Does cs c (unitHook t keys s u) := by
  unfold unitHook
  repeat' first
    | with_reducible assumption | with_reducible exact sub_of hs rfl | (intro) | with_reducible apply State_setUnit_does
    | with_reducible apply ite_does | with_reducible apply ite_fst_does | split | dsimp only

theorem refreshUsable_does {cs : List Part} {c : State} (s : State) (hs : [.objs, .bob] ⊆ cs) (hc : Does cs c s) :
    Does cs c (refreshUsable s) := by
  unfold refreshUsable
  repeat' first
    | with_reducible assumption | with_reducible exact sub_of hs rfl | (intro) | with_reducible apply State_put_does
    | with_reducible apply shrinkBobbin_does
    | (extract_lets +onlyGivenNames y; first
        | (have hy : Does cs c y := ?_; clear_value y) | (have hy : Does cs c y.1 := ?_; clear_value y)
        | (have hy : Does cs c y.2 := ?_; clear_value y) | (let z : BobbinState := y; clear z) | clear_value y)
    | with_reducible apply each_does | dsimp only | with_reducible apply bob_does

theorem userSetHook_does {cs : List Part} {c : State} (t : Nat) (s : State) (key : Nat)
    (hs : [.objs, .log, .cal] ⊆ cs) (hc : Does cs c s) :
    Does cs c (userSetHook t s key) := by
  unfold userSetHook
  repeat' first
    | with_reducible assumption | with_reducible exact sub_of hs rfl | (intro) | with_reducible apply calSetChanged_does
    | with_reducible apply ite_does | with_reducible apply ite_fst_does | split | dsimp only

theorem hubHook_does {cs : List Part} {c : State} (before : Store) (t : Nat) (s : State) (key : Nat)
    (hs : [.now, .free, .objs, .log, .samp, .cal, .time, .ptp, .lanes, .bob, .trig, .twine, .twin, .dram, .pwr, .root] ⊆ cs) (hc : Does cs c s) :
    Does cs c (hubHook before t s key) := by
  unfold hubHook
  repeat' first
    | with_reducible assumption | with_reducible exact sub_of hs rfl | exact Nat.le_refl _
    | exact (rfl : TwineState.violations _ = _)
    | (refine fun (p : Part) hp => ?_; cases p <;> first | exact absurd (mem_of hs _ rfl) hp | exact rfl) | (intro)
    | with_reducible apply srcMapChanged_does | with_reducible apply twinEnableWritten_does | with_reducible apply evalStages_does
    | with_reducible apply domainChanged_does | with_reducible apply dramSpeedChanged_does | with_reducible apply State_put_does
    | with_reducible apply pmbusListed_does | with_reducible apply selectGm_does | with_reducible apply refreshUsable_does
    | with_reducible apply trunkReader_does | with_reducible apply laneAdminWritten_does | with_reducible apply maxSpeedWritten_does
    | with_reducible apply laneTestWritten_does | with_reducible apply ite_does | with_reducible apply ite_fst_does | split
    | (extract_lets +onlyGivenNames y; first
        | (have hy : Does cs c y := ?_; clear_value y) | (have hy : Does cs c y.1 := ?_; clear_value y)
        | (have hy : Does cs c y.2 := ?_; clear_value y) | (let z : CalState := y; clear z) | (let z : TimeState := y; clear z)
        | clear_value y)
    | dsimp only | with_reducible apply cal_does | with_reducible apply time_does | with_reducible refine does_mk ?_ ?_ ?_ ?_

theorem pathHook_does {cs : List Part} {c : State} (before : Store) (t : Nat) (s : State) (key : Nat)
    (hs : [.objs, .log, .cal, .ptp, .bob, .spin, .trig, .twine, .dram] ⊆ cs) (hc : Does cs c s) :
    Does cs c (pathHook before t s key) := by
  unfold pathHook
  repeat' first
    | with_reducible assumption | with_reducible exact sub_of hs rfl | (intro) | with_reducible apply redSelectWritten_does
    | with_reducible apply redProfileWritten_does | with_reducible apply bobbinModeChanged_does | with_reducible apply closeAll_does
    | with_reducible apply shrinkBobbin_does | with_reducible apply reelModeChanged_does | with_reducible apply State_setMask_does
    | with_reducible apply userSetHook_does | with_reducible apply ite_does | with_reducible apply ite_fst_does | split
    | (extract_lets +onlyGivenNames y; first
        | (have hy : Does cs c y := ?_; clear_value y) | (have hy : Does cs c y.1 := ?_; clear_value y)
        | (have hy : Does cs c y.2 := ?_; clear_value y) | (let z : DramState := y; clear z) | clear_value y)
    | dsimp only | with_reducible apply dram_does

theorem captureHook_does {cs : List Part} {c : State} (t : Nat) (old : Map Plan) (s : State) (ch : Nat)
    (hs : [.free, .objs, .ptp, .trig, .twine] ⊆ cs) (hc : Does cs c s) :
    Does cs c (captureHook t old s ch) := by
  unfold captureHook
  repeat' first
    | with_reducible assumption | with_reducible exact sub_of hs rfl | (intro) | with_reducible apply endCaptures_does
    | with_reducible apply ite_does | with_reducible apply ite_fst_does | split | dsimp only

theorem planHook_does {cs : List Part} {c : State} (t : Nat) (keys : List Nat) (force : Nat → Bool) (s : State)
    (hs : [.free, .objs, .samp, .draft, .ptp, .trig, .twine] ⊆ cs) (hc : Does cs c s) :
    Does cs c (planHook t keys force s) := by
  unfold planHook
  repeat' first
    | with_reducible assumption | with_reducible exact sub_of hs rfl | (intro) | with_reducible apply replanAll_does
    | with_reducible apply captureHook_does | with_reducible apply ite_does | with_reducible apply ite_fst_does | split
    | (extract_lets +onlyGivenNames y; first
        | (have hy : Does cs c y := ?_; clear_value y) | (have hy : Does cs c y.1 := ?_; clear_value y)
        | (have hy : Does cs c y.2 := ?_; clear_value y) | clear_value y)
    | with_reducible apply each_does | dsimp only

theorem refreshRearm_does {cs : List Part} {c : State} (s : State) (r : Nat) (hs : [.objs] ⊆ cs) (hc : Does cs c s) :
    Does cs c (refreshRearm s r) := by
  unfold refreshRearm
  repeat' first
    | with_reducible assumption | with_reducible exact sub_of hs rfl | (intro) | with_reducible apply State_put_does
    | with_reducible apply ite_does | with_reducible apply ite_fst_does | split | dsimp only

theorem settingHooks_does {cs : List Part} {c : State} (before : Store) (t : Nat) (keys : List Nat) (force : Nat → Bool) (clears : Bool) (s : State)
    (hs : [.now, .free, .objs, .log, .samp, .draft, .cal, .time, .ptp, .lanes, .bob, .spin, .trig, .twine, .twin, .dram, .pwr, .root] ⊆ cs) (hc : Does cs c s) :
    Does cs c (settingHooks before t keys force clears s) := by
  unfold settingHooks
  extract_lets w s0 s1 s2 s3 s4 s5 s6 s7 s8 s9 s10 s11
  have h0 : Does cs c s0 := notePast_does _ _ _ _ (sub_of hs rfl) hc
  have h1 : Does cs c s1 := ite_does (each_does _ _ _ (fun _ _ h => excHook_does _ _ _ _ _ (sub_of hs rfl) h) h0) h0
  have h2 : Does cs c s2 := each_does _ _ _ (fun _ _ h => hubHook_does _ _ _ _ (sub_of hs rfl) h) h1
  have h3 : Does cs c s3 := each_does _ _ _ (fun _ _ h => pathHook_does _ _ _ _ (sub_of hs rfl) h) h2
  have h4 : Does cs c s4 := ite_does (each_does _ _ _ (fun _ _ h => seqHook_does _ _ _ _ (sub_of hs rfl) h) h3) h3
  have h5 : Does cs c s5 := ite_does (each_does _ _ _ (fun _ _ h => wbPrune_does _ _ _ (sub_of hs rfl) h) h4) h4
  have h6 : Does cs c s6 := ite_does (each_does _ _ _ (fun _ _ h => pairHook_does _ _ _ _ _ (sub_of hs rfl) h) h5) h5
  have h7 : Does cs c s7 := ite_does (each_does _ _ _ (fun _ _ h => watchHook_does _ _ _ _ _ (sub_of hs rfl) h) h6) h6
  have h8 : Does cs c s8 := ite_does (each_does _ _ _ (fun _ _ h => unitHook_does _ _ _ _ (sub_of hs rfl) h) h7) h7
  have h9 : Does cs c s9 := ite_does (each_does _ _ _ (fun _ _ h => refillHolds_does _ _ _ (sub_of hs rfl)
    (refreshBuffers_does _ _ _ (sub_of hs rfl) h)) h8) h8
  have h10 : Does cs c s10 := ite_does (planHook_does _ _ _ _ (sub_of hs rfl) h9) h9
  have h11 : Does cs c s11 := ite_does (each_does _ _ _ (fun _ _ h => releaseDelay_does _ _ _ (sub_of hs rfl) h) h10) h10
  exact ite_does (each_does _ _ _ (fun _ _ h => refreshRearm_does _ _ (sub_of hs rfl) h) h11) h11

theorem hubCommand_does {cs : List Part} {c : State} (t : Nat) (w : PendWrite) (s : State)
    (hs : [.objs, .log, .samp, .draft, .cal, .dict, .time, .ptp, .lanes, .bob, .spin, .trig, .twine, .twin, .pwr, .nvm, .upd, .root, .host] ⊆ cs) (hc : Does cs c s) :
    Does cs c (hubCommand t w s) := by
  unfold hubCommand
  repeat' first
    | with_reducible assumption | with_reducible exact sub_of hs rfl | exact Nat.le_refl _ | exact List.length_filter_le _ _
    | (intro) | with_reducible apply State_setPwr_does | with_reducible apply coreRestartBegin_does
    | with_reducible apply portResetNow_does | with_reducible apply reepochAccept_does | with_reducible apply syncRequest_does
    | with_reducible apply calStartAt_does | with_reducible apply switchOverAt_does | with_reducible apply activateAt_does
    | with_reducible apply confirmUpdate_does | with_reducible apply rollback_does | with_reducible apply updAbortNow_does
    | with_reducible apply ite_does | with_reducible apply ite_fst_does | split
    | (extract_lets +onlyGivenNames y; first
        | (have hy : Does cs c y := ?_; clear_value y) | (have hy : Does cs c y.1 := ?_; clear_value y)
        | (have hy : Does cs c y.2 := ?_; clear_value y) | (let z : DictState := y; clear z) | clear_value y)
    | dsimp only | with_reducible apply dict_does

theorem hubRequest_does {cs : List Part} {c : State} (t : Nat) (w : PendWrite) (s : State)
    (hs : [.free, .objs, .log, .samp, .draft, .cal, .dict, .time, .ptp, .lanes, .bob, .spin, .trig, .twine, .twin, .pwr, .nvm, .upd, .root, .host] ⊆ cs) (hc : Does cs c s) :
    Does cs c (hubRequest t w s) := by
  unfold hubRequest
  repeat' first
    | with_reducible assumption | with_reducible exact sub_of hs rfl | (intro) | with_reducible apply windowBegin_does
    | with_reducible apply relayAck_does | with_reducible apply queryBegin_does | with_reducible apply retroAbort_does
    | with_reducible apply retroBegin_does | with_reducible apply actBegin_does | with_reducible apply manifestAccept_does
    | with_reducible apply payloadAccept_does | with_reducible apply revokeKey_does | with_reducible apply programKey_does
    | with_reducible apply sessionKeyAt_does | with_reducible apply lcChange_does | with_reducible apply hubCommand_does
    | with_reducible apply ite_does | with_reducible apply ite_fst_does | split
    | (extract_lets +onlyGivenNames y; first
        | (have hy : Does cs c y := ?_; clear_value y) | (have hy : Does cs c y.1 := ?_; clear_value y)
        | (have hy : Does cs c y.2 := ?_; clear_value y) | clear_value y)
    | dsimp only

theorem injStartAt_does {cs : List Part} {c : State} (t : Nat) (c' : Nat) (timed : Bool) (s : State)
    (hs : [.objs, .log, .samp] ⊆ cs) (hc : Does cs c s) :
    Does cs c (injStartAt t c' timed s) := by
  unfold injStartAt
  repeat' first
    | with_reducible assumption | with_reducible exact sub_of hs rfl | (intro) | with_reducible apply injRequest_does
    | with_reducible apply ite_does | with_reducible apply ite_fst_does | split | dsimp only

theorem commandAction_does {cs : List Part} {c : State} (t : Nat) (s : State) (w : PendWrite)
    (hs : [.now, .free, .objs, .log, .samp, .draft, .cal, .dict, .time, .ptp, .lanes, .bob, .spin, .trig, .twine, .twin, .pwr, .nvm, .upd, .root, .host] ⊆ cs) (hc : Does cs c s) :
    Does cs c (commandAction t s w) := by
  unfold commandAction
  repeat' first
    | with_reducible assumption | with_reducible exact sub_of hs rfl | (intro) | with_reducible apply injStartAt_does
    | with_reducible apply reelArmed_does | with_reducible apply releaseReel_does | with_reducible apply discardBobbin_does
    | with_reducible apply laneStepWritten_does | with_reducible apply hubRequest_does | with_reducible apply ite_does
    | with_reducible apply ite_fst_does | split
    | (extract_lets +onlyGivenNames y; first
        | (have hy : Does cs c y := ?_; clear_value y) | (have hy : Does cs c y.1 := ?_; clear_value y)
        | (have hy : Does cs c y.2 := ?_; clear_value y) | clear_value y)
    | dsimp only

theorem applyWrites_does {cs : List Part} {c : State} (t : Nat) (ws : List PendWrite) (s : State)
    (hs : [.now, .free, .objs, .log, .samp, .draft, .cal, .dict, .time, .ptp, .lanes, .bob, .spin, .trig, .twine, .twin, .dram, .pwr, .nvm, .upd, .root, .host] ⊆ cs) (hc : Does cs c s) :
    Does cs c (applyWrites t ws s) := by
  unfold applyWrites
  repeat' first
    | with_reducible assumption | with_reducible exact sub_of hs rfl | (intro) | with_reducible apply putWrite_does
    | with_reducible apply settingHooks_does | with_reducible apply commandAction_does | with_reducible apply ite_does
    | with_reducible apply ite_fst_does | split
    | (extract_lets +onlyGivenNames y; first
        | (have hy : Does cs c y := ?_; clear_value y) | (have hy : Does cs c y.1 := ?_; clear_value y)
        | (have hy : Does cs c y.2 := ?_; clear_value y) | clear_value y)
    | with_reducible apply each_does | dsimp only

end Sys2Proof.Machine
end

