-- ==== Sys2Proof/Laws/Read.lean ====
section
/-! SUPPORT. What each operation of Machine/Read.lean does at most: the parts it changes, and what it keeps. -/

namespace Sys2Proof.Machine

set_option linter.all false

theorem beforeRead_does {cs : List Part} {c : State} (s : State) (key : Nat) (hs : [.free, .objs] ⊆ cs) (hc : Does cs c s) :
    Does cs c (beforeRead s key) := by
  unfold beforeRead
  repeat' first
    | with_reducible assumption | with_reducible exact sub_of hs rfl | (intro) | with_reducible apply sampleChecker_does
    | with_reducible apply State_freshNat_does | with_reducible apply State_put_does | with_reducible apply ite_does
    | with_reducible apply ite_fst_does | split
    | (extract_lets +onlyGivenNames y; first
        | (have hy : Does cs c y := ?_; clear_value y) | (have hy : Does cs c y.1 := ?_; clear_value y)
        | (have hy : Does cs c y.2 := ?_; clear_value y) | clear_value y)
    | dsimp only

theorem afterRead_does {cs : List Part} {c : State} (s : State) (key : Nat) (hs : [.draft] ⊆ cs) (hc : Does cs c s) :
    Does cs c (afterRead s key) := by
  unfold afterRead
  repeat' first
    | with_reducible assumption | with_reducible exact sub_of hs rfl | (intro) | split | dsimp only
    | with_reducible apply draft_does

end Sys2Proof.Machine
end

