-- ==== Sys2Proof/Laws/Dict.lean ====
section
/-! SUPPORT. What each operation of Machine/Dict.lean does at most: the parts it changes, and what it keeps. -/

namespace Sys2Proof.Machine

set_option linter.all false

theorem acceptHook_does {cs : List Part} {c : State} (timed : Option Nat) (s : State) (w : PendWrite)
    (hs : [.objs, .log, .time] ⊆ cs) (hc : Does cs c s) :
    Does cs c (acceptHook timed s w) := by
  unfold acceptHook
  repeat' first
    | with_reducible assumption | with_reducible exact sub_of hs rfl | (intro) | with_reducible apply activateArm_does
    | with_reducible apply reepochAccept_does | with_reducible apply ite_does | with_reducible apply ite_fst_does | split
    | dsimp only

/-- Accepting writes keeps the count of pending writes when R340's count of them does. -/
theorem accept_count (s : State) (timed : Option Nat) (news : List NewWrite) (hp : pendWf s)
    (hf : news.any (fun n => waitsFor n.d timed) = true → pendingAfter s news timed ≤ 256)
    (f : NewWrite × Nat → Bool × PendWrite) (h : ∀ x, (f x).1 = waitsFor x.1.d timed) :
    (s.dict.pend.filter (fun w => !replacedBy s timed news w) ++ (((news.zipIdx.map f).filter (·.1)).map (·.2))).length ≤ 256 := by
  have zl : (news.zipIdx.map f).length = news.length := by rw [List.length_map, List.length_zipIdx]
  by_cases any : news.any (fun n => waitsFor n.d timed) = true
  · refine Nat.le_trans ?_ (hf any)
    rw [List.length_append, List.length_map]
    exact Nat.add_le_add (Nat.le_refl _) (Nat.le_trans (List.length_filter_le _ _) (Nat.le_of_eq zl))
  · have none : (news.zipIdx.map f).filter (·.1) = [] := by
      rw [List.filter_eq_nil_iff]
      intro x hx g
      obtain ⟨y, hy, rfl⟩ := List.mem_map.1 hx
      exact any (List.any_eq_true.2 ⟨y.1, by simp [(List.mem_zipIdx' hy).2], h y ▸ g⟩)
    rw [none]
    rw [List.map_nil, List.append_nil]
    exact Nat.le_trans (List.length_filter_le _ _) hp

theorem acceptWrites_does {cs : List Part} {c : State} (s : State) (p : Principal) (timed : Option Nat) (batch : Nat) (news : List NewWrite) (hf : news.any (fun n => waitsFor n.d timed) = true → pendingAfter s news timed ≤ 256)
    (hs : [.now, .free, .objs, .log, .samp, .draft, .cal, .dict, .time, .ptp, .lanes, .bob, .spin, .trig, .twine, .twin, .dram, .pwr, .nvm, .upd, .root, .host] ⊆ cs) (hc : Does cs c s) :
    Does cs c (acceptWrites s p timed batch news) := by
  unfold acceptWrites
  extract_lets mk ws waiting gone pend d s1 s2 s3
  have h1 : Does cs c s1 := pend_does (sub_of hs rfl) (fun hp => accept_count s timed news hp hf _ (fun _ => rfl)) hc
  have h2 : Does cs c s2 := foldl_does _ _ _ (fun _ _ h => logWrite_does _ _ _ (sub_of hs rfl) h) h1
  have h3 : Does cs c s3 := foldl_does _ _ _ (fun _ _ h => acceptHook_does _ _ _ (sub_of hs rfl) h) h2
  exact applyWrites_does _ _ _ (sub_of hs rfl) h3

/-- What R340's count says when step 8 passes. -/
theorem stepEight_pending {s : State} {news : List NewWrite} {te : Nat} {timed : Option Nat} (h : stepEight s news te timed true = 0) :
    pendingAfter s news timed ≤ 256 := by
  unfold stepEight firstAbort at h
  rw [List.find?_cons] at h
  by_cases g : Nat.blt 256 (pendingAfter s news timed) = true
  · rw [g] at h
    exact absurd h (fun e => by cases e)
  · exact Nat.le_of_not_lt (fun l => g (by simpa [Nat.blt_eq] using l))

theorem writeValue_does {cs : List Part} {c : State} (s : State) (p : Principal) (timed : Option Nat) (d : ObjDef) (key : Nat) (b : Bytes) (expedited : Bool)
    (hs : [.now, .free, .objs, .log, .samp, .draft, .cal, .dict, .time, .ptp, .lanes, .bob, .spin, .trig, .twine, .twin, .dram, .pwr, .nvm, .upd, .root, .host] ⊆ cs) (hc : Does cs c s) :
    Does cs c (writeValue s p timed d key b expedited).1 := by
  unfold writeValue
  extract_lets n te x a
  split
  · exact hc
  · rename_i h
    refine acceptWrites_does _ _ _ _ _ (fun hw => ?_) (sub_of hs rfl) hc
    have ha : a = 0 := Decidable.byContradiction h
    unfold a at ha
    split at ha
    · rename_i g; exact absurd ha g
    · split at ha
      · rename_i g; exact absurd ha g
      · have : waitsFor d timed = true := by simpa [n] using hw
        rw [this] at ha
        exact stepEight_pending ha

theorem opWrite_does {cs : List Part} {c : State} (s : State) (q : Req) (idx : Nat) (sub : Nat)
    (hs : [.now, .free, .objs, .log, .samp, .draft, .cal, .dict, .time, .ptp, .lanes, .bob, .spin, .trig, .twine, .twin, .dram, .pwr, .nvm, .upd, .root, .host] ⊆ cs) (hc : Does cs c s) :
    Does cs c (opWrite s q idx sub).1 := by
  unfold opWrite
  repeat' first
    | with_reducible assumption | with_reducible exact sub_of hs rfl | (intro) | with_reducible apply writeValue_does | split
    | dsimp only

theorem opRead_does {cs : List Part} {c : State} (s : State) (q : Req) (idx : Nat) (sub : Nat)
    (hs : [.free, .objs, .draft] ⊆ cs) (hc : Does cs c s) :
    Does cs c (opRead s q idx sub).1 := by
  unfold opRead
  repeat' first
    | with_reducible assumption | with_reducible exact sub_of hs rfl | (intro) | with_reducible apply beforeRead_does
    | with_reducible apply afterRead_does | with_reducible apply ite_does | with_reducible apply ite_fst_does | split
    | (extract_lets +onlyGivenNames y; first
        | (have hy : Does cs c y := ?_; clear_value y) | (have hy : Does cs c y.1 := ?_; clear_value y)
        | (have hy : Does cs c y.2 := ?_; clear_value y) | clear_value y)
    | dsimp only

theorem State_setSegs_does {cs : List Part} {c : State} (s : State) (l : List SegWrite) (hs : [.dict] ⊆ cs) (hc : Does cs c s) :
    Does cs c (State.setSegs s l) := by
  unfold State.setSegs
  repeat' first
    | with_reducible assumption | with_reducible exact sub_of hs rfl | exact Nat.le_refl _ | exact List.length_filter_le _ _
    | (intro) | dsimp only | with_reducible apply dict_does

theorem stagePiece_does {cs : List Part} {c : State} (s : State) (o : Path × Nat) (key : Nat) (x : SegFields)
    (hs : [.dict] ⊆ cs) (hc : Does cs c s) :
    Does cs c (stagePiece s o key x).1 := by
  unfold stagePiece
  repeat' first
    | with_reducible assumption | with_reducible exact sub_of hs rfl | (intro) | with_reducible apply State_setSegs_does
    | with_reducible apply ite_does | with_reducible apply ite_fst_does | split
    | (extract_lets +onlyGivenNames y; first
        | (have hy : Does cs c y := ?_; clear_value y) | (have hy : Does cs c y.1 := ?_; clear_value y)
        | (have hy : Does cs c y.2 := ?_; clear_value y) | clear_value y)
    | dsimp only

theorem opSegWrite_does {cs : List Part} {c : State} (s : State) (q : Req) (idx : Nat) (sub : Nat)
    (hs : [.objs, .dict, .upd] ⊆ cs) (hc : Does cs c s) :
    Does cs c (opSegWrite s q idx sub).1 := by
  unfold opSegWrite
  repeat' first
    | with_reducible assumption | with_reducible exact sub_of hs rfl | (intro) | with_reducible apply payloadPiece_does
    | with_reducible apply stagePiece_does | with_reducible apply ite_does | with_reducible apply ite_fst_does | split
    | (extract_lets +onlyGivenNames y; first
        | (have hy : Does cs c y := ?_; clear_value y) | (have hy : Does cs c y.1 := ?_; clear_value y)
        | (have hy : Does cs c y.2 := ?_; clear_value y) | clear_value y)
    | dsimp only

theorem touchSegs_does {cs : List Part} {c : State} (s : State) (q : Req) (key : Nat) (hs : [.dict] ⊆ cs) (hc : Does cs c s) :
    Does cs c (touchSegs s q key) := by
  unfold touchSegs
  repeat' first
    | with_reducible assumption | with_reducible exact sub_of hs rfl | (intro) | with_reducible apply State_setSegs_does
    | with_reducible apply ite_does | with_reducible apply ite_fst_does | split | dsimp only

theorem opSegCommit_does {cs : List Part} {c : State} (s : State) (q : Req) (idx : Nat) (sub : Nat)
    (hs : [.now, .free, .objs, .log, .samp, .draft, .cal, .dict, .time, .ptp, .lanes, .bob, .spin, .trig, .twine, .twin, .dram, .pwr, .nvm, .upd, .root, .host] ⊆ cs) (hc : Does cs c s) :
    Does cs c (opSegCommit s q idx sub).1 := by
  unfold opSegCommit
  repeat' first
    | with_reducible assumption | with_reducible exact sub_of hs rfl | (intro) | with_reducible apply touchSegs_does
    | with_reducible apply writeValue_does | with_reducible apply State_setSegs_does | with_reducible apply ite_does
    | with_reducible apply ite_fst_does | split
    | (extract_lets +onlyGivenNames y; first
        | (have hy : Does cs c y := ?_; clear_value y) | (have hy : Does cs c y.1 := ?_; clear_value y)
        | (have hy : Does cs c y.2 := ?_; clear_value y) | clear_value y)
    | dsimp only

theorem opSegStatus_does {cs : List Part} {c : State} (s : State) (q : Req) (idx : Nat) (sub : Nat)
    (hs : [.dict] ⊆ cs) (hc : Does cs c s) :
    Does cs c (opSegStatus s q idx sub).1 := by
  unfold opSegStatus
  repeat' first
    | with_reducible assumption | with_reducible exact sub_of hs rfl | (intro) | with_reducible apply touchSegs_does | split
    | (extract_lets +onlyGivenNames y; first
        | (have hy : Does cs c y := ?_; clear_value y) | (have hy : Does cs c y.1 := ?_; clear_value y)
        | (have hy : Does cs c y.2 := ?_; clear_value y) | clear_value y)
    | dsimp only

theorem noteReached_does {cs : List Part} {c : State} (s : State) (key : Nat) (upto : Nat)
    (hs : [.bob, .root] ⊆ cs) (hc : Does cs c s) :
    Does cs c (noteReached s key upto) := by
  unfold noteReached
  repeat' first
    | with_reducible assumption | with_reducible exact sub_of hs rfl | (intro) | with_reducible apply State_setRoot_does
    | with_reducible apply ite_does | with_reducible apply ite_fst_does | split | dsimp only | with_reducible apply bob_does

theorem opSegRead_does {cs : List Part} {c : State} (s : State) (q : Req) (idx : Nat) (sub : Nat)
    (hs : [.free, .objs, .draft, .dict, .bob, .root] ⊆ cs) (hc : Does cs c s) :
    Does cs c (opSegRead s q idx sub).1 := by
  unfold opSegRead
  repeat' first
    | with_reducible assumption | with_reducible exact sub_of hs rfl | exact Nat.le_refl _ | exact List.length_filter_le _ _
    | (intro) | with_reducible apply beforeRead_does | with_reducible apply afterRead_does | with_reducible apply noteReached_does
    | with_reducible apply ite_does | with_reducible apply ite_fst_does | split
    | (extract_lets +onlyGivenNames y; first
        | (have hy : Does cs c y := ?_; clear_value y) | (have hy : Does cs c y.1 := ?_; clear_value y)
        | (have hy : Does cs c y.2 := ?_; clear_value y) | (let z : DictState := y; clear z) | clear_value y)
    | dsimp only | with_reducible apply dict_does

/-- What R340's count says when the second pass of a batch finds no failing entry. -/
theorem secondPass_pending {s : State} {te : Nat} {timed : Option Nat} {news : List NewWrite} (h : secondPass s te timed news = none)
    (hn : news ≠ []) : pendingAfter s news timed ≤ 256 := by
  unfold secondPass at h
  split at h
  · rename_i g; exact stepEight_pending (by simpa using g)
  · rename_i g
    rw [List.findSome?_eq_none_iff] at h
    have l := List.length_pos_iff.2 hn
    have := h (news.length - 1) (List.mem_range.2 (by omega))
    rw [Nat.sub_add_cancel l, List.take_length] at this
    dsimp only at this
    split at this
    · cases this
    · rename_i e; exact stepEight_pending (by simpa using e)

theorem opBatch_does {cs : List Part} {c : State} (s : State) (q : Req)
    (hs : [.now, .free, .objs, .log, .samp, .draft, .cal, .dict, .time, .ptp, .lanes, .bob, .spin, .trig, .twine, .twin, .dram, .pwr, .nvm, .upd, .root, .host] ⊆ cs) (hc : Does cs c s) :
    Does cs c (opBatch s q).1 := by
  unfold opBatch
  split
  · exact hc
  · split
    · exact hc
    · rename_i t ht
      extract_lets ws news fails
      split
      · exact hc
      · split
        · exact hc
        · rename_i hn
          refine dict_does (sub_of hs rfl) (Nat.le_refl _) (acceptWrites_does _ _ _ _ _ (fun hw => ?_) (sub_of hs rfl) hc)
          exact secondPass_pending hn (by rintro e; rw [e] at hw; cases hw)

theorem dropPending_does {cs : List Part} {c : State} (s : State) (w : PendWrite)
    (hs : [.objs, .dict, .time] ⊆ cs) (hc : Does cs c s) :
    Does cs c (dropPending s w) := by
  unfold dropPending
  repeat' first
    | with_reducible assumption | with_reducible exact sub_of hs rfl | exact Nat.le_refl _ | exact List.length_filter_le _ _
    | exact Nat.le_refl _ | exact (rfl : TwineState.violations _ = _)
    | (refine fun (p : Part) hp => ?_; cases p <;> first | exact absurd (mem_of hs _ rfl) hp | exact rfl) | (intro)
    | with_reducible apply disarmUpdate_does | with_reducible apply ite_does | with_reducible apply ite_fst_does | split
    | (extract_lets +onlyGivenNames y; first
        | (have hy : Does cs c y := ?_; clear_value y) | (have hy : Does cs c y.1 := ?_; clear_value y)
        | (have hy : Does cs c y.2 := ?_; clear_value y) | (let z : DictState := y; clear z) | (let z : TimeState := y; clear z)
        | clear_value y)
    | dsimp only | with_reducible apply dict_does | with_reducible apply time_does | with_reducible refine does_mk ?_ ?_ ?_ ?_

theorem opCancel_does {cs : List Part} {c : State} (s : State) (q : Req) (idx : Nat) (sub : Nat)
    (hs : [.objs, .dict, .time] ⊆ cs) (hc : Does cs c s) :
    Does cs c (opCancel s q idx sub).1 := by
  unfold opCancel
  repeat' first
    | with_reducible assumption | with_reducible exact sub_of hs rfl | (intro) | with_reducible apply dropPending_does
    | with_reducible apply ite_does | with_reducible apply ite_fst_does | split
    | (extract_lets +onlyGivenNames y; first
        | (have hy : Does cs c y := ?_; clear_value y) | (have hy : Does cs c y.1 := ?_; clear_value y)
        | (have hy : Does cs c y.2 := ?_; clear_value y) | clear_value y)
    | dsimp only

end Sys2Proof.Machine
end

