-- ==== Sys2Proof/Laws/Frame.lean ====
section
/-! SUPPORT. What each operation of Machine/Frame.lean does at most: the parts it changes, and what it keeps. -/

namespace Sys2Proof.Machine

set_option linter.all false

theorem rebase_does {cs : List Part} {c : State} (d : Int) (s : State)
    (hs : [.now, .samp, .cal, .dict, .time, .ptp, .lanes, .bob, .spin, .trig, .twine, .twin, .dram, .pwr, .upd, .root, .host] ⊆ cs) (hc : Does cs c s) :
    Does cs c (rebase d s) := by
  unfold rebase
  repeat' first
    | with_reducible assumption | with_reducible exact sub_of hs rfl | exact Nat.le_refl _ | exact List.length_filter_le _ _
    | exact (rfl : TwineState.violations _ = _) | exact Nat.le_refl _ | exact (rfl : TwineState.violations _ = _)
    | (refine fun (p : Part) hp => ?_; cases p <;> first | exact absurd (mem_of hs _ rfl) hp | exact rfl) | (intro) | dsimp only
    | with_reducible apply now_does | with_reducible apply samp_does | with_reducible apply cal_does
    | with_reducible apply dict_does | with_reducible apply time_does | with_reducible apply ptp_does
    | with_reducible apply lanes_does | with_reducible apply bob_does | with_reducible apply spin_does
    | with_reducible apply trig_does | with_reducible apply twine_does | with_reducible apply twin_does
    | with_reducible apply dram_does | with_reducible apply pwr_does | with_reducible apply upd_does
    | with_reducible apply root_does | with_reducible apply host_does | with_reducible refine does_mk ?_ ?_ ?_ ?_

theorem startUpItem_does {cs : List Part} {c : State} (s : State) (x : Nat × Val) (hs : [.objs, .log] ⊆ cs) (hc : Does cs c s) :
    Does cs c (startUpItem s x) := by
  unfold startUpItem
  repeat' first
    | with_reducible assumption | with_reducible exact sub_of hs rfl | (intro) | with_reducible apply State_putK_does
    | with_reducible apply State_ev_does | with_reducible apply ite_does | with_reducible apply ite_fst_does | split
    | (extract_lets +onlyGivenNames y; first
        | (have hy : Does cs c y := ?_; clear_value y) | (have hy : Does cs c y.1 := ?_; clear_value y)
        | (have hy : Does cs c y.2 := ?_; clear_value y) | clear_value y)
    | dsimp only

theorem gridPart_does {cs : List Part} {c : State} (s : State) (t : Nat)
    (hs : [.now, .free, .objs, .log, .samp, .draft, .cal, .time, .ptp, .lanes, .bob, .spin, .trig, .twine, .twin, .dram, .pwr, .root] ⊆ cs) (hc : Does cs c s) :
    Does cs c (gridPart s t) := by
  unfold gridPart
  repeat' first
    | with_reducible assumption | with_reducible exact sub_of hs rfl | (intro) | with_reducible apply State_evAt_does
    | with_reducible apply State_put_does | with_reducible apply State_putK_does | with_reducible apply settingHooks_does | split
    | (extract_lets +onlyGivenNames y; first
        | (have hy : Does cs c y := ?_; clear_value y) | (have hy : Does cs c y.1 := ?_; clear_value y)
        | (have hy : Does cs c y.2 := ?_; clear_value y) | clear_value y)
    | with_reducible apply each_does | dsimp only

theorem gridStart_does {cs : List Part} {c : State} (s : State) (target2 : Int) (alone : Option Nat)
    (hs : [.now, .free, .objs, .log, .samp, .draft, .cal, .dict, .time, .ptp, .lanes, .bob, .spin, .trig, .twine, .twin, .dram, .pwr, .upd, .root, .host] ⊆ cs) (hc : Does cs c s) :
    Does cs c (gridStart s target2 alone) := by
  unfold gridStart
  repeat' first
    | with_reducible assumption | with_reducible exact sub_of hs rfl | exact Nat.le_refl _
    | exact (rfl : TwineState.violations _ = _)
    | (refine fun (p : Part) hp => ?_; cases p <;> first | exact absurd (mem_of hs _ rfl) hp | exact rfl) | (intro)
    | with_reducible apply rebase_does | with_reducible apply advanceStrands_does | with_reducible apply trackRate_does
    | with_reducible apply applyVote_does | with_reducible apply startSampling_does | with_reducible apply gridPart_does
    | with_reducible apply State_put_does | with_reducible apply State_setPwr_does | with_reducible apply twinReady_does
    | with_reducible apply enterReady_does | with_reducible apply ite_does | with_reducible apply ite_fst_does | split
    | (extract_lets +onlyGivenNames y; first
        | (have hy : Does cs c y := ?_; clear_value y) | (have hy : Does cs c y.1 := ?_; clear_value y)
        | (have hy : Does cs c y.2 := ?_; clear_value y) | (let z : CalState := y; clear z) | (let z : TimeState := y; clear z)
        | clear_value y)
    | dsimp only | with_reducible apply cal_does | with_reducible apply time_does | with_reducible refine does_mk ?_ ?_ ?_ ?_

theorem freeRunStrand_does {cs : List Part} {c : State} (time : Int) (s : State) (x : Nat)
    (hs : [.objs, .log, .time] ⊆ cs) (hc : Does cs c s) :
    Does cs c (freeRunStrand time s x) := by
  unfold freeRunStrand
  repeat' first
    | with_reducible assumption | with_reducible exact sub_of hs rfl | (intro) | with_reducible apply enterStrand_does
    | with_reducible apply State_putI_does | with_reducible apply State_setStrand_does | with_reducible apply ite_does
    | with_reducible apply ite_fst_does | split
    | (extract_lets +onlyGivenNames y; first
        | (have hy : Does cs c y := ?_; clear_value y) | (have hy : Does cs c y.1 := ?_; clear_value y)
        | (have hy : Does cs c y.2 := ?_; clear_value y) | clear_value y)
    | dsimp only

theorem countSkipped_does {cs : List Part} {c : State} (t : Nat) (s : State) (c' : Nat) (hs : [.objs] ⊆ cs) (hc : Does cs c s) :
    Does cs c (countSkipped t s c') := by
  unfold countSkipped
  repeat' first
    | with_reducible assumption | with_reducible exact sub_of hs rfl | (intro) | with_reducible apply State_addK_does
    | with_reducible apply ite_does | with_reducible apply ite_fst_does | split | dsimp only

theorem dueWrites_does {cs : List Part} {c : State} (s : State) (t : Nat)
    (hs : [.now, .free, .objs, .log, .samp, .draft, .cal, .dict, .time, .ptp, .lanes, .bob, .spin, .trig, .twine, .twin, .dram, .pwr, .nvm, .upd, .root, .host] ⊆ cs) (hc : Does cs c s) :
    Does cs c (dueWrites s t) := by
  unfold dueWrites
  repeat' first
    | with_reducible assumption | with_reducible exact sub_of hs rfl | exact Nat.le_refl _ | exact List.length_filter_le _ _
    | exact Nat.le_refl _ | exact (rfl : TwineState.violations _ = _)
    | (refine fun (p : Part) hp => ?_; cases p <;> first | exact absurd (mem_of hs _ rfl) hp | exact rfl) | (intro)
    | with_reducible apply dropWrites_does | with_reducible apply applyWrites_does | with_reducible apply ite_does
    | with_reducible apply ite_fst_does | split
    | (extract_lets +onlyGivenNames y; first
        | (have hy : Does cs c y := ?_; clear_value y) | (have hy : Does cs c y.1 := ?_; clear_value y)
        | (have hy : Does cs c y.2 := ?_; clear_value y) | (let z : DictState := y; clear z) | (let z : TimeState := y; clear z)
        | clear_value y)
    | dsimp only | with_reducible apply dict_does | with_reducible apply time_does | with_reducible refine does_mk ?_ ?_ ?_ ?_

theorem markTimeq_does {cs : List Part} {c : State} (s : State) (t : Nat) (hs : [.samp] ⊆ cs) (hc : Does cs c s) :
    Does cs c (markTimeq s t) := by
  unfold markTimeq
  repeat' first
    | with_reducible assumption | with_reducible exact sub_of hs rfl | (intro) | with_reducible apply ite_does
    | with_reducible apply ite_fst_does | split | dsimp only | with_reducible apply samp_does

theorem voteBoundary_does {cs : List Part} {c : State} (s : State) (t : Nat) (osc : List (Option Int))
    (hs : [.free, .objs, .log, .samp, .time, .ptp] ⊆ cs) (hc : Does cs c s) :
    Does cs c (voteBoundary s t osc) := by
  unfold voteBoundary
  repeat' first
    | with_reducible assumption | with_reducible exact sub_of hs rfl | (intro) | with_reducible apply markTimeq_does
    | with_reducible apply voteAt_does | with_reducible apply oscMonitor_does | with_reducible apply selectGm_does
    | with_reducible apply ite_does | with_reducible apply ite_fst_does | split
    | (extract_lets +onlyGivenNames y; first
        | (have hy : Does cs c y := ?_; clear_value y) | (have hy : Does cs c y.1 := ?_; clear_value y)
        | (have hy : Does cs c y.2 := ?_; clear_value y) | (let z : PtpState := y; clear z) | clear_value y)
    | with_reducible apply each_does | dsimp only | with_reducible apply ptp_does

theorem cancelReepoch_does {cs : List Part} {c : State} (s : State) (t : Nat) (hs : [.log, .time] ⊆ cs) (hc : Does cs c s) :
    Does cs c (cancelReepoch s t) := by
  unfold cancelReepoch
  repeat' first
    | with_reducible assumption | with_reducible exact sub_of hs rfl | (intro) | with_reducible apply State_evAt_does
    | with_reducible apply ite_does | with_reducible apply ite_fst_does | split | dsimp only | with_reducible apply time_does

theorem endOldMode_does {cs : List Part} {c : State} (s : State) (ch : Nat) (hs : [.bob] ⊆ cs) (hc : Does cs c s) :
    Does cs c (endOldMode s ch) := by
  unfold endOldMode
  repeat' first
    | with_reducible assumption | with_reducible exact sub_of hs rfl | (intro) | with_reducible apply State_setBobbin_does
    | with_reducible apply ite_does | with_reducible apply ite_fst_does | split
    | (extract_lets +onlyGivenNames y; first
        | (have hy : Does cs c y := ?_; clear_value y) | (have hy : Does cs c y.1 := ?_; clear_value y)
        | (have hy : Does cs c y.2 := ?_; clear_value y) | clear_value y)
    | dsimp only

theorem sealChanged_does {cs : List Part} {c : State} (t : Nat) (s : State) (ch : Nat) (hs : [.bob] ⊆ cs) (hc : Does cs c s) :
    Does cs c (sealChanged t s ch) := by
  unfold sealChanged
  repeat' first
    | with_reducible assumption | with_reducible exact sub_of hs rfl | (intro) | with_reducible apply State_setBobbin_does
    | with_reducible apply ite_does | with_reducible apply ite_fst_does | split
    | (extract_lets +onlyGivenNames y; first
        | (have hy : Does cs c y := ?_; clear_value y) | (have hy : Does cs c y.1 := ?_; clear_value y)
        | (have hy : Does cs c y.2 := ?_; clear_value y) | clear_value y)
    | dsimp only

theorem storeBoundary_does {cs : List Part} {c : State} (s : State) (t : Nat) (hs : [.objs, .dict] ⊆ cs) (hc : Does cs c s) :
    Does cs c (storeBoundary s t) := by
  unfold storeBoundary
  repeat' first
    | with_reducible assumption | with_reducible exact sub_of hs rfl | exact Nat.le_refl _ | exact List.length_filter_le _ _
    | (intro) | with_reducible apply State_put_does | with_reducible apply ite_does | with_reducible apply ite_fst_does | split
    | dsimp only | with_reducible apply dict_does

theorem calOnStart_does {cs : List Part} {c : State} (s : State) (t : Nat) (hs : [.cal] ⊆ cs) (hc : Does cs c s) :
    Does cs c (calOnStart s t) := by
  unfold calOnStart
  repeat' first
    | with_reducible assumption | with_reducible exact sub_of hs rfl | (intro) | with_reducible apply calAutoRequest_does
    | with_reducible apply ite_does | with_reducible apply ite_fst_does | split
    | (extract_lets +onlyGivenNames y; first
        | (have hy : Does cs c y := ?_; clear_value y) | (have hy : Does cs c y.1 := ?_; clear_value y)
        | (have hy : Does cs c y.2 := ?_; clear_value y) | (let z : CalState := y; clear z) | clear_value y)
    | dsimp only | with_reducible apply cal_does

theorem chapterBoundary_does {cs : List Part} {c : State} (s : State) (t : Nat)
    (hs : [.free, .objs, .log, .samp, .draft, .cal, .dict, .ptp, .bob, .spin, .trig, .twine, .pwr, .upd, .root] ⊆ cs) (hc : Does cs c s) :
    Does cs c (chapterBoundary s t) := by
  unfold chapterBoundary
  extract_lets s1 s2 s3 s4 s5 s6 s7 s8
  have h1 : Does cs c s1 := syncBoundary_does _ _ (sub_of hs rfl) hc
  have h2 : Does cs c s2 := trigPrune_does _ (sub_of hs rfl) (each_does _ _ _ (fun _ _ h => feedBoundary_does _ _ _ (sub_of hs rfl) h) h1)
  have h3 : Does cs c s3 := each_does _ _ _ (fun _ _ h => sealChanged_does _ _ _ (sub_of hs rfl) (endOldMode_does _ _ (sub_of hs rfl) h)) h2
  have h4 : Does cs c s4 := releaseChanges_does _ (sub_of hs rfl) h3
  have h5 : Does cs c s5 := ite_does h4 (rearmDue_does _ _ (sub_of hs rfl) h4)
  have h6 : Does cs c s6 := by
    unfold s6
    split
    · exact ite_does (resumeSampling_does _ _ (sub_of hs rfl) h5) h5
    · exact h5
  have h7 : Does cs c s7 := rootCheck_does _ (sub_of hs rfl) (actBoundary_does _ _ (sub_of hs rfl) (healthBoundary_does _ _ (sub_of hs rfl) h6))
  have h8 : Does cs c s8 := calOnStart_does _ _ (sub_of hs rfl) (storeBoundary_does _ _ (sub_of hs rfl) h7)
  clear_value s8
  exact dict_does (sub_of hs rfl) (Nat.le_refl _) h8

theorem dropPassed_does {cs : List Part} {c : State} (s : State) (te : Nat) (start : Nat)
    (hs : [.objs, .log, .dict] ⊆ cs) (hc : Does cs c s) :
    Does cs c (dropPassed s te start) := by
  unfold dropPassed
  repeat' first
    | with_reducible assumption | with_reducible exact sub_of hs rfl | (intro) | with_reducible apply dropWrites_does | dsimp only

end Sys2Proof.Machine
end

