-- ==== Sys2Proof/Laws/Sessions.lean ====
section
/-! SUPPORT. What each operation of Machine/Sessions.lean does at most: the parts it changes, and what it keeps. -/

namespace Sys2Proof.Machine

set_option linter.all false

theorem State_setSessions_does {cs : List Part} {c : State} (s : State) (l : List Session) (hs : [.dict] ⊆ cs) (hc : Does cs c s) :
    Does cs c (State.setSessions s l) := by
  unfold State.setSessions
  repeat' first
    | with_reducible assumption | with_reducible exact sub_of hs rfl | exact Nat.le_refl _ | exact List.length_filter_le _ _
    | (intro) | dsimp only | with_reducible apply dict_does

theorem noteRequest_does {cs : List Part} {c : State} (s : State) (a : Ask) (x : Option Session)
    (hs : [.dict] ⊆ cs) (hc : Does cs c s) :
    Does cs c (noteRequest s a x) := by
  unfold noteRequest
  repeat' first
    | with_reducible assumption | with_reducible exact sub_of hs rfl | (intro) | with_reducible apply State_setSessions_does
    | with_reducible apply ite_does | with_reducible apply ite_fst_does | split | dsimp only

theorem opSessionOpen_does {cs : List Part} {c : State} (s : State) (q : Req) (hs : [.free, .dict] ⊆ cs) (hc : Does cs c s) :
    Does cs c (opSessionOpen s q).1 := by
  unfold opSessionOpen
  repeat' first
    | with_reducible assumption | with_reducible exact sub_of hs rfl | (intro) | with_reducible apply State_freshNat_does
    | with_reducible apply State_freshBytes_does | with_reducible apply State_setSessions_does | with_reducible apply ite_does
    | with_reducible apply ite_fst_does | split
    | (extract_lets +onlyGivenNames y; first
        | (have hy : Does cs c y := ?_; clear_value y) | (have hy : Does cs c y.1 := ?_; clear_value y)
        | (have hy : Does cs c y.2 := ?_; clear_value y) | clear_value y)
    | dsimp only

theorem opSessionProve_does {cs : List Part} {c : State} (s : State) (x : Option Session) (hs : [.dict] ⊆ cs) (hc : Does cs c s) :
    Does cs c (opSessionProve s x).1 := by
  unfold opSessionProve
  repeat' first
    | with_reducible assumption | with_reducible exact sub_of hs rfl | (intro) | with_reducible apply State_setSessions_does
    | with_reducible apply ite_does | with_reducible apply ite_fst_does | split | dsimp only

theorem opSessionClose_does {cs : List Part} {c : State} (s : State) (x : Option Session) (hs : [.dict] ⊆ cs) (hc : Does cs c s) :
    Does cs c (opSessionClose s x).1 := by
  unfold opSessionClose
  repeat' first
    | with_reducible assumption | with_reducible exact sub_of hs rfl | (intro) | with_reducible apply State_setSessions_does | split
    | dsimp only

theorem runOp_does {cs : List Part} {c : State} (s : State) (a : Ask) (x : Option Session)
    (hs : [.now, .free, .objs, .log, .samp, .draft, .cal, .dict, .time, .ptp, .lanes, .bob, .spin, .trig, .twine, .twin, .dram, .pwr, .nvm, .upd, .root, .host] ⊆ cs) (hc : Does cs c s) :
    Does cs c (runOp s a x).1 := by
  unfold runOp
  repeat' first
    | with_reducible assumption | with_reducible exact sub_of hs rfl | (intro) | with_reducible apply opRead_does
    | with_reducible apply opWrite_does | with_reducible apply opSegRead_does | with_reducible apply opSegWrite_does
    | with_reducible apply opSegCommit_does | with_reducible apply opSegStatus_does | with_reducible apply opBatch_does
    | with_reducible apply opCancel_does | with_reducible apply opSessionOpen_does | with_reducible apply opSessionProve_does
    | with_reducible apply opSessionClose_does | with_reducible apply ite_does | with_reducible apply ite_fst_does | split
    | (extract_lets +onlyGivenNames y; first
        | (have hy : Does cs c y := ?_; clear_value y) | (have hy : Does cs c y.1 := ?_; clear_value y)
        | (have hy : Does cs c y.2 := ?_; clear_value y) | clear_value y)
    | dsimp only

theorem serveAsk_does {cs : List Part} {c : State} (s : State) (a : Ask) (x : Option Session)
    (hs : [.now, .free, .objs, .log, .samp, .draft, .cal, .dict, .time, .ptp, .lanes, .bob, .spin, .trig, .twine, .twin, .dram, .pwr, .nvm, .upd, .root, .host] ⊆ cs) (hc : Does cs c s) :
    Does cs c (serveAsk s a x).1 := by
  unfold serveAsk
  repeat' first
    | with_reducible assumption | with_reducible exact sub_of hs rfl | (intro) | with_reducible apply runOp_does
    | with_reducible apply noteRequest_does
    | (extract_lets +onlyGivenNames y; first
        | (have hy : Does cs c y := ?_; clear_value y) | (have hy : Does cs c y.1 := ?_; clear_value y)
        | (have hy : Does cs c y.2 := ?_; clear_value y) | clear_value y)
    | dsimp only

theorem queueResponse_does {cs : List Part} {c : State} (s : State) (n : Nat) (b : Bytes) (hs : [.host] ⊆ cs) (hc : Does cs c s) :
    Does cs c (queueResponse s n b) := by
  unfold queueResponse
  repeat' first
    | with_reducible assumption | with_reducible exact sub_of hs rfl | (intro) | with_reducible apply State_setMailbox_does
    | (extract_lets +onlyGivenNames y; first
        | (have hy : Does cs c y := ?_; clear_value y) | (have hy : Does cs c y.1 := ?_; clear_value y)
        | (have hy : Does cs c y.2 := ?_; clear_value y) | clear_value y)
    | dsimp only

theorem serveMailbox_does {cs : List Part} {c : State} (s : State) (n : Fin 4) (a : Ask)
    (hs : [.now, .free, .objs, .log, .samp, .draft, .cal, .dict, .time, .ptp, .lanes, .bob, .spin, .trig, .twine, .twin, .dram, .pwr, .nvm, .upd, .root, .host] ⊆ cs) (hc : Does cs c s) :
    Does cs c (serveMailbox s n a) := by
  unfold serveMailbox
  repeat' first
    | with_reducible assumption | with_reducible exact sub_of hs rfl | (intro) | with_reducible apply queueResponse_does
    | with_reducible apply serveAsk_does | with_reducible apply ite_does | with_reducible apply ite_fst_does | split
    | (extract_lets +onlyGivenNames y; first
        | (have hy : Does cs c y := ?_; clear_value y) | (have hy : Does cs c y.1 := ?_; clear_value y)
        | (have hy : Does cs c y.2 := ?_; clear_value y) | clear_value y)
    | dsimp only

theorem sendResponse_does {cs : List Part} {c : State} (s : State) (port : Nat) (src : Nat) (b : Bytes)
    (hs : [.objs, .ptp] ⊆ cs) (hc : Does cs c s) :
    Does cs c (sendResponse s port src b) := by
  unfold sendResponse
  repeat' first
    | with_reducible assumption | with_reducible exact sub_of hs rfl | (intro) | with_reducible apply sendTwineOn_does
    | with_reducible apply sendTwine_does | with_reducible apply ite_does | with_reducible apply ite_fst_does | split
    | (extract_lets +onlyGivenNames y; first
        | (have hy : Does cs c y := ?_; clear_value y) | (have hy : Does cs c y.1 := ?_; clear_value y)
        | (have hy : Does cs c y.2 := ?_; clear_value y) | clear_value y)
    | dsimp only

theorem serveTwine_does {cs : List Part} {c : State} (s : State) (port : Nat) (src : Nat) (held : Nat) (f : Bytes) (a : Ask)
    (hs : [.now, .free, .objs, .log, .samp, .draft, .cal, .dict, .time, .ptp, .lanes, .bob, .spin, .trig, .twine, .twin, .dram, .pwr, .nvm, .upd, .root, .host] ⊆ cs) (hc : Does cs c s) :
    Does cs c (serveTwine s port src held f a) := by
  unfold serveTwine
  repeat' first
    | with_reducible assumption | with_reducible exact sub_of hs rfl | (intro) | with_reducible apply sendResponse_does
    | with_reducible apply violation_does | with_reducible apply answerBusy_does | with_reducible apply serveAsk_does
    | with_reducible apply ite_does | with_reducible apply ite_fst_does | split
    | (extract_lets +onlyGivenNames y; first
        | (have hy : Does cs c y := ?_; clear_value y) | (have hy : Does cs c y.1 := ?_; clear_value y)
        | (have hy : Does cs c y.2 := ?_; clear_value y) | clear_value y)
    | dsimp only

theorem request_does {cs : List Part} {c : State} (t : Nat) (op : Nat) (key : Nat) (q : Req) (s : State)
    (hs : [.now, .free, .objs, .log, .samp, .draft, .cal, .dict, .time, .ptp, .lanes, .bob, .spin, .trig, .twine, .twin, .dram, .pwr, .nvm, .upd, .root, .host] ⊆ cs) (hc : Does cs c s) :
    Does cs c (request t op key q s) := by
  unfold request
  repeat' first
    | with_reducible assumption | with_reducible exact sub_of hs rfl | (intro) | with_reducible apply State_advance_does
    | with_reducible apply serveMailbox_does | with_reducible apply serveTwine_does | split
    | (extract_lets +onlyGivenNames y; first
        | (have hy : Does cs c y := ?_; clear_value y) | (have hy : Does cs c y.1 := ?_; clear_value y)
        | (have hy : Does cs c y.2 := ?_; clear_value y) | clear_value y)
    | dsimp only

end Sys2Proof.Machine
end

