-- ==== Sys2Proof/Laws/HostPort.lean ====
section
/-! SUPPORT. What each operation of Machine/HostPort.lean does at most: the parts it changes, and what it keeps. -/

namespace Sys2Proof.Machine

set_option linter.all false

theorem mbError_does {cs : List Part} {c : State} (s : State) (n : Nat) (was : Bool) (hs : [.host] ⊆ cs) (hc : Does cs c s) :
    Does cs c (mbError s n was) := by
  unfold mbError
  repeat' first
    | with_reducible assumption | with_reducible exact sub_of hs rfl | (intro) | with_reducible apply State_mbIrq_does
    | with_reducible apply ite_does | with_reducible apply ite_fst_does | split | dsimp only

theorem outWrite_does {cs : List Part} {c : State} (s : State) (n : Nat) (k : Nat) (v : Nat) (t : Nat)
    (hs : [.objs, .log, .host] ⊆ cs) (hc : Does cs c s) :
    Does cs c (outWrite s n k v t) := by
  unfold outWrite
  repeat' first
    | with_reducible assumption | with_reducible exact sub_of hs rfl | (intro) | with_reducible apply State_setMailbox_does
    | with_reducible apply State_ev_does | with_reducible apply mbError_does | with_reducible apply State_bump_does
    | with_reducible apply ite_does | with_reducible apply ite_fst_does | split
    | (extract_lets +onlyGivenNames y; first
        | (have hy : Does cs c y := ?_; clear_value y) | (have hy : Does cs c y.1 := ?_; clear_value y)
        | (have hy : Does cs c y.2 := ?_; clear_value y) | clear_value y)
    | dsimp only

theorem inRead_does {cs : List Part} {c : State} (s : State) (n : Nat) (k : Nat) (hs : [.host] ⊆ cs) (hc : Does cs c s) :
    Does cs c (inRead s n k).1 := by
  unfold inRead
  repeat' first
    | with_reducible assumption | with_reducible exact sub_of hs rfl | (intro) | with_reducible apply State_setMailbox_does
    | with_reducible apply ite_does | with_reducible apply ite_fst_does | split
    | (extract_lets +onlyGivenNames y; first
        | (have hy : Does cs c y := ?_; clear_value y) | (have hy : Does cs c y.1 := ?_; clear_value y)
        | (have hy : Does cs c y.2 := ?_; clear_value y) | clear_value y)
    | dsimp only

theorem State_setPage_does {cs : List Part} {c : State} (s : State) (sec : Bool) (f : Page → Page)
    (hs : [.host] ⊆ cs) (hc : Does cs c s) :
    Does cs c (State.setPage s sec f) := by
  unfold State.setPage
  repeat' first
    | with_reducible assumption | with_reducible exact sub_of hs rfl | (intro) | with_reducible apply State_setHost_does
    | with_reducible apply ite_does | with_reducible apply ite_fst_does | split | dsimp only

theorem gridHiRead_does {cs : List Part} {c : State} (s : State) (sec : Bool) (hs : [.host] ⊆ cs) (hc : Does cs c s) :
    Does cs c (gridHiRead s sec).1 := by
  unfold gridHiRead
  repeat' first
    | with_reducible assumption | with_reducible exact sub_of hs rfl | (intro) | with_reducible apply State_setPage_does
    | dsimp only

theorem readReg_does {cs : List Part} {c : State} (s : State) (sec : Bool) (off : Nat) (hs : [.host] ⊆ cs) (hc : Does cs c s) :
    Does cs c (readReg s sec off).1 := by
  unfold readReg
  repeat' first
    | with_reducible assumption | with_reducible exact sub_of hs rfl | (intro) | with_reducible apply gridHiRead_does
    | with_reducible apply inRead_does | with_reducible apply ite_does | with_reducible apply ite_fst_does | split | dsimp only

theorem irqClear_does {cs : List Part} {c : State} (s : State) (sec : Bool) (v : Nat) (hs : [.host] ⊆ cs) (hc : Does cs c s) :
    Does cs c (irqClear s sec v) := by
  unfold irqClear
  repeat' first
    | with_reducible assumption | with_reducible exact sub_of hs rfl | (intro) | with_reducible apply State_setPage_does
    | dsimp only

theorem mbStatusClear_does {cs : List Part} {c : State} (s : State) (n : Nat) (v : Nat) (hs : [.host] ⊆ cs) (hc : Does cs c s) :
    Does cs c (mbStatusClear s n v) := by
  unfold mbStatusClear
  repeat' first
    | with_reducible assumption | with_reducible exact sub_of hs rfl | (intro) | with_reducible apply State_setMailbox_does
    | (extract_lets +onlyGivenNames y; first
        | (have hy : Does cs c y := ?_; clear_value y) | (have hy : Does cs c y.1 := ?_; clear_value y)
        | (have hy : Does cs c y.2 := ?_; clear_value y) | clear_value y)
    | dsimp only

theorem plainWrite_does {cs : List Part} {c : State} (s : State) (sec : Bool) (off : Nat) (v : Nat)
    (hs : [.host] ⊆ cs) (hc : Does cs c s) :
    Does cs c (plainWrite s sec off v) := by
  unfold plainWrite
  repeat' first
    | with_reducible assumption | with_reducible exact sub_of hs rfl | (intro) | with_reducible apply State_setPage_does
    | with_reducible apply ite_does | with_reducible apply ite_fst_does | split | dsimp only

theorem writeReg_does {cs : List Part} {c : State} (s : State) (sec : Bool) (t : Nat) (off : Nat) (v : Nat)
    (hs : [.objs, .log, .dict, .host] ⊆ cs) (hc : Does cs c s) :
    Does cs c (writeReg s sec t off v) := by
  unfold writeReg
  repeat' first
    | with_reducible assumption | with_reducible exact sub_of hs rfl | (intro) | with_reducible apply irqClear_does
    | with_reducible apply outWrite_does | with_reducible apply mbPortReset_does | with_reducible apply mbFlushIn_does
    | with_reducible apply mbStatusClear_does | with_reducible apply plainWrite_does | with_reducible apply ite_does
    | with_reducible apply ite_fst_does | split | dsimp only

theorem writeWords_does {cs : List Part} {c : State} (sec : Bool) (t : Nat) (a2 : Nat) (a3 : List (BitVec 32)) (a4 : State)
    (hs : [.objs, .log, .dict, .host] ⊆ cs) (hc : Does cs c a4) :
    Does cs c (writeWords sec t a2 a3 a4) := by
  induction a3 generalizing a2 a4 with
  | nil => unfold writeWords; exact hc
  | cons w ws ih => unfold writeWords; exact ih _ _ (writeReg_does _ _ _ _ _ (sub_of hs rfl) hc)

theorem readWords_does {cs : List Part} {c : State} (sec : Bool) (a1 : Nat) (a2 : Nat) (a3 : State)
    (hs : [.host] ⊆ cs) (hc : Does cs c a3) :
    Does cs c (readWords sec a1 a2 a3).1 := by
  induction a2 generalizing a1 a3 with
  | zero => rw [readWords]; exact hc
  | succ n ih =>
    rw [readWords]; repeat' first
      | with_reducible assumption | with_reducible exact sub_of hs rfl | (intro) | with_reducible apply ih
      | with_reducible apply readReg_does | with_reducible apply ite_does | with_reducible apply ite_fst_does | split
      | (extract_lets +onlyGivenNames y; first
          | (have hy : Does cs c y := ?_; clear_value y) | (have hy : Does cs c y.1 := ?_; clear_value y)
          | (have hy : Does cs c y.2 := ?_; clear_value y) | clear_value y)
      | with_reducible apply foldl_does | with_reducible apply foldl_fst_does | dsimp only

theorem spiWrite_does {cs : List Part} {c : State} (cs' : Bool) (scs : Bool) (addr : BitVec 16) (words : List (BitVec 32)) (t : Nat) (s : State)
    (hs : [.now, .objs, .log, .dict, .host] ⊆ cs) (hc : Does cs c s) :
    Does cs c (spiWrite cs' scs addr words t s) := by
  unfold spiWrite
  repeat' first
    | with_reducible assumption | with_reducible exact sub_of hs rfl | (intro) | with_reducible apply State_advance_does
    | with_reducible apply writeWords_does | with_reducible apply State_bump_does | with_reducible apply ite_does
    | with_reducible apply ite_fst_does | split
    | (extract_lets +onlyGivenNames y; first
        | (have hy : Does cs c y := ?_; clear_value y) | (have hy : Does cs c y.1 := ?_; clear_value y)
        | (have hy : Does cs c y.2 := ?_; clear_value y) | clear_value y)
    | dsimp only

theorem spiRead_does {cs : List Part} {c : State} (cs' : Bool) (scs : Bool) (addr : BitVec 16) (n : Nat) (t : Nat) (s : State)
    (hs : [.now, .objs, .host] ⊆ cs) (hc : Does cs c s) :
    Does cs c (spiRead cs' scs addr n t s) := by
  unfold spiRead
  repeat' first
    | with_reducible assumption | with_reducible exact sub_of hs rfl | (intro) | with_reducible apply State_advance_does
    | with_reducible apply State_setHost_does | with_reducible apply readWords_does | with_reducible apply State_bump_does
    | with_reducible apply ite_does | with_reducible apply ite_fst_does | split
    | (extract_lets +onlyGivenNames y; first
        | (have hy : Does cs c y := ?_; clear_value y) | (have hy : Does cs c y.1 := ?_; clear_value y)
        | (have hy : Does cs c y.2 := ?_; clear_value y) | clear_value y)
    | dsimp only

theorem onPort_does {cs : List Part} {c : State} (t : Nat) (f : State → State) (s : State) (hh1 : ∀ y0, Does cs c y0 → Does cs c (f y0))
    (hs : [.now] ⊆ cs) (hc : Does cs c s) :
    OutDoes cs c (onPort t f s) := by
  unfold onPort
  repeat' first
    | with_reducible assumption | with_reducible exact sub_of hs rfl | (intro) | apply hh1 | with_reducible apply State_advance_does
    | with_reducible apply next_does | with_reducible apply ite_does | with_reducible apply ite_fst_does | split | dsimp only

theorem refuseBody_does {cs : List Part} {c : State} (s : State) (n : Nat) (held : Bytes) (abort : Nat)
    (hs : [.host] ⊆ cs) (hc : Does cs c s) :
    Does cs c (refuseBody s n held abort) := by
  unfold refuseBody
  repeat' first
    | with_reducible assumption | with_reducible exact sub_of hs rfl | (intro) | with_reducible apply queueResponse_does
    | with_reducible apply ite_does | with_reducible apply ite_fst_does | split
    | (extract_lets +onlyGivenNames y; first
        | (have hy : Does cs c y := ?_; clear_value y) | (have hy : Does cs c y.1 := ?_; clear_value y)
        | (have hy : Does cs c y.2 := ?_; clear_value y) | clear_value y)
    | dsimp only

theorem fragError_does {cs : List Part} {c : State} (s : State) (n : Nat) (hs : [.objs, .log, .host] ⊆ cs) (hc : Does cs c s) :
    Does cs c (fragError s n) := by
  unfold fragError
  repeat' first
    | with_reducible assumption | with_reducible exact sub_of hs rfl | (intro) | with_reducible apply State_ev_does
    | with_reducible apply State_bump_does | with_reducible apply State_setMailbox_does | dsimp only

theorem bodyComplete_does {cs : List Part} {c : State} (s : State) (n : Fin 4) (b : Bytes)
    (hs : [.now, .free, .objs, .log, .samp, .draft, .cal, .dict, .time, .ptp, .lanes, .bob, .spin, .trig, .twine, .twin, .dram, .pwr, .nvm, .upd, .root, .host] ⊆ cs) (hc : Does cs c s) :
    Does cs c (bodyComplete s n b) := by
  unfold bodyComplete
  repeat' first
    | with_reducible assumption | with_reducible exact sub_of hs rfl | (intro) | with_reducible apply serveMailbox_does
    | with_reducible apply refuseBody_does | with_reducible apply ite_does | with_reducible apply ite_fst_does | split | dsimp only

theorem joinFragment_does {cs : List Part} {c : State} (s : State) (n : Fin 4) (words : List Nat) (before : Bytes)
    (hs : [.now, .free, .objs, .log, .samp, .draft, .cal, .dict, .time, .ptp, .lanes, .bob, .spin, .trig, .twine, .twin, .dram, .pwr, .nvm, .upd, .root, .host] ⊆ cs) (hc : Does cs c s) :
    Does cs c (joinFragment s n words before) := by
  unfold joinFragment
  repeat' first
    | with_reducible assumption | with_reducible exact sub_of hs rfl | (intro) | with_reducible apply refuseBody_does
    | with_reducible apply fragError_does | with_reducible apply bodyComplete_does | with_reducible apply State_setMailbox_does
    | with_reducible apply ite_does | with_reducible apply ite_fst_does | split
    | (extract_lets +onlyGivenNames y; first
        | (have hy : Does cs c y := ?_; clear_value y) | (have hy : Does cs c y.1 := ?_; clear_value y)
        | (have hy : Does cs c y.2 := ?_; clear_value y) | clear_value y)
    | dsimp only

theorem takeMessage_does {cs : List Part} {c : State} (s : State) (n : Fin 4) (words : List Nat) (collided : Bool)
    (hs : [.now, .free, .objs, .log, .samp, .draft, .cal, .dict, .time, .ptp, .lanes, .bob, .spin, .trig, .twine, .twin, .dram, .pwr, .nvm, .upd, .root, .host] ⊆ cs) (hc : Does cs c s) :
    Does cs c (takeMessage s n words collided) := by
  unfold takeMessage
  repeat' first
    | with_reducible assumption | with_reducible exact sub_of hs rfl | (intro) | with_reducible apply State_setMailbox_does
    | with_reducible apply refuseBody_does | with_reducible apply fragError_does | with_reducible apply joinFragment_does
    | with_reducible apply ite_does | with_reducible apply ite_fst_does | split
    | (extract_lets +onlyGivenNames y; first
        | (have hy : Does cs c y := ?_; clear_value y) | (have hy : Does cs c y.1 := ?_; clear_value y)
        | (have hy : Does cs c y.2 := ?_; clear_value y) | clear_value y)
    | dsimp only

end Sys2Proof.Machine
end

