-- ==== Sys2Proof/Machine/Package.lean ====
section
/-!
DEFINITION. Sys2Proof/Machine/Package.lean: the package (23_package_electrical.md R435 to R440, R446, R448): which ball stands
at which position, the group of each ball, the IDCODE, the boundary-scan cells, and a die's junction temperature. None of this is
state: no command changes it.
-/
namespace Sys2Proof.Machine

/-- A DDR4 signal of one channel, in the order of Table 23.5. -/
inductive DdrBall where
  | dq (n : Nat) | cb (n : Nat) | dqsT (n : Nat) | dqsC (n : Nat) | a (n : Nat) | ba (n : Nat) | bg (n : Nat)
  | actN | ckT (n : Nat) | ckC (n : Nat) | cke (n : Nat) | csN (n : Nat) | odt (n : Nat) | resetN | alertN | zq
  deriving DecidableEq, Repr

/-- The two balls of a lane's transmitter and of its receiver (Table 23.3). -/
inductive LaneBall where
  | txp | txn | rxp | rxn
  deriving DecidableEq, Repr

/-- A supply with balls on the package (Table 23.3). -/
inductive SupplyBall where
  | vin | vexc | v5 | vddCore | vddLane | vddLaneh | vddqDdr | vdda | vddIo | vaonCap
  deriving DecidableEq, Repr

/-- The buck regulator's balls (Table 23.3). -/
inductive BuckBall where
  | hg | lg | sw | bst | fb | csp | csn
  deriving DecidableEq, Repr

/-- A ball of the group "Analogue and time" (Table 23.3). -/
inductive AnalogueBall where
  | refin | calrefP | calrefN | vrefByp | osc (x : Nat) | xtal32In | xtal32Out
  deriving DecidableEq, Repr

/-- A ball of the group "Digital I/O" (Table 23.3). -/
inductive DigitalBall where
  | ppsIn | ppsOut | todRx | todTx | trig (n : Nat) | sync | resetN
  | jtagTck | jtagTms | jtagTdi | jtagTdo | jtagTrstN | pmbScl | pmbSda | pmbAlertN
  | pwrEn (g : Nat) | pwrPg (g : Nat)
  | hostSck | hostCsN | hostScsN | hostIo (n : Nat) | hostIrqN | hostSirqN
  | flashSck | flashCsN | flashIo (n : Nat) | flashResetN
  deriving DecidableEq, Repr

/-- A ball of the package (Table 23.3). Supply and ground balls of one kind are not told apart. -/
inductive Ball where
  | bp (k j : Nat) | bn (k j : Nat) | w (k n : Nat)
  | exc (k : Nat) | sensep (k : Nat) | sensen (k : Nat) | agnd (k : Nat)
  | supply (s : SupplyBall)
  | buck (b : BuckBall)
  | blank (n : Nat) | fio (n : Nat) | claimIn | claimOut | hbIn | hbOut | twinId
  | lane (n : Nat) (b : LaneBall) | laneRcal
  | ddr (dA : Bool) (b : DdrBall)
  | analogue (b : AnalogueBall)
  | digital (b : DigitalBall)
  | gnd
  deriving DecidableEq, Repr

/-- The groups of Table 23.3. -/
inductive BallGroup where
  | creelInputs | creelExcitation | highVoltage | buck | fieldIo | lanes | ddr4 | analogueTime | digitalIo | logicSupplies | ground
  deriving DecidableEq, Repr

/-- The letters a row is named with: I, O, Q, R, S, X and Z are left out (R436). -/
def rowLetters : List String :=
  ["A", "B", "C", "D", "E", "F", "G", "H", "J", "K", "L", "M", "N", "P", "T", "U", "V", "W", "Y"]

/-- The name of row `r`, 1 to 48 (R436, Table 23.2). -/
def rowName (r : Nat) : String :=
  if r ≤ 19 then rowLetters.getD (r - 1) ""
  else if r ≤ 38 then "A" ++ rowLetters.getD (r - 20) ""
  else "B" ++ rowLetters.getD (r - 39) ""

/-- A position as it is written: row, then column (R436). -/
def positionName (p : Nat × Nat) : String := rowName p.1 ++ toString p.2

/-- The ball at row offset `a` and column offset `b` of creel `k`'s block (R438). -/
def creelBlockBall (k a b : Nat) : Ball :=
  if a ≤ 3 then
    let j := 2 * a + b / 2
    if b % 2 = 0 then .bp k j else .bn k j
  else if a = 4 then .w k b
  else if a = 5 then .w k (4 + b)
  else match b with
    | 0 => .agnd k
    | 1 => .sensen k
    | 2 => .sensep k
    | _ => .exc k

/-- The buck's balls in the order of row V (R439). -/
def buckRow : List BuckBall := [.hg, .lg, .sw, .bst, .fb, .csp, .csn]

/-- Rows T to AB (15 to 21), columns 33 to 48 (R439). -/
def highVoltageBall (r c : Nat) : Ball :=
  if r = 15 then .supply .vexc
  else if r = 16 then .supply (if c ≤ 40 then .vexc else if c ≤ 44 then .vin else .v5)
  else if r = 17 then
    if c ≤ 39 then .buck (buckRow.getD (c - 33) .hg)
    else if 41 ≤ c ∧ c ≤ 44 then .supply .v5 else .gnd
  else if r = 18 then
    if c ≤ 36 then .blank (c - 33)
    else if c ≤ 44 then .fio (c - 37)
    else match c with
      | 45 => .claimIn
      | 46 => .claimOut
      | 47 => .hbIn
      | _ => .hbOut
  else if r = 19 ∧ c = 33 then .twinId
  else .gnd

/-- Columns 1 to 8 of rows AD to BK (23 to 48): the lanes (R440). -/
def laneColumnBall (r c : Nat) : Ball :=
  if r ≤ 46 then
    let n := r - 23
    match c with
    | 2 => .lane n .txp
    | 3 => .lane n .txn
    | 5 => .lane n .rxp
    | 6 => .lane n .rxn
    | 7 => .supply .vddLane
    | 8 => .supply (if n % 2 = 0 then .vddLane else .vddLaneh)
    | _ => .gnd
  else if r = 47 ∧ c = 1 then .laneRcal
  else if r = 47 ∧ 2 ≤ c ∧ c ≤ 5 then .supply .vddLaneh
  else .gnd

/-- Signal `i` of a DDR4 channel in the order of Table 23.5; none from 125 on. -/
def ddrSignal (i : Nat) : Option DdrBall :=
  if i < 64 then some (.dq i)
  else if i < 72 then some (.cb (i - 64))
  else if i < 90 then some (if i % 2 = 0 then .dqsT ((i - 72) / 2) else .dqsC ((i - 72) / 2))
  else if i < 107 then some (.a (i - 90))
  else [.ba 0, .ba 1, .bg 0, .bg 1, .actN, .ckT 0, .ckC 0, .ckT 1, .ckC 1, .cke 0, .cke 1, .csN 0, .csN 1, .odt 0, .odt 1,
    .resetN, .alertN, .zq][i - 107]?

/-- The place of a signal site within its row, by column offset; offsets 3 and 7 are none (R440). -/
def ddrSite (o : Nat) : Option Nat := if o = 3 ∨ o = 7 then none else some (if o < 3 then o else o - 1)

/-- Columns 33 to 48 of rows AD to BK: channel DB in columns 33 to 40 and DA in columns 41 to 48 (R440). -/
def ddrColumnBall (r c : Nat) : Ball :=
  let o := (c - 33) % 8
  match ddrSite o with
  | none => if o = 7 then .supply .vddqDdr else .gnd
  | some s =>
    match ddrSignal (6 * (r - 23) + s) with
    | some b => .ddr (decide (41 ≤ c)) b
    | none => .gnd

/-- Row AD, columns 9 to 32 (R440). -/
def analogueRowBall (c : Nat) : Ball :=
  match c with
  | 9 => .analogue .refin
  | 11 => .analogue .calrefP
  | 12 => .analogue .calrefN
  | 14 => .analogue .vrefByp
  | 16 => .analogue (.osc 0)
  | 18 => .analogue (.osc 1)
  | 20 => .analogue (.osc 2)
  | 22 => .analogue .xtal32In
  | 23 => .analogue .xtal32Out
  | _ => .gnd

/-- Row BH from column 9 (R440). -/
def digitalRowBh : List DigitalBall :=
  [.ppsIn, .ppsOut, .todRx, .todTx, .trig 0, .trig 1, .trig 2, .trig 3, .sync, .resetN, .jtagTck, .jtagTms, .jtagTdi, .jtagTdo,
    .jtagTrstN, .pmbScl, .pmbSda, .pmbAlertN, .pwrEn 0, .pwrEn 1, .pwrEn 2, .pwrPg 0, .pwrPg 1, .pwrPg 2]

/-- Row BJ from column 9 (R440). -/
def digitalRowBj : List DigitalBall :=
  [.hostSck, .hostCsN, .hostScsN, .hostIo 0, .hostIo 1, .hostIo 2, .hostIo 3, .hostIrqN, .hostSirqN, .flashSck, .flashCsN,
    .flashIo 0, .flashIo 1, .flashIo 2, .flashIo 3, .flashResetN]

/-- Columns 9 to 32 of rows AD to BK (R440). -/
def middleColumnBall (r c : Nat) : Ball :=
  if r = 23 then analogueRowBall c
  else if r ≤ 25 then (if c ≤ 24 then .supply .vdda else .gnd)
  else if r ≤ 45 then (if (r + c) % 2 = 0 then .supply .vddCore else .gnd)
  else if r = 46 then (digitalRowBh[c - 9]?).elim .gnd .digital
  else if r = 47 then
    if c = 25 ∨ c = 26 then .supply .vaonCap else (digitalRowBj[c - 9]?).elim .gnd .digital
  else if c ≤ 24 then .supply .vddIo else .gnd

/-- The ball at row `r` and column `c`, each 1 to 48 (R438 to R440, Table 23.4). -/
def ballAt (r c : Nat) : Ball :=
  if r ≤ 7 then creelBlockBall ((c - 1) / 4) (r - 1) ((c - 1) % 4)
  else if r ≤ 14 then creelBlockBall (12 + (c - 1) / 4) (r - 8) ((c - 1) % 4)
  else if r ≤ 21 then
    if c ≤ 32 then creelBlockBall (24 + (c - 1) / 4) (r - 15) ((c - 1) % 4) else highVoltageBall r c
  else if r = 22 then .gnd
  else if c ≤ 8 then laneColumnBall r c
  else if c ≤ 32 then middleColumnBall r c
  else ddrColumnBall r c

/-- The group a ball belongs to (R437, Table 23.3). -/
def Ball.group : Ball → BallGroup
  | .bp _ _ | .bn _ _ | .w _ _ => .creelInputs
  | .exc _ | .sensep _ | .sensen _ | .agnd _ => .creelExcitation
  | .supply .vin | .supply .vexc | .supply .v5 => .highVoltage
  | .supply _ => .logicSupplies
  | .buck _ => .buck
  | .blank _ | .fio _ | .claimIn | .claimOut | .hbIn | .hbOut | .twinId => .fieldIo
  | .lane _ _ | .laneRcal => .lanes
  | .ddr _ _ => .ddr4
  | .analogue _ => .analogueTime
  | .digital _ => .digitalIo
  | .gnd => .ground

/-- Every position of the 48 × 48 grid, row by row (R435, R436). -/
def positions : List (Nat × Nat) := (List.range 48).flatMap fun r => (List.range 48).map fun c => (r + 1, c + 1)

/-- Where ball `b` stands; for a supply or ground ball the first such position. -/
def positionOf (b : Ball) : Option (Nat × Nat) := positions.find? fun p => ballAt p.1 p.2 == b

/-- The number of balls of a group (Table 23.3). -/
def groupCount (g : BallGroup) : Nat := (positions.filter fun p => (ballAt p.1 p.2).group == g).length

/-- The instructions of the JTAG port (R446, R444); `debug` stands for those that halt the cores and read their memories (R414). -/
inductive JtagInstruction where
  | bypass | idcode | samplePreload | extest | highz | clamp
  | acExtest | extestPulse | extestTrain
  | debug
  deriving DecidableEq, Repr

/-- The instructions available in life-cycle state `lc`: boundary scan in every state, debug only in SERVICE (R414, R446). -/
def jtagAvailable (lc : Nat) : JtagInstruction → Bool
  | .debug => lc == 3
  | .bypass | .idcode | .samplePreload | .extest | .highz | .clamp | .acExtest | .extestPulse | .extestTrain => true

/-- The IDCODE of a silicon revision, whose major number is [15:8] of SILICON_REV (R446, Table 17.8). -/
def idcode (siliconRev : BitVec 16) : BitVec 32 := (siliconRev.extractLsb' 8 4) ++ (0x05127AB#28)

/-- Whether a ball has a boundary-scan cell (R446). "Logic ball" is read as the lane, digital I/O, twin and test balls; supplies and
ground carry no signal. DEDUCED (log entry 131). -/
def Ball.hasScanCell : Ball → Bool
  | .lane _ _ | .ddr _ _ | .blank _ | .fio _ | .claimIn | .claimOut | .hbIn | .hbOut | .twinId => true
  | .digital b =>
    match b with
    | .jtagTck | .jtagTms | .jtagTdi | .jtagTdo | .jtagTrstN => false
    | _ => true
  | _ => false

/-- The dies (01_architecture.md). -/
inductive Die where
  | hub | converter | field
  deriving DecidableEq, Repr

/-- Thermal resistance from junction to case in 0.01 K/W (Table 23.14). -/
def Die.theta : Die → Nat
  | .hub => 14
  | .converter => 80
  | .field => 180

/-- A die's junction temperature in 10 µK above the zero of `tc`, from the case temperature and the die's power in mW (R448). -/
def junctionTemp (d : Die) (tc : Int) (mw : Nat) : Int := tc + (d.theta * mw : Nat)

end Sys2Proof.Machine
end

