-- ==== Sys2Proof/Tests/Slice0.lean ====
section
/-! SUPPORT. Tests: the well-formedness smoke test, small tests of one step, and, for every statement with hypotheses, a state and
operands that meet them, clause by clause. -/

set_option maxRecDepth 100000
set_option Elab.async false

namespace Sys2Proof.Tests

open Sys2Proof Sys2Proof.Machine

/-! ### Small states and operands -/

/-- A hub whose rails are good and that has booted, at rest. -/
def on : State :=
  { State.reset with
    pwr := { vin := true, v5 := true, enabled := [0, 1, 2], good := [0, 1, 2], sram := true, booted := true, copyRead := true, ready := true } }

/-- READY, with the grid running. -/
def run : State := (on.put O.gridState 0 1).put O.hubStatus 0 1

/-- A request of the non-secure host at mailbox 0. -/
def req (b : Bytes) (t : Option Nat := none) : Req :=
  { path := .mailbox 0, principal := .nsHost, reqId := 7, session := 0, tag := zeros 16, timed := t, data := b }

/-- A request of the secure host at mailbox 2. -/
def sreq (b : Bytes) (ses id : Nat) (tag : Bytes) (t : Option Nat := none) : Req :=
  { path := .mailbox 2, principal := .sHost, reqId := id, session := ses, tag := tag, timed := t, data := b }

/-- A Twine frame of a kind from hub 9 for hub 5 (or as the numbers say), with its CRC and its padding. -/
def frm (kind : Nat) (body : Bytes) (dest : Nat := 5) (src : Nat := 9) (flags : Nat := 0) : Bytes :=
  let b := [1#8] ++ be 1 kind ++ be 2 0 ++ be 2 dest ++ be 2 src ++ be 2 16 ++ be 1 flags ++ be 1 0 ++ be 2 (body.length + 20) ++ be 2 0 ++ body
  fit (max 46 (body.length + 20)) (b ++ be 4 (twineCrc b))

/-- Lane `l` in lock and in service with its defaults, and any change. -/
def lane (s : State) (l : Nat) (v : Lane := {}) : State := s.setLane l { v with started := true, lock := true, service := true }

/-- An object's row of the dictionary. -/
def row (key : Nat) : ObjDef := (findObj (key / 256) (key % 256)).getD ⟨0, 0, 0, .bool, roAccess, .int 0, none, .any, .status⟩

/-- A live session of the secure host at mailbox 2, with a key of zeros. -/
def ses : Session := { id := 1, principal := .sHost, path := .mailbox 2, key := zeros 32, live := true, lastReq := none, last := 0 }

/-- READY, with that session. -/
def srun : State := { run with dict := { run.dict with sessions := [ses] } }

/-- That session's request, with its TAG. -/
def signed (op key : Nat) (b : Bytes) (t : Option Nat := none) : Req :=
  sreq b 1 7 (tagOf (zeros 32) (askOf op (key / 256) (key % 256) (sreq b 1 7 (zeros 16) t)).cover) t

/-- The state once the session has noted its request. -/
def noted (s : State) (t op key : Nat) (q : Req) : State := noteRequest (s.advance t) (askOf op (key / 256) (key % 256) q) (some ses)

/-- SEG_COMMIT's data for 32 bytes of 7, a transfer that holds them, and the piece that brings them. -/
def hash7 : Bytes := List.replicate 32 7#8
def hashCommit : Bytes := be 4 32 ++ be 4 (crc32c hash7)
def hashPiece : Bytes := be 4 32 ++ be 4 0 ++ be 4 32 ++ be 4 (crc32c hash7) ++ be 4 0 ++ hash7
def hashSeg : SegWrite :=
  { owner := (.mailbox 0, 4), key := O.keyHash0.key, total := 32, pieces := [], held := [(0, hash7)], last := 0 }
def hashed : State := { run with dict := { run.dict with segs := [hashSeg] } }

/-- RECEIVING with a payload of four bytes held. -/
def manifest4 : Manifest := { seq := 2, minSilicon := 0, parts := [], ack := false, size := 4, digest := sha256 (zeros 4), keySlot := 0 }
def paid : State := { srun.put O.updState 0 1 with upd := { manifest := some manifest4, blocks := [(0, zeros 4)] } }
def payCommit : Bytes := be 4 4 ++ be 4 (crc32c (zeros 4))

/-- A timed write of TAIL_TIMEOUT that waits, and a batch that holds one. -/
def tailWrite : PendWrite := { t := 3200000, timed := true, key := O.tailTimeout.key, val := .int 12, principal := 5, batch := 0, order := 1 }
def waiting : State := { srun with dict := { srun.dict with pend := [tailWrite] } }
def batchBytes : Bytes := be 1 1 ++ zeros 3 ++ be 2 0x2900 ++ be 1 2 ++ be 1 0 ++ be 2 2 ++ be 2 0 ++ be 2 12 ++ zeros 2

/-- The secure host's key is there; its session waits for its proof; a snapshot; a store under way. -/
def keyed : State := { run with nvm := { run.nvm with kShost := some (zeros 32) } }
def proving : State := { run with dict := { run.dict with sessions := [{ ses with live := false }] } }
def snap : Snapshot := { owner := (.mailbox 0, 4), key := O.tailTimeout.key, value := be 2 10, reached := 0, taken := 0, last := 0 }
def snapped : State := { run with dict := { run.dict with snaps := [snap] } }
def storing : State := { run with dict := { run.dict with storing := some [], storeAt := some (3, false) } }

/-- A write of a value, due at once. -/
def wr (key : Nat) (v : Val) : PendWrite := { t := 5, timed := false, key := key, val := v, principal := 5, batch := 0, order := 1 }

/-- Reel 2 holds one capture; a retro job with no slice out. -/
def holding : State := { run.put O.reelSend 2 0 with trig := { run.trig with reels := [(2, { held := [⟨9, zeros 4, 0, 0⟩] })] } }
def retroBytes : Bytes := be 1 1 ++ be 1 0 ++ zeros 30
def retroIdle : RetroJob := { id := 1, words := true, recs := false, t1 := 0, t2 := 640000, hubs := [], s := 640000, nextStart := 0 }
def retroing : State := { run.put O.retroState 0 1 with root := { run.root with retro := some retroIdle } }

/-- Group `g` is enabled and not good yet; a core restart; a PMBus device is listed; asleep. -/
def rising (g : Nat) : State :=
  { State.reset with pwr := { vin := true, v5 := true, enabled := List.range (g + 1), good := List.range g } }
def restarting : State := srun.setPwr (fun p => { p with restart := some ⟨false, 0⟩ })
def polled : State := srun.putB O.pmbusDevices 0 [0x40#8]
def asleep (hot : Bool) : State :=
  (run.put O.wakeEnable 0 5).setPwr (fun p => { p with sleep := some { ts := 0, thermal := hot }, enabled := [0], ready := false })

/-- Before secure boot; the DRAM's wipe under way; ready to start the grid, and its three occasions. -/
def booting : State := on.setPwr (fun p => { p with booted := false, ready := false })
def wiping : State := { on with dram := { on.dram with ready := true, wiping := true } }
def wiped : State := { on.put O.wipeDone 0 1024 with dram := { on.dram with ready := true } }
def starting : State :=
  { (wiped.put O.strandState 0 2).put O.strandState 1 2 with
    time := { wiped.time with strands := [(0, { present := true, locked := true, time := 65536000000 }), (1, { present := true, locked := true, time := 65536000000 })] } }
def waitingStart : State := { (wiped.put O.strandState 0 3) with time := { wiped.time with firstTracking := some 9, strands := [(0, { time := 65536000000 })] } }
def gmStart : State := (wiped.put O.gmEnable 0 1).put O.isGm 0 1

/-- An edge on PPS_IN has been stamped. -/
def todd : State := { run with time := { run.time with ppsEdge := some (0, [1, 2, 3]) } }

/-- Lanes 0 (port 1) and 20 (port 19) are in service and qualified; PTP messages. -/
def linked : State :=
  let s := lane (lane (run.put O.gmIdentity 0 9) 0) 20
  { s with ptp := { s.ptp with lanes := [(0, { valid := true }), (20, { valid := true })] } }
def rx1 : PtpRx := { port := 1, lane := 0, grid := 65536 * 640, base := 65536 * 640, adv := ⟨1, 2, 3⟩ }
def syn : PtpMsg := { mtype := 0, dst := 0x011B19000000, src := 9, domain := 0, clock := 9, portNumber := 1, seq := 3, sec := 1 }
def ann : Announce := ⟨1, 2, 3, 4, 5, 9, 0, 0, 37, 0⟩
def pd (k : Nat) : PtpMsg := { syn with mtype := k, dst := 0x0180C200000E }

/-- A frame waits on port 1; for the trunk cycle on the root port; for its launch time. -/
def txf : TxFrame := { cls := 1, body := .twine (frm 5 (zeros 8)) }
def queued : State := linked.setEgress 1 { queue := [{ txf with cls := 3 }] }
def cycling : State := (linked.put O.trunkCycleEnable 0 1).setEgress (linked.nat O.rootPort) { waiting := [txf] }
def launching : State := linked.setEgress 1 { launch := [(1000, txf)] }

/-- A STEP frame with its Ethernet header; a lane that copies frames to its tap. -/
def tapping : State :=
  let s := (run.put O.laneRole 22 1).put O.laneAdmin 22 1
  { s with lanes := { s.lanes with taps := [(22, [(9, { etherType := 0x88B5, length := 64, body := .other })])] } }

/-- A hold of channel 3. -/
def hold1 : Hold := { t := 640, ch := 3, path := 0, code := 9, flags := {}, blankSel := 0, blankTail := 0, fillEnd := 0, coef := {}, inj := none }

/-- Wire-break checking of creel 2: enabled for its input 3; a run with that check pending. -/
def wbOn : State := run.put O.wbEnable 35 1
def wbSeq : State :=
  { wbOn.putB O.seqRegular 2 (be 2 100 ++ be 2 1 ++ be 4 1) with samp := { wbOn.samp with creels := [(2, { wb := { pending := [3] } })] } }
def wbBusy : State := { wbOn with samp := { wbOn.samp with creels := [(2, { wb := { pending := [3] } })] } }

/-- An injected sequence of one entry on converter 2. -/
def inj1 : InjRun := { start := ⟨0, 0, false, 0, false⟩, mode := 0, entries := [1] }
def injecting : State := { run with samp := { run.samp with injectors := [(2, { run := some inj1 })] } }

/-- Driver 2 on, in a given condition. -/
def drv (d : Driver) : State :=
  { run.put O.excMode 2 1 with samp := { run.samp with drivers := [(2, d)] }, twin := { run.twin with stages := true } }

/-- A sweep at its step for converter `c`, a number of frames later, and by the compatibility method. -/
def framesOn (s : State) (n : Nat) : State := { s with samp := { s.samp with lastFrame := s.samp.lastFrame + n * 640000 } }
def sweeping (c : Nat) (w : Sweep) : State :=
  { run with samp := { run.samp with lastFrame := (42 + 42 * c) * 640000 }, cal := { sweep := some w } }
def compat (c : Nat) : State :=
  { run with samp := { run.samp with lastFrame := 40 * c * 640000 }, cal := { sweep := some { start := 0, method := 1 } } }

/-- A sweep of each method; C32's sweep at frame `n` of creel `c`; what a path's run has converted, and what it formed. -/
def sweep0 : Sweep := { start := 0, method := 0 }
def sweep1 : Sweep := { start := 0, method := 1 }
structure Mod where
  dev : Option Nat := none
  formed : Option FormedRun := none
  aborting : Bool := false
def sweepAt (c n : Nat) (m : Mod) : State :=
  framesOn { run with
    cal := { sweep := some { sweep0 with formed := m.formed, aborting := m.aborting }, connected := some c, dev := m.dev.getD 0 } } (42 + 42 * c + n)
def calRun (c : Nat) : CalRun := { path := c, sums := [], refin := 2500000, tone := 0 }
def formed2 : FormedRun := { path := 2, slot := 1, content := zeros 8, skew := 3, stop := 5, tq := 64 }

/-- Unit 3 selects a source. -/
def firing (src sel : Nat) : State := (run.put O.trigSource 3 src).put O.trigSelect 3 sel

/-- Reel 2 is to re-arm. -/
def rearming (w : Nat) : State := { run with trig := { run.trig with reels := [(2, { rearmAt := some (9, w) })] } }

/-- Channel 3's reduction interval, and its bobbin with one open hank. -/
def acc1 : RedAcc := { profIdx := 0, prof := { n := 1, slots := [] }, start := 0, stop := 640000 }
def bob1 : Bobbin := { hanks := [{ kind := 1, words := [9], last := 640 }], lastItem := 640 }
def bobbed : State := { run with bob := { run.bob with bobbins := [(3, bob1)] } }

/-- DRAM training at 3,200 MT/s. -/
def training (n : Nat) (w : Option Nat) : State := { run with dram := { run.dram with training := some (n, 3200), waiting := w } }

/-- A step to code 1, with its GO_ACK at 0 and the rate switched; a STEP frame; a reorder queue; a tap copy. -/
def st1 : LaneStep := { old := 0, new := 1, ack := some 0, switched := true }
def stp (k taps : Nat) : Bytes :=
  frm 10 (be 1 k ++ be 1 3 ++ zeros 2 ++ be 8 77 ++ be 1 3 ++ be 1 0 ++ be 1 0 ++ be 1 1 ++ be 1 200 ++ be 1 0 ++ zeros 2 ++ be 4 taps)
def stpBad (k : Nat) : Bytes :=
  frm 10 (be 1 k ++ be 1 3 ++ zeros 2 ++ be 8 77 ++ be 1 3 ++ be 1 0 ++ be 1 0 ++ be 1 1 ++ be 1 200 ++ be 1 1 ++ zeros 2 ++ be 4 0)
def ro1 : Reorder := { next := some 3, held := [(5, 7, frm 5 (zeros 8))] }
def tap1 : Nat × EthFrame := (9, { etherType := 0x88B5, length := 64, body := .other })

/-- Hub 5 of a segment whose root is hub 4 beyond port 1; the same hub as root. -/
def named : State := lane ((run.put O.hubId 0 5).put O.rootId 0 4) 0
def rooted : State := (((run.put O.hubId 0 5).put O.rootId 0 5).put O.rootPort 0 20).put O.rootRole 0 1
def got (s : State) (port t : Nat) (f : Bytes) : State := learnSrc (tookFrame (s.advance t) port f) port f
def inReset (s : State) : State := s.setPwr (fun p => { p with restart := some ⟨false, 0⟩ })
def late (s : State) : State := s.advance 64000000

/-- An event; a bobbin with a word or a record that wait for their skein; a cut-through skein on the line. -/
def ev1 : Event := { seq := 0, code := 9, unit := 255, notRunning := false, time := 3, frac := 0, param := zeros 12 }
def aged (id : Nat) : State :=
  { named with
    twin := { named.twin with active := true },
    twine := { named.twine with streams := [(id, { since := some 9 })] },
    bob := { named.bob with bobbins :=
      [(3, { hanks := [{ kind := 1, first := 5, interval := 640, words := [9] }, { kind := 3, recs := [⟨0, 0, zeros 16⟩] }] })] } }
def skeinB : Bytes := frm 1 (zeros 600)
def skeinTx (c : Nat) : TxFrame := { cls := c, body := .twine skeinB, lane := some 0, cut := true }
def sending (c : Nat) : State := named.setEgress 1 { line := [(0, skeinTx c)] }

/-- Bodies: DOFF of one entry for channel 3, RETX and RETRO of channel 3, TRIGGER 3, a skein, a SUMMARY of one channel, a BUSY. -/
def doff1 : Bytes := be 2 1 ++ be 2 0 ++ be 2 3 ++ zeros 6 ++ be 8 640
def retx1 : Bytes := be 4 1 ++ be 2 3 ++ be 1 3 ++ be 1 0 ++ be 8 640 ++ be 8 64000
def retro1 : Bytes := be 4 1 ++ be 1 3 ++ zeros 3 ++ be 8 640 ++ be 8 64000 ++ zeros 64
def trg1 : Bytes := zeros 4 ++ be 4 3 ++ zeros 12
def skein1 : Bytes := be 2 3 ++ be 1 1 ++ zeros 9 ++ be 2 1 ++ zeros 30
def sum1 : Bytes := be 2 1 ++ zeros 10 ++ be 4 100 ++ be 2 9 ++ zeros 62
def nak1 : Bytes := be 4 8 ++ be 1 3 ++ be 1 10 ++ be 2 100 ++ zeros 4
def out1 (j : Nat) : Outstanding := ⟨8, 9, j, zeros 24⟩
def asking (j : Nat) : State := { rooted with twine := { rooted.twine with outstanding := [out1 j] } }

/-- Hub 5 before READY; with a capture held; with a remote unit; as root before READY; with a full segment; with a stream out. -/
def booted : State := named.put O.hubStatus 0 0
def noCopy : State := named.setPwr (fun p => { p with booted := false })
def capHeld : State := { late named with trig := { named.trig with reels := [(2, { held := [⟨9, zeros 40, 0, 0⟩] })] } }
def doffCap : Bytes := be 2 1 ++ be 2 0 ++ be 2 (16384 + 2) ++ zeros 2 ++ be 4 9 ++ be 8 16
def remote : State := (named.put O.trigSource 3 6).put O.remoteId 3 (9 * 65536)
def rootBooted : State := rooted.put O.hubStatus 0 0
def fullSegment : State := { rooted with root := { rooted.root with segment := (List.range 256).map (fun k => (k + 1000, ⟨0, 0⟩)) } }
def fedding : State :=
  { (rooted.putB O.fedRoots 0 (be 2 1 ++ be 2 77)) with root := { rooted.root with changed := [9 * 512 + 100], dir := [(9 * 512 + 100, zeros 64)] } }

/-- A window job with a slice that waits for channel 100 of hub 9, its skein, a BUSY and a TOO_LARGE for it. -/
def windowSlice : RetroSlice := { index := 0, start := 0, stop := 640, chans := [⟨9, 100, false, [], []⟩], asked := [(9, (0, 0))] }
def windowJob : RetroJob := { retroIdle with t2 := 1280000, hubs := [(9, zeros 64)], slices := [windowSlice], nextStart := 640, nextIndex := 1 }
def windowing : State := { rooted with root := { rooted.root with retro := some windowJob } }
def skeinW : Bytes := be 2 100 ++ be 1 1 ++ be 1 0x40 ++ zeros 4 ++ be 4 1 ++ be 2 1 ++ zeros 30
def nakW : Bytes := be 4 1 ++ be 1 7 ++ be 1 10 ++ be 2 100 ++ zeros 4
def nakL : Bytes := be 4 1 ++ be 1 7 ++ be 1 9 ++ be 2 100 ++ zeros 4
def streamJob : RetroJob := { retroIdle with stream := zeros 8, sent := 8, ended := true }
def streaming : State := { (rooted.put O.retroDest 0 100).put O.retroState 0 1 with root := { rooted.root with retro := some streamJob } }
def doffJob : Bytes := be 2 1 ++ be 2 0 ++ be 2 16384 ++ zeros 2 ++ be 4 1 ++ be 8 8

/-- A PEER's READ of TAIL_TIMEOUT over Twine, and a refusing response. -/
def peerRead : Bytes := be 4 8 ++ be 1 0 ++ be 1 2 ++ be 2 0 ++ be 4 0 ++ zeros 16 ++ requestBody 1 0x2900 2 none []
def peerAsk : Ask := (parseAsk (.twine 1 9) peerRead).getD (askOf 1 0x2900 2 (req []))
def resp1 : Bytes := be 4 8 ++ be 1 1 ++ be 1 1 ++ be 2 0 ++ be 4 0 ++ (hmac (zeros 32) (be 4 8 ++ be 1 1 ++ be 1 1 ++ be 2 0 ++ be 4 0 ++ refusal)).take 16 ++ refusal
where
  refusal : Bytes := zeros 8 ++ be 4 0x03000081 ++ zeros 12

/-- A request that no session covers, one that is too long, and an accepting response. -/
def shortReq : Bytes := be 4 8 ++ be 1 0 ++ be 1 2 ++ zeros 22
def badSes : Bytes := be 4 8 ++ be 1 0 ++ be 1 2 ++ be 2 0 ++ be 4 7 ++ zeros 16 ++ requestBody 1 0x2900 2 none []
def badAsk : Ask := (parseAsk (.twine 1 9) badSes).getD peerAsk
def longReq : Bytes := be 4 8 ++ be 1 0 ++ be 1 2 ++ be 2 0 ++ be 4 0 ++ zeros 16 ++ requestBody 1 0x2900 2 none (zeros 8300)
def longAsk : Ask := (parseAsk (.twine 1 9) longReq).getD peerAsk
def accepted1 : Bytes := zeros 12 ++ zeros 8 ++ be 4 20 ++ be 4 3 ++ zeros 16
def respOk : Bytes :=
  be 4 8 ++ be 1 1 ++ be 1 1 ++ be 2 0 ++ be 4 0 ++ (hmac (zeros 32) (be 4 8 ++ be 1 1 ++ be 1 1 ++ be 2 0 ++ be 4 0 ++ accepted1)).take 16 ++ accepted1

/-- A root whose activation job has asked hub 9; the same after its cancel. -/
def hub9 : ActHub := { hub := 9, key := zeros 32 }
def act1 : ActJob := { t := 6400000000, hubs := [hub9] }
def acting (j : Nat) : State :=
  { rooted with twine := { rooted.twine with outstanding := [out1 j] }, root := { rooted.root with act := some act1 } }
def act2 : ActJob := { act1 with hubs := [{ hub9 with stage := 2 }] }
def cancelling : State :=
  { rooted with root := { rooted.root with act := some { act1 with cancelled := true, hubs := [{ hub9 with cancelling := true }] } } }

/-- A RETRO job whose slice is complete, and one whose hub 9 has been silent. -/
def slice1 : RetroSlice := { index := 0, start := 0, stop := 640, chans := [⟨9, 3, true, [], []⟩] }
def retro2 : RetroJob := { retroIdle with t2 := 1280000, hubs := [(9, zeros 64)], slices := [slice1], nextStart := 640, nextIndex := 1 }
def sliced : State := { rooted with root := { rooted.root with retro := some retro2 } }
def silentSlice (n : Nat) : RetroSlice := { slice1 with chans := [⟨9, 3, false, [], []⟩], asked := [(9, (0, n))] }
def silentJob (n : Nat) : RetroJob := { retro2 with slices := [silentSlice n] }
def silent (n : Nat) : State := { rooted with root := { rooted.root with retro := some (silentJob n) } }

/-- One of a pair of twins, active or standby; a TWIN frame of a type with a COUNTER; a switch-over under way. -/
def twinned (a : Bool) : State := { run.put O.twinEnable 0 1 with twin := { active := a, stages := true } }
def heart (k c : Nat) : Bytes := be 1 k ++ be 1 0 ++ be 2 0 ++ be 4 c ++ be 4 0 ++ be 8 6400
def swapping (give : Bool) : State := { twinned give with twin := { (twinned give).twin with switch := some { t0 := 9, giving := give } } }

/-- On trial, with conditions that hold; a manifest whose part is not in the payload. -/
def onTrial : State :=
  { run.put O.updState 0 5 with
    upd := { run.upd with healthSince := some 9 },
    dram := { run.dram with ready := true },
    nvm := run.nvm.writePointer (fun p => { p with active := 1, trial := true }) }
def manifest7 : Manifest := { manifest4 with size := 0, parts := [⟨1, 4, zeros 32, none, 0, 4⟩] }

/-- Mailbox 1 in a given condition; the header of a first fragment of 28 bytes that is not the last. -/
def mbx (m : Mailbox) : State := { srun with host := { srun.host with mb := [(1, m)] } }
def mbStart : Nat := 0x801C
def mbWhole : List Nat := [0xC01C, 1, 2, 3, 4, 5, 6, 7]
def mbNext : List Nat := [0x14004, 1, 2, 3, 4, 5, 6, 7]

/-- Small operands. -/
def rest : Sleep := { ts := 0, thermal := false }
def tripped : Sleep := { ts := 0, thermal := true }
def zda : TodRx := { zda := true, checksum := true, utc := 99 }
def badZda : TodRx := { zda := false, checksum := true, utc := 99 }
def epoch0 : Reepoch := { te := 0, d := 0, start := 0 }
def seq2 : Seq := { p := 50, entries := [2, 1] }
def plain : Flags := {}
def seg0 : SegHub := { last := 0, interval := 0 }
def cooled : DieTemps := { hub := 95 * 64, conv := 95 * 64, field := 115 * 64 }

/-! ### States and operands of single witnesses -/

def acceptedCommit1_a : SegWrite := { hashSeg with last := 5 }
def sess2_a : Session := { ses with live := false }
def hub7_a : State := { run with twin := { active := true } }
def blk4r_a : State := { holding with trig := { holding.trig with reels := [(2, { capture := some { unit := 1, ev := ⟨65536, false, false⟩, arm := 0, seg := 0, post := 1 } })] } }
def blk4s_a : State := (lane run 2 { partnerMax := some 3 })
def rst1k_a : State := srun.setPwr (fun p => { p with vin := false })
def rst3b_a : State := (rising 1).setPwr (fun p => { p with pgFaults := 2 })
def rst6_a : State := srun.setPwr (fun p => { p with wdEnd := some 3 })
def rst7_a : State := srun.setPwr (fun p => { p with buckStop := true })
def rail1_a : State := State.reset.setPwr (fun p => { p with vin := true })
def rail3_a : State := State.reset.setPwr (fun p => { p with vin := true, v5 := true, pgWait := true })
def rail4_a : State := State.reset.setPwr (fun p => { p with vin := true, v5 := true, held := true, pgOff := true })
def rail5_a : State := State.reset.setPwr (fun p => { p with vin := true, v5 := true, good := [0,1,2] })
def sleep_a : State := srun.setPwr (fun p => { p with sleepDue := some { ts := 0, thermal := false } })
def start1_a : State := booting.setPwr (fun p => { p with copyRead := false })
def time1_a : State := { run.put O.gridState 0 9 with time := { run.time with slewEnd := some 640 } }
def time6_a : State := { run.put O.ppsOutEnable 0 1 with time := { run.time with ppsOut := some 0 } }
def frame1_a : State := { srun with samp := { srun.samp with lastSlot := 640000 }, dict := { srun.dict with pend := [tailWrite, { tailWrite with t := 640000 }] } }
def frame1r_a : State := { srun with samp := { srun.samp with lastSlot := 640000 }, dict := { srun.dict with pend := [tailWrite, { tailWrite with t := 640000, key := O.fullReset.key, val := .int 1 }] } }
def frame2_a : State := { run with time := { run.time with reepochAt := some 0, target2 := 131072 * 1000000 } }
def frame3_a : State := { run with time := { run.time with pause := some ⟨0, 0, 0⟩ } }
def ptp1_a : PtpMsg := { syn with vlan := true }
def ptp3_a : PtpMsg := { syn with mtype := 11, announce := some ann }
def ptp4_a : State := { linked with ptp := { linked.ptp with senders := [⟨1, 9, 1, [0], 640, ann, true⟩] } }
def ptp4_b : PtpRx := { rx1 with grid := 65536 * 640000000 }
def ptp6_a : State := { linked with ptp := { linked.ptp with lanes := [(0, { valid := true, asked := some (0, 3) })] } }
def ptp8_a : PtpRx := { rx1 with port := 19, lane := 20 }
def ptp8_b : PtpMsg := { syn with domain := 100 }
def port7_a : State := run.setLane 0 { out := [frm 10 (zeros 24)], started := true, lock := true, service := true }
def port7_b : TxFrame := { cls := 3, body := .twine (frm 10 (zeros 24)), lane := some 0 }
def port8_a : TxFrame := { txf with cls := 3 }
def calB_a : Flags := { fill := true }
def samp2_a : State := { run with samp := { run.samp with holds := [.hold hold1] } }
def samp2i_b : Hold := { hold1 with inj := some (0, 0, 640) }
def samp2i_a : State := { run with samp := { run.samp with holds := [.hold samp2i_b], injRecords := [] } }
def samp2w_a : State := { run with samp := { run.samp with holds := [.hold hold1], writerFault := true } }
def samp3_a : State := { run with draft := { run.draft with queue := [.sample 640 3 0 9 {} 0 {}] } }
def samp4_a : State := { run with draft := { run.draft with queue := [.change 640 3 none .keep false] } }
def samp5_a : State := { run with spin := { run.spin with feeds := [(2, { entries := [{ ch := 3, t := 640, interval := 128, word := 9 }] })] } }
def wb2_a : State := { wbBusy with samp := { wbBusy.samp with lastFrame := 64000000, lastSlot := 64000000 } }
def fs1f_a : State := { run with samp := { run.samp with blank := [(1, [(9, none)])] } }
def fs3b_a : State := { run.put O.syncPinEnable 0 1 with draft := { run.draft with sync := [⟨640000, false, true⟩] } }
def fs3c_a : State := { run.put O.syncPinEnable 0 1 with draft := { run.draft with sync := [⟨1280000, false, true⟩] } }
def fs4_a : State := drv { oorSince := some 3 }
def fs5_a : State := drv { settling := true, fillEnd := 640 }
def fs5b_a : State := drv { settling := true, fillEnd := 640, drill := true }
def fs6_a : State := { run with samp := { run.samp with convs := [(2, { buf := { internal := some 3 } })] } }
def fs6c_a : State := { run with samp := { run.samp with convs := [(32, { buf := { refin := some 3 } })] } }
def cal1_a : State := { run.put O.calrefCert 0 2500000 with cal := { intervalFrom := some 0 } }
def cal1b_a : State := { run with cal := { intervalFrom := some 0 } }
def cal2_a : State := { run.put O.calrefCert 0 2500000 with cal := { request := some (0, false) } }
def cal3_a : State := sweepAt 0 0 {}
def cal3n_a : State := sweepAt 3 0 { formed := some formed2 }
def cal3n_b : Sweep := { sweep0 with formed := some formed2 }
def cal3d_a : State := sweepAt 3 0 { dev := some 500000 }
def cal3e_a : State := sweepAt 32 0 {}
def cal3a_a : State := sweepAt 3 0 { aborting := true }
def cal3a_b : Sweep := { sweep0 with aborting := true }
def cal4_a : State := sweepAt 3 1 {}
def cal4r_a : State := sweepAt 3 1 { dev := some 500000 }
def cal4m_a : State := sweepAt 3 9 {}
def cal4z_a : State := sweepAt 3 41 {}
def cal3p_a : State := { run with cal := { sweep := some sweep0 } }
def cal5b_a : State := { compat 3 with cal := { (compat 3).cal with stopped := [2] } }
def trg7_a : State := { run with trig := { run.trig with fio := [(5, 640)] } }
def spn1_a : State := { run with spin := { run.spin with red := [(3, { acc := some acc1 })] } }
def spn1l_b : RedAcc := { acc1 with lost := true }
def spn1l_a : State := { run with spin := { run.spin with red := [(3, { acc := some spn1l_b })] } }
def spn1p_a : State := { run with spin := { run.spin with red := [(3, { acc := some acc1, pend := [⟨64, 2, ⟨1, []⟩⟩] })] } }
def spn1q_a : State := { run with spin := { run.spin with red := [(3, { acc := some acc1, pend := [⟨64, 255, ⟨1, []⟩⟩] })] } }
def spn2_a : State := { run with spin := { run.spin with recompute := [(2, 0, 5)] } }
def spn2b_a : State := { run with spin := { run.spin with restarting := true } }
def spn5_b : WindowAnswer := { request := zeros 20 }
def spn5_a : State := { run with bob := { run.bob with window := some spn5_b } }
def drm3c_a : State := { run with dram := { run.dram with hot := true } }
def drm4_a : State := { run with dram := { run.dram with failed := 2 } }
def drm8_a : State := { run with dram := { run.dram with training := some (2, 1600) } }
def drm12_a : State := { run with dram := { run.dram with ready := true } }
def drm14_a : State := { run with dram := { run.dram with rows := [(35, (9, 0))] } }
def lan2_a : State := run.setLane 4 { started := true }
def lan2r_a : State := run.setLane 4 { started := true, retrying := true }
def lan3_a : State := run.setLane 4 { started := true, step := some st1 }
def lan4e_a : State := lane run 4 { code := 2, entered := some (3, 1) }
def lan4s_a : State := lane run 4 { code := 2, step := some st1 }
def lan5_a : State := lane run 4 { code := 2, lockAt := 5 }
def lan5b_a : State := lane run 4 { code := 2, lockAt := 5, step := some st1 }
def lan7_a : State := lane run 4 { noStepUntil := 9 }
def lan8_a : State := run.setLane 4 { started := true, retrying := true, code := 1 }
def stp4b_b : LaneStep := { st1 with retry := true }
def lan8s_a : State := run.setLane 4 { started := true, retrying := true, code := 1, step := some stp4b_b }
def stp1b_a : State := lane run 4 { leader := true, partnerMax := some 3 }
def stp2_b : LaneStep := { st1 with switched := false }
def stp2_a : State := lane run 4 { step := some stp2_b }
def stp4_a : State := lane run 4 { step := some st1, code := 1 }
def stp4b_a : State := run.setLane 4 { started := true, step := some stp4b_b, code := 1, retrying := true }
def stp4d_a : State := run.setLane 4 { started := true, step := some stp4b_b, code := 1, retrying := true, fails := 2 }
def stp4c_b : LaneStep := { st1 with switched := false, ack := none }
def stp4c_a : State := lane run 4 { step := some stp4c_b }
def stp5p_a : State := lane run 4 { step := some { st1 with peer := some 100 }, code := 1 }
def stp5q_a : State := lane run 4 { step := some { st1 with peer := some 3 }, code := 1 }
def stp5a_a : State := lane run 4 { step := some st1, code := 2, dfe := true, adapt := some { taps := 0x2CCA } }
def stp5c_a : State := lane run 4 { step := some st1, code := 2, dfe := true, adapt := some { taps := 0x2CCA, best := some 50, asked := some (0x2CC9, false), acked := true } }
def stp5d_a : State := lane run 4 { step := some st1, code := 2, dfe := true, adapt := some { taps := 0x2CCA, best := some 250, asked := some (0x2CC9, false), acked := true } }
def fr3_b : LaneStep := { st1 with ack := none }
def fr3_a : State := lane run 4 { step := some fr3_b }
def fr4_a : State := lane run 4 { step := some st1 }
def fr4b_b : LaneStep := { st1 with own := some 200 }
def fr4b_a : State := lane run 4 { step := some fr4b_b }
def fr4c_b : LaneStep := { st1 with own := some 2 }
def fr4c_a : State := lane run 4 { step := some fr4c_b }
def fr7_b : Adapt := { asked := some (5, false) }
def fr7_a : State := lane run 4 { adapt := some fr7_b }
def fr7u_b : Adapt := { asked := some (5, true), best := some 9 }
def fr7u_a : State := lane run 4 { step := some st1, adapt := some fr7u_b }
def fr7v_b : Adapt := { asked := some (5, true), best := some 9, trials := 12 }
def fr7v_a : State := lane run 4 { step := some st1, adapt := some fr7v_b }
def fr7r_b : Adapt := { asked := some (5, false), best := some 9 }
def fr7r_a : State := lane run 4 { step := some st1, adapt := some fr7r_b }
def eth1_a : EthFrame := { etherType := 0x88B5, length := 64, good := false, body := .other }
def eth2_a : EthFrame := { etherType := 0x88B5, length := 64, body := .other }
def eth2b_a : EthFrame := { etherType := 34997, length := 9216, body := .twine (stp 1 0) }
def eth2c_a : EthFrame := { etherType := 34997, length := 64, body := .twine (frm 5 (zeros 8)) }
def eth2d_a : EthFrame := { etherType := 9, length := 64, body := .ptp rx1 syn }
def eth2e_a : EthFrame := { etherType := 9, length := 64, body := .twine (frm 5 (zeros 8)) }
def eth2f_a : State := { lane run 0 with lanes := { (lane run 0).lanes with reorder := [(1, { next := some 65535, held := [] })] } }
def eth2g_a : State := { lane run 0 with lanes := { (lane run 0).lanes with reorder := [(1, { next := some 3, held := [] })] } }
def eth2h_a : State := { lane run 0 with lanes := { (lane run 0).lanes with reorder := [(1, { next := some 0, held := [(1, 7, frm 5 (zeros 8))] })] } }
def eth4_a : State := { run with lanes := { run.lanes with reorder := [(1, ro1)] } }
def eth5_a : State := { run with lanes := { run.lanes with taps := [(22, [tap1])] } }
def twi3_a : State := { named with twine := { named.twine with learned := [(7, (1, 3))] } }
def twi4_a : State := { named with log := { entries := [ev1], nextSeq := 1 } }
def hf6_a : State := { named with twine := { named.twine with requests := [⟨4, false, retx1⟩] } }
def hf8_a : State := { named with trig := { named.trig with seen := [(9, 3)] } }
def hf8_b : State := got hf8_a 1 9 (frm 6 trg1)
def rs1_a : State := { rooted with root := { rooted.root with query := some (zeros 20, 3) } }
def rs2b_b : RetroJob := { retro2 with t2 := 640 }
def rs2b_a : State := { rooted with root := { rooted.root with retro := some rs2b_b } }
def rs4_a : State := { rooted with root := { rooted.root with segment := [(9, ⟨0, 0⟩)] } }
def rs6b_a : State := { rooted with root := { rooted.root with act := some act2 } }
def rs7_a : ActJob := { act1 with cancelled := true, hubs := [{ hub9 with cancelling := true }] }
def rs9_a : State := { rooted with twine := { rooted.twine with retry := [(9, 9, 4#8 :: zeros 24)] } }
def rs9b_a : State := { rooted with twine := { rooted.twine with retry := [(9, 9, 3#8 :: zeros 24)] } }
def rs9c_a : State := { windowing with twine := { windowing.twine with retry := [(9, 9, 7#8 :: be 4 0)] } }
def tl4n_a : State := { twinned true with twin := { (twinned true).twin with claimLost := true } }
def tr2_a : State := { twinned true with twin := { (twinned true).twin with dualSince := some 9 } }
def tr3_a : State := { twinned false with twin := { (twinned false).twin with listenUntil := some 9 } }
def tr3b_a : State := { twinned false with twin := { (twinned false).twin with listenUntil := some 9, partner := some 3 } }
def tr3c_a : State := { twinned false with twin := { (twinned false).twin with listenUntil := some 9, partner := some 200, hbSilent := true, linkSilent := true } }
def tr4_a : State := { twinned false with twin := { (twinned false).twin with hbSilent := true } }
def tr6_a : SwitchOver := { t0 := 9, giving := true }
def tr8_b : SwitchOver := { t0 := 9, giving := true, acked := true }
def tr8_a : State := { (twinned true).put O.excMode 2 1 with twin := { (twinned true).twin with switch := some tr8_b } }
def tr9_a : SwitchOver := { t0 := 9, giving := false }
def up1_a : State := { run.put O.updState 0 2 with upd := { manifest := some manifest4, blocks := [(0, zeros 4)] } }
def up1b_a : State := { run.put O.updState 0 2 with upd := { manifest := some manifest7, blocks := [] } }
def up2_a : State := { run with upd := { run.upd with gapFrom := some 3 } }
def mb2_a : State := mbx { outFull := true }
def mb2c_a : State := mbx { outFull := true, collision := true }
def mb3_a : State := mbx { inFull := true, inn := [4, 1, 2, 3, 4, 5, 6, 7] }
def mb4_a : State := mbx { inFull := true, posted := 28, responses := [zeros 40] }
def mb5_a : State := mbx { inFull := true, posted := 28, responses := [zeros 40], outFull := true }
def mb6_a : State := mbx { outFull := true, out := [mbStart, 1, 2, 3, 4, 5, 6, 7] }
def mb6l_a : State := mbx { outFull := true, out := mbWhole }
def mb6c_a : State := mbx { outFull := true, out := mbWhole, collision := true }
def mb6r_a : State := mbx { outFull := true, reserve := some (mbWhole, false) }
def mb6q_a : State := mbx { outFull := true, out := mbNext, part := some { next := 1, epoch := 0, bytes := zeros 28 } }
def mb6o_a : State := mbx { outFull := true, out := mbNext, part := some { next := 3, epoch := 0, bytes := zeros 28 } }
def mb6p_a : State := mbx { outFull := true, out := mbWhole, part := some { next := 3, epoch := 0, bytes := zeros 28 } }
def mb8_a : State := mbx { responses := [zeros 40] }
def mb8l_a : State := mbx { responses := [zeros 40], posted := 28 }
def mb9_a : State := mbx { outFull := true, inFull := true, fullSince := some 9 }

/-! ### Well-formedness: each check refuses an ill-formed term -/

theorem test_wf_port : (Instr.twineForward 0 1 (zeros 46)).wellFormed = false := by decide +kernel
theorem test_wf_frame : (Instr.stepGo 1 1 (zeros 45)).wellFormed = false := by decide +kernel
theorem test_wf_tag : (Instr.read 0x2900 2 1 { req [] with tag := zeros 15 }).wellFormed = false := by decide +kernel
theorem test_wf_path : (Instr.read 0x2900 2 1 { req [] with path := .twine 21 9 }).wellFormed = false := by decide +kernel
theorem test_wf_session : (Instr.read 0x2900 2 1 { req [] with session := 2 ^ 32 }).wellFormed = false := by decide +kernel
theorem test_wf_time : (Instr.write 0x2900 2 1 (req [] (some (2 ^ 64)))).wellFormed = false := by decide +kernel
theorem test_wf_slot : (Instr.slotBoundary { creels := [] }).wellFormed = false := by decide +kernel
theorem test_wf_boundary : (Instr.gridFrameBoundary { adv := {}, osc := [], temps := [] }).wellFormed = false := by decide +kernel
theorem test_wf_ptp : (Instr.ptpFrameDiscarded 1 { syn with domain := 256 }).wellFormed = false := by decide +kernel
theorem test_wf_ethernet : (Instr.ethernetFrameReceived 1 1 { etherType := 65536, length := 64, body := .other }).wellFormed = false := by
  decide +kernel
theorem test_wf_cal_run : (Instr.compatStop [{ path := 33, sums := [] }]).wellFormed = false := by decide +kernel
theorem test_wf_label : (Instr.todRxSentence ⟨true, true, 2 ^ 48⟩ 1).wellFormed = false := by decide +kernel
theorem test_wf_faults : (Instr.draftingInput none { reads := [(65536, true)] }).wellFormed = false := by decide +kernel
theorem test_wf_oscillators : (Instr.bootPartsLoaded 1 [] []).wellFormed = false := by decide +kernel
theorem test_wf_read : (Instr.read 0x2900 2 1 (req [])).wellFormed = true := by decide +kernel

/-! ### Worked examples of the spec, and published vectors of the algorithms it names -/

/-- 00_scope.md, locating a grid instant: 1,000,000,300 lies in frame 1,562, slot 2,502. -/
theorem test_grid_instant : (1000000300 / frameTicks, 1000000300 % frameTicks / slotTicks, nextFrame 1000000300) = (1562, 2502, 1563 * 640000) := by
  decide +kernel

/-- 05_converters.md, R82: the three example entry words. -/
theorem test_entry_words :
    (entryInput 0x783, entryWidth 0x783, entryGain 0x783, entryRef 0x783) = (3, 2, 7, 0) ∧
    (entryInput 0x008, entryWidth 0x008, entryIdle 0x008) = (8, 1, false) ∧ (entryWidth 0x8C00, entryIdle 0x8C00) = (8, true) := by
  decide +kernel

/-- 06_calibration.md, Table 6.4: Gf and Of at T_q = 3,136. -/
theorem test_factory_interpolation :
    interp 1075030314 1077070424 1600 5440 3136 = 1075846358 ∧ interp (-3072) (-5120) 1600 5440 3136 = -3891 := by
  decide +kernel

/-- 07_drafting.md, Table 7.6: the ALIGN weights of channel 83. -/
theorem test_align_weights : alignWeights 5120 1152 = [-149324, 1025999, 3533996, -216367] := by decide +kernel

/-- 10_network_time.md, Table 10.4: t4 - t1 = 6,820 ns and c = 4,800 ns give d = 1,010 ns (in 1/1,000 ns, with times of 25 / 1,048,576 ns
rounded down). -/
theorem test_link_delay : delayPs (pdelayValue 0 (6820 * 65536 * 16 / 25) 0 (4800 * 65536)) = 1010000 := by decide +kernel

/-- 14_dram.md, Table 14.8: the two hanks lie on one bank of channel DA, in rows 2,064 and 2,065. -/
theorem test_dram_rows :
    let st : Store := (Store.put [] O.geometry.key (.int 524552)).put O.grain.key (.int 14)
    dramPlace st 0x20400000 = ⟨0, 0, 0, 2064⟩ ∧ dramPlace st 0x20440000 = ⟨0, 0, 0, 2065⟩ := by
  decide +kernel

/-- 15_lanes.md: (26 * 120) div 32 = 97; the threshold 96 is 32 * 96 div 32. -/
theorem test_fom : fomOf 26 120 = 97 ∧ fomOf 32 96 = 96 := by decide +kernel

/-- 15_lanes.md: the default TAP_FIXED 0x2CCA keeps R296. -/
theorem test_taps : tapsOk 0x2CCA = true ∧ tapsOk 0 = false := by decide +kernel

/-- 20_host_port.md, Table 20.8: word 0 of the three fragments of a response of 60 bytes, and LEN. -/
theorem test_fragments :
    ((fragmentWords 0 0 true (zeros 60)).headD 0, (fragmentWords 0 1 false (zeros 32)).headD 0, (fragmentWords 0 2 false (zeros 4)).headD 0) =
      (0x801C, 0x0001001C, 0x00024004) ∧ (mbLen 0x0300801C, mbLen 0x03014010, mbLen 0x00024004) = (8, 5, 2) := by
  decide +kernel

/-- FIPS 180-4: SHA-256 of the bytes 61 62 63. -/
theorem test_sha256 : beNat (sha256 [0x61#8, 0x62#8, 0x63#8]) = 0xBA7816BF8F01CFEA414140DE5DAE2223B00361A396177A9CB410FF61F20015AD := by
  decide +kernel

/-- RFC 4231, test case 1. -/
theorem test_hmac :
    beNat (hmac (List.replicate 20 0x0B#8) [0x48#8, 0x69#8, 0x20#8, 0x54#8, 0x68#8, 0x65#8, 0x72#8, 0x65#8]) =
      0xB0344C61D8DB38535CA8AFCEAF0BF12B881DC200C9833DA726E9376C2E32CFF7 := by
  decide +kernel

/-- The check value of CRC-32C over the nine bytes 31 to 39. -/
theorem test_crc32c : crc32c [0x31#8, 0x32#8, 0x33#8, 0x34#8, 0x35#8, 0x36#8, 0x37#8, 0x38#8, 0x39#8] = 0xE3069283 := by decide +kernel

/-! ### One step -/

/-- R420: with the 5 V rail good, group B is enabled first (rows V5_RAIL_GOOD, PWR_PG_RISE). -/
theorem test_step_rails :
    (match step ({ State.reset with pwr := { vin := true } }.withCommand .v5RailGood) with
      | .next u => (u.pwr.enabled, u.pending)
      | _ => ([], [.gridSlewEnd])) = ([0], []) := by
  decide +kernel

/-- R391 and Table 20.2: the interrupt enables keep their defined bits. -/
theorem test_step_irq_enable :
    (match step (run.withCommand (.hostRegisterWrite false 20 0xFFFFFFFF 9)) with
      | .next u => u.host.ns.irqEnable
      | _ => 0) = 0x177 := by
  decide +kernel

/-- R298: a FoM of H = 26 and V = 120 reads 97 (row FOM_PERIODIC). -/
theorem test_step_fom :
    (match step ((lane run 4).withCommand (.fomPeriodic 4 26 120)) with
      | .next u => u.nat O.fom 4
      | _ => 0) = 97 := by
  decide +kernel

/-- The empty queue idles (log entry 8). -/
theorem test_step_idle : (match step run with | .next u => u.now | _ => 1) = 0 := by decide +kernel

/-- The three balls of the worked example of 23_package_electrical.md. -/
theorem test_package_three_balls :
    ([Ball.w 12 3, .exc 31, .ddr true (.dq 41)].map fun b => (positionOf b).map positionName) =
      [some "M4", some "AB32", some "AK47"] := by
  decide +kernel

/-- The counts of Table 23.3, group by group. -/
theorem test_package_groups :
    [BallGroup.creelInputs, .creelExcitation, .highVoltage, .buck, .fieldIo, .lanes, .ddr4, .analogueTime, .digitalIo,
      .logicSupplies, .ground].map groupCount = [768, 128, 4 + 24 + 8, 7, 17, 97, 250, 9, 40, 240 + 36 + 16 + 52 + 32 + 16 + 2, 558] := by
  decide +kernel

/-- R446: the IDCODE of major revision 1. -/
theorem test_package_idcode : idcode 0x0100 = 0x105127AB := by decide +kernel

/-- StepKeepsInvariant: a state with the invariants that steps. -/
theorem witness_StepKeepsInvariant : Inv run ∧ step run = .next run :=
  ⟨⟨by unfold objsWf; decide +kernel, ⟨by decide +kernel, 0, trivial, by decide +kernel⟩, by unfold pendWf; decide +kernel, by unfold violWf; decide +kernel⟩, rfl⟩

/-- R233: the word with the last instant of its interval stores the record, once. -/
theorem test_last_word_stores_record :
    let early := redWord spn1_a 3 64 64 256
    let late := redWord spn1_a 3 639936 64 256
    (early.red 3).acc.map (·.stored) = some false ∧ (late.red 3).acc.map (·.stored) = some true ∧ (late.bytes O.redLast 3).length = 80 ∧
      (closeAcc none late 3).bobbin 3 = late.bobbin 3 ∧ (((closeAcc none late 3).red 3).acc.map (·.stored)) = some false := by
  decide +kernel

/-! ### The statements have instances: each hypothesis is met -/

theorem witness_EmptyQueueIdles :
    run.pending = [] :=
  by decide +kernel

theorem witness_OtpOnlyGains :
    step on = Host.Outcome.next on :=
  rfl

theorem witness_CommandsKeepOtherParts :
    exec Instr.pgRestartWait on = Host.Outcome.next on :=
  rfl

theorem witness_AcceptedWriteWaitsForItsBoundary :
    (requestOf (Instr.write 10496 2 5 (signed 2 O.tailTimeout.key (be 2 12))) =
    some (5, 2, O.tailTimeout.key, signed 2 O.tailTimeout.key (be 2 12)) ∧
  authentic srun 2 5 2 O.tailTimeout.key (signed 2 O.tailTimeout.key (be 2 12)) (some ses)
      (noted srun 5 2 O.tailTimeout.key (signed 2 O.tailTimeout.key (be 2 12))) ∧
    accepted (noted srun 5 2 O.tailTimeout.key (signed 2 O.tailTimeout.key (be 2 12))) (signed 2 O.tailTimeout.key (be 2 12))
        (row O.tailTimeout.key) O.tailTimeout.key (signed 2 O.tailTimeout.key (be 2 12)).data true ∧
      waitsFor (row O.tailTimeout.key) (signed 2 O.tailTimeout.key (be 2 12)).timed = true) ∧
    (requestOf (Instr.write 10496 2 5 (signed 2 O.tailTimeout.key (be 2 12) (some 3200000))) =
    some (5, 2, O.tailTimeout.key, signed 2 O.tailTimeout.key (be 2 12) (some 3200000)) ∧
  authentic srun 2 5 2 O.tailTimeout.key (signed 2 O.tailTimeout.key (be 2 12) (some 3200000)) (some ses)
      (noted srun 5 2 O.tailTimeout.key (signed 2 O.tailTimeout.key (be 2 12) (some 3200000))) ∧
    accepted (noted srun 5 2 O.tailTimeout.key (signed 2 O.tailTimeout.key (be 2 12) (some 3200000)))
        (signed 2 O.tailTimeout.key (be 2 12) (some 3200000)) (row O.tailTimeout.key) O.tailTimeout.key
        (signed 2 O.tailTimeout.key (be 2 12) (some 3200000)).data true ∧
      waitsFor (row O.tailTimeout.key) (signed 2 O.tailTimeout.key (be 2 12) (some 3200000)).timed = true) :=
  by
  and_intros <;> first | decide +kernel | (unfold authentic; decide +kernel) | (unfold accepted; decide +kernel)

theorem witness_AcceptedImmediateWriteActsNow :
    requestOf (Instr.syncCmd 5 (signed 2 O.syncCmd.key [1#8])) = some (5, 2, O.syncCmd.key, signed 2 O.syncCmd.key [1#8]) ∧
  authentic srun 2 5 2 O.syncCmd.key (signed 2 O.syncCmd.key [1#8]) (some ses)
      (noted srun 5 2 O.syncCmd.key (signed 2 O.syncCmd.key [1#8])) ∧
    accepted (noted srun 5 2 O.syncCmd.key (signed 2 O.syncCmd.key [1#8])) (signed 2 O.syncCmd.key [1#8]) (row O.syncCmd.key) O.syncCmd.key
        (signed 2 O.syncCmd.key [1#8]).data true ∧
      waitsFor (row O.syncCmd.key) (signed 2 O.syncCmd.key [1#8]).timed = false :=
  by
  and_intros <;> first | decide +kernel | (unfold authentic; decide +kernel) | (unfold accepted; decide +kernel)

theorem witness_AcceptedCommitActsNow :
    (requestOf (Instr.keyHash false true 5 (req hashCommit)) = some (5, 5, O.keyHash0.key, req hashCommit) ∧
  authentic hashed 0 5 5 O.keyHash0.key (req hashCommit) none (hashed.advance 5) ∧
    O.keyHash0.key ≠ O.updPayload.key ∧
      8 ≤ List.length (req hashCommit).data ∧
        touchSegs (hashed.advance 5) (req hashCommit) O.keyHash0.key = touchSegs (hashed.advance 5) (req hashCommit) O.keyHash0.key ∧
          List.find? (fun z => z.isOf (ownerOf (req hashCommit)) O.keyHash0.key)
                (touchSegs (hashed.advance 5) (req hashCommit) O.keyHash0.key).dict.segs =
              some acceptedCommit1_a ∧
            field (req hashCommit).data 0 4 = acceptedCommit1_a.total ∧
              List.length (covered acceptedCommit1_a.held acceptedCommit1_a.total) = acceptedCommit1_a.total ∧
                crc32c (covered acceptedCommit1_a.held acceptedCommit1_a.total) = field (req hashCommit).data 4 4 ∧
                  accepted (touchSegs (hashed.advance 5) (req hashCommit) O.keyHash0.key) (req hashCommit) (row O.keyHash0.key)
                    O.keyHash0.key (covered acceptedCommit1_a.held acceptedCommit1_a.total) false) ∧
    (authentic paid 2 5 5 O.updPayload.key (signed 5 O.updPayload.key payCommit) (some ses)
    (noted paid 5 5 O.updPayload.key (signed 5 O.updPayload.key payCommit)) ∧
  8 ≤ List.length (signed 5 O.updPayload.key payCommit).data ∧
    payloadState (noted paid 5 5 O.updPayload.key (signed 5 O.updPayload.key payCommit)) = 0 ∧
      List.length (payloadHeld (noted paid 5 5 O.updPayload.key (signed 5 O.updPayload.key payCommit))) =
          payloadSize (noted paid 5 5 O.updPayload.key (signed 5 O.updPayload.key payCommit)) ∧
        field (signed 5 O.updPayload.key payCommit).data 0 4 =
            payloadSize (noted paid 5 5 O.updPayload.key (signed 5 O.updPayload.key payCommit)) ∧
          crc32c (payloadHeld (noted paid 5 5 O.updPayload.key (signed 5 O.updPayload.key payCommit))) =
              field (signed 5 O.updPayload.key payCommit).data 4 4 ∧
            accepted (noted paid 5 5 O.updPayload.key (signed 5 O.updPayload.key payCommit)) (signed 5 O.updPayload.key payCommit)
                (row O.updPayload.key) O.updPayload.key
                (payloadHeld (noted paid 5 5 O.updPayload.key (signed 5 O.updPayload.key payCommit))) false ∧
              waitsFor (row O.updPayload.key) (signed 5 O.updPayload.key payCommit).timed = false) :=
  by
  and_intros <;> first | decide +kernel | (unfold authentic; decide +kernel) | (unfold accepted; decide +kernel)

theorem witness_RefusedRequestsChangeNothing :
    (requestOf (Instr.write 10496 2 5 (req (be 2 12))) = some (5, 2, O.tailTimeout.key, req (be 2 12)) ∧
  authentic run 0 5 2 O.tailTimeout.key (req (be 2 12)) none (run.advance 5) ∧
    16777217 ≠ 0 ∧
      (writeRow (run.advance 5) (O.tailTimeout.key / 256) (O.tailTimeout.key % 256) (req (be 2 12)).principal = (16777217, none) ∨
        ∃ d w,
          writeRow (run.advance 5) (O.tailTimeout.key / 256) (O.tailTimeout.key % 256) (req (be 2 12)).principal = (0, some d) ∧
            w = { d := d, key := O.tailTimeout.key, val := stored d O.tailTimeout.key (decodeValue d.typ (req (be 2 12)).data) } ∧
              (typeAbort d (req (be 2 12)).data true = 16777217 ∨
                typeAbort d (req (be 2 12)).data true = 0 ∧
                  (fiveToSeven (run.advance 5) (req (be 2 12)).principal (req (be 2 12)).timed false false [w] w = 16777217 ∨
                    fiveToSeven (run.advance 5) (req (be 2 12)).principal (req (be 2 12)).timed false false [w] w = 0 ∧
                      stepEight (run.advance 5) [w] (effectTime (run.advance 5) d (req (be 2 12)).timed) (req (be 2 12)).timed
                          (waitsFor d (req (be 2 12)).timed) =
                        16777217)))) ∧
    (requestOf (Instr.write 10496 2 5 (signed 2 O.tailTimeout.key (be 1 12))) =
    some (5, 2, O.tailTimeout.key, signed 2 O.tailTimeout.key (be 1 12)) ∧
  authentic srun 2 5 2 O.tailTimeout.key (signed 2 O.tailTimeout.key (be 1 12)) (some ses)
      (noted srun 5 2 O.tailTimeout.key (signed 2 O.tailTimeout.key (be 1 12))) ∧
    33554434 ≠ 0 ∧
      (writeRow (noted srun 5 2 O.tailTimeout.key (signed 2 O.tailTimeout.key (be 1 12))) (O.tailTimeout.key / 256)
            (O.tailTimeout.key % 256) (signed 2 O.tailTimeout.key (be 1 12)).principal =
          (33554434, none) ∨
        ∃ d w,
          writeRow (noted srun 5 2 O.tailTimeout.key (signed 2 O.tailTimeout.key (be 1 12))) (O.tailTimeout.key / 256)
                (O.tailTimeout.key % 256) (signed 2 O.tailTimeout.key (be 1 12)).principal =
              (0, some d) ∧
            w =
                { d := d, key := O.tailTimeout.key,
                  val := stored d O.tailTimeout.key (decodeValue d.typ (signed 2 O.tailTimeout.key (be 1 12)).data) } ∧
              (typeAbort d (signed 2 O.tailTimeout.key (be 1 12)).data true = 33554434 ∨
                typeAbort d (signed 2 O.tailTimeout.key (be 1 12)).data true = 0 ∧
                  (fiveToSeven (noted srun 5 2 O.tailTimeout.key (signed 2 O.tailTimeout.key (be 1 12)))
                        (signed 2 O.tailTimeout.key (be 1 12)).principal (signed 2 O.tailTimeout.key (be 1 12)).timed false false [w] w =
                      33554434 ∨
                    fiveToSeven (noted srun 5 2 O.tailTimeout.key (signed 2 O.tailTimeout.key (be 1 12)))
                          (signed 2 O.tailTimeout.key (be 1 12)).principal (signed 2 O.tailTimeout.key (be 1 12)).timed false false [w] w =
                        0 ∧
                      stepEight (noted srun 5 2 O.tailTimeout.key (signed 2 O.tailTimeout.key (be 1 12))) [w]
                          (effectTime (noted srun 5 2 O.tailTimeout.key (signed 2 O.tailTimeout.key (be 1 12))) d
                            (signed 2 O.tailTimeout.key (be 1 12)).timed)
                          (signed 2 O.tailTimeout.key (be 1 12)).timed (waitsFor d (signed 2 O.tailTimeout.key (be 1 12)).timed) =
                        33554434)))) ∧
    (requestOf (Instr.write 10496 2 5 (signed 2 O.tailTimeout.key (be 2 0))) =
    some (5, 2, O.tailTimeout.key, signed 2 O.tailTimeout.key (be 2 0)) ∧
  authentic srun 2 5 2 O.tailTimeout.key (signed 2 O.tailTimeout.key (be 2 0)) (some ses)
      (noted srun 5 2 O.tailTimeout.key (signed 2 O.tailTimeout.key (be 2 0))) ∧
    33554433 ≠ 0 ∧
      (writeRow (noted srun 5 2 O.tailTimeout.key (signed 2 O.tailTimeout.key (be 2 0))) (O.tailTimeout.key / 256) (O.tailTimeout.key % 256)
            (signed 2 O.tailTimeout.key (be 2 0)).principal =
          (33554433, none) ∨
        ∃ d w,
          writeRow (noted srun 5 2 O.tailTimeout.key (signed 2 O.tailTimeout.key (be 2 0))) (O.tailTimeout.key / 256)
                (O.tailTimeout.key % 256) (signed 2 O.tailTimeout.key (be 2 0)).principal =
              (0, some d) ∧
            w =
                { d := d, key := O.tailTimeout.key,
                  val := stored d O.tailTimeout.key (decodeValue d.typ (signed 2 O.tailTimeout.key (be 2 0)).data) } ∧
              (typeAbort d (signed 2 O.tailTimeout.key (be 2 0)).data true = 33554433 ∨
                typeAbort d (signed 2 O.tailTimeout.key (be 2 0)).data true = 0 ∧
                  (fiveToSeven (noted srun 5 2 O.tailTimeout.key (signed 2 O.tailTimeout.key (be 2 0)))
                        (signed 2 O.tailTimeout.key (be 2 0)).principal (signed 2 O.tailTimeout.key (be 2 0)).timed false false [w] w =
                      33554433 ∨
                    fiveToSeven (noted srun 5 2 O.tailTimeout.key (signed 2 O.tailTimeout.key (be 2 0)))
                          (signed 2 O.tailTimeout.key (be 2 0)).principal (signed 2 O.tailTimeout.key (be 2 0)).timed false false [w] w =
                        0 ∧
                      stepEight (noted srun 5 2 O.tailTimeout.key (signed 2 O.tailTimeout.key (be 2 0))) [w]
                          (effectTime (noted srun 5 2 O.tailTimeout.key (signed 2 O.tailTimeout.key (be 2 0))) d
                            (signed 2 O.tailTimeout.key (be 2 0)).timed)
                          (signed 2 O.tailTimeout.key (be 2 0)).timed (waitsFor d (signed 2 O.tailTimeout.key (be 2 0)).timed) =
                        33554433)))) ∧
    (requestOf (Instr.write 10496 2 5 (sreq (be 2 12) 1 7 (zeros 16))) = some (5, 2, O.tailTimeout.key, sreq (be 2 12) 1 7 (zeros 16)) ∧
  (sreq (be 2 12) 1 7 (zeros 16)).path = Path.mailbox 2 ∧
    (srun.advance 5).mbServed = true ∧
      (askOf 2 (O.tailTimeout.key / 256) (O.tailTimeout.key % 256) (sreq (be 2 12) 1 7 (zeros 16))).tooLong = false ∧
        mailboxAuth (srun.advance 5) 2 (askOf 2 (O.tailTimeout.key / 256) (O.tailTimeout.key % 256) (sreq (be 2 12) 1 7 (zeros 16))) =
            (100663298, some ses) ∧
          100663298 ≠ 0) :=
  ⟨⟨rfl, by unfold authentic; decide +kernel, by decide, Or.inl (by decide +kernel)⟩, ⟨rfl, by unfold authentic; decide +kernel, by decide, Or.inr ⟨_, _, rfl, rfl, Or.inl (by decide +kernel)⟩⟩, ⟨rfl, by unfold authentic; decide +kernel, by decide, Or.inr ⟨_, _, rfl, rfl, Or.inr ⟨by decide +kernel, Or.inl (by decide +kernel)⟩⟩⟩, by decide +kernel⟩

theorem witness_ReadAnswersValue :
    authentic run 0 5 1 ((10496#16).toNat * 256 + (2#8).toNat) (req []) none (run.advance 5) ∧
  readRow ((10496#16).toNat) ((2#8).toNat) (req []).principal = (0, some (row O.tailTimeout.key)) ∧
    List.length
        (takeValue (beforeRead (run.advance 5) ((10496#16).toNat * 256 + (2#8).toNat)) ((10496#16).toNat) ((2#8).toNat)
          (some (row O.tailTimeout.key))) ≤
      8 :=
  by
  and_intros <;> first | decide +kernel | (unfold authentic; decide +kernel)

theorem witness_CancelRemovesPendingWrite :
    authentic waiting 2 5 8 ((10496#16).toNat * 256 + (2#8).toNat) (signed 8 O.tailTimeout.key []) (some ses)
    (noted waiting 5 8 O.tailTimeout.key (signed 8 O.tailTimeout.key [])) ∧
  writeRow (noted waiting 5 8 O.tailTimeout.key (signed 8 O.tailTimeout.key [])) ((10496#16).toNat) ((2#8).toNat)
        (signed 8 O.tailTimeout.key []).principal =
      (0, some (row O.tailTimeout.key)) ∧
    isBooting (noted waiting 5 8 O.tailTimeout.key (signed 8 O.tailTimeout.key [])) = false ∧
      List.find? (fun x => x.timed)
            (List.filter (fun w => w.key.beq ((10496#16).toNat * 256 + (2#8).toNat))
              (noted waiting 5 8 O.tailTimeout.key (signed 8 O.tailTimeout.key [])).dict.pend) =
          some tailWrite ∧
        (noted waiting 5 8 O.tailTimeout.key (signed 8 O.tailTimeout.key [])).now + 1280000 ≤ tailWrite.t :=
  by
  and_intros <;> first | decide +kernel | (unfold authentic; decide +kernel)

theorem witness_BatchIsAcceptedWhole :
    authentic srun 2 5 7 0 (signed 7 0 batchBytes (some 3200000)) (some ses) (noted srun 5 7 0 (signed 7 0 batchBytes (some 3200000))) ∧
  decodeBatch (signed 7 0 batchBytes (some 3200000)).data = some [{ idx := 10496, sub := 2, val := be 2 12 }] ∧
    (signed 7 0 batchBytes (some 3200000)).timed = some 3200000 ∧
      List.map (entryWrite (noted srun 5 7 0 (signed 7 0 batchBytes (some 3200000))) (signed 7 0 batchBytes (some 3200000)).principal)
            [{ idx := 10496, sub := 2, val := be 2 12 }] =
          List.map (fun w => (0, some w)) [{ d := row O.tailTimeout.key, key := O.tailTimeout.key, val := Val.int 12 }] ∧
        (∀ (w : NewWrite), w ∈ [{ d := row O.tailTimeout.key, key := O.tailTimeout.key, val := Val.int 12 }] → inRange w.d w.val = true) ∧
          firstPass (noted srun 5 7 0 (signed 7 0 batchBytes (some 3200000))) (signed 7 0 batchBytes (some 3200000)).principal
                (signed 7 0 batchBytes (some 3200000)).timed [{ d := row O.tailTimeout.key, key := O.tailTimeout.key, val := Val.int 12 }] 0
                [] (List.map (fun w => (0, some w)) [{ d := row O.tailTimeout.key, key := O.tailTimeout.key, val := Val.int 12 }]) =
              none ∧
            secondPass (noted srun 5 7 0 (signed 7 0 batchBytes (some 3200000))) 3200000 (signed 7 0 batchBytes (some 3200000)).timed
                [{ d := row O.tailTimeout.key, key := O.tailTimeout.key, val := Val.int 12 }] =
              none :=
  by
  and_intros <;> first | decide +kernel | (unfold authentic; decide +kernel)

theorem witness_SegmentedTransfersStage :
    (authentic run 0 5 4 ((5120#16).toNat * 256 + (3#8).toNat) (req hashPiece) none (run.advance 5) ∧
  writeRow (run.advance 5) ((5120#16).toNat) ((3#8).toNat) (req hashPiece).principal = (0, some (row O.keyHash0.key)) ∧
    isBooting (run.advance 5) = false ∧ segWriteMalformed (req hashPiece).data = false) ∧
    (authentic hashed 0 5 6 ((5120#16).toNat * 256 + (3#8).toNat) (req []) none (hashed.advance 5) ∧
  writeRow (hashed.advance 5) ((5120#16).toNat) ((3#8).toNat) (req []).principal = (0, some (row O.keyHash0.key))) ∧
    (authentic run 0 5 3 ((10496#16).toNat * 256 + (2#8).toNat) (req (be 4 0 ++ be 4 8)) none (run.advance 5) ∧
  8 ≤ List.length (req (be 4 0 ++ be 4 8)).data ∧
    1 ≤ field (req (be 4 0 ++ be 4 8)).data 4 4 ∧
      field (req (be 4 0 ++ be 4 8)).data 4 4 ≤ 8160 ∧
        readRow ((10496#16).toNat) ((2#8).toNat) (req (be 4 0 ++ be 4 8)).principal = (0, some (row O.tailTimeout.key))) :=
  by
  and_intros <;> first | decide +kernel | (unfold authentic; decide +kernel)

theorem witness_SessionsOpenProveClose :
    (authentic keyed 2 5 9 0 (sreq (5#8 :: zeros 16) 0 7 (zeros 16)) none (keyed.advance 5) ∧
  ((sreq (5#8 :: zeros 16) 0 7 (zeros 16)).principal = Principal.peer ∨
      (sreq (5#8 :: zeros 16) 0 7 (zeros 16)).principal = Principal.sHost) ∧
    List.length (sreq (5#8 :: zeros 16) 0 7 (zeros 16)).data = 17 ∧
      wantedKey (keyed.advance 5) (sreq (5#8 :: zeros 16) 0 7 (zeros 16)) = some (Principal.sHost, zeros 32) ∧
        (liveSessions (keyed.advance 5)).length < 16) ∧
    (authentic proving 2 5 10 0 (signed 10 0 []) (some sess2_a) (noted proving 5 10 0 (signed 10 0 [])) ∧
  (sess2_a.live = true ∨ (liveSessions (noted proving 5 10 0 (signed 10 0 []))).length < 16)) ∧
    (authentic srun 2 5 11 0 (signed 11 0 []) (some ses) (noted srun 5 11 0 (signed 11 0 []))) :=
  by
  and_intros <;> first | decide +kernel | (unfold authentic; decide +kernel)

theorem witness_TransfersAndStoresEnd :
    (List.find? (fun y => y.id.beq ((1#8).toNat)) srun.dict.sessions = some ses) ∧
    (List.find? (fun z => z.key.beq ((5120#16).toNat * 256 + (3#8).toNat)) hashed.dict.segs = some hashSeg) ∧
    (List.find? (fun z => z.key.beq ((10496#16).toNat * 256 + (2#8).toNat)) snapped.dict.snaps = some snap) ∧
    (storing.dict.storing = some []) :=
  by
  and_intros <;> decide +kernel

theorem witness_SecurityWritesTakeEffect :
    ((wr O.keyHash0.key (Val.bytes hash7)).key = O.keyHash0.key) ∧
    ((wr O.keyHash1.key (Val.bytes hash7)).key = O.keyHash1.key) ∧
    ((wr O.revokeKey.key (Val.int 0)).key = O.revokeKey.key) ∧
    ((wr O.kRoot.key (Val.bytes hash7)).key = O.kRoot.key) ∧
    ((wr O.kShost.key (Val.bytes hash7)).key = O.kShost.key) ∧
    ((wr O.lcRequest.key (Val.int 1)).key = O.lcRequest.key ∧
  (wr O.lcRequest.key (Val.int 1)).val.toInt.toNat % 256 = 1 ∧
    (lcTransitions.any fun x => decide (x.fst = run.nvm.lc ∧ x.snd.fst = 1)) = true) ∧
    ((wr O.kShost.key (Val.bytes hash7)).key = O.keyHash0.key ∨
  (wr O.kShost.key (Val.bytes hash7)).key = O.keyHash1.key ∨
    (wr O.kShost.key (Val.bytes hash7)).key = O.kRoot.key ∨ (wr O.kShost.key (Val.bytes hash7)).key = O.kShost.key) :=
  by
  and_intros <;> decide +kernel

theorem witness_HubCommandsTakeEffect :
    ((wr O.fullReset.key (Val.int 1)).key = O.fullReset.key) ∧
    ((wr O.coreRestart.key (Val.int 1)).key = O.coreRestart.key) ∧
    ((wr O.sleepReq.key (Val.int 1)).key = O.sleepReq.key) ∧
    ((wr O.reepoch.key (Val.int 1)).key = O.reepoch.key) ∧
    ((wr O.syncCmd.key (Val.int 1)).key = O.syncCmd.key) ∧
    ((wr O.calStart.key (Val.int 1)).key = O.calStart.key) ∧
    ((wr O.switchOver.key (Val.int 1)).key = O.switchOver.key) ∧
    ((wr O.store.key (Val.int 1)).key = O.store.key) ∧
    ((wr O.restoreDefaults.key (Val.int 1)).key = O.restoreDefaults.key) ∧
    ((wr O.updConfirm.key (Val.int 1)).key = O.updConfirm.key) ∧
    ((wr O.updAbort.key (Val.int 1)).key = O.updAbort.key) ∧
    (run.nvm.pointer.active ≤ 1 ∧ (wr O.updActivate.key (Val.int 1)).key = O.updActivate.key) ∧
    ((run.put O.updState 0 5).nvm.pointer.active ≤ 1 ∧ (wr O.updReject.key (Val.int 1)).key = O.updReject.key) :=
  by
  and_intros <;> decide +kernel

theorem witness_BlockCommandsAndSettingsTakeEffect :
    ((wr (O.reelArm.at 2) (Val.int 1)).key = O.reelArm.at ↑2) ∧
    ((wr (O.reelRelease.at 2) (Val.int 1)).key = O.reelRelease.at ↑2 ∧ (holding.reel ↑2).held = [{ id := 9, bytes := zeros 4 }]) ∧
    ((wr (O.bobbinDiscard.at 2) (Val.int 1)).key = O.bobbinDiscard.at ↑2) ∧
    ((wr O.portReset.key (Val.int 514)).key = O.portReset.key ∧ (wr O.portReset.key (Val.int 514)).val.toInt.toNat = 512 + ↑2) ∧
    ((wr (O.injStart.at 2) (Val.int 1)).key = O.injStart.at ↑2 ∧
  (injOf (run.putB O.seqInjected 2 (be 1 1 ++ be 1 0 ++ be 2 0 ++ be 4 1)).objs ↑2).snd ≠ [] ∧
    interleaved (run.putB O.seqInjected 2 (be 1 1 ++ be 1 0 ++ be 2 0 ++ be 4 1)).objs ↑2 = false) ∧
    ((wr O.portReset.key (Val.int 258)).key = O.portReset.key ∧
  (wr O.portReset.key (Val.int 258)).val.toInt.toNat = 256 + ↑2 ∧ ((lane run 2).put O.laneAdmin 2 1).nat O.laneAdmin ↑2 = 1) ∧
    ((wr O.portReset.key (Val.int 770)).key = O.portReset.key ∧ (wr O.portReset.key (Val.int 770)).val.toInt.toNat = 768 + ↑2) ∧
    ((wr (O.laneStepObj.at 2) (Val.int 1)).key = O.laneStepObj.at ↑2 ∧ (blk4s_a.lane ↑2).step = none ∧ laneServes blk4s_a ↑2 = true) ∧
    ((wr O.domainCtrl.key (Val.int 3)).val = Val.int ↑3 ∧ (wr O.domainCtrl.key (Val.int 3)).key = O.domainCtrl.key) ∧
    ((wr O.dramSpeed.key (Val.int 3)).val = Val.int ↑3 ∧ (wr O.dramSpeed.key (Val.int 3)).key = O.dramSpeed.key) ∧
    ((wr (O.maxSpeed.at 2) (Val.int 3)).val = Val.int ↑3 ∧ (wr (O.maxSpeed.at 2) (Val.int 3)).key = O.maxSpeed.at ↑2) ∧
    ((wr (O.laneTest.at 2) (Val.int 3)).val = Val.int ↑3 ∧ (wr (O.laneTest.at 2) (Val.int 3)).key = O.laneTest.at ↑2) ∧
    ((wr (O.laneAdmin.at 2) (Val.int 1)).val = Val.int ↑1 ∧ (wr (O.laneAdmin.at 2) (Val.int 1)).key = O.laneAdmin.at ↑2) ∧
    ((wr (O.laneAdmin.at 2) (Val.int 0)).val = Val.int ↑0 ∧ (wr (O.laneAdmin.at 2) (Val.int 0)).key = O.laneAdmin.at ↑2) ∧
    ((wr (O.laneAdmin.at 2) (Val.int 2)).val = Val.int ↑2 ∧ (wr (O.laneAdmin.at 2) (Val.int 2)).key = O.laneAdmin.at ↑2) :=
  by
  and_intros <;> decide +kernel

theorem witness_RequestsTakeEffect :
    ((wr O.windowReq.key (Val.bytes (zeros 20))).key = O.windowReq.key) ∧
    ((wr O.dirQuery.key (Val.bytes (zeros 20))).key = O.dirQuery.key) ∧
    ((wr O.retroJob.key (Val.bytes retroBytes)).key = O.retroJob.key ∧ retroAborts (wr O.retroJob.key (Val.bytes retroBytes)).val.toBytes = false) ∧
    ((wr O.retroJob.key (Val.bytes [0#8])).key = O.retroJob.key ∧
  retroAborts (wr O.retroJob.key (Val.bytes [0#8])).val.toBytes = true ∧
    retroing.nat O.retroState = 1 ∧ retroing.root.retro = some retroIdle) ∧
    ((wr O.actJob.key (Val.bytes (be 2 1 ++ be 2 1 ++ be 8 6400000000 ++ be 2 9 ++ zeros 32))).key = O.actJob.key) ∧
    ((wr O.updManifest.key (Val.bytes (zeros 20))).key = O.updManifest.key) ∧
    ((wr O.relayAck.key (Val.bytes (zeros 20))).key = O.relayAck.key) :=
  by
  and_intros <;> decide +kernel

theorem witness_ResetsActAsTheirClass :
    (State.reset.pwr.vin = false ∧ 8600 ≤ 12000 ∧ 12000 ≤ 64000) ∧
    (rst1k_a.pwr.vin = false ∧ 8600 ≤ 64000 ∧ 64000 ≤ 64000) ∧
    (srun.pwr.vin = true ∧ (8199 < 8200 ∨ 64000 < 8199)) ∧
    ((rising 1).pwr.enabled.contains ↑1 = true ∧ (rising 1).pwr.good.contains ↑1 = false ∧ (rising 1).pwr.sleep = none) ∧
    (rst3b_a.pwr.enabled.contains ↑1 = true ∧ rst3b_a.pwr.good.contains ↑1 = false ∧ rst3b_a.pwr.sleep = none) ∧
    (srun.pwr.good.contains ↑2 = true) ∧
    (1000 ≤ 1000 ∧ srun.pwr.held = false) ∧
    (rst6_a.pwr.booted = true ∧
  inRestart rst6_a = false ∧ rst6_a.pwr.sleep = none ∧ rst6_a.nat O.updState ≠ 5 ∧ rst6_a.pwr.wdEnd = some 3 ∧ 9 ≤ 3 + 10 * secondTicks) ∧
    (rst7_a.pwr.buckStop = true ∧ 7999 < 125 * 64) ∧
    (srun.pwr.booted = true ∧
  inRestart srun = false ∧
    srun.pwr.sleep = none ∧ srun.nat O.updState ≠ 5 ∧ (srun.pwr.wdEnd = none ∨ ∃ e, srun.pwr.wdEnd = some e ∧ e + 10 * secondTicks < 9)) ∧
    (onTrial.pwr.booted = true ∧
  inRestart onTrial = false ∧ onTrial.pwr.sleep = none ∧ onTrial.nat O.updState = 5 ∧ onTrial.nvm.pointer.active ≤ 1) ∧
    (inRestart restarting = true) :=
  by
  and_intros <;> first | decide +kernel | (left; decide +kernel)

theorem witness_RailsComeUpInOrder :
    (rail1_a.pwr.vin = true ∧ rail1_a.pwr.v5 = false ∧ rail1_a.pwr.buckStop = false) ∧
    ((rising 1).pwr.enabled.contains ↑1 = true ∧ (rising 1).pwr.good.contains ↑1 = false ∧ (rising 1).pwr.sleep = none) ∧
    ((rising 2).pwr.enabled.contains ↑2 = true ∧ (rising 2).pwr.good.contains ↑2 = false ∧ (rising 2).pwr.sleep = none) ∧
    (rail3_a.pwr.pgWait = true) ∧
    (rail4_a.pwr.held = true) ∧
    (logicRuns rail5_a.pwr = true) ∧
    (run.nat O.vexcMax + 100 < 60000) :=
  by
  and_intros <;> decide +kernel

theorem witness_PmbusDevicesArePolled :
    polled.pwr.booted = true ∧ polled.pwr.sleep = none :=
  by decide +kernel

theorem witness_ThermalLimitsAct :
    srun.pwr.sleep = none ∧ srun.pwr.buckStop = false ∧ logicRuns srun.pwr = true ∧ srun.gridOn = true :=
  by decide +kernel

theorem witness_SleepWipesThePoweredDownBlocks :
    sleep_a.pwr.sleepDue = some rest ∧ sleep_a.gridOn = true ∧ rest.ts ≤ sleep_a.samp.lastFrame :=
  by decide +kernel

theorem witness_WakesReturnToReady :
    ((asleep false).pwr.sleep = some rest ∧ rest.thermal = false ∧ wakeEnabled (asleep false) (WakeSource.hostSelect true) = true) ∧
    ((asleep false).pwr.sleep = some rest ∧ rest.thermal = false ∧ bitOf ((asleep false).nat O.wakeEnable) 0 = true) ∧
    ((asleep true).pwr.sleep = some tripped ∧ tripped.thermal = true ∧ cooled.hub ≤ 95 * 64 ∧ cooled.conv ≤ 95 * 64 ∧ cooled.field ≤ 115 * 64) :=
  by
  and_intros <;> decide +kernel

theorem witness_StartUpReachesReady :
    (logicRuns start1_a.pwr = true ∧
  start1_a.pwr.sram = true ∧ start1_a.pwr.booted = false ∧ start1_a.pwr.copyRead = false ∧ start1_a.pwr.sleep = none) ∧
    (rowOf O.tailTimeout.key = some (row O.tailTimeout.key)) ∧
    (logicRuns booting.pwr = true ∧ booting.pwr.sram = true ∧ booting.pwr.copyRead = true ∧ booting.pwr.booted = false ∧ booting.pwr.sleep = none) ∧
    (wiping.dram.wiping = true ∧ wiping.dram.ready = true) ∧
    (startReady starting = true ∧
  (classify ((advanceStrands (starting.advance 9) {}).nat O.voteThreshold) (strandsIn (advanceStrands (starting.advance 9) {}) [2])).set ≠
    []) ∧
    (startReady waitingStart = true ∧
  waitingStart.time.firstTracking = some 9 ∧
    (classify (waitingStart.nat O.voteThreshold) (strandsIn waitingStart [2])).set = [] ∧
      [2, 3, 4].contains (waitingStart.nat O.strandState waitingStart.time.firstStrand) = true) ∧
    (startReady gmStart = true ∧ gmStart.bool O.gmEnable = true ∧ gmStart.bool O.isGm = true ∧ noSourceYet gmStart = true) :=
  by
  and_intros <;> decide +kernel

theorem witness_TimeEventsAct :
    (time1_a.time.slewEnd = some 640 ∧ time1_a.gridOn = true) ∧
    (todd.time.ppsEdge = some (0, [1, 2, 3]) ∧
  zda.zda = true ∧ zda.checksum = true ∧ 0 + 10 * msTicks ≤ 10 * msTicks ∧ 10 * msTicks ≤ 0 + 900 * msTicks) ∧
    (todd.time.ppsEdge = some (0, [1, 2, 3]) ∧
  ¬(badZda.zda = true ∧ badZda.checksum = true ∧ 0 + 10 * msTicks ≤ 10 * msTicks ∧ 10 * msTicks ≤ 0 + 900 * msTicks)) ∧
    (ppsDriven (run.put O.ppsOutEnable 0 1) = true) :=
  by
  and_intros <;> decide +kernel

theorem witness_FrameBoundariesAndReepochs :
    (frame1_a.gridOn = true ∧
  frame1_a.pwr.sleep = none ∧
    ((frame1_a.time.pause.isSome || frame1_a.upd.gapFrom.isSome) = true ∨ frame1_a.samp.lastFrame + frameTicks ≤ frame1_a.samp.lastSlot)) ∧
    (frame1r_a.gridOn = true ∧
  frame1r_a.pwr.sleep = none ∧
    ((frame1r_a.time.pause.isSome || frame1r_a.upd.gapFrom.isSome) = true ∨ frame1r_a.samp.lastFrame + frameTicks ≤ frame1r_a.samp.lastSlot)) ∧
    (frame2_a.time.reepochAt = some 0 ∧ frame2_a.gridOn = true ∧ frame2_a.samp.lastFrame = 0 ∧ frame2_a.time.pause = none) ∧
    (frame3_a.time.pause = some epoch0 ∧ epoch0.start ≤ frame3_a.samp.lastFrame) :=
  by
  and_intros <;> decide +kernel

theorem witness_PtpMessagesReceived :
    (ptpBreaks linked (↑rx1.port) ptp1_a = true) ∧
    ((ptpBreaks linked (↑rx1.port) syn = false ∧ portDisabled linked ↑rx1.port = false) ∧ syn.mtype = 0 ∧ trunkPort ↑rx1.port = true) ∧
    ((ptpBreaks linked (↑rx1.port) ptp3_a = false ∧ portDisabled linked ↑rx1.port = false) ∧
  ptp3_a.mtype = 11 ∧ trunkPort ↑rx1.port = true ∧ ptp3_a.announce = some ann) ∧
    ((ptpBreaks linked (↑rx1.port) (pd 2) = false ∧ portDisabled linked ↑rx1.port = false) ∧
  (pd 2).mtype = 2 ∧ (List.filter (fun w => (rxTick rx1).blt (w + secondTicks)) (linked.pdelay ↑rx1.lane).answered).length < 160) ∧
    ((ptpBreaks ptp6_a (↑rx1.port) (pd 3) = false ∧ portDisabled ptp6_a ↑rx1.port = false) ∧
  (pd 3).mtype = 3 ∧ (ptp6_a.pdelay ↑rx1.lane).asked = some (0, (pd 3).seq) ∧ rxBase ptp6_a rx1 ≤ 0 + 10 * msTicks * 65536) ∧
    ((ptpBreaks linked (↑ptp8_a.port) ptp8_b = false ∧ portDisabled linked ↑ptp8_a.port = false) ∧
  laneQualified linked ↑ptp8_a.lane = true ∧ ptp8_b.mtype = 0 ∧ ↑ptp8_a.port = 19) :=
  by
  and_intros <;> decide +kernel

theorem witness_PortsSendFrames :
    (laneServes linked ↑0 = true ∧ linked.bool O.portEnable (portOf ↑0) = true) ∧
    ((linked.put O.isGm 0 1).bool O.isGm = true ∧ (linked.put O.isGm 0 1).gridOn = true) ∧
    ((linked.put O.isGm 0 1).bool O.isGm = true) ∧
    (portDisabled linked 19 = false) ∧
    (linked.nat O.strandState linked.time.refOsc ≠ 3) ∧
    ((run.put O.strandState 0 3).nat O.strandState (run.put O.strandState 0 3).time.refOsc = 3) ∧
    (¬(tapRole run.objs = true ∧ 22 ≤ ↑0) ∧
  (if
          laneServes
              (goAckSent
                ((run.elapse (65536 / 65536) {}).setEgress (portOf ↑0)
                  { queue := (run.egress (portOf ↑0)).queue, launch := (run.egress (portOf ↑0)).launch,
                    line := (run.egress (portOf ↑0)).line.erase ↑0, stripe := (run.egress (portOf ↑0)).stripe,
                    waiting := (run.egress (portOf ↑0)).waiting, overrun := (run.egress (portOf ↑0)).overrun,
                    stamp := (run.egress (portOf ↑0)).stamp })
                (↑0) (65536 / 65536) ((run.egress (portOf ↑0)).line.find? ↑0))
              ↑0 =
            true then
        nextFrameOn
          (goAckSent
            ((run.elapse (65536 / 65536) {}).setEgress (portOf ↑0)
              { queue := (run.egress (portOf ↑0)).queue, launch := (run.egress (portOf ↑0)).launch,
                line := (run.egress (portOf ↑0)).line.erase ↑0, stripe := (run.egress (portOf ↑0)).stripe,
                waiting := (run.egress (portOf ↑0)).waiting, overrun := (run.egress (portOf ↑0)).overrun,
                stamp := (run.egress (portOf ↑0)).stamp })
            (↑0) (65536 / 65536) ((run.egress (portOf ↑0)).line.find? ↑0))
          (portOf ↑0) (↑0) (65536 / 65536)
      else none) =
      none ∧
    nextStep
        (goAckSent
          ((run.elapse (65536 / 65536) {}).setEgress (portOf ↑0)
            { queue := (run.egress (portOf ↑0)).queue, launch := (run.egress (portOf ↑0)).launch,
              line := (run.egress (portOf ↑0)).line.erase ↑0, stripe := (run.egress (portOf ↑0)).stripe,
              waiting := (run.egress (portOf ↑0)).waiting, overrun := (run.egress (portOf ↑0)).overrun,
              stamp := (run.egress (portOf ↑0)).stamp })
          (↑0) (65536 / 65536) ((run.egress (portOf ↑0)).line.find? ↑0))
        (portOf ↑0) (↑0) (65536 / 65536) =
      none) ∧
    (¬(tapRole port7_a.objs = true ∧ 22 ≤ ↑0) ∧
  nextStep
        (goAckSent
          ((port7_a.elapse (65536 / 65536) {}).setEgress (portOf ↑0)
            { queue := (port7_a.egress (portOf ↑0)).queue, launch := (port7_a.egress (portOf ↑0)).launch,
              line := (port7_a.egress (portOf ↑0)).line.erase ↑0, stripe := (port7_a.egress (portOf ↑0)).stripe,
              waiting := (port7_a.egress (portOf ↑0)).waiting, overrun := (port7_a.egress (portOf ↑0)).overrun,
              stamp := (port7_a.egress (portOf ↑0)).stamp })
          (↑0) (65536 / 65536) ((port7_a.egress (portOf ↑0)).line.find? ↑0))
        (portOf ↑0) (↑0) (65536 / 65536) =
      some (port7_b, []) ∧
    ((if
            laneServes
                (goAckSent
                  ((port7_a.elapse (65536 / 65536) {}).setEgress (portOf ↑0)
                    { queue := (port7_a.egress (portOf ↑0)).queue, launch := (port7_a.egress (portOf ↑0)).launch,
                      line := (port7_a.egress (portOf ↑0)).line.erase ↑0, stripe := (port7_a.egress (portOf ↑0)).stripe,
                      waiting := (port7_a.egress (portOf ↑0)).waiting, overrun := (port7_a.egress (portOf ↑0)).overrun,
                      stamp := (port7_a.egress (portOf ↑0)).stamp })
                  (↑0) (65536 / 65536) ((port7_a.egress (portOf ↑0)).line.find? ↑0))
                ↑0 =
              true then
          nextFrameOn
            (goAckSent
              ((port7_a.elapse (65536 / 65536) {}).setEgress (portOf ↑0)
                { queue := (port7_a.egress (portOf ↑0)).queue, launch := (port7_a.egress (portOf ↑0)).launch,
                  line := (port7_a.egress (portOf ↑0)).line.erase ↑0, stripe := (port7_a.egress (portOf ↑0)).stripe,
                  waiting := (port7_a.egress (portOf ↑0)).waiting, overrun := (port7_a.egress (portOf ↑0)).overrun,
                  stamp := (port7_a.egress (portOf ↑0)).stamp })
              (↑0) (65536 / 65536) ((port7_a.egress (portOf ↑0)).line.find? ↑0))
            (portOf ↑0) (↑0) (65536 / 65536)
        else none) =
        none ∨
      ∃ g rest,
        (if
                laneServes
                    (goAckSent
                      ((port7_a.elapse (65536 / 65536) {}).setEgress (portOf ↑0)
                        { queue := (port7_a.egress (portOf ↑0)).queue, launch := (port7_a.egress (portOf ↑0)).launch,
                          line := (port7_a.egress (portOf ↑0)).line.erase ↑0, stripe := (port7_a.egress (portOf ↑0)).stripe,
                          waiting := (port7_a.egress (portOf ↑0)).waiting, overrun := (port7_a.egress (portOf ↑0)).overrun,
                          stamp := (port7_a.egress (portOf ↑0)).stamp })
                      (↑0) (65536 / 65536) ((port7_a.egress (portOf ↑0)).line.find? ↑0))
                    ↑0 =
                  true then
              nextFrameOn
                (goAckSent
                  ((port7_a.elapse (65536 / 65536) {}).setEgress (portOf ↑0)
                    { queue := (port7_a.egress (portOf ↑0)).queue, launch := (port7_a.egress (portOf ↑0)).launch,
                      line := (port7_a.egress (portOf ↑0)).line.erase ↑0, stripe := (port7_a.egress (portOf ↑0)).stripe,
                      waiting := (port7_a.egress (portOf ↑0)).waiting, overrun := (port7_a.egress (portOf ↑0)).overrun,
                      stamp := (port7_a.egress (portOf ↑0)).stamp })
                  (↑0) (65536 / 65536) ((port7_a.egress (portOf ↑0)).line.find? ↑0))
                (portOf ↑0) (↑0) (65536 / 65536)
            else none) =
            some (g, rest) ∧
          2 < g.cls)) ∧
    (tapRole tapping.objs = true ∧
  22 ≤ ↑22 ∧ tapping.nat O.laneAdmin ↑22 = 1 ∧ tapping.lanes.taps.getD ↑22 [] = [tap1] ∧ 65536 / 65536 ≤ tap1.fst + 6400) ∧
    (¬(tapRole queued.objs = true ∧ 22 ≤ ↑0) ∧
  (if
          laneServes
              (goAckSent
                ((queued.elapse (65536 / 65536) {}).setEgress (portOf ↑0)
                  { queue := (queued.egress (portOf ↑0)).queue, launch := (queued.egress (portOf ↑0)).launch,
                    line := (queued.egress (portOf ↑0)).line.erase ↑0, stripe := (queued.egress (portOf ↑0)).stripe,
                    waiting := (queued.egress (portOf ↑0)).waiting, overrun := (queued.egress (portOf ↑0)).overrun,
                    stamp := (queued.egress (portOf ↑0)).stamp })
                (↑0) (65536 / 65536) ((queued.egress (portOf ↑0)).line.find? ↑0))
              ↑0 =
            true then
        nextFrameOn
          (goAckSent
            ((queued.elapse (65536 / 65536) {}).setEgress (portOf ↑0)
              { queue := (queued.egress (portOf ↑0)).queue, launch := (queued.egress (portOf ↑0)).launch,
                line := (queued.egress (portOf ↑0)).line.erase ↑0, stripe := (queued.egress (portOf ↑0)).stripe,
                waiting := (queued.egress (portOf ↑0)).waiting, overrun := (queued.egress (portOf ↑0)).overrun,
                stamp := (queued.egress (portOf ↑0)).stamp })
            (↑0) (65536 / 65536) ((queued.egress (portOf ↑0)).line.find? ↑0))
          (portOf ↑0) (↑0) (65536 / 65536)
      else none) =
      some (port8_a, []) ∧
    (port8_a.cls ≤ 2 ∨
      nextStep
          (goAckSent
            ((queued.elapse (65536 / 65536) {}).setEgress (portOf ↑0)
              { queue := (queued.egress (portOf ↑0)).queue, launch := (queued.egress (portOf ↑0)).launch,
                line := (queued.egress (portOf ↑0)).line.erase ↑0, stripe := (queued.egress (portOf ↑0)).stripe,
                waiting := (queued.egress (portOf ↑0)).waiting, overrun := (queued.egress (portOf ↑0)).overrun,
                stamp := (queued.egress (portOf ↑0)).stamp })
            (↑0) (65536 / 65536) ((queued.egress (portOf ↑0)).line.find? ↑0))
          (portOf ↑0) (↑0) (65536 / 65536) =
        none)) ∧
    (cycleRuns cycling = true) ∧
    ((launching.egress ↑1).launch = [(1000, txf)] ∧
  ((txStamp launching (txf.lane.getD ((lanesOf ↑1).headD 0)) ↑0).toNat < 1000 * 65536 ∨
    ¬(1000 + wordTicks (launching.lane (txf.lane.getD ((lanesOf ↑1).headD 0))).code) * 65536 <
          (txStamp launching (txf.lane.getD ((lanesOf ↑1).headD 0)) ↑0).toNat ∧
      ¬(launching.egress ↑1).line.find? (txf.lane.getD ((lanesOf ↑1).headD 0)) = none)) ∧
    ((launching.egress ↑1).launch = [(1000, txf)] ∧
  1000 * 65536 ≤ (txStamp launching (txf.lane.getD ((lanesOf ↑1).headD 0)) ↑(65536 * 996)).toNat ∧
    ¬(1000 + wordTicks (launching.lane (txf.lane.getD ((lanesOf ↑1).headD 0))).code) * 65536 <
          (txStamp launching (txf.lane.getD ((lanesOf ↑1).headD 0)) ↑(65536 * 996)).toNat ∧
      (launching.egress ↑1).line.find? (txf.lane.getD ((lanesOf ↑1).headD 0)) = none ∧
        laneServes launching (txf.lane.getD ((lanesOf ↑1).headD 0)) = true) ∧
    ((launching.egress ↑1).launch = [(1000, txf)] ∧
  1000 * 65536 ≤ (txStamp launching (txf.lane.getD ((lanesOf ↑1).headD 0)) ↑(65536 * 1009)).toNat ∧
    ((1000 + wordTicks (launching.lane (txf.lane.getD ((lanesOf ↑1).headD 0))).code) * 65536 <
        (txStamp launching (txf.lane.getD ((lanesOf ↑1).headD 0)) ↑(65536 * 1009)).toNat ∨
      (launching.egress ↑1).line.find? (txf.lane.getD ((lanesOf ↑1).headD 0)) = none ∧
        laneServes launching (txf.lane.getD ((lanesOf ↑1).headD 0)) = false)) :=
  by
  and_intros <;> first | decide +kernel | (left; decide +kernel)

theorem witness_SamplesHoldAtTheirInstants :
    1 ≤ seq2.p ∧
  5000 % seq2.p = 0 ∧
    seqLoad seq2.entries ≤ seq2.p ∧ seq2.entries[1]? = some 1 ∧ entryIdle 1 = false ∧ 3 < 5000 / seq2.p ∧ 640000 % frameTicks = 0 :=
  by decide +kernel

theorem witness_CalAppliesCoefficients :
    (plain.fill = false) ∧
    (calB_a.fill = true) :=
  by
  and_intros <;> decide +kernel

theorem witness_SamplesMoveOn :
    ((run.putB O.seqRegular 2 (be 2 1 ++ be 2 1 ++ be 4 1)).gridOn = true ∧
  (run.putB O.seqRegular 2 (be 2 1 ++ be 2 1 ++ be 4 1)).time.pause = none ∧
    (run.putB O.seqRegular 2 (be 2 1 ++ be 2 1 ++ be 4 1)).upd.gapFrom = none) ∧
    (frame3_a.gridOn = false ∨ frame3_a.time.pause.isSome = true ∨ frame3_a.upd.gapFrom.isSome = true) ∧
    (samp2_a.samp.holds = [GridItem.hold hold1]) ∧
    (samp2i_a.samp.holds = [GridItem.hold samp2i_b]) ∧
    (samp2w_a.samp.holds = [GridItem.hold hold1]) ∧
    (samp3_a.draft.queue = [DraftItem.sample 640 3 0 9 {} 0 {}] ∧ ((samp3_a.chain 3).clearedAt < 640 ∨ (samp3_a.chain 3).clearedAt = 0)) ∧
    (samp4_a.draft.queue = [DraftItem.change 640 3 none DraftAct.keep false]) ∧
    ((samp5_a.feed ↑2).entries ≠ [] ∧ ({} : FeedFaults).stalled = false) :=
  by
  and_intros <;> decide +kernel

theorem witness_RunsAndInjectionsProceed :
    (wbOn.gridOn = true ∧
  wbOn.samp.lastFrame / frameTicks % max (wbOn.nat O.wbInterval ↑2) 1 = 0 ∧
    wbInputs wbOn.objs ↑2 ≠ [] ∧ wbOn.now ≤ wbOn.samp.lastFrame + slotTicks ∧ (wbOn.creel ↑2).wb.pending = []) ∧
    (wb2_a.gridOn = true ∧
  wb2_a.samp.lastFrame / frameTicks % max (wb2_a.nat O.wbInterval ↑2) 1 = 0 ∧
    wbInputs wb2_a.objs ↑2 ≠ [] ∧
      wb2_a.now ≤ wb2_a.samp.lastFrame + slotTicks ∧
        (wb2_a.creel ↑2).wb.pending ≠ [] ∧ (wb2_a.creel ↑2).wb.delayed = false ∧ wb2_a.nat O.wbRunStart ↑2 ≠ wb2_a.samp.lastFrame) ∧
    ((wbSeq.creel ↑2).wb.pending = [3] ∧ (seqOf wbSeq.objs ↑2).window (wbSeq.nat O.wbSoak ↑2) = some 0) ∧
    ((injecting.injector ↑2).run = some inj1 ∧
  inj1.current = none ∧
    inj1.nextIdx < inj1.entries.length ∧
      inj1.start.start ≤ injecting.samp.lastSlot ∧
        inj1.lastHold ≤ injecting.samp.lastSlot ∧
          injecting.cal.stopped.contains ↑2 = false ∧
            ∀ (i : Nat),
              i < entryWidth (inj1.entries.getD inj1.nextIdx 0) →
                if inj1.mode = 1 then reservedSlot injecting (↑2) (injecting.samp.lastSlot + 128 * i) = false
                else freeSlot injecting (↑2) (injecting.samp.lastSlot + 128 * i) = true) :=
  by
  and_intros <;> decide +kernel

theorem witness_FieldSideEventsAct :
    ((fs4_a.driver ↑2).oorSince = some 3 ∧ excEnabled fs4_a ↑2 = true ∧ fs4_a.twin.stages = true) ∧
    ((fs5_a.driver ↑2).settling = true) ∧
    ((fs5b_a.driver ↑2).settling = true) ∧
    (settledFrom fs6_a ↑2 ↑0 = some (3 + internalSettle)) ∧
    (settledFrom fs6c_a ↑32 ↑1 = some (3 + refinSettle)) :=
  by
  and_intros <;> decide +kernel

theorem witness_CalibrationProceeds :
    (cal1_a.cal.intervalFrom = some 0 ∧ cal1_a.bool O.calAuto = true ∧ cal1_a.nat O.calInterval ≠ 0) ∧
    (cal1b_a.cal.intervalFrom = some 0 ∧ cal1b_a.bool O.calAuto = true ∧ cal1b_a.nat O.calInterval ≠ 0) ∧
    (cal2_a.cal.request = some (0, false) ∧ 0 ≤ cal2_a.samp.lastFrame ∧ cal2_a.cal.sweep = none) ∧
    (cal3_a.cal.sweep = some sweep0 ∧ sweep0.method = 0 ∧ 0 < 42 ∧ (cal3_a.samp.lastFrame - sweep0.start) / frameTicks = 42 + 42 * 0 + 0) ∧
    (cal3n_a.cal.sweep = some cal3n_b ∧ cal3n_b.method = 0 ∧ 0 < 42 ∧ (cal3n_a.samp.lastFrame - cal3n_b.start) / frameTicks = 42 + 42 * 3 + 0) ∧
    (cal3d_a.cal.sweep = some sweep0 ∧ sweep0.method = 0 ∧ 0 < 42 ∧ (cal3d_a.samp.lastFrame - sweep0.start) / frameTicks = 42 + 42 * 3 + 0) ∧
    (cal3e_a.cal.sweep = some sweep0 ∧ sweep0.method = 0 ∧ 0 < 42 ∧ (cal3e_a.samp.lastFrame - sweep0.start) / frameTicks = 42 + 42 * 32 + 0) ∧
    (cal3a_a.cal.sweep = some cal3a_b ∧ cal3a_b.method = 0 ∧ 0 < 42 ∧ (cal3a_a.samp.lastFrame - cal3a_b.start) / frameTicks = 42 + 42 * 3 + 0) ∧
    (cal4_a.cal.sweep = some sweep0 ∧ sweep0.method = 0 ∧ 1 < 42 ∧ (cal4_a.samp.lastFrame - sweep0.start) / frameTicks = 42 + 42 * 3 + 1) ∧
    (cal4r_a.cal.sweep = some sweep0 ∧ sweep0.method = 0 ∧ 1 < 42 ∧ (cal4r_a.samp.lastFrame - sweep0.start) / frameTicks = 42 + 42 * 3 + 1) ∧
    (cal4m_a.cal.sweep = some sweep0 ∧ sweep0.method = 0 ∧ 9 < 42 ∧ (cal4m_a.samp.lastFrame - sweep0.start) / frameTicks = 42 + 42 * 3 + 9) ∧
    (cal4z_a.cal.sweep = some sweep0 ∧ sweep0.method = 0 ∧ 41 < 42 ∧ (cal4z_a.samp.lastFrame - sweep0.start) / frameTicks = 42 + 42 * 3 + 41) ∧
    (cal3p_a.cal.sweep = some sweep0 ∧ sweep0.method = 0 ∧ (cal3p_a.samp.lastFrame - sweep0.start) / frameTicks < 42) ∧
    ((compat 3).cal.sweep = some sweep1 ∧ sweep1.method = 1 ∧ ((compat 3).samp.lastFrame - sweep1.start) / frameTicks = 40 * 3) ∧
    (cal5b_a.cal.sweep = some sweep1 ∧ sweep1.method = 1 ∧ (cal5b_a.samp.lastFrame - sweep1.start) / frameTicks = 40 * 3) ∧
    ((compat 32).cal.sweep = some sweep1 ∧ sweep1.method = 1 ∧ ((compat 32).samp.lastFrame - sweep1.start) / frameTicks = 40 * 32) ∧
    ((compat 0).cal.sweep = some sweep1 ∧ sweep1.method = 1 ∧ ((compat 0).samp.lastFrame - sweep1.start) / frameTicks = 40 * 0) ∧
    ((framesOn (compat 3) 1).cal.sweep = some sweep1 ∧
  sweep1.method = 1 ∧ ((framesOn (compat 3) 1).samp.lastFrame - sweep1.start) / frameTicks % 40 ≠ 0) :=
  by
  and_intros <;> decide +kernel

theorem witness_TriggersReelsAndMasksAct :
    ((run.put O.trigSource 3 5).gridOn = true ∧
  trigSrc (run.put O.trigSource 3 5).objs ↑3 = 5 ∧
    nextDue (run.put O.trigSource 3 5) ↑3 = some 0 ∧ trigSrc ((run.put O.trigSource 3 5).objsAt 0) ↑3 = 5) ∧
    (((rearming 2).reel ↑2).rearmAt = some (9, 2) ∧ (rearming 2).spin.restarting = false ∧ ((rearming 2).reel ↑2).restartDue = false) ∧
    ((((rearming 2).put O.reelAlloc 2 1).reel ↑2).rearmAt = some (9, 2) ∧
  ((rearming 2).put O.reelAlloc 2 1).spin.restarting = false ∧ (((rearming 2).put O.reelAlloc 2 1).reel ↑2).restartDue = false) ∧
    (((run.put O.maskMode 3 2).put O.maskInterval 3 2).gridOn = true ∧
  ((run.put O.maskMode 3 2).put O.maskInterval 3 2).nat O.maskMode ↑3 = 2 ∧
    1 ≤ ((run.put O.maskMode 3 2).put O.maskInterval 3 2).nat O.maskInterval ↑3) ∧
    (trg7_a.trig.fio.find? (4 + ↑1) = some 640) :=
  by
  and_intros <;> decide +kernel

theorem witness_SpindlesAndBobbinsProceed :
    ((spn1_a.red ↑3).acc = some acc1 ∧
  channelPending spn1_a (↑3) acc1.stop = false ∧
    ∀ (p : Plan), spn1_a.draft.plans.find? ↑3 = some p → hasInstant p (max acc1.start acc1.next) acc1.stop = false) ∧
    ((spn1l_a.red ↑3).acc = some spn1l_b ∧
  channelPending spn1l_a (↑3) spn1l_b.stop = false ∧
    ∀ (p : Plan), spn1l_a.draft.plans.find? ↑3 = some p → hasInstant p (max spn1l_b.start spn1l_b.next) spn1l_b.stop = false) ∧
    ((spn1p_a.red ↑3).acc = some acc1 ∧
  channelPending spn1p_a (↑3) acc1.stop = false ∧
    ∀ (p : Plan), spn1p_a.draft.plans.find? ↑3 = some p → hasInstant p (max acc1.start acc1.next) acc1.stop = false) ∧
    ((spn1q_a.red ↑3).acc = some acc1 ∧
  channelPending spn1q_a (↑3) acc1.stop = false ∧
    ∀ (p : Plan), spn1q_a.draft.plans.find? ↑3 = some p → hasInstant p (max acc1.start acc1.next) acc1.stop = false) ∧
    (spn2_a.pwr.throttled = false ∧ spn2_a.spin.restarting = false ∧ (spn2_a.spin.recompute.any fun r => r.fst.beq ↑2) = true) ∧
    (spn2b_a.pwr.throttled = true ∨ spn2b_a.spin.restarting = true) ∧
    (bobbed.bob.bobbins.find? ↑3 = some bob1) ∧
    (bobbed.bob.bobbins.find? ↑3 = some bob1 ∧ bobbed.twin.active = false ∧ bobbed.spin.restarting = false) ∧
    (spn5_a.bob.window = some spn5_b ∧ spn5_b.data = none) :=
  by
  and_intros <;> decide +kernel

theorem witness_DramControllersProceed :
    ((rankList run.objs).contains ↑0 = true ∧ (run.rank ↑0).sr = false) ∧
    ((run.put O.tempSource 0 1).nat O.tempSource = 1) ∧
    (run.nat O.tempSource ≠ 1) ∧
    (drm3c_a.nat O.tempSource ≠ 1) ∧
    (if drm4_a.nat O.tempSource = 1 then (none : Option Int) = none else (none : Option Int) = none) ∧
    ((training 8 none).dram.training = some (8, 3200) ∧ (training 8 none).dram.waiting = none) ∧
    ((training 2 none).dram.training = some (2, 3200) ∧ (training 2 none).dram.waiting = none) ∧
    ((training 2 (some 1600)).dram.training = some (2, 3200) ∧ (training 2 (some 1600)).dram.waiting = some 1600) ∧
    ((training 2 none).dram.training = some (2, 3200)) ∧
    (drm8_a.dram.training = some (2, 1600)) ∧
    (drm12_a.dram.panic = [] ∧ drm12_a.pwr.throttled = false ∧ drm12_a.dram.ready = true) ∧
    (run.dram.panic ≠ [] ∨ run.pwr.throttled = true ∨ run.dram.ready = false) ∧
    (1 ≤ (run.put O.pdIdle 0 1).nat O.pdIdle ∧
  (List.any (run.put O.pdIdle 0 1).dram.rows fun x => (x.fst / 16).beq ↑0) = false ∧
    ((run.put O.pdIdle 0 1).rank ↑0).debt = 0 ∧
      ((run.put O.pdIdle 0 1).rank ↑0).sr = false ∧ (rankList (run.put O.pdIdle 0 1).objs).contains ↑0 = true) ∧
    (drm14_a.dram.rows.find? (16 * ↑2 + ↑3) = some (9, 0)) :=
  by
  and_intros <;> decide +kernel

theorem witness_LanesStartLockAndRetry :
    (run.pwr.booted = true ∧ run.pwr.sleep = none) ∧
    ((lan2_a.lane ↑4).started = true ∧
  (lan2_a.lane ↑4).lock = false ∧
    ¬(fun l => tapRole lan2_a.objs = true ∧ 22 ≤ ↑l) 4 ∧
      (lan2_a.lane ↑4).step = none ∧ (lan2_a.lane ↑4).retrying = false ∧ lan2_a.nat O.laneAdmin ↑4 = 1) ∧
    ((lan2r_a.lane ↑4).started = true ∧
  (lan2r_a.lane ↑4).lock = false ∧
    ¬(fun l => tapRole lan2r_a.objs = true ∧ 22 ≤ ↑l) 4 ∧
      (lan2r_a.lane ↑4).step = none ∧ ((lan2r_a.lane ↑4).retrying = true ∨ lan2r_a.nat O.laneAdmin ↑4 ≠ 1)) ∧
    ((lan3_a.lane ↑4).started = true ∧
  (lan3_a.lane ↑4).lock = false ∧
    ¬(fun l => tapRole lan3_a.objs = true ∧ 22 ≤ ↑l) 4 ∧
      (lan3_a.lane ↑4).step = some st1 ∧ st1.ack = some 0 ∧ st1.switched = true ∧ st1.dead = false ∧ 9 ≤ 0 + lockDeadline) ∧
    (((lane run 4).lane ↑4).started = true ∧
  ((lane run 4).lane ↑4).lock = true ∧ ¬(fun l => tapRole (lane run 4).objs = true ∧ 22 ≤ ↑l) 4 ∧ (lane run 4).nat O.laneAdmin ↑4 = 1) ∧
    ((lan4e_a.lane ↑4).started = true ∧
  (lan4e_a.lane ↑4).lock = true ∧ ¬(fun l => tapRole lan4e_a.objs = true ∧ 22 ≤ ↑l) 4 ∧ lan4e_a.nat O.laneAdmin ↑4 = 1) ∧
    ((lan4s_a.lane ↑4).started = true ∧
  (lan4s_a.lane ↑4).lock = true ∧ ¬(fun l => tapRole lan4s_a.objs = true ∧ 22 ≤ ↑l) 4 ∧ lan4s_a.nat O.laneAdmin ↑4 = 1) ∧
    ((lan5_a.lane ↑4).lock = true ∧ 2 ≤ (lan5_a.lane ↑4).code ∧ (lan5_a.lane ↑4).dfe = false) ∧
    ((lan5b_a.lane ↑4).lock = true ∧ 2 ≤ (lan5b_a.lane ↑4).code ∧ (lan5b_a.lane ↑4).dfe = false) ∧
    (laneServes (lane run 4) ↑4 = true ∧ (((lane run 4).lane ↑4).dfe = true ∨ ((lane run 4).lane ↑4).code < 2)) ∧
    (0 < (lan7_a.lane ↑4).noStepUntil) ∧
    ((lan8_a.lane ↑4).retrying = true) ∧
    ((lan8s_a.lane ↑4).retrying = true) :=
  by
  and_intros <;> decide +kernel

theorem witness_StepsRunTheirCourse :
    (laneLocked (lane run 4) ↑4 = true ∧ ((lane run 4).lane ↑4).step = none) ∧
    (laneLocked stp1b_a ↑4 = true ∧ (stp1b_a.lane ↑4).step = none) ∧
    ((stp2_a.lane ↑4).step = some stp2_b ∧ stp2_b.ack = some 0 ∧ stp2_b.switched = false) ∧
    ((lan3_a.lane ↑4).step = some st1 ∧ st1.ack = some 0 ∧ st1.switched = true ∧ st1.dead = false ∧ (lan3_a.lane ↑4).lock = false) ∧
    ((stp4_a.lane ↑4).step = some st1) ∧
    ((stp4b_a.lane ↑4).step = some stp4b_b) ∧
    ((stp4d_a.lane ↑4).step = some stp4b_b) ∧
    ((stp4c_a.lane ↑4).step = some stp4c_b) ∧
    ((stp4_a.lane ↑4).code < 2 ∨ (stp4_a.lane ↑4).dfe = true) ∧
    ((stp5p_a.lane ↑4).code < 2 ∨ (stp5p_a.lane ↑4).dfe = true) ∧
    ((stp5q_a.lane ↑4).code < 2 ∨ (stp5q_a.lane ↑4).dfe = true) ∧
    ((stp5a_a.lane ↑4).code < 2 ∨ (stp5a_a.lane ↑4).dfe = true) ∧
    (((lane run 4).lane ↑4).code < 2 ∨ ((lane run 4).lane ↑4).dfe = true) ∧
    ((stp5c_a.lane ↑4).code < 2 ∨ (stp5c_a.lane ↑4).dfe = true) ∧
    ((stp5d_a.lane ↑4).code < 2 ∨ (stp5d_a.lane ↑4).dfe = true) :=
  by
  and_intros <;> decide +kernel

theorem witness_StepFramesAct :
    (stepFrame (lane run 4) (↑4) (stp 1 0) 1) ∧
    (stepFrame (lane run 4) (↑4) (stp 2 0) 2) ∧
    (stepFrame fr3_a (↑4) (stp 3 0) 3 ∧ (fr3_a.lane ↑4).step = some fr3_b) ∧
    (stepFrame fr4_a (↑4) (stp 4 0) 4 ∧ (fr4_a.lane ↑4).step = some st1 ∧ st1.dead = false) ∧
    (stepFrame fr4b_a (↑4) (stp 4 0) 4 ∧ (fr4b_a.lane ↑4).step = some fr4b_b ∧ fr4b_b.dead = false) ∧
    (stepFrame fr4c_a (↑4) (stp 4 0) 4 ∧ (fr4c_a.lane ↑4).step = some fr4c_b ∧ fr4c_b.dead = false) ∧
    (stepFrame fr4_a (↑4) (stp 5 0) 5 ∧ (fr4_a.lane ↑4).step = some st1) ∧
    (stepFrame (lane run 4) (↑4) (stp 5 0) 5 ∧ ((lane run 4).lane ↑4).step = none) ∧
    (stepFrame (lane run 4) (↑4) (stp 6 63) 6) ∧
    (stepFrame (lane run 4) (↑4) (stp 6 (63 * 64)) 6) ∧
    (stepFrame fr7_a (↑4) (stp 7 0) 7 ∧ (fr7_a.lane ↑4).adapt = some fr7_b ∧ fr7_b.asked = some (5, false)) ∧
    (stepFrame fr7u_a (↑4) (stp 7 0) 7 ∧ (fr7u_a.lane ↑4).adapt = some fr7u_b ∧ fr7u_b.asked = some (5, true)) ∧
    (stepFrame fr7v_a (↑4) (stp 7 0) 7 ∧ (fr7v_a.lane ↑4).adapt = some fr7v_b ∧ fr7v_b.asked = some (5, true)) ∧
    (stepFrame fr7r_a (↑4) (stpBad 7) 7 ∧ (fr7r_a.lane ↑4).adapt = some fr7r_b ∧ fr7r_b.asked = some (5, false)) ∧
    (stepFrame (lane run 4) (↑4) (stp 8 0) 8) ∧
    (stepFrame (lane run 4) (↑4) (stp 9 0) 9 ∨
  hKind (stp 9 0) = 10 ∧ frameCheck (stp 9 0) = 0 ∧ field (stp 9 0) 16 1 = 9 ∧ (lane run 4).nat O.laneAdmin ↑4 = 2) ∧
    (stepFrame (lane (run.put O.laneAdmin 4 2) 4) (↑4) (stp 9 0) 9 ∨
  hKind (stp 9 0) = 10 ∧ frameCheck (stp 9 0) = 0 ∧ field (stp 9 0) 16 1 = 9 ∧ (lane (run.put O.laneAdmin 4 2) 4).nat O.laneAdmin ↑4 = 2) ∧
    (stepFrame (lane run 4) (↑4) (stp 10 0) 10) :=
  by
  and_intros <;> first | decide +kernel | (unfold stepFrame; decide +kernel)

theorem witness_LanesReceiveFrames :
    (laneLocked (lane run 4) ↑4 = true) ∧
    (laneLocked eth2f_a ↑0 = true) ∧
    (laneLocked eth2g_a ↑0 = true) ∧
    (laneLocked eth2h_a ↑0 = true) ∧
    (laneLocked ((((lane run 4).put O.laneRole 22 1).put O.tapSource 22 4).put O.laneAdmin 22 1) ↑4 = true) ∧
    (laneLocked run ↑4 = false) ∧
    (eth4_a.lanes.reorder.find? ↑1 = some ro1 ∧ ro1.next = some 3 ∧ ro1.held = [(5, 7, frm 5 (zeros 8))]) ∧
    (eth5_a.lanes.taps.getD ↑22 [] = [tap1]) :=
  by
  and_intros <;> decide +kernel

theorem witness_TwineFramesAreForwardedAndSent :
    (1 ≠ 19 ∧ hKind (frm 5 (zeros 8) 7 5) ≠ 10 ∧ ownFrame named (frm 5 (zeros 8) 7 5) = true) ∧
    (2 ≠ 19 ∧
  hKind (frm 5 (zeros 8) 7) ≠ 10 ∧
    ownFrame named (frm 5 (zeros 8) 7) = false ∧
      learnSrc (tookFrame (named.advance 9) 2 (frm 5 (zeros 8) 7)) 2 (frm 5 (zeros 8) 7) =
          learnSrc (tookFrame (named.advance 9) (↑2) (frm 5 (zeros 8) 7)) (↑2) (frm 5 (zeros 8) 7) ∧
        addressedHere named (frm 5 (zeros 8) 7) = false ∧ hBcast (frm 5 (zeros 8) 7) = false) ∧
    (2 ≠ 19 ∧
  hKind (patch (frm 5 (zeros 8) 7) 8 2 1) ≠ 10 ∧
    ownFrame named (patch (frm 5 (zeros 8) 7) 8 2 1) = false ∧
      learnSrc (tookFrame (named.advance 9) 2 (patch (frm 5 (zeros 8) 7) 8 2 1)) 2 (patch (frm 5 (zeros 8) 7) 8 2 1) =
          learnSrc (tookFrame (named.advance 9) (↑2) (patch (frm 5 (zeros 8) 7) 8 2 1)) (↑2) (patch (frm 5 (zeros 8) 7) 8 2 1) ∧
        addressedHere named (patch (frm 5 (zeros 8) 7) 8 2 1) = false ∧ hBcast (patch (frm 5 (zeros 8) 7) 8 2 1) = false) ∧
    (2 ≠ 19 ∧
  hKind (frm 9 (heart 1 7)) ≠ 10 ∧
    ownFrame named (frm 9 (heart 1 7)) = false ∧
      got named 2 9 (frm 9 (heart 1 7)) = learnSrc (tookFrame (named.advance 9) (↑2) (frm 9 (heart 1 7))) (↑2) (frm 9 (heart 1 7)) ∧
        addressedHere named (frm 9 (heart 1 7)) = true ∧ hKind (frm 9 (heart 1 7)) = 9 ∧ frameCheck (frm 9 (heart 1 7)) = 0) ∧
    (twi3_a.twine.learned.find? ↑7 = some (1, 3)) ∧
    (unsentEvents twi4_a = [ev1] ∧ twi4_a.bool O.eventSend = true ∧ hasRoot twi4_a = true) ∧
    (unsentEvents named = [] ∨ named.bool O.eventSend = false ∨ hasRoot named = false) ∧
    (((rooted.put O.bobbinMode 3 1).put O.summaryInterval 0 1).gridOn = true ∧
  distaffServes ((rooted.put O.bobbinMode 3 1).put O.summaryInterval 0 1) = true ∧
    640000 % (((rooted.put O.bobbinMode 3 1).put O.summaryInterval 0 1).nat O.summaryInterval * frameTicks) = 0 ∧
      summaryChannels ((rooted.put O.bobbinMode 3 1).put O.summaryInterval 0 1) ≠ [] ∧
        rootServes ((rooted.put O.bobbinMode 3 1).put O.summaryInterval 0 1) = true) ∧
    (((named.put O.bobbinMode 3 1).put O.summaryInterval 0 1).gridOn = true ∧
  distaffServes ((named.put O.bobbinMode 3 1).put O.summaryInterval 0 1) = true ∧
    640000 % (((named.put O.bobbinMode 3 1).put O.summaryInterval 0 1).nat O.summaryInterval * frameTicks) = 0 ∧
      summaryChannels ((named.put O.bobbinMode 3 1).put O.summaryInterval 0 1) ≠ [] ∧
        rootServes ((named.put O.bobbinMode 3 1).put O.summaryInterval 0 1) = false ∧
          hasRoot ((named.put O.bobbinMode 3 1).put O.summaryInterval 0 1) = true) ∧
    (((Tests.aged 6).stream ↑6).since = some 9 ∧
  liveAllowed (Tests.aged 6) = true ∧ ↑6 % 2 = 0 ∧ nextWords (Tests.aged 6) (↑6 / 2) true = [(5, 640, 9, false)]) ∧
    ((((Tests.aged 6).put O.trunkCycleEnable 0 1).stream ↑6).since = some 9 ∧
  liveAllowed ((Tests.aged 6).put O.trunkCycleEnable 0 1) = true ∧
    ↑6 % 2 = 0 ∧ nextWords ((Tests.aged 6).put O.trunkCycleEnable 0 1) (↑6 / 2) true = [(5, 640, 9, false)]) ∧
    (((Tests.aged 7).stream ↑7).since = some 9 ∧
  liveAllowed (Tests.aged 7) = true ∧ ↑7 % 2 = 1 ∧ nextRecords (Tests.aged 7) (↑7 / 2) true = [{ key := 0, serial := 0, bytes := zeros 16 }]) ∧
    (((sending 0).egress (portOf ↑0)).line.find? ↑0 = some (skeinTx 0) ∧
  (skeinTx 0).body = TxBody.twine skeinB ∧
    (skeinTx 0).cut = true ∧ hKind skeinB = 1 ∧ 16 ≤ List.length skeinB ∧ (sending 0).nat O.ctThreshold < (skeinTx 0).body.frameBytes) ∧
    (((sending 3).egress (portOf ↑0)).line.find? ↑0 = some (skeinTx 3) ∧
  (skeinTx 3).body = TxBody.twine skeinB ∧
    (skeinTx 3).cut = true ∧ hKind skeinB = 1 ∧ 16 ≤ List.length skeinB ∧ (sending 3).nat O.ctThreshold < (skeinTx 3).body.frameBytes) :=
  by
  and_intros <;> decide +kernel

theorem witness_HubFramesAct :
    (arrivesHere named (↑1) 9 (frm 2 doff1) 2 (got named 1 9 (frm 2 doff1)) ∧
  acksJob (got named 1 9 (frm 2 doff1)) (frm 2 doff1) = false ∧ fromRoot named (frm 2 doff1) = false) ∧
    (arrivesHere (inReset named) (↑1) 9 (frm 2 doff1 5 4) 2 (got (inReset named) 1 9 (frm 2 doff1 5 4)) ∧
  acksJob (got (inReset named) 1 9 (frm 2 doff1 5 4)) (frm 2 doff1 5 4) = false ∧
    fromRoot (inReset named) (frm 2 doff1 5 4) = true ∧ inRestart (inReset named) = true) ∧
    (arrivesHere booted (↑1) 9 (frm 2 doff1 5 4) 2 (got booted 1 9 (frm 2 doff1 5 4)) ∧
  acksJob (got booted 1 9 (frm 2 doff1 5 4)) (frm 2 doff1 5 4) = false ∧
    fromRoot booted (frm 2 doff1 5 4) = true ∧
      isReady booted = false ∧ inRestart booted = false ∧ addressedHere booted (frm 2 doff1 5 4) = true) ∧
    (arrivesHere (late named) (↑1) 9 (frm 2 doff1 5 4) 2 (got (late named) 1 9 (frm 2 doff1 5 4)) ∧
  acksJob (got (late named) 1 9 (frm 2 doff1 5 4)) (frm 2 doff1 5 4) = false ∧
    fromRoot (late named) (frm 2 doff1 5 4) = true ∧
      (isReady (late named) = true ∧ inRestart (late named) = false) ∧ field (bodyOf (frm 2 doff1 5 4)) 0 2 = 1) ∧
    (arrivesHere named (↑1) 9 (frm 2 doff1 5 4) 2 (got named 1 9 (frm 2 doff1 5 4)) ∧
  acksJob (got named 1 9 (frm 2 doff1 5 4)) (frm 2 doff1 5 4) = false ∧
    fromRoot named (frm 2 doff1 5 4) = true ∧ (isReady named = true ∧ inRestart named = false) ∧ field (bodyOf (frm 2 doff1 5 4)) 0 2 = 1) ∧
    (arrivesHere capHeld (↑1) 9 (frm 2 doffCap 5 4) 2 (got capHeld 1 9 (frm 2 doffCap 5 4)) ∧
  acksJob (got capHeld 1 9 (frm 2 doffCap 5 4)) (frm 2 doffCap 5 4) = false ∧
    fromRoot capHeld (frm 2 doffCap 5 4) = true ∧
      (isReady capHeld = true ∧ inRestart capHeld = false) ∧ field (bodyOf (frm 2 doffCap 5 4)) 0 2 = 1) ∧
    (arrivesHere streaming (↑20) 9 (frm 2 doffJob 5 100) 2 (got streaming 20 9 (frm 2 doffJob 5 100)) ∧
  acksJob (got streaming 20 9 (frm 2 doffJob 5 100)) (frm 2 doffJob 5 100) = true ∧
    distaffServes streaming = true ∧
      streaming.root.retro = some streamJob ∧
        field (bodyOf (frm 2 doffJob 5 100)) 0 2 = 1 ∧ streamJob.acked < min (field (bodyOf (frm 2 doffJob 5 100)) 12 8) streamJob.sent) ∧
    (arrivesHere (late named) (↑1) 9 (frm 3 retx1 5 4) (if false = true then 7 else 3) (got (late named) 1 9 (frm 3 retx1 5 4))) ∧
    (arrivesHere (late named) (↑1) 9 (frm 7 retro1 5 4) (if true = true then 7 else 3) (got (late named) 1 9 (frm 7 retro1 5 4))) ∧
    (arrivesHere named (↑1) 9 (frm 3 retx1 5 4) (if false = true then 7 else 3) (got named 1 9 (frm 3 retx1 5 4))) ∧
    (arrivesHere (inReset (late named)) (↑1) 9 (frm 3 retx1 5 4) (if false = true then 7 else 3)
  (got (inReset (late named)) 1 9 (frm 3 retx1 5 4))) ∧
    (hf6_a.twine.requests = [{ src := 4, retro := false, body := retx1 }]) ∧
    (arrivesHere named (↑1) 9 (frm 6 trg1) 6 (got named 1 9 (frm 6 trg1)) ∧
  named.trig.seen.contains (hSrc (frm 6 trg1), field (bodyOf (frm 6 trg1)) 4 4) = false) ∧
    (arrivesHere remote (↑1) 9 (frm 6 trg1) 6 (got remote 1 9 (frm 6 trg1)) ∧
  remote.trig.seen.contains (hSrc (frm 6 trg1), field (bodyOf (frm 6 trg1)) 4 4) = false) ∧
    (arrivesHere hf8_a (↑1) 9 (frm 6 trg1) 6 hf8_b ∧ hf8_a.trig.seen.contains (hSrc (frm 6 trg1), field (bodyOf (frm 6 trg1)) 4 4) = true) :=
  by
  and_intros <;> first | decide +kernel | (unfold arrivesHere; decide +kernel)

theorem witness_RootFramesAct :
    (arrivesHere named (↑1) 9 (frm 1 skein1) 1 (got named 1 9 (frm 1 skein1)) ∧ rootServes named = false) ∧
    (arrivesHere rootBooted (↑1) 9 (frm 1 skein1) 1 (got rootBooted 1 9 (frm 1 skein1)) ∧
  rootServes rootBooted = true ∧ distaffServes rootBooted = false ∧ addressedHere rootBooted (frm 1 skein1) = true) ∧
    (arrivesHere (lane rooted 22) (↑1) 9 (frm 1 skein1) 1 (got (lane rooted 22) 1 9 (frm 1 skein1)) ∧
  rootServes (lane rooted 22) = true ∧ distaffServes (lane rooted 22) = true ∧ bitOf (field (bodyOf (frm 1 skein1)) 3 1) 6 = false) ∧
    (arrivesHere windowing (↑1) 9 (frm 1 skeinW) 1 (got windowing 1 9 (frm 1 skeinW)) ∧
  rootServes windowing = true ∧
    distaffServes windowing = true ∧
      bitOf (field (bodyOf (frm 1 skeinW)) 3 1) 6 = true ∧
        windowing.root.retro = some windowJob ∧
          field (bodyOf (frm 1 skeinW)) 8 4 = windowJob.id ∧
            List.find?
                  (fun x =>
                    x.holds (bodyOf (frm 1 skeinW)) &&
                      x.chans.any fun c => c.hub.beq (hSrc (frm 1 skeinW)) && c.ch.beq (field (bodyOf (frm 1 skeinW)) 0 2 % 512) && !c.done)
                  windowJob.slices =
                some windowSlice ∧
              windowSlice.bytes + (List.length (bodyOf (frm 1 skeinW)) - 40) ≤ 33554432 ∧ addressedHere windowing (frm 1 skeinW) = true) ∧
    (arrivesHere named (↑1) 9 (frm 5 (zeros 8)) 5 (got named 1 9 (frm 5 (zeros 8))) ∧ rootServes named = false) ∧
    (arrivesHere rooted (↑1) 9 (frm 5 (zeros 8)) 5 (got rooted 1 9 (frm 5 (zeros 8))) ∧ rootServes rooted = true) ∧
    (arrivesHere named (↑1) 9 (frm 8 sum1) 8 (got named 1 9 (frm 8 sum1)) ∧ rootServes named = false) ∧
    (arrivesHere rooted (↑1) 9 (frm 8 (be 2 1 ++ zeros 78)) 8 (got rooted 1 9 (frm 8 (be 2 1 ++ zeros 78))) ∧
  rootServes rooted = true ∧
    (fedRootList rooted.objs).contains (hSrc (frm 8 (be 2 1 ++ zeros 78))) = false ∧
      ¬∀ (i : Nat),
          i < field (bodyOf (frm 8 (be 2 1 ++ zeros 78))) 0 2 →
            field (slice (bodyOf (frm 8 (be 2 1 ++ zeros 78))) (16 + 64 * i) 64) 0 2 = hSrc (frm 8 (be 2 1 ++ zeros 78))) ∧
    (arrivesHere rooted (↑1) 9 (frm 8 sum1) 8 (got rooted 1 9 (frm 8 sum1)) ∧
  rootServes rooted = true ∧
    distaffServes rooted = true ∧
      ((fedRootList rooted.objs).contains (hSrc (frm 8 sum1)) = true ∨
          ∀ (i : Nat), i < field (bodyOf (frm 8 sum1)) 0 2 → field (slice (bodyOf (frm 8 sum1)) (16 + 64 * i) 64) 0 2 = hSrc (frm 8 sum1)) ∧
        ((fedRootList rooted.objs).contains (hSrc (frm 8 sum1)) = true ∨
          (rooted.root.segment.find? (hSrc (frm 8 sum1))).isSome = true ∨ List.length rooted.root.segment < 256)) ∧
    (arrivesHere fullSegment (↑1) 9 (frm 8 sum1) 8 (got fullSegment 1 9 (frm 8 sum1)) ∧
  rootServes fullSegment = true ∧
    distaffServes fullSegment = true ∧
      ((fedRootList fullSegment.objs).contains (hSrc (frm 8 sum1)) = true ∨
          ∀ (i : Nat), i < field (bodyOf (frm 8 sum1)) 0 2 → field (slice (bodyOf (frm 8 sum1)) (16 + 64 * i) 64) 0 2 = hSrc (frm 8 sum1)) ∧
        (fedRootList fullSegment.objs).contains (hSrc (frm 8 sum1)) = false ∧
          (fullSegment.root.segment.find? (hSrc (frm 8 sum1))).isSome = false ∧ 256 ≤ List.length fullSegment.root.segment) ∧
    (arrivesHere (asking 0) (↑1) 9 (frm 11 nak1) 11 (got (asking 0) 1 9 (frm 11 nak1)) ∧
  distaffServes (asking 0) = true ∧
    addressedHere (asking 0) (frm 11 nak1) = true ∧
      (¬∃ j,
            (asking 0).root.retro = some j ∧
              field (bodyOf (frm 11 nak1)) 4 1 = 7 ∧
                field (bodyOf (frm 11 nak1)) 0 4 = j.id ∧ (j.hubs.any fun h => h.fst.beq (hSrc (frm 11 nak1))) = true) ∧
        field (bodyOf (frm 11 nak1)) 5 1 = 10 ∧
          List.find? (fun o => o.reqId.beq (field (bodyOf (frm 11 nak1)) 0 4) && o.hub.beq (hSrc (frm 11 nak1)))
              (asking 0).twine.outstanding =
            some (out1 0)) ∧
    (arrivesHere (asking 4) (↑1) 9 (frm 11 nak1) 11 (got (asking 4) 1 9 (frm 11 nak1)) ∧
  distaffServes (asking 4) = true ∧
    addressedHere (asking 4) (frm 11 nak1) = true ∧
      (¬∃ j,
            (asking 4).root.retro = some j ∧
              field (bodyOf (frm 11 nak1)) 4 1 = 7 ∧
                field (bodyOf (frm 11 nak1)) 0 4 = j.id ∧ (j.hubs.any fun h => h.fst.beq (hSrc (frm 11 nak1))) = true) ∧
        field (bodyOf (frm 11 nak1)) 5 1 = 10 ∧
          List.find? (fun o => o.reqId.beq (field (bodyOf (frm 11 nak1)) 0 4) && o.hub.beq (hSrc (frm 11 nak1)))
              (asking 4).twine.outstanding =
            some (out1 4)) ∧
    (arrivesHere windowing (↑1) 9 (frm 11 nakW) 11 (got windowing 1 9 (frm 11 nakW)) ∧
  distaffServes windowing = true ∧
    addressedHere windowing (frm 11 nakW) = true ∧
      (∃ j,
          windowing.root.retro = some j ∧
            field (bodyOf (frm 11 nakW)) 4 1 = 7 ∧
              field (bodyOf (frm 11 nakW)) 0 4 = j.id ∧ (j.hubs.any fun h => h.fst.beq (hSrc (frm 11 nakW))) = true) ∧
        field (bodyOf (frm 11 nakW)) 5 1 = 10 ∧ busySlice (got windowing 1 9 (frm 11 nakW)) (hSrc (frm 11 nakW)) = some 0) ∧
    (arrivesHere windowing (↑1) 9 (frm 11 nakL) 11 (got windowing 1 9 (frm 11 nakL)) ∧
  distaffServes windowing = true ∧
    addressedHere windowing (frm 11 nakL) = true ∧
      (∃ j,
          windowing.root.retro = some j ∧
            field (bodyOf (frm 11 nakL)) 4 1 = 7 ∧
              field (bodyOf (frm 11 nakL)) 0 4 = j.id ∧ (j.hubs.any fun h => h.fst.beq (hSrc (frm 11 nakL))) = true) ∧
        field (bodyOf (frm 11 nakL)) 5 1 = 9) ∧
    (arrivesHere rooted (↑1) 9 (frm 11 nakL) 11 (got rooted 1 9 (frm 11 nakL)) ∧
  distaffServes rooted = true ∧
    addressedHere rooted (frm 11 nakL) = true ∧
      (¬∃ j,
            rooted.root.retro = some j ∧
              field (bodyOf (frm 11 nakL)) 4 1 = 7 ∧
                field (bodyOf (frm 11 nakL)) 0 4 = j.id ∧ (j.hubs.any fun h => h.fst.beq (hSrc (frm 11 nakL))) = true) ∧
        field (bodyOf (frm 11 nakL)) 5 1 ≠ 10) :=
  by
  and_intros <;> first | decide +kernel | (unfold arrivesHere; decide +kernel)

theorem witness_ManagementFramesAct :
    ((arrivesHere named (↑1) 9 (frm 4 peerRead) 4 (got named 1 9 (frm 4 peerRead)) ∧ addressedHere named (frm 4 peerRead) = true ∨
    1 = 19 ∧ arrivesAtTwinPort named 9 (frm 4 peerRead) 4 (got named 1 9 (frm 4 peerRead))) ∧
  field (frm 4 peerRead) (hBody (frm 4 peerRead) + 4) 1 ≠ 1 ∧
    parseAsk (Path.twine (↑1) (hSrc (frm 4 peerRead))) (bodyOf (frm 4 peerRead)) = some peerAsk ∧
      twineAuth ((got named 1 9 (frm 4 peerRead)).put O.mgmtQueued 0 ↑3) (↑1) peerAsk = (0, none) ∧
        twineServed named = true ∧
          (peerAsk.tooLong = false ∨ inRestart named = true) ∧
            0 = 0 ∧ ¬(inRestart named = true ∨ 64 ≤ ↑3 + mailboxHeld named ∨ isBooting named = true ∧ peerAsk.writes = true)) ∧
    ((arrivesHere named (↑1) 9 (frm 4 peerRead) 4 (got named 1 9 (frm 4 peerRead)) ∧ addressedHere named (frm 4 peerRead) = true ∨
    1 = 19 ∧ arrivesAtTwinPort named 9 (frm 4 peerRead) 4 (got named 1 9 (frm 4 peerRead))) ∧
  field (frm 4 peerRead) (hBody (frm 4 peerRead) + 4) 1 ≠ 1 ∧
    parseAsk (Path.twine (↑1) (hSrc (frm 4 peerRead))) (bodyOf (frm 4 peerRead)) = some peerAsk ∧
      twineAuth ((got named 1 9 (frm 4 peerRead)).put O.mgmtQueued 0 ↑64) (↑1) peerAsk = (0, none) ∧
        twineServed named = true ∧
          (peerAsk.tooLong = false ∨ inRestart named = true) ∧
            0 = 0 ∧ (inRestart named = true ∨ 64 ≤ ↑64 + mailboxHeld named ∨ isBooting named = true ∧ peerAsk.writes = true)) ∧
    ((arrivesHere named (↑1) 9 (frm 4 badSes) 4 (got named 1 9 (frm 4 badSes)) ∧ addressedHere named (frm 4 badSes) = true ∨
    1 = 19 ∧ arrivesAtTwinPort named 9 (frm 4 badSes) 4 (got named 1 9 (frm 4 badSes))) ∧
  field (frm 4 badSes) (hBody (frm 4 badSes) + 4) 1 ≠ 1 ∧
    parseAsk (Path.twine (↑1) (hSrc (frm 4 badSes))) (bodyOf (frm 4 badSes)) = some badAsk ∧
      twineAuth ((got named 1 9 (frm 4 badSes)).put O.mgmtQueued 0 ↑3) (↑1) badAsk = (8, none) ∧
        twineServed named = true ∧ (badAsk.tooLong = false ∨ inRestart named = true) ∧ 8 ≠ 0) ∧
    ((arrivesHere named (↑1) 9 (frm 4 shortReq) 4 (got named 1 9 (frm 4 shortReq)) ∧ addressedHere named (frm 4 shortReq) = true ∨
    1 = 19 ∧ arrivesAtTwinPort named 9 (frm 4 shortReq) 4 (got named 1 9 (frm 4 shortReq))) ∧
  field (frm 4 shortReq) (hBody (frm 4 shortReq) + 4) 1 ≠ 1 ∧
    parseAsk (Path.twine (↑1) (hSrc (frm 4 shortReq))) (bodyOf (frm 4 shortReq)) = none) :=
  by
  and_intros <;> first | (left; constructor <;> first | (unfold arrivesHere; decide +kernel) | decide +kernel) | (left; decide +kernel) | decide +kernel

theorem witness_ManagementFramesAct_part2 :
    ((arrivesHere noCopy (↑1) 9 (frm 4 peerRead) 4 (got noCopy 1 9 (frm 4 peerRead)) ∧ addressedHere noCopy (frm 4 peerRead) = true ∨
    1 = 19 ∧ arrivesAtTwinPort noCopy 9 (frm 4 peerRead) 4 (got noCopy 1 9 (frm 4 peerRead))) ∧
  field (frm 4 peerRead) (hBody (frm 4 peerRead) + 4) 1 ≠ 1 ∧
    parseAsk (Path.twine (↑1) (hSrc (frm 4 peerRead))) (bodyOf (frm 4 peerRead)) = some peerAsk ∧
      twineAuth ((got noCopy 1 9 (frm 4 peerRead)).put O.mgmtQueued 0 ↑3) (↑1) peerAsk = (0, none) ∧ twineServed noCopy = false) ∧
    ((arrivesHere named (↑1) 9 (frm 4 longReq) 4 (got named 1 9 (frm 4 longReq)) ∧ addressedHere named (frm 4 longReq) = true ∨
    1 = 19 ∧ arrivesAtTwinPort named 9 (frm 4 longReq) 4 (got named 1 9 (frm 4 longReq))) ∧
  field (frm 4 longReq) (hBody (frm 4 longReq) + 4) 1 ≠ 1 ∧
    parseAsk (Path.twine (↑1) (hSrc (frm 4 longReq))) (bodyOf (frm 4 longReq)) = some longAsk ∧
      twineAuth ((got named 1 9 (frm 4 longReq)).put O.mgmtQueued 0 ↑3) (↑1) longAsk = (0, none) ∧
        twineServed named = true ∧ longAsk.tooLong = true ∧ inRestart named = false) ∧
    ((arrivesHere named (↑1) 9 (frm 4 resp1) 4 (got named 1 9 (frm 4 resp1)) ∧ addressedHere named (frm 4 resp1) = true ∨
    1 = 19 ∧ arrivesAtTwinPort named 9 (frm 4 resp1) 4 (got named 1 9 (frm 4 resp1))) ∧
  field (frm 4 resp1) (hBody (frm 4 resp1) + 4) 1 = 1 ∧
    inRestart named = false ∧
      (List.find? (fun o => o.job.ble 3 && o.reqId.beq (field (bodyOf (frm 4 resp1)) 0 4) && o.hub.beq (hSrc (frm 4 resp1)))
            named.twine.outstanding =
          none ∨
        ∃ o,
          List.find? (fun o => o.job.ble 3 && o.reqId.beq (field (bodyOf (frm 4 resp1)) 0 4) && o.hub.beq (hSrc (frm 4 resp1)))
                named.twine.outstanding =
              some o ∧
            responseTagOk named o (bodyOf (frm 4 resp1)) = false)) ∧
    ((arrivesHere (inReset named) (↑1) 9 (frm 4 resp1) 4 (got (inReset named) 1 9 (frm 4 resp1)) ∧
      addressedHere (inReset named) (frm 4 resp1) = true ∨
    1 = 19 ∧ arrivesAtTwinPort (inReset named) 9 (frm 4 resp1) 4 (got (inReset named) 1 9 (frm 4 resp1))) ∧
  field (frm 4 resp1) (hBody (frm 4 resp1) + 4) 1 = 1 ∧ inRestart (inReset named) = true) :=
  by
  and_intros <;> first | (left; constructor <;> first | (unfold arrivesHere; decide +kernel) | decide +kernel) | (left; decide +kernel) | decide +kernel

theorem witness_ManagementFramesAct_part3 :
    ((arrivesHere (acting 1) (↑1) 9 (frm 4 resp1) 4 (got (acting 1) 1 9 (frm 4 resp1)) ∧ addressedHere (acting 1) (frm 4 resp1) = true ∨
    1 = 19 ∧ arrivesAtTwinPort (acting 1) 9 (frm 4 resp1) 4 (got (acting 1) 1 9 (frm 4 resp1))) ∧
  field (frm 4 resp1) (hBody (frm 4 resp1) + 4) 1 = 1 ∧
    inRestart (acting 1) = false ∧
      List.find? (fun o => o.job.ble 3 && o.reqId.beq (field (bodyOf (frm 4 resp1)) 0 4) && o.hub.beq (hSrc (frm 4 resp1)))
            (acting 1).twine.outstanding =
          some (out1 1) ∧
        responseTagOk (acting 1) (out1 1) (bodyOf (frm 4 resp1)) = true ∧
          (acting 1).root.act = some act1 ∧ List.find? (fun h => h.hub.beq (out1 1).hub) act1.hubs = some hub9) ∧
    ((arrivesHere (acting 0) (↑1) 9 (frm 4 respOk) 4 (got (acting 0) 1 9 (frm 4 respOk)) ∧ addressedHere (acting 0) (frm 4 respOk) = true ∨
    1 = 19 ∧ arrivesAtTwinPort (acting 0) 9 (frm 4 respOk) 4 (got (acting 0) 1 9 (frm 4 respOk))) ∧
  field (frm 4 respOk) (hBody (frm 4 respOk) + 4) 1 = 1 ∧
    inRestart (acting 0) = false ∧
      List.find? (fun o => o.job.ble 3 && o.reqId.beq (field (bodyOf (frm 4 respOk)) 0 4) && o.hub.beq (hSrc (frm 4 respOk)))
            (acting 0).twine.outstanding =
          some (out1 0) ∧
        responseTagOk (acting 0) (out1 0) (bodyOf (frm 4 respOk)) = true ∧
          (acting 0).root.act = some act1 ∧ List.find? (fun h => h.hub.beq (out1 0).hub) act1.hubs = some hub9) ∧
    ((arrivesHere (acting 1) (↑1) 9 (frm 4 respOk) 4 (got (acting 1) 1 9 (frm 4 respOk)) ∧ addressedHere (acting 1) (frm 4 respOk) = true ∨
    1 = 19 ∧ arrivesAtTwinPort (acting 1) 9 (frm 4 respOk) 4 (got (acting 1) 1 9 (frm 4 respOk))) ∧
  field (frm 4 respOk) (hBody (frm 4 respOk) + 4) 1 = 1 ∧
    inRestart (acting 1) = false ∧
      List.find? (fun o => o.job.ble 3 && o.reqId.beq (field (bodyOf (frm 4 respOk)) 0 4) && o.hub.beq (hSrc (frm 4 respOk)))
            (acting 1).twine.outstanding =
          some (out1 1) ∧
        responseTagOk (acting 1) (out1 1) (bodyOf (frm 4 respOk)) = true ∧
          (acting 1).root.act = some act1 ∧ List.find? (fun h => h.hub.beq (out1 1).hub) act1.hubs = some hub9) ∧
    ((arrivesHere (acting 2) (↑1) 9 (frm 4 respOk) 4 (got (acting 2) 1 9 (frm 4 respOk)) ∧ addressedHere (acting 2) (frm 4 respOk) = true ∨
    1 = 19 ∧ arrivesAtTwinPort (acting 2) 9 (frm 4 respOk) 4 (got (acting 2) 1 9 (frm 4 respOk))) ∧
  field (frm 4 respOk) (hBody (frm 4 respOk) + 4) 1 = 1 ∧
    inRestart (acting 2) = false ∧
      List.find? (fun o => o.job.ble 3 && o.reqId.beq (field (bodyOf (frm 4 respOk)) 0 4) && o.hub.beq (hSrc (frm 4 respOk)))
            (acting 2).twine.outstanding =
          some (out1 2) ∧
        responseTagOk (acting 2) (out1 2) (bodyOf (frm 4 respOk)) = true ∧
          (acting 2).root.act = some act1 ∧ List.find? (fun h => h.hub.beq (out1 2).hub) act1.hubs = some hub9) :=
  by
  and_intros <;> first | (left; constructor <;> first | (unfold arrivesHere; decide +kernel) | decide +kernel) | (left; decide +kernel) | decide +kernel

theorem witness_ManagementFramesAct_part4 :
    ((arrivesHere (acting 3) (↑1) 9 (frm 4 respOk) 4 (got (acting 3) 1 9 (frm 4 respOk)) ∧ addressedHere (acting 3) (frm 4 respOk) = true ∨
    1 = 19 ∧ arrivesAtTwinPort (acting 3) 9 (frm 4 respOk) 4 (got (acting 3) 1 9 (frm 4 respOk))) ∧
  field (frm 4 respOk) (hBody (frm 4 respOk) + 4) 1 = 1 ∧
    inRestart (acting 3) = false ∧
      List.find? (fun o => o.job.ble 3 && o.reqId.beq (field (bodyOf (frm 4 respOk)) 0 4) && o.hub.beq (hSrc (frm 4 respOk)))
            (acting 3).twine.outstanding =
          some (out1 3) ∧
        responseTagOk (acting 3) (out1 3) (bodyOf (frm 4 respOk)) = true ∧
          (acting 3).root.act = some act1 ∧ List.find? (fun h => h.hub.beq (out1 3).hub) act1.hubs = some hub9) :=
  by
  and_intros <;> first | (left; constructor <;> first | (unfold arrivesHere; decide +kernel) | decide +kernel) | (left; decide +kernel) | decide +kernel

theorem witness_RootServicesProceed :
    (rs1_a.root.query = some (zeros 20, 3)) ∧
    (sliced.root.retro = some retro2 ∧ retro2.slices = [slice1] ∧ slice1.complete = true ∧ rootServes sliced = true) ∧
    (rs2b_a.root.retro = some rs2b_b ∧ rs2b_b.slices = [slice1] ∧ slice1.complete = true ∧ rootServes rs2b_a = true) ∧
    ((silent 0).root.retro = some (silentJob 0) ∧
  List.find?
      (fun x =>
        (x.chans.any fun c => c.hub.beq ↑9 && !c.done) &&
          ((x.asked.getD ↑9 (0, 0)).fst + (silent 0).nat O.retroTimeout * msTicks).ble 64000000000)
      (silentJob 0).slices =
    some (silentSlice 0)) ∧
    ((silent 2).root.retro = some (silentJob 2) ∧
  List.find?
      (fun x =>
        (x.chans.any fun c => c.hub.beq ↑9 && !c.done) &&
          ((x.asked.getD ↑9 (0, 0)).fst + (silent 2).nat O.retroTimeout * msTicks).ble 64000000000)
      (silentJob 2).slices =
    some (silentSlice 2)) ∧
    (rs4_a.root.segment.find? ↑9 = some seg0) ∧
    (rootServes rooted = true ∧ distaffServes rooted = true) ∧
    (rootServes fedding = true ∧ distaffServes fedding = true) ∧
    ((acting 1).root.act = some act1 ∧ act1.armed = false ∧ act1.cancelled = false) ∧
    (rs6b_a.root.act = some act2 ∧ act2.armed = false ∧ act2.cancelled = false) ∧
    (cancelling.root.act = some rs7_a ∧ rs7_a.cancelled = true) ∧
    (rs9_a.twine.retry = [(9, 9, 4#8 :: zeros 24)]) ∧
    (rs9b_a.twine.retry = [(9, 9, 3#8 :: zeros 24)]) ∧
    (rs9c_a.twine.retry = [(9, 9, 7#8 :: be 4 0)]) :=
  by
  and_intros <;> decide +kernel

theorem witness_TwinSignsOfLife :
    ((twinned true).twin.claimLost = false ∧ ((twinned true).twin.partner = none ∨ (twinned true).twin.partnerAt + 60 * usTicks ≤ 9)) ∧
    (tl4n_a.twin.claimLost = true ∨ ∃ p, tl4n_a.twin.partner = some p ∧ 9 < tl4n_a.twin.partnerAt + 60 * usTicks) ∧
    ((lane (twinned true) 20).bool O.twinEnable = true ∧ inRestart (lane (twinned true) 20) = false ∧ (lane (twinned true) 20).pwr.sleep = none) ∧
    (arrivesAtTwinPort (twinned true) 9 (frm 9 (heart 1 7)) 9 (tookFrame ((twinned true).advance 9) 19 (frm 9 (heart 1 7))) ∧
  field (frm 9 (heart 1 7)) 16 1 ≠ 2 ∧ field (frm 9 (heart 1 7)) 16 1 ≠ 3) :=
  by
  and_intros <;> first | decide +kernel | (unfold arrivesAtTwinPort; decide +kernel) | (left; decide +kernel)

theorem witness_TwinRolesChange :
    ((twinned true).bool O.twinEnable = true ∧ (twinned true).twin.active = true ∧ (twinned true).twin.hbOutAt + 1500 * usTicks ≤ 960000) ∧
    (tr2_a.twin.dualSince = some 9 ∧ tr2_a.twin.active = true) ∧
    (tr3_a.twin.listenUntil = some 9) ∧
    (tr3b_a.twin.listenUntil = some 9) ∧
    (tr3c_a.twin.listenUntil = some 9) ∧
    (tr4_a.bool O.twinEnable = true ∧
  (if true = true then tr4_a.twin.linkSilent else tr4_a.twin.hbSilent) = false ∧
    (if true = true then tr4_a.twin.frameAt else tr4_a.twin.hbInAt) + tr4_a.nat O.hbTimeout * msTicks ≤ 3200000) ∧
    ((twinned false).bool O.twinEnable = true ∧
  (if false = true then (twinned false).twin.linkSilent else (twinned false).twin.hbSilent) = false ∧
    (if false = true then (twinned false).twin.frameAt else (twinned false).twin.hbInAt) + (twinned false).nat O.hbTimeout * msTicks ≤
      3200000) ∧
    (arrivesAtTwinPort (lane (twinned false) 20) 9 (frm 9 (heart 2 7)) 9
    (tookFrame ((lane (twinned false) 20).advance 9) 19 (frm 9 (heart 2 7))) ∧
  field (frm 9 (heart 2 7)) 16 1 = 2) ∧
    (arrivesAtTwinPort (swapping true) 9 (frm 9 (heart 3 7)) 9 (tookFrame ((swapping true).advance 9) 19 (frm 9 (heart 3 7))) ∧
  field (frm 9 (heart 3 7)) 16 1 = 3 ∧ (swapping true).twin.switch = some tr6_a) ∧
    ((swapping true).twin.switch = some tr6_a ∧ tr6_a.giving = true ∧ tr6_a.acked = false) ∧
    (tr8_a.twin.switch = some tr8_b ∧ tr8_b.giving = true ∧ tr8_b.acked = true) ∧
    (((swapping false).put O.excMode 2 1).twin.switch = some tr9_a ∧ tr9_a.giving = false) :=
  by
  and_intros <;> first | decide +kernel | (unfold arrivesAtTwinPort; decide +kernel)

theorem witness_UpdatesProceed :
    (up1_a.nat O.updState = 2 ∧ up1_a.upd.manifest = some manifest4 ∧ up1_a.nvm.pointer.active ≤ 1) ∧
    (up1b_a.nat O.updState = 2 ∧ up1b_a.upd.manifest = some manifest7 ∧ up1b_a.nvm.pointer.active ≤ 1) ∧
    (up2_a.upd.gapFrom = some 3) ∧
    (onTrial.upd.healthSince = some 9 ∧ onTrial.nat O.updState = 5 ∧ healthy onTrial = true) ∧
    (onTrial.nat O.updState = 5 ∧ onTrial.nvm.pointer.active ≤ 1) :=
  by
  and_intros <;> decide +kernel

theorem witness_HostPortCarriesOutAccesses :
    (portOn run = true ∧
  (Instr.spiWrite true false 20 [5] 9 = Instr.spiWrite true false 20 [5] 9 ∨
      Instr.spiWrite true false 20 [5] 9 = Instr.spiQuadWrite true false 20 [5] 9) ∧
    spiTarget true false 20 = some (false, 20) ∧ false = false) ∧
    (portOn run = true ∧
  (Instr.spiWrite true false 8 [5] 9 = Instr.spiWrite true false 8 [5] 9 ∨
      Instr.spiWrite true false 8 [5] 9 = Instr.spiQuadWrite true false 8 [5] 9) ∧
    spiTarget true false 8 = some (false, 8) ∧ false = false) ∧
    (portOn run = true ∧
  (Instr.spiQuadWrite true false 2068 [5] 9 = Instr.spiWrite true false 2068 [5] 9 ∨
      Instr.spiQuadWrite true false 2068 [5] 9 = Instr.spiQuadWrite true false 2068 [5] 9) ∧
    spiTarget true false 2068 = some (true, 20) ∧ true ≠ false) ∧
    (portOn run = true ∧
  (Instr.spiWrite true false 4100 [5] 9 = Instr.spiWrite true false 4100 [5] 9 ∨
      Instr.spiWrite true false 4100 [5] 9 = Instr.spiQuadWrite true false 4100 [5] 9) ∧
    spiTarget true false 4100 = none) ∧
    (portOn run = true ∧
  (Instr.spiRead true false 20 1 9 = Instr.spiRead true false 20 1 9 ∨
      Instr.spiRead true false 20 1 9 = Instr.spiQuadRead true false 20 1 9) ∧
    spiTarget true false 20 = some (false, 20) ∧ false = false) ∧
    (portOn run = true ∧
  (Instr.spiQuadRead true false 2068 1 9 = Instr.spiRead true false 2068 1 9 ∨
      Instr.spiQuadRead true false 2068 1 9 = Instr.spiQuadRead true false 2068 1 9) ∧
    spiTarget true false 2068 = some (true, 20) ∧ true ≠ false) ∧
    (portOn run = true ∧
  (Instr.spiRead false false 2068 3 9 = Instr.spiRead false false 2068 3 9 ∨
      Instr.spiRead false false 2068 3 9 = Instr.spiQuadRead false false 2068 3 9) ∧
    spiTarget false false 2068 = none) ∧
    (portOn run = true) ∧
    (portOn State.reset = false ∧
  Instr.spiRead true false 2068 1 9 ∈
    [Instr.spiWrite true false 2068 [5] 9, Instr.spiQuadWrite true false 2068 [5] 9, Instr.spiRead true false 2068 1 9,
      Instr.spiQuadRead true false 2068 1 9, Instr.hostRegisterWrite true 20 5 9, Instr.gridHiRead true 9, Instr.irqStatusClear true 5 9]) :=
  by
  and_intros <;> decide +kernel

theorem witness_MailboxesCarryMessages :
    (portOn run = true ∧ (run.mailbox ↑1).outFull = false) ∧
    (portOn mb2_a = true ∧ (mb2_a.mailbox ↑1).outFull = true) ∧
    (portOn mb2c_a = true ∧ (mb2c_a.mailbox ↑1).outFull = true) ∧
    (portOn mb3_a = true) ∧
    (portOn mb4_a = true) ∧
    (mb5_a.pwr.sram = true) ∧
    (mb6_a.mbServed = true ∧
  (mb6_a.mailbox ↑1).responses.length < 4 ∧
    ((mb6_a.mailbox ↑1).reserve = some ([mbStart, 1, 2, 3, 4, 5, 6, 7], false) ∨
      (mb6_a.mailbox ↑1).reserve = none ∧
        (mb6_a.mailbox ↑1).outFull = true ∧ [mbStart, 1, 2, 3, 4, 5, 6, 7] = (mb6_a.mailbox ↑1).out ∧ false = (mb6_a.mailbox ↑1).collision)) ∧
    (mb6l_a.mbServed = true ∧
  (mb6l_a.mailbox ↑1).responses.length < 4 ∧
    ((mb6l_a.mailbox ↑1).reserve = some (mbWhole, false) ∨
      (mb6l_a.mailbox ↑1).reserve = none ∧
        (mb6l_a.mailbox ↑1).outFull = true ∧ mbWhole = (mb6l_a.mailbox ↑1).out ∧ false = (mb6l_a.mailbox ↑1).collision)) ∧
    (mb6c_a.mbServed = true ∧
  (mb6c_a.mailbox ↑1).responses.length < 4 ∧
    ((mb6c_a.mailbox ↑1).reserve = some (mbWhole, true) ∨
      (mb6c_a.mailbox ↑1).reserve = none ∧
        (mb6c_a.mailbox ↑1).outFull = true ∧ mbWhole = (mb6c_a.mailbox ↑1).out ∧ true = (mb6c_a.mailbox ↑1).collision)) ∧
    (mb6r_a.mbServed = true ∧
  (mb6r_a.mailbox ↑1).responses.length < 4 ∧
    ((mb6r_a.mailbox ↑1).reserve = some (mbWhole, false) ∨
      (mb6r_a.mailbox ↑1).reserve = none ∧
        (mb6r_a.mailbox ↑1).outFull = true ∧ mbWhole = (mb6r_a.mailbox ↑1).out ∧ false = (mb6r_a.mailbox ↑1).collision)) ∧
    (mb6q_a.mbServed = true ∧
  (mb6q_a.mailbox ↑1).responses.length < 4 ∧
    ((mb6q_a.mailbox ↑1).reserve = some (mbNext, false) ∨
      (mb6q_a.mailbox ↑1).reserve = none ∧
        (mb6q_a.mailbox ↑1).outFull = true ∧ mbNext = (mb6q_a.mailbox ↑1).out ∧ false = (mb6q_a.mailbox ↑1).collision)) ∧
    (mb6o_a.mbServed = true ∧
  (mb6o_a.mailbox ↑1).responses.length < 4 ∧
    ((mb6o_a.mailbox ↑1).reserve = some (mbNext, false) ∨
      (mb6o_a.mailbox ↑1).reserve = none ∧
        (mb6o_a.mailbox ↑1).outFull = true ∧ mbNext = (mb6o_a.mailbox ↑1).out ∧ false = (mb6o_a.mailbox ↑1).collision)) ∧
    (mb6p_a.mbServed = true ∧
  (mb6p_a.mailbox ↑1).responses.length < 4 ∧
    ((mb6p_a.mailbox ↑1).reserve = some (mbWhole, false) ∨
      (mb6p_a.mailbox ↑1).reserve = none ∧
        (mb6p_a.mailbox ↑1).outFull = true ∧ mbWhole = (mb6p_a.mailbox ↑1).out ∧ false = (mb6p_a.mailbox ↑1).collision)) ∧
    (mb8_a.mbServed = true ∧ (mb8_a.mailbox ↑1).inFull = false ∧ (mb8_a.mailbox ↑1).responses = [zeros 40]) ∧
    (mb8l_a.mbServed = true ∧ (mb8l_a.mailbox ↑1).inFull = false ∧ (mb8l_a.mailbox ↑1).responses = [zeros 40]) ∧
    ((mb9_a.mailbox ↑1).fullSince = some 9 ∧
  (mb9_a.mailbox ↑1).outFull = true ∧ (mb9_a.mailbox ↑1).inFull = true ∧ (mb9_a.mailbox ↑1).reserve = none ∧ mb9_a.mbServed = true) :=
  by
  and_intros <;> decide +kernel

end Sys2Proof.Tests
end

section
/-! ### Calibration of a code (R102, R127, R128) -/
namespace Sys2Proof.Machine

/-- A saturation changes exactly the values outside its range. -/
theorem clampInt_ne_self_iff (lo hi a : Int) : clampInt lo hi a ≠ a ↔ a < lo ∨ a > hi := by
  unfold clampInt
  split
  · omega
  · split <;> omega

/-- The clip bit of the 25-bit saturation says that the value was changed. -/
theorem sat25_eq (a : Int) :
    sat25 a = (clampInt (-16777216) 16777215 a, decide (clampInt (-16777216) 16777215 a ≠ a)) :=
  Prod.ext rfl (decide_eq_decide.mpr (clampInt_ne_self_iff _ _ a).symm)

/-- The clip bit of the saturation to Q1.23 says that the value was changed. -/
theorem sat24_eq (a : Int) :
    sat24 a = (clampInt (-8388608) 8388607 a, decide (clampInt (-8388608) 8388607 a ≠ a)) :=
  Prod.ext rfl (decide_eq_decide.mpr (clampInt_ne_self_iff _ _ a).symm)

/-- The coefficients applied to a code: R127's formula, CLIP set when either saturation changed its value. -/
theorem calApply_eq (co : Coef) (code : Int) :
    let x0 := clampInt (-16777216) 16777215 (code * 1024 + co.o)
    let r := roundConv (co.g * x0) 30
    let y := clampInt (-8388608) 8388607 r
    calApply co code = (y, decide (x0 ≠ code * 1024 + co.o ∨ y ≠ r)) := by
  simp only [calApply, sat25_eq, sat24_eq, Bool.decide_or]

theorem Chain.cal_of_not_fill (c : Chain) (code : Int) (co : Coef) {f : Flags} (h : f.fill = false) :
    c.cal code co f = ((calApply co code).1, (calApply co code).2, { c with holdVal := (calApply co code).1 }) := by
  simp [Chain.cal, h]

theorem Chain.cal_of_fill (c : Chain) (code : Int) (co : Coef) {f : Flags} (h : f.fill = true) :
    c.cal code co f = (c.holdVal, false, c) := by
  simp [Chain.cal, h]

/-- Settles O37: outside FILL `cal` is `calApply`, whose two clip bits say that a saturation changed its value;
under FILL it is the hold value. -/
theorem calAppliesCoefficients : Obligations.CalAppliesCoefficients := by
  intro c code co f x0 r y
  refine ⟨fun hfill => ?_, c.cal_of_fill code co⟩
  rw [c.cal_of_not_fill code co hfill, calApply_eq]

end Sys2Proof.Machine
end

section
/-! ### The source mode of a vote (R161, R167)

The last byte of an object's key is its sub-index, the same in every unit: a write to an object of one sub-index leaves those of every other.
No write of a vote but that of SOURCE_MODE itself has the sub-index of SOURCE_MODE, STRAND_STATE or SRC_MAP. -/
namespace Sys2Proof.Machine

/-- The objects of sub-index `i` read in `t` as in `s`. -/
def SameSub (i : Nat) (s t : State) : Prop := ∀ k, k % 256 = i → Map.find? t.objs k = Map.find? s.objs k

theorem SameSub.refl (i : Nat) (s : State) : SameSub i s s := fun _ _ => rfl

theorem Ref.at_mod (r : Ref) (u : Nat) : r.at u % 256 = r.key % 256 := Nat.add_mul_mod_self_right _ _ _

section
variable {i : Nat} {c s : State}

theorem SameSub.of_objs {t : State} (h : SameSub i c s) (ho : t.objs = s.objs) : SameSub i c t :=
  fun k hk => by rw [ho]; exact h k hk

theorem SameSub.putK (h : SameSub i c s) (key : Nat) (v : Val) (hr : key % 256 ≠ i) : SameSub i c (s.putK key v) :=
  fun k hk => (Map.find?_set_other _ _ _ _ (by rintro rfl; exact hr hk)).trans (h k hk)

theorem SameSub.putI (h : SameSub i c s) (r : Ref) (u : Nat) (v : Int) (hr : r.key % 256 ≠ i) :
    SameSub i c (s.putI r u v) :=
  h.putK (r.at u) (.int v) (by rwa [r.at_mod])

theorem SameSub.put (h : SameSub i c s) (r : Ref) (u v : Nat) (hr : r.key % 256 ≠ i) : SameSub i c (s.put r u v) :=
  h.putI r u v hr

theorem SameSub.bump (h : SameSub i c s) (r : Ref) (u : Nat) (hr : r.key % 256 ≠ i) : SameSub i c (s.bump r u) :=
  h.putK (r.at u) _ (by rwa [r.at_mod])

theorem SameSub.ite {t u : State} {p : Prop} [Decidable p] (ht : SameSub i c t) (hu : SameSub i c u) :
    SameSub i c (if p then t else u) := by
  split
  · exact ht
  · exact hu

theorem SameSub.each {α : Type} (h : SameSub i c s) (l : List α) (f : State → α → State)
    (hf : ∀ s a, SameSub i c s → SameSub i c (f s a)) : SameSub i c (s.each l f) := by
  unfold State.each
  induction l generalizing s with
  | nil => exact h
  | cons a l ih => exact ih (hf s a h)

theorem SameSub.nat_eq (h : SameSub i c s) (r : Ref) (u : Nat) (hr : r.key % 256 = i) : s.nat r u = c.nat r u := by
  simp only [State.nat, Store.nat, Store.int, Store.val, Map.getD, h (r.at u) (by rw [r.at_mod, hr])]

theorem SameSub.srcOf_eq (h : SameSub 1 c s) (x : Nat) : srcOf s.objs x = srcOf c.objs x := by
  simp only [srcOf, Store.val, Map.getD, h (O.srcMap.at x) (O.srcMap.at_mod x)]

/-- Exclusions and returns write EXCLUDED_COUNT alone, sub-index 0x0A. -/
theorem logExclusions_sameSub (s : State) (t : Nat) (v : Vote) (hi : i ≠ 0x0A) : SameSub i s (logExclusions s t v) := by
  refine (SameSub.refl i s).each _ _ fun s x h => .ite ?_ (.ite ?_ h)
  · exact ((h.of_objs rfl).bump O.excludedCount x hi.symm).of_objs rfl
  · exact h.of_objs rfl

theorem trackRate_sameSub (h : SameSub i c s) (noMajority : Bool) : SameSub i c (trackRate s noMajority) :=
  .ite h (h.of_objs rfl)

end

/-- SOURCE_MODE reads what a vote counts: exclusions come before it, and every write behind it has another sub-index. -/
theorem applyVote_nat_sourceMode (s : State) (v : Vote) (t : Nat) :
    (applyVote s v t).nat O.sourceMode = sourceMode (logExclusions s t v) v.set := by
  unfold applyVote
  extract_lets s1 first s2 none s3 notTracking running e2 far slew s4 s5 s6 timeq s7 times s8
  have h2 : SameSub 3 s2 s2 := .refl 3 s2
  have h3 : SameSub 3 s2 s3 := .ite ((h2.bump O.nomajCount 0 (by decide)).of_objs rfl) h2
  have h4 : SameSub 3 s2 s4 := h3.each _ _ fun s x h => h.putI O.strandOffset x _ (by decide)
  have h5 : SameSub 3 s2 s5 := .ite h4 (h4.putI O.gridError 0 _ (by decide))
  have h6 : SameSub 3 s2 s6 := trackRate_sameSub h5 none
  have h7 : SameSub 3 s2 s7 := .ite (h6.bump O.timeqFrames 0 (by decide)) h6
  have h8 : SameSub 3 s2 s8 := h7.of_objs rfl
  rw [(h8.put O.gridState 0 _ (by decide)).nat_eq O.sourceMode 0 rfl]
  exact Store.nat_put_same _ _ _ _

/-- Exclusions touch neither a strand's state nor its source. -/
theorem sourceMode_logExclusions (s : State) (t : Nat) (v : Vote) (set : List Nat) :
    sourceMode (logExclusions s t v) set = sourceMode s set := by
  have hstate : ∀ x, (logExclusions s t v).nat O.strandState x = s.nat O.strandState x := fun x =>
    (logExclusions_sameSub s t v (by decide)).nat_eq O.strandState x rfl
  have hsrc : srcOf (logExclusions s t v).objs = srcOf s.objs :=
    funext (logExclusions_sameSub s t v (by decide)).srcOf_eq
  simp only [sourceMode, hstate, hsrc]

theorem voteAt_nat_sourceMode (s : State) (t : Nat) : (voteAt s t).nat O.sourceMode = sourceMode s (voteOf s).set :=
  (applyVote_nat_sourceMode s _ t).trans (sourceMode_logExclusions s t _ _)

theorem length_eraseDups_le {α : Type} [BEq α] : (l : List α) → l.eraseDups.length ≤ l.length
  | [] => Nat.le_refl 0
  | a :: l => by
    rw [List.eraseDups_cons]
    have hfilter := List.length_filter_le (fun b => !b == a) l
    exact Nat.succ_le_succ (Nat.le_trans (length_eraseDups_le _) hfilter)
termination_by l => l.length
decreasing_by exact Nat.lt_succ_of_le hfilter

theorem sourceMode_le_length (s : State) (set : List Nat) : sourceMode s set ≤ set.length :=
  calc sourceMode s set
    _ ≤ ((set.filter fun x => Nat.beq (s.nat O.strandState x) 2).map (srcOf s.objs)).length := length_eraseDups_le _
    _ ≤ set.length := by rw [List.length_map]; exact List.length_filter_le _ _

theorem votePair_set_length (o : Nat) (a b : Nat × Int) : (votePair o a b).set.length = 2 := by
  unfold votePair
  split <;> rfl

theorem nearer_set_length (a b c : Nat × Int) : (nearer a b c).set.length = 2 := by
  unfold nearer
  split <;> exact votePair_set_length _ _ _

/-- A steering set holds at most the three strands (Table 9.5). -/
theorem classify_set_length_le (thr : Nat) (l : List (Nat × Int)) : (classify thr l).set.length ≤ 3 := by
  unfold classify
  split
  · split
    · simp [votePair_set_length]
    · simp [noVote]
  · split <;> simp [votePair_set_length, nearer_set_length, noVote]
  · simp [noVote]

theorem voteOf_set_length_le (s : State) : (voteOf s).set.length ≤ 3 := by
  unfold voteOf
  dsimp only
  split <;> exact classify_set_length_le _ _

/-- Settles O31: the vote writes SOURCE_MODE once, with the count over the steering set, and that set holds at most three strands. -/
theorem sourceModeCountsSources : Obligations.SourceModeCountsSources := by
  have beq_two : ∀ n : Nat, Nat.beq n 2 = decide (n = 2) := fun n => by
    rw [Bool.eq_iff_iff, Nat.beq_eq, decide_eq_true_iff]
  refine ⟨rfl, fun s t => ?_⟩
  rw [voteAt_nat_sourceMode]
  constructor
  · exact Nat.le_trans (sourceMode_le_length s _) (voteOf_set_length_le s)
  · simp only [sourceMode, beq_two]

end Sys2Proof.Machine
end

section
/-! ### TDC stamps (R174, R207) -/
namespace Sys2Proof.Machine

theorem State.tdc_stamp (s : State) (c edge : Nat) :
    (s.tdc c edge).1.1 = if (s.tdc c edge).1.2 then edge / 65536 * 65536 else edge / 512 * 512 := rfl

theorem State.tdc_coarse_of_none {s : State} {c : Nat} (edge : Nat) (h : Map.find? s.trig.tdc c = none) :
    (s.tdc c edge).1.2 = false := by
  simp [State.tdc, h]

/-- A second edge within 32 ticks is COARSE. -/
theorem State.tdc_coarse_of_some {s : State} {c p : Nat} (edge : Nat) (h : Map.find? s.trig.tdc c = some p) :
    (s.tdc c edge).1.2 = decide (edge < p + 32 * 65536) := by
  simp only [State.tdc, h]
  rw [Bool.eq_iff_iff, Nat.blt_eq, decide_eq_true_iff]

/-- A stamp cuts its edge to 1/128 tick, or to the tick when it is COARSE; either is a multiple of 512. -/
theorem State.tdc_stamp_resolution (s : State) (c edge : Nat) :
    (s.tdc c edge).1.1 % 512 = 0 ∧ (s.tdc c edge).1.1 ≤ edge ∧ ((s.tdc c edge).1.2 = false → edge < (s.tdc c edge).1.1 + 512) := by
  rw [State.tdc_stamp]
  cases (s.tdc c edge).1.2 with
  | false => simp only [Bool.false_eq_true, reduceIte, forall_const]; omega
  | true => simp only [reduceIte, Bool.true_eq_false, false_implies, and_true]; omega

/-- A BLANK edge is logged with its stamp, split into tick and fraction. -/
theorem exec_blankEdge_log (i : Fin 4) (high : Bool) (edge : Nat) (s : State) :
    ∃ u, exec (.blankEdge i high edge) s = .next u ∧
      u.log = s.log.push ⟨s.log.nextSeq, Ev.blankEdge, 0xFF, !s.gridOn, (s.tdc (32 + i.val) edge).1.1 / 65536,
        (s.tdc (32 + i.val) edge).1.1 % 65536, fit 12 [BitVec.ofNat 8 i.val, BitVec.ofNat 8 (b2n high)]⟩ :=
  ⟨_, rfl, rfl⟩

/-- Settles O42: a stamp is its edge cut to a multiple of 512, or of 65,536 when COARSE, and BLANK_EDGE's entry carries its quotient
and remainder by 65,536. -/
theorem tdcStampsAreFtime : Obligations.TdcStampsAreFtime := by
  constructor
  · intro s c edge
    obtain ⟨hmul, hle, hfine⟩ := s.tdc_stamp_resolution c edge
    refine ⟨hmul, hle, hfine, fun hcoarse => by rw [State.tdc_stamp, hcoarse, if_pos rfl], ?_⟩
    cases h : Map.find? s.trig.tdc c with
    | none => exact State.tdc_coarse_of_none edge h
    | some p => exact State.tdc_coarse_of_some edge h
  · intro s i high edge
    obtain ⟨u, hu, hlog⟩ := exec_blankEdge_log i high edge s
    exact ⟨u, hu, _, hlog, rfl, Nat.div_add_mod' _ _⟩

end Sys2Proof.Machine
end
